-- ==== Sys2Proof/Word.lean ====
section
/-! DEFINITION. The word types of the XA-960 (R12, R107, R168): names for the bit widths that software sees. -/

namespace Sys2Proof

/-- A byte of any memory. -/
abbrev Byte := BitVec 8
/-- A 32-bit word: an instruction word, a local-store word, an accumulator element. -/
abbrev W32 := BitVec 32
/-- A 64-bit integer word: `g[n][63:0]`, addresses, ticks. -/
abbrev Word := BitVec 64
/-- The 128 bits of a general register or of a capability (R12, R215). -/
abbrev W128 := BitVec 128
/-- A general register number g0 to g31. -/
abbrev Reg := Fin 32

end Sys2Proof
end

