-- ==== Sys2Proof/Config.lean ====
section
/-! DEFINITION. What an implementation or the outside world fixes: uninterpreted constants with no body.
Nothing can evaluate them, so a statement that mentions one holds for every value of it. -/

namespace Sys2Proof.Config

/-- Whether the n-th plain global store is carried home at once, before the release that must carry it
(R90, R237: "B may see the store or may not"). -/
opaque earlyHome : Nat → Bool
/-- Which of the values held at the home since the snapshot point the n-th plain load returns (R88). -/
opaque viewPick : Nat → Nat
/-- A byte that an abandoned operation leaves undefined (R59, R148, R269, R294). -/
opaque freeByte : Nat → Byte
/-- An accumulator element that an abandoned matrix operation leaves undefined (R417). -/
opaque freeWord : Nat → W32
/-- The code of an mxfp4 element whose source is a NaN under a given scale other than 0xFF (R121, R278: mxfp4 has no NaN code,
and .given leaves the scale byte unwritten). -/
opaque mxfp4NanCode : Nat → BitVec 4
/-- The HBM channel that holds a 64-byte line of a space (R257: the manual does not give the placement of lines). -/
opaque hbmChannel : Nat → Nat → Nat
/-- Whether an unreleased line of a killed or terminated context reaches its home (R330, R350). -/
opaque lineSurvives : Nat → Bool
/-- The SM3 digest of a byte string (GB/T 32905; R375, R397, R450 name it, the manual does not define it). -/
opaque sm3 : List Byte → BitVec 256
/-- Whether a byte string's SM2 signature verifies under the key whose SM3 digest is given
(GB/T 32918; R397). -/
opaque sm2Verify : BitVec 256 → List Byte → List Byte → Bool
/-- The SM2 signature of a byte string under the module's identity key (R398, R406). -/
opaque sm2Sign : List Byte → List Byte
/-- The 64-bit KEY of the n-th virtual interface (R403): the manual gives no rule for its value. -/
opaque viKey : Nat → Word
/-- The origin that the wellhead chooses for a rectangle among those that fit (R402: "of its choice"). -/
opaque placePick : Nat → Nat
/-- The virtual address that the wellhead chooses for the stack segments of a warrant (R361), as the
number of 1 MiB steps above 0x200000. -/
opaque stackPick : Nat → Nat
/-- The cistern's address in the warrant's space, which the wellhead chooses (R42). -/
opaque cisternBase : Nat → Nat
/-- Bits [123:64] of the n-th warrant handle, of which bits [116:64] count: the manual gives only its OTYPE, its cursor and the zeros
of PERM bits 5 to 11 (R216, R343). -/
opaque handleBits : Nat → BitVec 60
/-- The fabric address that the destination module gives a warrant that migrates to it, for the n-th migration (R411). -/
opaque migratedVi : Nat → W128
/-- What a controller image carries (R420: the manual does not give its layout): the bytes that its digest and its signature cover,
the SM3 digest, the SM2 signature and the security version. -/
opaque imageParts : List Byte → List Byte × BitVec 256 × List Byte × Nat
/-- The stored configuration that PLDM firmware update writes with an image (R423: the manual does not give its layout): writes of
configuration registers and of governor registers. -/
opaque imageCfg : List Byte → List (Nat × W32) × List (Nat × W32)
/-- Whether a page of an address space, by its number, lies in the HBM stacks of a die (R416: the manual does not give the
placement of pages). -/
opaque pageOnDie : Nat → Nat → Nat → Bool
/-- What the n-th cold reset's training gives: the dies that fail it, the ports that train (R414, R416). -/
opaque coldTraining : Nat → BitVec 8 × BitVec 16
/-- The version that a controller image carries (R418, R420). -/
opaque imageVersion : List Byte → Word
/-- The launch groups that a LAUNCH section holds when its object's TEXT stands at a base (R374, R382: the manual gives their
content but no byte layout): entry, class, .const words, window images, and descriptor images; none when the section breaks its
format. -/
opaque launchGroups : List Byte → Nat →
  Option (List (Word × Option Nat × List (Nat × W32) × List (Nat × List Byte) × List (Nat × Nat)))
/-- What a numeric sensor of a number measures at a tick (R455): the temperature of an HBM stack, the supply power, the share of a scrub
pass. -/
opaque sensorReading : Nat → Nat → Nat
/-- How long a controller is quiesced by a switch, in ticks: at most the 5 ms of R421, free within that
bound (log 92). -/
opaque switchTicks : Nat → Nat
/-- The registers of a controller at an event, as the sump record's STATE (R418). -/
opaque crashState : Nat → List Byte

end Sys2Proof.Config
end

