-- ==== Sys2Proof/Syntax.lean ====
section
/-! DEFINITION. The syntax: one constructor of `Instr` for each row of spec/opcode_table.json.
The first 229 rows are instructions (R168 to R186), the other 93 are the steps of the module that
no instruction word encodes (spec/95_what_each_step_holds.md). The runtime of Lean builds at most 245
constructors with fields, so the steps that the model itself raises stand first among the steps. -/

namespace Sys2Proof

/-- Rounding modifiers (R119, R123, R174). -/
inductive Rnd where
  | rne | rtz | rtp | sr
  deriving DecidableEq, Repr

/-- Overflow modifiers (R174). -/
inductive Ovf where
  | dflt | sat | wrap | ovf
  deriving DecidableEq, Repr

/-- Condition codes (R174). -/
inductive Cond where
  | eq | ne | lt | le | ltn | len
  deriving DecidableEq, Repr

/-- Scalar floating-point precision (R183). -/
inductive Prec where
  | s | d
  deriving DecidableEq, Repr

/-- Integer side of an FCVT form (R183, R211). -/
inductive IntTy where
  | i32 | n32 | i64 | n64
  deriving DecidableEq, Repr

/-- Release and acquire scopes (R84). -/
inductive Scope where
  | core | rect | pkg | fab
  deriving DecidableEq, Repr

/-- Element formats, in the order of their codes 0 to 14 (R134). -/
inductive Fmt where
  | f64 | f32 | bf16 | e4m3 | e5m2 | mxfp4 | l6 | i8 | i16 | i32 | i64 | n8 | n16 | n32 | n64
  deriving DecidableEq, Repr

/-- State registers, in the order of their numbers 0x000 to 0x014 (R333). -/
inductive SReg where
  | pc | region | cause | epc | tval | tvec | slot | core | window | fault | ovf | actthr | recast
  | lease | lfsr | fflags | seals | freq | hid | ctrlatch | warrant
  deriving DecidableEq, Repr

/-- Counter events (R334). -/
inductive CtrEvent where
  | cycles | regmiss | actwait | balcyc | dryrecv | accretry | rampwait | dlmiss | failact
  | issued (slot : Fin 12)
  deriving DecidableEq, Repr

/-- The fields of a W2 instruction other than its length and major: word 0 and the descriptor word
(R171). An instruction's entry says which of them it uses; `Machine/Forms.lean` holds those lists. -/
structure W2 where
  minor : BitVec 7
  ovf   : BitVec 2
  rnd   : BitVec 2
  cnd   : BitVec 3
  ga    : Reg
  gd    : Reg
  x2    : BitVec 2
  fmt   : BitVec 4
  acc   : BitVec 2
  dc    : BitVec 6
  db    : BitVec 6
  da    : BitVec 6
  dd    : BitVec 6
  deriving DecidableEq, Repr

/-- Size of a W3 global load (R180). -/
inductive LdSize where
  | i8 | n8 | i16 | n16 | i32 | n32 | w64
  deriving DecidableEq, Repr

/-- Size of a W3 global store (R180). -/
inductive StSize where
  | b8 | b16 | b32 | b64
  deriving DecidableEq, Repr

/-- An admission message (R392): the connection it came on, its header fields and its body bytes.
`rsv` says that a reserved bit of the header is nonzero. -/
structure AdmMsg where
  conn : Nat
  tag  : Word
  ver  : Nat
  rsv  : Bool
  body : List Byte
  deriving DecidableEq, Repr

/-- A message of the reduction tree from another module of the fabric group (R151 to R156): a node value
(`part` 0), a result (1), a correction on its way to the root (2) or from the root (3) of RED k of the cores at warrant-relative core index `core`. The
operation is numbered as the rows of R154's table. -/
structure FabMsg where
  war      : Nat
  core     : Nat
  k        : Nat
  part     : Nat
  level    : Nat
  j        : Nat
  right    : Bool
  op       : Nat
  deadline : Option Nat
  data     : List W32
  bits     : List Nat
  deriving DecidableEq, Repr

/-- The unit that holds a long operation (R56, R417). -/
inductive LongUnit where
  | vector | matrix | pump
  deriving DecidableEq, Repr

/-- The unit that an engine reset clears (R416, R417). -/
inductive EngineKind where
  | pump (core : Nat) | matrix (core : Nat) | governor | crypto
  deriving DecidableEq, Repr

/-- A line that scrub reads (R447); an HBM line with the die of its channel. -/
inductive ScrubLine where
  | hbm (die space line : Nat)
  | well (die line : Nat)
  | localStore (core line : Nat)
  | instruction (die space line : Nat)
  deriving DecidableEq, Repr

/-- What scrub finds in a line (R446, R448). -/
inductive ScrubFinding where
  | clean | corrected | uncorrectable
  deriving DecidableEq, Repr

/-- How the request of a register line ends (R44, R46, R446). -/
inductive LineFill where
  | arrives
  /-- The line arrives; it had an error that was corrected. -/
  | corrected
  /-- The page of the record cannot be translated. -/
  | untranslated
  /-- The line carries an uncorrectable error. -/
  | uncorrectable
  deriving DecidableEq, Repr

/-- Where the reply to a global access comes from (R81, R236, R241, R405). -/
inductive ReplyHow where
  /-- From the home on this module. -/
  | home
  /-- From a peer's home: the bytes read, with the granule tag as a 17th byte after sixteen. -/
  | peer (bs : List Byte)
  /-- The peer cannot translate the n-th page that the access enters. -/
  | unmapped (n : Nat)
  /-- As `home`; the line had an error that was corrected. -/
  | corrected
  deriving DecidableEq, Repr

/-- A packet that no rule serves (R390 to R392): to a virtual interface, with its OPC and TAG, or to the module itself. -/
inductive StrayTo where
  | vi (opc : Nat) (tag : Word)
  | module
  deriving DecidableEq, Repr

/-- The address of a virtual interface with the JOB behind it (R403, R412). -/
structure ViJob where
  vi  : W128
  job : Nat
  deriving DecidableEq, Repr

/-- The instructions and steps of the machine. Register operands are written in the order
destination, first source, second source. -/
inductive Instr where
  -- INTR (R181, R197)
  | add (d a b : Reg) | sub (d a b : Reg) | mul (d a b : Reg) | mulh (d a b : Reg)
  | mulhn (d a b : Reg) | div (d a b : Reg) | divn (d a b : Reg) | rem (d a b : Reg)
  | remn (d a b : Reg) | and (d a b : Reg) | or (d a b : Reg) | xor (d a b : Reg)
  | andn (d a b : Reg) | shl (d a b : Reg) | shr (d a b : Reg) | sar (d a b : Reg)
  | rol (d a b : Reg) | min (d a b : Reg) | max (d a b : Reg) | minn (d a b : Reg)
  | maxn (d a b : Reg) | clz (d a : Reg) | ctz (d a : Reg) | popc (d a : Reg)
  | abs (d a : Reg) | mov (d a : Reg)
  -- comparison and selection (R204, R206)
  | cmp (c : Cond) (bit : Fin 32) (d a b : Reg)
  | sel (p : Reg) (bit : Fin 16) (d a b : Reg)
  -- immediates (R199, R200)
  | addi (d a : Reg) (imm : BitVec 14) | andi (d a : Reg) (imm : BitVec 14)
  | ori (d a : Reg) (imm : BitVec 14) | xori (d a : Reg) (imm : BitVec 14)
  | addiW3 (d a : Reg) (lit : W32) | andiW3 (d a : Reg) (lit : W32)
  | oriW3 (d a : Reg) (lit : W32) | xoriW3 (d a : Reg) (lit : W32)
  | li (d : Reg) (imm : BitVec 14) | liW3 (zext : Bool) (d : Reg) (lit : W32)
  | lk (d : Reg) (k : BitVec 8)
  | sext (d a : Reg) (w : BitVec 14) | zext (d a : Reg) (w : BitVec 14)
  | bfx (d a : Reg) (pos wm1 : BitVec 6) | bfi (d a : Reg) (pos wm1 : BitVec 6)
  -- FOP (R183, R207)
  | fadd (r : Rnd) (p : Prec) (d a b : Reg) | fsub (r : Rnd) (p : Prec) (d a b : Reg)
  | fmul (r : Rnd) (p : Prec) (d a b : Reg) | fma (r : Rnd) (p : Prec) (d a b : Reg)
  | fmin (p : Prec) (d a b : Reg) | fmax (p : Prec) (d a b : Reg)
  | fabs (p : Prec) (d a : Reg) | fneg (p : Prec) (d a : Reg) | fcls (p : Prec) (d a : Reg)
  | frcp (p : Prec) (d a : Reg) | frsq (p : Prec) (d a : Reg)
  | fnr (r : Rnd) (p : Prec) (d a : Reg) | fnrs (r : Rnd) (p : Prec) (d a : Reg)
  | fcvtToInt (r : Rnd) (p : Prec) (t : IntTy) (d a : Reg)
  | fcvtFromInt (r : Rnd) (p : Prec) (t : IntTy) (d a : Reg)
  | fcvtSTod (d a : Reg) | fcvtDTos (r : Rnd) (d a : Reg)
  | fcvtWrapToInt (r : Rnd) (p : Prec) (t : IntTy) (d a : Reg)
  | fcmp (p : Prec) (c : Cond) (bit : Fin 32) (d a b : Reg)
  -- capabilities (R219)
  | cgb (d a : Reg) | cgl (d a : Reg) | cgp (d a : Reg) | cga (d a : Reg)
  | csa (d a b : Reg) | cinc (d a b : Reg) | csb (d a b : Reg) | cap (d a b : Reg)
  | ctag (d a : Reg) | cct (d a : Reg) | cseal (d a b : Reg) | cunseal (d a b : Reg)
  | cincImm (d a : Reg) (imm : BitVec 14) | cincW3 (d a : Reg) (lit : W32)
  -- control (R224 to R230)
  | b (disp : BitVec 14) | bt (r : Reg) (bit : Fin 32) (disp : BitVec 14)
  | bf (r : Reg) (bit : Fin 32) (disp : BitVec 14) | bz (r : Reg) (disp : BitVec 14)
  | bnz (r : Reg) (disp : BitVec 14) | loop (r : Reg) (disp : BitVec 14)
  | call (disp : BitVec 14) | callW3 (lit : W32) | j (lit : W32)
  | nop | region | ret (a : Reg) | yield | callc (a : Reg) | trap (code : BitVec 14)
  -- global memory (R235)
  | ldI8 (d a : Reg) (imm : BitVec 14) | ldN8 (d a : Reg) (imm : BitVec 14)
  | ldI16 (d a : Reg) (imm : BitVec 14) | ldN16 (d a : Reg) (imm : BitVec 14)
  | ldI32 (d a : Reg) (imm : BitVec 14) | ldN32 (d a : Reg) (imm : BitVec 14)
  | ld (d a : Reg) (imm : BitVec 14)
  | stI8 (d a : Reg) (imm : BitVec 14) | stI16 (d a : Reg) (imm : BitVec 14)
  | stI32 (d a : Reg) (imm : BitVec 14) | st (d a : Reg) (imm : BitVec 14)
  | ldc (d a : Reg) (imm : BitVec 14) | stc (d a : Reg) (imm : BitVec 14)
  | ldW3 (sz : LdSize) (d a : Reg) (lit : W32) | stW3 (sz : StSize) (d a : Reg) (lit : W32)
  | ldcW3 (d a : Reg) (lit : W32) | stcW3 (d a : Reg) (lit : W32)
  -- local memory and full/empty words (R242 to R249)
  | ll (d a : Reg) (imm : BitVec 14) | sl (d a : Reg) (imm : BitVec 14)
  | llW3 (d a : Reg) (lit : W32) | slW3 (d a : Reg) (lit : W32)
  | llf (d a : Reg) (imm : BitVec 14) | slf (d a : Reg) (imm : BitVec 14)
  | sle (d a : Reg) (imm : BitVec 14) | feq (d a : Reg) (imm : BitVec 14)
  | post (d a b : Reg) | postf (d a b : Reg)
  | llfRemote (d a b : Reg) | slfRemote (d a b : Reg)
  | sleRemote (d a b : Reg) | feqRemote (d a b : Reg)
  -- SYNC (R185); `w` is true for the 64-bit form
  | phase (s : Scope)
  | amoAdd (w : Bool) (d a b : Reg) | amoAnd (w : Bool) (d a b : Reg)
  | amoOr (w : Bool) (d a b : Reg) | amoXor (w : Bool) (d a b : Reg)
  | amoMin (w : Bool) (d a b : Reg) | amoMax (w : Bool) (d a b : Reg)
  | amoMinn (w : Bool) (d a b : Reg) | amoMaxn (w : Bool) (d a b : Reg)
  | amoSwap (w : Bool) (d a b : Reg) | cas (w : Bool) (d a b : Reg)
  | lamoAdd (d a b : Reg) | lamoAnd (d a b : Reg) | lamoOr (d a b : Reg)
  | lamoXor (d a b : Reg) | lamoMin (d a b : Reg) | lamoMax (d a b : Reg)
  | lamoMinn (d a b : Reg) | lamoMaxn (d a b : Reg) | lamoSwap (d a b : Reg)
  | waitw (w : Bool) (d a b : Reg) | pref (d a : Reg)
  -- channels (R259 to R262)
  | send (ch : Fin 8) (a b : Reg) | recv (ch : Fin 8) (d a : Reg) | chq (ch : Fin 8) (d : Reg)
  | role (d a : Reg)
  -- system (R327 to R341)
  | start (d a b : Reg) | exit | join (d a : Reg) | kill (a : Reg) | resume (a b : Reg)
  | launch (d a b : Reg) | trapret | faultq (d a : Reg) | ctrsel (d a b : Reg)
  | time (d a : Reg) | stop (d a b : Reg) | vmap (d a b : Reg) | vunmap (a : Reg)
  | ifl (d a : Reg) | mfs (d : Reg) (r : SReg) | mts (r : SReg) (a : Reg)
  | ctr (d : Reg) (e : CtrEvent) | ctrl (d : Reg) (e : CtrEvent) | ctrh (d : Reg) (e : CtrEvent)
  | wpres (d a b : Reg) | wsplit (d a b : Reg) | wdeleg (d a b : Reg) | wsurr (d a : Reg)
  | wqry (d a b : Reg) | gramp (a b : Reg) | gpin (a : Reg) | wellq (d a : Reg)
  -- vector (R271 to R285)
  | vadd (f : W2) | vsub (f : W2) | vmul (f : W2) | vfma (f : W2) | vmin (f : W2) | vmax (f : W2)
  | vabs (f : W2) | vneg (f : W2) | vand (f : W2) | vor (f : W2) | vxor (f : W2) | vshl (f : W2)
  | vshr (f : W2) | vsar (f : W2) | vcmp (f : W2) | vsel (f : W2) | vcvt (f : W2) | vqnt (f : W2)
  | vdqnt (f : W2) | vrcp (f : W2) | vrsq (f : W2) | vnr (f : W2) | vexp2 (f : W2) | vlog2 (f : W2)
  | vscan (f : W2) | vred (f : W2) | vbcast (f : W2) | vfill (f : W2) | vcopy (f : W2)
  | vtran (f : W2) | vgath (f : W2) | vscat (f : W2) | vlut (f : W2)
  -- matrix, pump and collective (R286)
  | mma (f : W2) | mmag (f : W2) | mmr (f : W2) | mzero (f : W2) | mrd (f : W2) | mwr (f : W2)
  | wld (f : W2) | tld (f : W2) | dset (f : W2) | dget (f : W2) | dsta (f : W2) | xcopy (f : W2)
  | pub (f : W2) | drain (f : W2) | dclr (f : W2) | wellw (f : W2) | bar (f : W2) | red (f : W2)
  | redx (f : W2) | rstat (f : W2) | corr (f : W2)
  -- the steps of cores and contexts: cores are named by their mesh index x + 64·y
  | slotVisit (core slot : Nat)
  | instructionFetchArrival (core hid : Nat) (uncorrectable : Bool)
  | globalReply (core hid : Nat) (how : ReplyHow) (uncorrectable : Bool)
  | remoteMessageArrival (n : Nat)
  | remoteReplyArrival (n : Nat)
  | vectorCompletion (core : Nat)
  | matrixCompletion (core : Nat)
  | pumpOperationCompletion (core : Nat) (how : ReplyHow)
  | redNodeArrival (n : Nat) (ext : Option FabMsg)
  | launchAcceptance (lid : Nat)
  | registerLineFill (core hid line : Nat) (how : LineFill)
  | slotRelease (core : Nat)
  | sendCompletion (core hid : Nat)
  | recvCompletion (core hid : Nat)
  | waitwWake (core hid : Nat) (spurious : Bool)
  | governorWindowBoundary
  | helperfaultTrap (core : Nat)
  | helperDeactivation (core hid : Nat)
  | longOperationFault (core : Nat) (u : LongUnit) (line : Word)
  | recvDry (core hid : Nat)
  | waitwTimeout (core hid : Nat)
  | tlbLeaseExpiry (core page : Nat)
  | vunmapCompletion (core : Nat)
  | wellRefresh (bank : Fin 16)
  | coreStart (lid core : Nat)
  | redNodeCutoff (round level j : Nat)
  | redResultDelivery (core hid : Nat)
  | corrTimeout (core hid : Nat)
  | barRelease (core hid : Nat)
  | redxRelease (core hid : Nat)
  | mmrTransfer (core : Nat) (north : Bool)
  | mmrRelease (core : Nat)
  | relockEnd (die : Nat)
  | standbyEviction (lid : Nat)
  | standbyRestore (lid x y : Nat)
  | standbyRotation (out into : Nat)
  | standbyHoldExpiry (war : Nat)
  | warrantExpiry (war : Nat)
  | checkedHashArrival (core hid : Nat) (differs : Bool)
  | checkedHashTimeout (core hid : Nat)
  | scrubLine (l : ScrubLine) (found : ScrubFinding) (behind : Bool)
  | scrubPassLate (die : Nat)
  -- the wellhead and the network
  | present (m : AdmMsg) | object (m : AdmMsg) | launchMessage (m : AdmMsg) | query (m : AdmMsg)
  | surrender (m : AdmMsg) | group (m : AdmMsg) | beacon (m : AdmMsg) | claim (m : AdmMsg)
  | claimed (m : AdmMsg)
  | claimResend (serial : W128)
  | claimTimeout (serial : W128)
  | migrate (m : AdmMsg) (accepted : Nat) (newJob : Nat)
  | moved (m : AdmMsg) (old : ViJob)
  | oldViPacket (vi : W128) (sender : Nat)
  | announceRepeat
  | rmaWrite (vi : W128) (job : Nat) (va : Word) (data : List Byte)
  | rmaRead (vi : W128) (job : Nat) (va : Word) (len : Nat)
  | ueUnsupportedPacket (sender : Nat) (dest : StrayTo)
  -- controllers, resets and management
  | controllerCommand (die : Fin 8) (toLeaf : Bool) (consume : Bool) (cmd : List Byte)
  | powerOn (okHub okWellhead : Bool) (failedDies : BitVec 8) (ports : BitVec 16)
  | moduleColdReset
  | moduleWarmReset
  | dieReset (die : Fin 8)
  | coreReset (core : Nat)
  | engineReset (e : EngineKind)
  | portReset (port : Fin 16)
  | watchdogExpiry (ctrl : Fin 9) (pc : Word)
  | controllerException (ctrl : Fin 9) (cause : W32) (pc addr : Word)
  | securityAlarm (sensor : Nat)
  | sumpread (idx : Nat)
  | cfgread (off : W32)
  | cfgwrite (off val : W32)
  | rdirEntryWrite (e : Nat) (val : W32)
  | gvread (off : W32)
  | gvwrite (off val : W32)
  | dbgreadCounters (serial : W128) (core : Word)
  | dbgreadRecord (serial : W128) (core : Word) (hid : Nat)
  | dbgstop (serial : W128) (core pc : Word)
  | spdmMeasurements (ctrl : Fin 9)
  | pldmFirmwareUpdate (ctrl : Fin 9) (image : List Byte)
  | firmwareActivation (ctrl : Fin 9)
  | firmwareSelfTestFailure (ctrl : Fin 9)
  | powerLoss
  | vmapCompletion (core : Nat)
  | warrantInstructionCompletion (core : Nat)
  | inboundPeerAtomic (vi : W128) (job : Nat) (va : Word) (op : Fin 12) (w : Bool) (operand expect : Word)
  | portLinkTraining (port : Fin 16)
  | dieTemperatureSample (die : Fin 8) (degrees : Nat)
  | platformEventAcknowledge
  | redemptionEntryExpiry (serial : W128)
  | dieResetCompletion (die : Fin 8)
  deriving DecidableEq, Repr

end Sys2Proof
end

