-- ==== Sys2Proof/Machine/State.lean ====
section
/-! DEFINITION. The state of one XA-960 module as plain data: the focused context and its core, the
other cores, the address spaces, warrants and launches, the network and the reduction trees, the
governor, the wellhead, the controllers, and the agenda that says which step comes next. -/

namespace Sys2Proof.Machine

open Sys2Proof

/-- A sparse table: strictly rising keys, no entry equal to the default of the table. -/
abbrev Tab (α : Type) := List (Nat × α)

/-- Context status (R41, STATUS). The code is the constructor's position. -/
inductive Status where
  | free | queued | resident | waiting | waitingOut | parked | exited
  deriving DecidableEq, Repr

/-- The architected fields of a context record (R41). `regs` and `tags` hold g0 to g31; the entry of
g0 is kept zero. `slot = none` is the code 0xF. -/
structure Rec where
  regs     : Vector W128 32
  tags     : BitVec 32
  pc       : Word
  region   : Word
  epc      : Word
  tval     : Word
  cause    : BitVec 16
  ctrlatch : W32
  wbase    : BitVec 20
  wsize    : BitVec 4
  status   : Status
  slot     : Option Nat
  waitk    : BitVec 4
  helper   : Bool
  pinned   : Bool
  intrap   : Bool
  hid      : Nat
  seals    : BitVec 16
  tvec     : Word
  ready    : Word
  act      : Word
  run      : Word
  exitTick : Word
  deriving DecidableEq, Repr

/-- An agent of a warrant (R72): context `hid` of a core under a launch with its engines; launch 0 stands for the network
interface, the peers and the hosts. -/
structure Agent where
  launch : Nat
  core   : Nat
  hid    : Nat
  deriving DecidableEq, Repr

/-- The full/empty operations (R244). -/
inductive FeKind where
  | llf | feq | slf | sle
  deriving DecidableEq, Repr

/-- A scope of collectives (R308): kind and, for kind 0, the scope word. -/
structure ScopeKey where
  kind : BitVec 2
  word : Word
  deriving DecidableEq, Repr

/-- Descriptor states (R133). -/
inductive DState where
  | empty | filling | ready | draining
  deriving DecidableEq, Repr

/-- Descriptor spaces (R133). -/
inductive DSpace where
  | loc | glob | well | wbuf
  deriving DecidableEq, Repr

/-- A tensor descriptor entry (R133). -/
structure Desc where
  state  : DState
  fmt    : Fmt
  rank   : BitVec 2
  fspace : DSpace
  bspace : DSpace
  rd     : Bool
  wr     : Bool
  sparse : Bool
  sspace : DSpace
  perm   : BitVec 20
  str1   : W32
  str2   : W32
  str3   : W32
  ext0   : BitVec 16
  ext1   : BitVec 16
  ext2   : BitVec 16
  ext3   : BitVec 16
  scale  : Word
  back   : Word
  front  : Word
  deriving DecidableEq, Repr

/-- What a context that is out of the rotation waits for (R47). -/
inductive WaitOp where
  /-- A global load, LDC, AMO or CAS: the reply writes `val` and `tag` into `rd` (R236). `peer` is the
  address of an access that went to a peer, whose data the reply brings. -/
  | reply (rd : Reg) (val : W128) (tag : Bool) (signed : Bool) (bytes : Nat) (peer : Option Word)
  /-- An AMO or CAS at a peer's home: operation `op` of R185, 32 for CAS with its compare value (R253, R254). -/
  | peerAtomic (rd : Reg) (va : Word) (bytes op x cmp : Nat)
  /-- PREF: whether the checks of R218 pass, and whether the page is a peer's (R258). -/
  | pref (rd : Reg) (ok peer : Bool)
  /-- A global store that is not yet accepted, with its address at a peer (R236). -/
  | accept (peer : Option Word)
  /-- A PHASE (R251). -/
  | phase (sc : Scope)
  /-- WAITW on `bytes` bytes at `va` until they differ from `cmp` or the timer reaches `until_` (R256); `last` is the value that a
  peer's home last gave. -/
  | waitw (rd : Reg) (va : Word) (bytes : Nat) (cmp : Word) (until_ : Nat) (last : Option Word)
  /-- A waiter in the queue of a full/empty word of the own core (R246). -/
  | fe (kind : FeKind) (rd : Reg) (word : Nat)
  /-- A remote full/empty operation, CTRSEL or STOP whose reply is outstanding (R248, R336, R338). -/
  | remote (rd : Reg) (kind : BitVec 4) (target : Word)
  /-- A SEND whose channel is full (R259). -/
  | send (target : Nat) (ch : Fin 8) (entry : List Byte)
  /-- A RECV whose channel is empty (R260). -/
  | recv (ch : Fin 8) (rd : Reg) (off : Word)
  /-- EXIT of a helper that waits for its DRAINs: it issues again at their end (R328). -/
  | drain
  | bar (key : ScopeKey) (k : Nat)
  | red (key : ScopeKey) (k : Nat) (dd : Desc)
  | redx (key : ScopeKey) (k : Nat) (dd : Desc)
  | corr (key : ScopeKey) (dd : Desc) (gd : Reg) (until_ since : Nat)
  /-- JOIN or EXIT: the instruction issues again at each visit (R329, R33). -/
  | join
  /-- An operation of a deterministic launch that its home holds until its key is the least (R437). -/
  | detHold
  /-- An outgoing message of a checked launch whose pair has not yet agreed on it (R450): its hash. -/
  | check (hash : Word) (until_ : Nat)
  /-- The n-th load of a mirror, which takes the primary's reply (R449). -/
  | mirror (rd : Reg) (n : Nat)
  /-- A descriptor that is filling or draining: the checks run again at each visit (R138, R266). -/
  | desc (d : Nat)
  /-- PUB of a descriptor that is filling or draining (R139). -/
  | pub (d : Nat)
  | vmap (rd : Reg) (va len : Word)
  | vunmap (lo hi : Nat) (at_ until_ : Nat)
  | launch (rd : Reg) (lid : Nat)
  /-- WPRES, WSPLIT, WSURR or WQRY: the wellhead writes this result (R343). -/
  | warrant (rd : Reg) (val : W128) (tag : Bool)
  /-- WPRES whose claim is outstanding at a home (R344). -/
  | claim (rd : Reg) (serial : W128)
  /-- WPRES of a record whose serial another presentation holds pending: it proceeds from check 8 (R400). -/
  | second (rd : Reg) (raw : List Byte)
  deriving DecidableEq, Repr

/-- How a record of a context's view came about: a plain store not yet carried home, one already
released since the snapshot point, or a value read in this phase (R88, R89). -/
inductive ViewKind where
  | unreleased | released | read
  deriving DecidableEq, Repr

/-- One record of a context's view of global memory, newest first in the view (R86 to R89). `tag` is
the granule tag that the record determines, if any (R78). -/
structure ViewRec where
  addr : Nat
  data : List Byte
  tag  : Option Bool
  kind : ViewKind
  deriving DecidableEq, Repr

/-- A long-operation fault that waits for the end of its context's wait (R56). -/
structure PendFault where
  cause : BitVec 16
  tval  : Word
  fpc   : Word
  deriving DecidableEq, Repr

/-- A context: its live record, the record as last written back (R41), and what the core keeps
beside it while the context lives. `snap` holds, by scope, the point of its latest acquire at that scope or a wider one
(R84, R88), `born` the point at which it began; in a deterministic launch `seen` holds the latest moment at which each agent produced an effect that the
context has observed, and `hb` the latest release of each that happens before it (R90, R438); `floors` the least moment that a load of a 64-byte line may still read (R86,
R91). `spur` says that a restore lets its WAITW wake spuriously (R257); `agreed` that its held message or operation goes next (R437, R450); `dropped`
that the message of the instruction that issues next was forwarded before a restart; `redo` lists the messages of MMRs that a restart abandoned (R451). `loads` counts the loads of a context of a checked pair, `loads0` those before
its region entry (R449). `lineUse` is the cycle of each line's last use (R45), `readyNo` its place in the order in which the core's
helpers became ready (R51). -/
structure Ctx extends Rec where
  saved      : Rec
  wait       : Option WaitOp
  waitSince  : Nat
  view       : List ViewRec
  snap       : Vector Nat 4
  born       : Nat
  seen       : List (Agent × Nat)
  hb         : List (Agent × Nat)
  floors     : Tab Nat
  retired    : Nat
  awaitFetch : Bool
  lines      : BitVec 4
  lineReq    : BitVec 4
  dirty      : BitVec 4
  lineUse    : Vector Nat 4
  age        : Nat
  readyNo    : Nat
  badLine    : Bool
  loadLine   : Nat
  erred      : Bool
  fpc        : Word
  afterCtrl  : Bool
  sent       : Nat
  hashes     : List Word
  restarted  : Bool
  agreed     : Bool
  dropped    : Bool
  redo       : List Nat
  rewind     : Bool
  fresh      : Bool
  npc        : Word
  recNo      : Nat
  loads      : Nat
  loads0     : Nat
  spur       : Bool
  pend       : Option PendFault
  deriving DecidableEq, Repr

/-- A vector operation in flight (R37, R267, R269): its flags and VCMP's predicate take effect at
completion. `dest` lists the destination bytes, which an abandonment leaves as free values; `cycles` is the
core cycle from which the unit is free; `bad` is a poisoned line that it reads (R446, R448); `reads` says that RED or REDX reads its
contribution, which is no long operation (R317). -/
structure VecOp where
  hid    : Nat
  fpc    : Word
  flags  : BitVec 7
  pred   : Option (Reg × Fin 32 × Bool)
  dest   : List Nat
  cycles : Nat
  caps   : List Nat
  region : Word
  bad    : Option Nat
  reads  : Bool := false
  deriving DecidableEq, Repr

/-- A matrix operation in flight (R141): the tile writes and flags that its completion performs, and the core
cycle from which the unit is free. `banks` lists the well banks that it reads, whose refreshes it waits out; the refreshes before
number `since` are counted in `cycles` (R150). -/
structure MatOp where
  hid    : Nat
  fpc    : Word
  tile   : Nat
  writes : List (Nat × W32)
  flags  : BitVec 7
  cycles : Nat
  caps   : List Nat
  dest   : List Nat
  mmr    : Bool
  region : Word
  bad    : Option Nat
  banks  : List Nat
  since  : Nat
  deriving DecidableEq, Repr

/-- The pump's operations (R147, R306). -/
inductive PumpKind where
  | xcopy | tld (t : Bool) | wld (expand : Bool) | drain | wellw
  deriving DecidableEq, Repr

/-- A pump operation in the queue. `data` is the element data that it has read; it is `none` while the source
waits for its page or for a peer; `snap` then holds the local bytes that it reads as they stand behind the operations before it (R86). `stored` says that a DRAIN's stores are in its context's view; `key` is its key in a
deterministic launch (R437); `load` its number among the loads of a checked pair (R449). `hid` is 65536 more than the identifier of a
context that has exited or was killed. -/
structure PumpOp where
  kind : PumpKind
  war  : Nat
  hid  : Nat
  fpc  : Word
  dd   : Nat
  da   : Nat
  dst  : Desc
  src  : Desc
  data : Option (List Nat)
  region : Word
  key  : Nat
  stored : Bool
  snap : List Host.Cell
  load : Nat
  deriving DecidableEq, Repr

/-- A core's MMR whose release is outstanding (R294), with the fronts that it captured (R140). `done` says that the release has left
the root; `msg` is its number among its context's outgoing messages (R451). -/
structure MmrOp where
  launch : Nat
  hid  : Nat
  k    : Nat
  da   : Nat
  db   : Nat
  a    : List Byte
  b    : List Byte
  inA  : Bool
  inB  : Bool
  prod : Bool
  done : Bool
  caps : List Nat
  msg : Nat := 0
  deriving DecidableEq, Repr

/-- A waiter of a full/empty word, in order of arrival, in a deterministic launch in order of its key (R246). `own` says that it is a
context of the same core; otherwise a reply goes to the source. `by_` is its context in a
deterministic launch, with the moment of its issue (R90). -/
structure FeWaiter where
  word : Nat
  kind : FeKind
  val  : W32
  src  : Nat
  hid  : Nat
  own  : Bool
  key  : Nat := 0
  by_  : Option (Agent × Nat) := none
  deriving DecidableEq, Repr

/-- A fault record (R324), in record form. -/
structure FaultRec where
  tval   : Word
  region : Word
  fpc    : Word
  pc     : Word
  tick   : Word
  cause  : BitVec 16
  hid    : Nat
  slot   : Option Nat
  kind   : BitVec 4
  deriving DecidableEq, Repr

/-- An armed stop (R338). -/
structure StopRec where
  slot : Nat
  pc   : Word
  deriving DecidableEq, Repr

/-- The operations of the reduction tree (R154). -/
inductive RedOp where
  | sumF | sumB | sumI | max | min | or | maxN
  deriving DecidableEq, Repr

/-- A value that travels in a reduction tree (R153). `deadline = none` is an infinite cutoff (R158). -/
structure NodeVal where
  op       : RedOp
  deadline : Option Nat
  data     : List W32
  bits     : List Nat
  deriving DecidableEq, Repr

/-- A tree node of one round (R152). `hop` is the hop allowance of its cutoff, fixed once its pairing has `begun` (R153, R424). -/
structure RedNode where
  level : Nat
  j     : Nat
  hop   : Nat
  dl    : Option (Option Nat)
  left  : Option NodeVal
  right : Option NodeVal
  leftIn  : Bool
  rightIn : Bool
  fwd   : Bool
  begun : Bool := false
  deriving DecidableEq, Repr

/-- The collectives that keep numberings of their own (R157). -/
inductive RKind where
  | bar | red | redx
  deriving DecidableEq, Repr

/-- One round of a collective: the k-th of its kind on a scope (R157). `owner` names the launch, or for the
scopes .pkg and .fab the warrant, that the scope belongs to. `cores` lists the participants' cores in index order;
at fab scope it holds the one core on this module, whose index is `me`. `issued` and `taken` list participants by index. `rid`
names the round in the messages of its tree. `arrived` lists the participants of a deterministic launch, by index, as agents with the
moment of their arrival (R90, R100). -/
structure Round where
  rid    : Nat
  owner  : Nat
  key    : ScopeKey
  kind   : RKind
  k      : Nat
  parts  : Nat
  hop    : Nat
  cores  : List Nat
  me     : Option Nat
  nodes  : List RedNode
  issued : List Nat
  taken  : List Nat
  result : Option NodeVal
  arrived : List (Nat × Agent × Nat) := []
  deriving DecidableEq, Repr

/-- A correction that the root has sent to the participants of a scope (R156). -/
structure CorrRec where
  owner : Nat
  key   : ScopeKey
  k     : Nat
  val   : NodeVal
  deriving DecidableEq, Repr

/-- What a core keeps for one scope of collectives (R155 to R157, R312, R313): the numbers issued, the latest
result that a RED took and its bitmap, and the number of corrections that CORR has taken. A core sees the
corrections that reached a root after `Core.corrBase`, of which `corrIn` have reached the core. -/
structure ScopeSt where
  key     : ScopeKey
  bars    : Nat
  reds    : Nat
  redxs   : Nat
  heldK   : Option Nat
  held    : List Nat
  corrPos : Nat
  corrIn  : Nat
  deriving DecidableEq, Repr

/-- A GRAMP declaration (R165, R315): x in mW, the boundary at which its ramp begins, its
end, the grant at its first boundary once begun, and its place in the order of declarations. -/
structure GrampRec where
  x     : Nat
  start : Nat
  stop  : Nat
  base  : Option Nat
  seq   : Nat
  deriving DecidableEq, Repr

/-- A TLB entry (R79): the mapped page it translates and the tick at which its lease ends. -/
structure TlbEnt where
  base : Nat
  size : Nat
  till : Nat
  deriving DecidableEq, Repr

/-- What a message between cores does at its target (R234). -/
inductive Payload where
  | post (full : Bool) (off : Word) (v : W32)
  | fe (k : FeKind) (off : Word) (v : W32) (corew : Word)
  | send (ch : Fin 8) (entry : List Byte) (corew : Word)
  | ctrsel (e : CtrEvent) (corew : Word)
  | stop (slot : Nat) (arm : Bool) (pc : Word) (corew : Word)
  /-- The reply to a remote operation; `refused` is the SCOPE trap of R234. -/
  | reply (val : Word) (refused : Bool) (appended : Bool)
  /-- A contribution or node value for node (level, j) of a round (R152). -/
  | node (owner rid level j : Nat) (right : Bool) (v : NodeVal)
  /-- A value that passes to the root as a correction (R156). -/
  | correction (owner : Nat) (key : ScopeKey) (k : Nat) (v : NodeVal)
  deriving DecidableEq, Repr

/-- A message in the network or held at a router. In a deterministic launch `key` is that of its operation (R437) and `by_` the context whose effect it is, with
the moment of its issue (R90). -/
structure Msg where
  launch  : Nat
  src     : Nat
  srcHid  : Nat
  dst     : Nat
  payload : Payload
  key     : Nat := 0
  by_     : Option (Agent × Nat) := none
  deriving DecidableEq, Repr

/-- A register line of a non-resident context in the register cache (R45). -/
structure LineRec where
  hid  : Nat
  line : Nat
  use  : Nat
  deriving DecidableEq, Repr

/-- The write-backs of a context that has left a slot, which frees at the last of them (R39, R49). -/
structure WriteBack where
  slot : Nat
  hid  : Nat
  left : Nat
  deriving DecidableEq, Repr

/-- A core (R2): its store with the poisoned lines of scrub (R448), its engines, the contexts other than the focused one, and the counters
of the launch that runs on it. `owner` is the space whose launch started here last: what its store holds belongs to that
space alone (R72). `fillers` and `chanBy` name, in a deterministic launch, the agents whose effects the full words and the channel entries are, with
their moments (R90). `primary` is the launch whose mirror runs here (R84, R449). `last` is the record of the control context that ended here last, as its EXIT left it (R33, R41). -/
structure Core where
  id         : Nat
  launch     : Option Nat
  primary    : Option Nat
  owner      : Nat
  store      : List Host.Cell
  full       : List Nat
  poison     : List Nat
  waiters    : List FeWaiter
  descs      : Tab Desc
  acc        : Tab W32
  wbuf       : List Host.Cell
  chans      : Vector (List (List Byte)) 8
  chanBy     : Vector (List (Agent × Nat)) 8
  fillers    : List (Nat × Agent × Nat)
  emptyAt    : Vector Nat 8
  ring       : List FaultRec
  held       : List FaultRec
  ringNews   : Bool
  fflags     : BitVec 7
  lfsr       : W32
  actthr     : BitVec 16
  recast     : BitVec 16
  role       : Nat
  counters   : Tab Word
  cycBase    : Nat
  cycTick    : Nat
  cycle      : Nat
  stops      : List StopRec
  promoted   : List Nat
  woken      : List Nat
  started    : List Nat
  lru        : List LineRec
  wbq        : List WriteBack
  readySeq   : Nat
  ctxs       : List Ctx
  last       : Option Rec
  vop        : Option VecOp
  mop        : Option MatOp
  pumpq      : List PumpOp
  fills      : List (Nat × Nat × List (Nat × Byte))
  mmrs       : Nat
  mmrOuts    : Nat
  mmr        : List MmrOp
  coll       : List ScopeSt
  corrBase   : Nat
  heldMsgs   : List Msg
  grant      : Nat
  weightSum  : Nat
  ballast    : Nat
  balAcct    : Nat
  balSum     : Nat
  gramp      : Option GrampRec
  request    : Option Nat
  tlb        : List TlbEnt
  deriving DecidableEq, Repr

/-- Who a mapped page belongs to (R401, R404). -/
inductive PageKind where
  | data | stack | gdata | cistern
  deriving DecidableEq, Repr

/-- A mapped data page: 64 KiB, or 2 MiB when `big` (R79), drawn from the grant of warrant `war`. -/
structure PageMap where
  base : Nat
  big  : Bool
  kind : PageKind
  war  : Nat
  deriving DecidableEq, Repr

/-- One byte write at a home, newest first in the history (R91): its sequence number, the agent that wrote, whether an
atomic did (R92), the address and the byte and granule tag that it replaced. -/
structure HistRec where
  seq    : Nat
  by_    : Agent
  atomic : Bool
  addr   : Nat
  old    : Byte
  oldTag : Bool
  deriving DecidableEq, Repr

/-- A release of a deterministic launch as R90 and R438 need it: the agent, the scope, its moment, and what happens before it, as the
latest release of each agent. -/
structure SyncRec where
  by_   : Agent
  scope : Nat
  at_   : Nat
  hb    : List (Agent × Nat)
  deriving DecidableEq, Repr

/-- A release by an agent at a scope (R84, R87): it covers the agent's writes from `lo` to `hi`, and `hi` is its moment. -/
structure RelRec where
  by_   : Agent
  scope : Nat
  lo    : Nat
  hi    : Nat
  deriving DecidableEq, Repr

/-- A linked object (R380): the base and length of its TEXT section. -/
structure ObjInfo where
  base : Nat
  len  : Nat
  deriving DecidableEq, Repr

/-- A launch group (R382): what the .launch, .const, .tensor and .data lines of one group place. -/
structure Group where
  entry  : Word
  cls    : Option Nat
  consts : List (Nat × W32)
  images : List (Nat × List Byte)
  descs  : List (Nat × Desc)
  deriving DecidableEq, Repr

/-- The address space that a warrant and the warrants nested in it share (R72, R344, R457). `old` holds pages that a VUNMAP has
invalidated and not yet returned (R80), `ipoison` the poisoned lines of the instruction space (R448). `lineKeys` holds, for
bytes that pumps of deterministic launches wrote, the greatest key with the sequence number of its write (R99). `nic` is
the network interface's TLB (R79, R404, R424). -/
structure Space where
  id     : Nat
  mem    : List Host.Cell
  tags   : List Nat
  pages  : List PageMap
  old    : List PageMap
  seq    : Nat
  hist   : List HistRec
  rels   : List RelRec
  syncs  : List SyncRec
  imem   : List Host.Cell
  ipages : List Nat
  ipoison : List Nat
  objs   : List ObjInfo
  groups : List Group
  gbase  : Nat
  glen   : Nat
  poison : List Nat
  lineKeys : List (Nat × Nat × Nat)
  nic    : List TlbEnt
  deriving DecidableEq, Repr

/-- The fields of a warrant record (R397) other than its signature. -/
structure WarRec where
  version   : Nat
  mode      : Nat
  cls       : Nat
  debug     : Bool
  notBefore : Nat
  notAfter  : Nat
  serial    : W128
  parent    : W128
  issuer    : BitVec 256
  binding   : BitVec 256
  digest    : BitVec 256
  width     : Nat
  height    : Nat
  memGib    : Nat
  wellGib   : Nat
  share     : Nat
  events    : W32
  deleg     : W32
  fgroup    : W128
  fgsize    : Nat
  rsvZero   : Bool
  deriving DecidableEq, Repr

/-- A peer-table entry, absent until GROUP writes it (R405). -/
structure PeerEnt where
  vi   : W128
  job  : Nat
  used : Bool
  deriving DecidableEq, Repr

/-- An admitted warrant (R403). `memHeld` is the memory that counts as its own, less what its children hold (R346, R348). `wellUsed` lists the MiB, by die, of its well partition that WELLW has written. `code` and `endTick` are set at termination (R342, R350); memory is
counted in 64 KiB units, well in MiB per die. `hix` is the index that its handles hold (R343). `parentW` is the presenter or the split parent, `holder` the warrant whose
WPRES or WSPLIT yielded the handle (R345). -/
structure Warrant where
  id       : Nat
  hix      : Nat
  rec_     : WarRec
  x0       : Nat
  y0       : Nat
  space    : Nat
  parentW  : Option Nat
  holder   : Option Nat
  nested   : Bool
  child    : Bool
  consumed : Bool
  launched : Bool
  code     : Option (BitVec 8)
  endTick  : Word
  lseqNext : Nat
  conn     : Nat
  job      : Nat
  key      : Word
  vi       : W128
  peeridx  : Nat
  peers    : Tab PeerEnt
  memFree  : Nat
  wellMib  : Nat
  wellUsed : List (Nat × Nat)
  memHeld  : Nat
  stackAt  : Nat
  children : Nat
  evicted  : Option Nat
  deriving DecidableEq, Repr

/-- Where a launch stands (R28, R60). -/
inductive LState where
  | waiting | accepted | evicted | done
  deriving DecidableEq, Repr

/-- The reply of a primary copy's global load, WAITW or atomic, kept for its mirror (R449): the core by its
launch-relative coordinates, the context, its load count, and the value with its tag; for a pump operation the data that it read. `unmapped` is
the address at which a peer refused the page (R81). -/
structure MirrorReply where
  x   : Nat
  y   : Nat
  hid : Nat
  n   : Nat
  val : W128
  tag : Bool
  data : List Nat := []
  unmapped : Option Word := none
  deriving DecidableEq, Repr

/-- A launch (R332). `px`, `py` are the mesh coordinates of its origin; `tick` is the tick of its issue,
then of its first start or latest restore; `started` and `ended` list
cores; `image` holds the cores and their contexts that an eviction saved (R59), `tails` the bytes of each core's eviction image from
offset 0x192000 on: st.fflags, st.lfsr and the counters (R128, R334). `halted` says that an eviction has begun: none of its slots issues (R59,
step 1). `base` is the moment at which it began (R436). -/
structure Launch where
  id      : Nat
  war     : Nat
  lseq    : Nat
  ox      : Nat
  oy      : Nat
  px      : Nat
  py      : Nat
  width   : Nat
  height  : Nat
  entry   : Word
  det     : Bool
  pinned  : Bool
  checked : Bool
  mirror  : Bool
  cls     : Nat
  wbase   : BitVec 20
  wsize   : BitVec 4
  dep     : Option (Nat × Nat)
  fetch   : Word
  work    : Word
  stow    : Word
  kwords  : List W32
  state   : LState
  tick    : Word
  granted : List Nat
  started : List Nat
  ended   : List Nat
  image   : List Core
  tails   : List (Nat × List Byte)
  halted  : Bool
  base    : Nat
  conn    : Option (Nat × Word)
  mirrorOf : Option Nat
  replies : List MirrorReply
  deriving DecidableEq, Repr

/-- What waits at the inputs of a die's FIFOs while the die relocks (R40, R355): the reply of a global access, a wake of WAITW, a fetched
instruction, a register line, a message of a tree from another module, the end of VMAP or VUNMAP, a result of the wellhead, the hash of a
mirror, the answer to LAUNCH, a message between cores, the first `n` corrections that the roots have sent. -/
inductive DieInput where
  | reply (core hid : Nat) (how : ReplyHow) (uncorrectable : Bool)
  | waitwWake (core hid : Nat) (spurious : Bool)
  | fetch (core hid : Nat) (uncorrectable : Bool)
  | line (core hid line : Nat) (how : LineFill)
  | fabric (f : FabMsg)
  | mapped (core : Nat)
  | unmapped (core : Nat)
  | warrant (core : Nat)
  | hash (core hid : Nat) (differs : Bool)
  | launched (lid lseq : Nat) (ok : Bool)
  | message (m : Msg)
  | corrections (n : Nat)
  deriving DecidableEq, Repr

/-- One die for the governor (R166, R443, R445). `inputs` holds the arrivals that wait at the inputs of its FIFOs while it
relocks (R40, R355); `back` is the weight that returns when its relock has ended (R166). -/
structure DieSt where
  cur     : Nat
  ceil    : Nat
  tgt     : Nat
  relock  : Option Nat
  hot     : Nat
  temp    : Nat
  failed  : Bool
  inReset : Bool
  inputs  : List DieInput
  back    : Nat
  deriving DecidableEq, Repr

/-- The surge governor's registers and counts (R443, R445). `routed` counts the cycles in which routers of cores that have never held
anything forwarded in the present window (R159). -/
structure Gov where
  lup     : Nat
  ldown   : Nat
  tthr    : Nat
  ecap    : Nat
  overCnt : Nat
  est     : Nat
  low     : Nat
  next    : Nat
  writes  : List (Nat × W32)
  resetTill : Option Nat
  served  : Nat
  upLeft  : Nat
  decls   : Nat
  routed  : Nat
  deriving DecidableEq, Repr

/-- A presentation that the wellhead works on (R394). `past` says that it has passed checks 1 to 7 and waits for another one of its
serial (R400). -/
structure Presn where
  conn    : Nat
  tag     : Word
  rec_    : WarRec
  raw     : List Byte
  nobj    : Nat
  peeridx : Nat
  objs    : Tab (List Byte)
  claimed : Option Nat
  past    : Bool
  deriving DecidableEq, Repr

/-- An entry of the local redemption table (R400). -/
structure Redeem where
  serial   : W128
  notAfter : Nat
  pending  : Bool
  moved    : Bool
  cls      : Nat
  deriving DecidableEq, Repr

/-- An issuer key of the key store (R398): the SM3 of its public key and its role mask. -/
structure IssuerKey where
  hash : BitVec 256
  mask : BitVec 5
  deriving DecidableEq, Repr

/-- An entry of the home redemption table (R406). -/
structure HomeEnt where
  serial   : W128
  claimant : BitVec 256
  notAfter : Nat
  deriving DecidableEq, Repr

/-- A claim that this module has begun (R406): of a presentation on a connection, or of a WPRES by
the control context of a core. `addr` is the home's fabric address when the claim began (R424). -/
structure ClaimSt where
  serial : W128
  home   : BitVec 256
  addr   : Nat
  began  : Nat
  last   : Nat
  limit  : Nat
  conn   : Option Nat
  core   : Option Nat
  deriving DecidableEq, Repr

/-- Accepted trusted time (R407, R408). -/
structure Clock where
  seq : Nat
  t0  : Nat
  lo0 : Int
  hi0 : Int
  deriving DecidableEq, Repr

/-- A firmware bank (R420, R423): version and measurement of its image, whether it is valid, and the stored configuration that
PLDM firmware update wrote with it, as writes of configuration and governor registers. -/
structure Bank where
  version : Word
  measure : BitVec 256
  valid   : Bool
  cfg     : List (Nat × W32)
  gv      : List (Nat × W32)
  deriving DecidableEq, Repr

/-- One direction of a command link (R413): its send permits, the commands received and not yet consumed, and those that wait
for a permit at their sender. -/
structure Link where
  permits : Nat
  queue   : List (List Byte)
  blocked : List (List Byte)
  deriving DecidableEq, Repr

/-- A controller (R413, R418 to R421): leaf 0 to 7 or hub 8. `active` is the boot selector and `bank` the bank that runs, bank B
when set; `quiet` is the tick until which a switch quiesces it (R421); `down` and `up` are the link of a leaf. -/
structure Ctrl where
  active  : Bool
  bank    : Bool
  bankA   : Bank
  bankB   : Bank
  running : Bool
  switchedAt : Option Nat
  quiet   : Option Nat
  events  : List Nat
  down    : Link
  up      : Link
  deriving DecidableEq, Repr

/-- A crash record of the sump (R418). -/
structure Crash where
  seq   : Nat
  fwver : Word
  addr  : Word
  pc    : Word
  tick  : Word
  boot  : W32
  cause : W32
  kind  : BitVec 8
  bank  : Bool
  ctrl  : Nat
  deriving DecidableEq, Repr

/-- What the module sends to the outside: the party, a message code and its bytes. -/
structure Out where
  dest : Nat
  opc  : Nat
  tag  : Word
  body : List Byte
  deriving DecidableEq, Repr

/-- Configuration registers (R423). -/
structure Cfg where
  lease    : Nat
  hopalw   : Nat
  claimto  : Nat
  stbyhold : Nat
  annaddr  : W128
  vipool   : Tab W128
  rdir     : Tab W32
  deriving DecidableEq, Repr

/-- A migrating warrant as UE RMA brings it from its source to the module `dest` (R411, step 2): the warrant and those nested in it, their
space with every page, tags and objects, their launches with their eviction images and counters, their well partitions, and their
collective state. `conn` and `tag` are those of the order. -/
structure Moving where
  dest     : BitVec 256
  conn     : Nat
  tag      : Word
  wars     : List Warrant
  space    : Space
  launches : List Launch
  wells    : List (Nat × Nat × List Host.Cell)
  rounds   : List Round
  corrs    : List CorrRec
  net      : List Msg
  deriving DecidableEq, Repr

/-- The machine. `cx` is the context whose visit it is and `co` its core; `cores` holds the other
cores that have ever held anything. `agenda` lists the steps that come next, whatever raised them
(the interleaving of agents and every input from outside); `later` holds migration orders that wait for peers' replies; `arrivals` what
other modules transfer to this one, an input that no reset empties, and `departures` what it has transferred to them (R411); `configured` says that the stored configuration has been written (R423); `portsDown` counts the ports that
stayed down (R414); `fwKey` and `fwMin` are the fused firmware key and minimum security version (R420); `picks` counts the free values drawn. -/
structure State where
  cx       : Ctx
  co       : Core
  cores    : List Core
  tick     : Nat
  picks    : Nat
  spaces   : List Space
  wars     : List Warrant
  launches : List Launch
  net      : List Msg
  rounds   : List Round
  corrLog  : List CorrRec
  wells    : List (Nat × Nat × List Host.Cell)
  gov      : Gov
  dies     : List DieSt
  cfg      : Cfg
  powered  : Bool
  booted   : Bool
  configured : Bool
  recovery : Bool
  wellheadOk : Bool
  announced : Bool
  annDone  : Bool
  annAt    : Nat
  bootcount : W32
  lastReset : Nat
  clock    : Option Clock
  presns   : List Presn
  redeem   : List Redeem
  homeTab  : List HomeEnt
  claims   : List ClaimSt
  keys     : List IssuerKey
  idHash   : BitVec 256
  naks     : Tab Nat
  sensors  : Tab Nat
  ctrls    : List Ctrl
  sump     : List Crash
  sumpSeq  : Nat
  ports    : BitVec 16
  portsDown : Nat
  fwKey    : BitVec 256
  fwMin    : Nat
  alarm    : Nat
  fuses    : Tab Nat
  events   : List (Nat × Nat)
  beaconDrops : Nat
  ueDrops  : Nat
  memUsed  : Nat
  retired  : Nat
  wellPoison : List Nat
  nextId   : Nat
  movedVi  : List (W128 × W128 × Nat × Nat)
  out      : List Out
  agenda   : List Instr
  later    : List (AdmMsg × Nat × Nat)
  arrivals : List Moving
  departures : List Moving
  ir       : Option Instr
  deriving DecidableEq, Repr

/-- Why a step stops the machine. -/
inductive Fault where
  /-- Raised by `step` when the supply is off (after POWER_LOSS, R416) and no POWER_ON is next. Safe:
  the module does nothing without power. -/
  | noPower
  deriving DecidableEq, Repr

/-- Why a step has no meaning. -/
inductive Refusal where
  /-- Raised by `exec` alone for an instruction that has no meaning yet. Safe. -/
  | notModelled (mnemonic : String)
  deriving DecidableEq, Repr

/-- The result of a meaning. -/
abbrev Res := Host.Outcome State Fault Refusal

/-- An all-zero context record with STATUS 0 (R41, Reset column). -/
def Rec.zero : Rec :=
  { regs := Vector.replicate 32 0, tags := 0, pc := 0, region := 0, epc := 0, tval := 0, cause := 0,
    ctrlatch := 0, wbase := 0, wsize := 0, status := .free, slot := none, waitk := 0, helper := false,
    pinned := false, intrap := false, hid := 0, seals := 0, tvec := 0, ready := 0, act := 0, run := 0,
    exitTick := 0 }

/-- A free context. -/
def Ctx.zero : Ctx :=
  { Rec.zero with
    saved := Rec.zero, wait := none, waitSince := 0, view := [], snap := Vector.replicate 4 0, born := 0, seen := [], hb := [], floors := [], retired := 0,
    awaitFetch := false, lines := 0, lineReq := 0, dirty := 0, lineUse := Vector.replicate 4 0, age := 0, readyNo := 0, badLine := false, loadLine := 0,
    erred := false, fpc := 0, afterCtrl := false, sent := 0, hashes := [], restarted := false, agreed := false, dropped := false, redo := [], rewind := false,
    fresh := false, npc := 0, recNo := 0,
    loads := 0, loads0 := 0, spur := false, pend := none }

/-- An empty descriptor: every field 0 (R133, Reset column). -/
def Desc.zero : Desc :=
  { state := .empty, fmt := .f64, rank := 0, fspace := .loc, bspace := .loc, rd := false, wr := false,
    sparse := false, sspace := .loc, perm := 0, str1 := 0, str2 := 0, str3 := 0, ext0 := 0, ext1 := 0,
    ext2 := 0, ext3 := 0, scale := 0, back := 0, front := 0 }

/-- Core `id` with no launch: stores and tables empty. The activation threshold and the recast
threshold hold their defaults (R48, R64); st.lfsr is seeded at launch start (R124). -/
def Core.zero (id : Nat) : Core :=
  { id := id, launch := none, primary := none, owner := 0, store := [], full := [], poison := [], waiters := [], descs := [], acc := [],
    wbuf := [], chans := Vector.replicate 8 [], chanBy := Vector.replicate 8 [], fillers := [], emptyAt := Vector.replicate 8 0, ring := [], held := [],
    ringNews := false, fflags := 0, lfsr := 0, actthr := 2048, recast := 4096, role := 0, counters := [],
    cycBase := 0, cycTick := 0, cycle := 0, stops := [], promoted := [], woken := [], started := [],
    lru := [], wbq := [], readySeq := 0, ctxs := [], last := none, vop := none, mop := none, pumpq := [], fills := [], mmrs := 0, mmrOuts := 0,
    mmr := [], coll := [], corrBase := 0, heldMsgs := [], grant := 0, weightSum := 0, ballast := 0,
    balAcct := 0, balSum := 0, gramp := none, request := none, tlb := [] }

/-- A die after power-on: CUR and TGT 16, CEIL 20 (R443, Reset columns). -/
def DieSt.reset : DieSt :=
  { cur := 16, ceil := 20, tgt := 16, relock := none, hot := 0, temp := 0, failed := false,
    inReset := false, inputs := [], back := 0 }

/-- GVRAMP and GVCAP at their reset values (R443). -/
def Gov.reset : Gov :=
  { lup := 300, ldown := 300, tthr := 95, ecap := 6758, overCnt := 0, est := 0, low := 0, next := 100,
    writes := [], resetTill := none, served := 0, upLeft := 300 * 1000 * 2048, decls := 0, routed := 0 }

/-- The configuration registers at their reset values (R423). -/
def Cfg.reset : Cfg :=
  { lease := 25600, hopalw := 2000, claimto := 200000000, stbyhold := 1, annaddr := 0, vipool := [],
    rdir := [] }

/-- An absent peer-table entry (R405). -/
def PeerEnt.none : PeerEnt := { vi := 0, job := 0, used := false }

/-- An empty firmware bank. -/
def Bank.none : Bank := { version := 0, measure := 0, valid := false, cfg := [], gv := [] }

/-- A command link direction with its 16 send permits (R413). -/
def Link.reset : Link := { permits := 16, queue := [], blocked := [] }

/-- A controller with empty banks that does not run. -/
def Ctrl.reset : Ctrl :=
  { active := false, bank := false, bankA := Bank.none, bankB := Bank.none, running := false, switchedAt := none, quiet := none,
    events := [], down := Link.reset, up := Link.reset }

/-- The module as power good rises (R414, R416 level 1): everything volatile is clear, no warrant
exists, every register of R423 and R443 holds its reset value. No key is provisioned and no
firmware bank is written: the operator supplies both. -/
def State.reset : State :=
  { cx := Ctx.zero, co := Core.zero 0, cores := [], tick := 0, picks := 0, spaces := [],
    wars := [], launches := [], net := [], rounds := [], corrLog := [], wells := [], gov := Gov.reset,
    dies := List.replicate 8 DieSt.reset, cfg := Cfg.reset, powered := true, booted := false, configured := false,
    recovery := false, wellheadOk := true, announced := false, annDone := false, annAt := 0, bootcount := 0, lastReset := 1, clock := none,
    presns := [], redeem := [], homeTab := [], claims := [], keys := [], idHash := 0,
    naks := [], sensors := [], ctrls := List.replicate 9 Ctrl.reset, sump := [], sumpSeq := 0, ports := 0, portsDown := 0, fwKey := 0, fwMin := 0,
    alarm := 0, fuses := [], events := [], beaconDrops := 0, ueDrops := 0, memUsed := 0, retired := 0, wellPoison := [],
    nextId := 1, movedVi := [], out := [], agenda := [], later := [], arrivals := [], departures := [], ir := none }

end Sys2Proof.Machine
end

