-- ==== Sys2Proof/Machine/Mem.lean ====
section
/-! DEFINITION. Sparse tables and byte memories in one canonical form: keys strictly rising, no entry equal
to what an unlisted key reads as (for memory the byte 0). Byte order is decided here, once (R5). -/

namespace Sys2Proof.Machine

open Sys2Proof

/-- The entry of key `a`; an unlisted key reads as `d`. -/
def Tab.get {α : Type} (d : α) : List (Nat × α) → Nat → α
  | [], _ => d
  | (k, v) :: t, a => if k = a then v else Tab.get d t a

/-- The table without key `a`. -/
def Tab.del {α : Type} (t : List (Nat × α)) (a : Nat) : List (Nat × α) := t.filter (fun c => decide (c.1 ≠ a))

/-- The table with an entry for key `a` before the first greater key. -/
def Tab.ins {α : Type} (a : Nat) (v : α) : List (Nat × α) → List (Nat × α)
  | [] => [(a, v)]
  | c :: t => if a < c.1 then (a, v) :: c :: t else c :: Tab.ins a v t

/-- Write key `a`, keeping the canonical form: writing the default removes the entry. -/
def Tab.set {α : Type} [DecidableEq α] (d : α) (t : List (Nat × α)) (a : Nat) (v : α) : List (Nat × α) :=
  if v = d then Tab.del t a else Tab.ins a v (Tab.del t a)

/-- The canonical form of a table with default `d`. -/
def Tab.wf {α : Type} [DecidableEq α] (d : α) (t : List (Nat × α)) : Bool :=
  decide ((t.map Prod.fst).Pairwise (· < ·)) && t.all (fun c => decide (c.2 ≠ d))

/-- A byte memory. An unlisted byte reads as 0. -/
abbrev Memory := List Host.Cell

/-- The canonical form of a byte memory. -/
def Memory.wf (m : Memory) : Bool := Tab.wf (0 : Byte) m
/-- One byte. -/
def Memory.read (m : Memory) (a : Nat) : Byte := Tab.get (0 : Byte) m a
/-- Write one byte. -/
def Memory.write (m : Memory) (a : Nat) (v : Byte) : Memory := Tab.set (0 : Byte) m a v
/-- `n` bytes from `a` up, in address order. -/
def Memory.readN (m : Memory) (a n : Nat) : List Byte := (List.range n).map (fun i => m.read (a + i))
/-- Write bytes from `a` up. -/
def Memory.writeN (m : Memory) (a : Nat) : List Byte → Memory
  | [] => m
  | b :: bs => Memory.writeN (m.write a b) (a + 1) bs
/-- Write bytes at listed addresses, in order. -/
def Memory.writeAt (m : Memory) : List (Nat × Byte) → Memory
  | [] => m
  | (a, b) :: t => Memory.writeAt (m.write a b) t

/-- The number that bytes in address order hold, little-endian (R5). -/
def leNat : List Byte → Nat
  | [] => 0
  | b :: bs => b.toNat + 256 * leNat bs

/-- The `n` bytes of a number, little-endian (R5). -/
def leBytes : Nat → Nat → List Byte
  | 0, _ => []
  | n + 1, v => BitVec.ofNat 8 v :: leBytes n (v / 256)

/-- Bits [hi:lo] of a number. -/
def bits (v hi lo : Nat) : Nat := v / 2 ^ lo % 2 ^ (hi + 1 - lo)

/-- Bit `b` of a number. -/
def bit (v b : Nat) : Bool := v / 2 ^ b % 2 == 1

/-- Insert into a sorted list without repeats. -/
def insNat : List Nat → Nat → List Nat
  | [], a => [a]
  | k :: t, a => if a < k then a :: k :: t else if a = k then k :: t else k :: insNat t a

/-- Remove from a list. -/
def delNat (l : List Nat) (a : Nat) : List Nat := l.filter (· ≠ a)

/-- SignExt(v, w) of R194: the low `w` bits of `v`, sign-extended to 64 bits. -/
def signExt (v w : Nat) : Word :=
  let m := v % 2 ^ w
  if w = 0 then 0
  else if m < 2 ^ (w - 1) then BitVec.ofNat 64 m else BitVec.ofInt 64 ((m : Int) - 2 ^ w)

/-- ZeroExt(v, w) of R194. -/
def zeroExt (v w : Nat) : Word := BitVec.ofNat 64 (v % 2 ^ w)

/-- Clamp(v, lo, hi) of R194. -/
def clamp (v lo hi : Int) : Int := if v < lo then lo else if v > hi then hi else v

/-- ceil(a / b) for b > 0. -/
def ceilDiv (a b : Nat) : Nat := (a + b - 1) / b

/-- ceil(log2 c), the depth of a reduction tree (R151); 0 for c ≤ 1. -/
def clog2 (c : Nat) : Nat := if c ≤ 1 then 0 else Nat.log2 (c - 1) + 1

/-- `k` copies of a step, numbered from 0. -/
def iterate {α : Type} (f : Nat → α → α) : Nat → α → α
  | 0, x => x
  | k + 1, x => f k (iterate f k x)

end Sys2Proof.Machine
end

