-- ==== Sys2Proof/Machine/Flags.lean ====
section
/-! DEFINITION. The bits of st.fflags (R126) and how results set them. -/

namespace Sys2Proof.Machine

open Sys2Proof

/-- A set of flags, laid out as st.fflags (R126). -/
abbrev FlagSet := BitVec 7

/-- A rounded result differs from the exact one. -/
def fNX : FlagSet := 1
/-- A tiny result that is inexact. -/
def fUF : FlagSet := 2
/-- Overflow of a rounded or converted result. -/
def fOF : FlagSet := 4
/-- A reciprocal or reciprocal square root of zero. -/
def fDZ : FlagSet := 8
/-- Invalid. -/
def fNV : FlagSet := 16
/-- An integer result was clamped. -/
def fISAT : FlagSet := 32
/-- An MMAG group named a row at or beyond M. -/
def fRAG : FlagSet := 64

/-- The flag set `f` when the condition holds. -/
def flagIf (c : Bool) (f : FlagSet) : FlagSet := if c then f else 0

/-- Flags(s) of R194: OR into the core's sticky register; nothing is cleared (R126). -/
def State.orFlags (f : FlagSet) (s : State) : State := { s with co.fflags := s.co.fflags ||| f }

/-- The flags of a list of results. -/
def flagsOf {α : Type} (l : List (α × FlagSet)) : FlagSet := l.foldl (fun a x => a ||| x.2) 0

end Sys2Proof.Machine
end

