-- ==== Sys2Proof/Machine/Forms.lean ====
section
/-! DEFINITION. The W2 forms: their majors (R179), the minor-type values each lists (R271, R286) and
the value limits each states (R176, R272, R273, R285, R289 to R312), and the code tables of the operands. -/

namespace Sys2Proof.Machine

open Sys2Proof

/-- The W2 major of an instruction and its fields (R179). -/
def w2Of : Instr → Option (Nat × W2)
  | .vadd f => some (1, f) | .vsub f => some (2, f) | .vmul f => some (3, f) | .vfma f => some (4, f)
  | .vmin f => some (5, f) | .vmax f => some (6, f) | .vabs f => some (7, f) | .vneg f => some (8, f)
  | .vand f => some (9, f) | .vor f => some (10, f) | .vxor f => some (11, f) | .vshl f => some (12, f)
  | .vshr f => some (13, f) | .vsar f => some (14, f) | .vcmp f => some (15, f) | .vsel f => some (16, f)
  | .vcvt f => some (17, f) | .vqnt f => some (18, f) | .vdqnt f => some (19, f) | .vrcp f => some (20, f)
  | .vrsq f => some (21, f) | .vnr f => some (22, f) | .vexp2 f => some (23, f) | .vlog2 f => some (24, f)
  | .vscan f => some (25, f) | .vred f => some (26, f) | .vbcast f => some (27, f)
  | .vfill f => some (28, f) | .vcopy f => some (29, f) | .vtran f => some (30, f)
  | .vgath f => some (31, f) | .vscat f => some (32, f) | .vlut f => some (33, f) | .mma f => some (34, f)
  | .mmag f => some (35, f) | .mmr f => some (36, f) | .mzero f => some (37, f) | .mrd f => some (38, f)
  | .mwr f => some (39, f) | .wld f => some (40, f) | .tld f => some (41, f) | .dset f => some (42, f)
  | .dget f => some (43, f) | .dsta f => some (44, f) | .xcopy f => some (45, f) | .pub f => some (46, f)
  | .drain f => some (47, f) | .dclr f => some (48, f) | .wellw f => some (49, f) | .bar f => some (50, f)
  | .red f => some (51, f) | .redx f => some (52, f) | .rstat f => some (53, f) | .corr f => some (54, f)
  | _ => none

/-- The instruction of a W2 major; `none` for a reserved major (R179). -/
def w2Make (maj : Nat) (f : W2) : Option Instr :=
  match maj with
  | 1 => some (.vadd f) | 2 => some (.vsub f) | 3 => some (.vmul f) | 4 => some (.vfma f)
  | 5 => some (.vmin f) | 6 => some (.vmax f) | 7 => some (.vabs f) | 8 => some (.vneg f)
  | 9 => some (.vand f) | 10 => some (.vor f) | 11 => some (.vxor f) | 12 => some (.vshl f)
  | 13 => some (.vshr f) | 14 => some (.vsar f) | 15 => some (.vcmp f) | 16 => some (.vsel f)
  | 17 => some (.vcvt f) | 18 => some (.vqnt f) | 19 => some (.vdqnt f) | 20 => some (.vrcp f)
  | 21 => some (.vrsq f) | 22 => some (.vnr f) | 23 => some (.vexp2 f) | 24 => some (.vlog2 f)
  | 25 => some (.vscan f) | 26 => some (.vred f) | 27 => some (.vbcast f) | 28 => some (.vfill f)
  | 29 => some (.vcopy f) | 30 => some (.vtran f) | 31 => some (.vgath f) | 32 => some (.vscat f)
  | 33 => some (.vlut f) | 34 => some (.mma f) | 35 => some (.mmag f) | 36 => some (.mmr f)
  | 37 => some (.mzero f) | 38 => some (.mrd f) | 39 => some (.mwr f) | 40 => some (.wld f)
  | 41 => some (.tld f) | 42 => some (.dset f) | 43 => some (.dget f) | 44 => some (.dsta f)
  | 45 => some (.xcopy f) | 46 => some (.pub f) | 47 => some (.drain f) | 48 => some (.dclr f)
  | 49 => some (.wellw f) | 50 => some (.bar f) | 51 => some (.red f) | 52 => some (.redx f)
  | 53 => some (.rstat f) | 54 => some (.corr f)
  | _ => none

/-- Whether MINOR, CND and X2 hold values that the form lists (R179, R271, R286, R275, R309, R310). -/
def w2Minor (maj : Nat) (f : W2) : Bool :=
  let m := f.minor.toNat
  let c := f.cnd.toNat
  let x := f.x2.toNat
  let cx0 := c == 0 && x == 0
  match maj with
  | 1 | 2 | 3 | 4 | 5 | 6 | 9 | 10 | 11 | 12 | 13 | 14 | 22 | 40 | 41 => m ≤ 1 && cx0
  | 15 => m < 64 && x == 0 && c ≤ 5 && !(f.fmt.toNat ≤ 4 && c > 3)
  | 17 | 19 | 30 | 31 | 32 | 33 | 34 | 35 | 36 => m < 16 && cx0
  | 18 => m < 64 && cx0
  | 25 => m < 8 && c ≤ 2
  | 26 => (m == 0 || m == 2) && c ≤ 2
  | 43 | 54 => m == 0 && c == 0
  | 50 | 52 => m == 0 && c == 0 && x ≤ 1
  | 51 => m == 0 && c ≤ 3
  | 53 => m ≤ 1 && c == 0
  | _ => m == 0 && cx0

/-- The format set F of R273. -/
def isF (f : Nat) : Bool := f ≤ 4
/-- The format set I of R273. -/
def isI (f : Nat) : Bool := 7 ≤ f && f ≤ 14
/-- F and I together. -/
def isFI (f : Nat) : Bool := isF f || isI f

/-- Accepted RND and OVF of the arithmetic forms by destination format (R273). -/
def arithRO (f rnd ovf : Nat) : Bool :=
  if isI f then rnd == 0 && ovf != 3
  else if f == 3 || f == 4 then rnd != 3 && (ovf == 0 || ovf == 3)
  else rnd != 3 && ovf == 0

/-- Accepted RND and OVF of the converting forms VCVT and VQNT; `sr` says that .sr is accepted (R273). -/
def convRO (f rnd ovf : Nat) (sr : Bool) : Bool :=
  (rnd != 3 || sr) &&
  (if isI f then ovf != 3 else if 3 ≤ f && f ≤ 6 then ovf == 0 || ovf == 3 else ovf == 0)

/-- The destination format of VSCAN and VRED (R283); `none` where .wide does not accept F. -/
def scanDest (f : Nat) (wide : Bool) : Option Nat :=
  if wide then
    (if f == 7 || f == 8 || f == 11 || f == 12 then some 9
     else if f == 2 || f == 3 || f == 4 then some 1 else none)
  else if isFI f then some f else none

/-- Operand pairs of the matrix forms; G = 0 stands for F (R290). -/
def mmaPair (f g : Nat) : Bool :=
  let g := if g == 0 then f else g
  (f == 2 && g == 2) || ((f == 3 || f == 4) && (g == 3 || g == 4)) ||
  ((f == 7 || f == 11) && (g == 7 || g == 11)) || (f == 5 && g == 5) || (f == 6 && g == 6)

/-- Whether every reserved field is zero and every value limit of the form is kept (R176, R187 and the
entries). DESIGN CHOICE (log 127): a form that cannot overflow takes OVF 0 alone. -/
def w2Limit (maj : Nat) (f : W2) : Bool :=
  let m := f.minor.toNat
  let rnd := f.rnd.toNat
  let ovf := f.ovf.toNat
  let fm := f.fmt.toNat
  let ga := f.ga.val == 0
  let gd := f.gd.val == 0
  let acc := f.acc.toNat == 0
  let dc := f.dc.toNat == 0
  let db := f.db.toNat == 0
  let da := f.da.toNat == 0
  let dd := f.dd.toNat == 0
  let ro := rnd == 0 && ovf == 0
  let f0 := fm == 0
  let gs := m % 2 == 1
  match maj with
  | 1 | 2 | 3 => gd && acc && dc && isFI fm && arithRO fm rnd ovf && (if gs then db else ga)
  | 4 => gd && acc && isFI fm && arithRO fm rnd ovf && (if gs then da else ga)
  | 5 | 6 => gd && acc && dc && isFI fm && ro && (if gs then db else ga)
  | 7 | 8 => gd && ga && acc && dc && db && rnd == 0 &&
      (if isI fm then ovf != 3 else isF fm && ovf == 0)
  | 9 | 10 | 11 | 12 | 13 | 14 => gd && acc && dc && isI fm && ro && (if gs then db else ga)
  | 15 => acc && dc && isFI fm && ro && (if gs then db else ga)
  | 16 => gd && ga && acc && isFI fm && ro
  | 17 => gd && ga && acc && dc && db && isFI fm && isFI (m % 16) &&
      convRO fm rnd ovf ((fm == 2 || fm == 3 || fm == 4) && isF (m % 16))
  | 18 => gd && ga && acc && dc && db && (m % 16 == 1 || m % 16 == 2) && (2 ≤ fm && fm ≤ 6) &&
      !(m / 16 == 3) && convRO fm rnd ovf (fm == 2 || fm == 3 || fm == 4)
  | 19 => gd && ga && acc && dc && db && (2 ≤ m && m ≤ 6) && (fm == 1 || (fm == 2 && m != 2)) &&
      rnd != 3 && ovf == 0
  | 20 | 21 => gd && ga && acc && dc && db && fm ≤ 2 && ro
  | 22 => gd && ga && acc && dc && fm ≤ 2 && rnd != 3 && ovf == 0
  | 23 | 24 => gd && ga && acc && dc && db && (fm == 1 || fm == 2) && ro
  | 25 => gd && ga && acc && dc && (m / 4 == 1 || db) &&
      (match scanDest fm (m / 2 % 2 == 1) with | some g => arithRO g rnd ovf | none => false)
  | 26 => gd && ga && acc && dc && db &&
      (match scanDest fm (m / 2 % 2 == 1) with | some g => arithRO g rnd ovf | none => false)
  | 27 => gd && ga && acc && dc && db && isFI fm && ro
  | 28 => gd && acc && dc && db && da && isFI fm && ro
  | 29 => gd && ga && acc && dc && db && fm != 15 && ro
  | 30 => gd && ga && acc && dc && db && isFI fm && ro && m % 4 != m / 4
  | 31 | 32 => gd && ga && acc && dc && isFI fm && ro && (m == 12 || m == 13)
  | 33 => gd && ga && acc && dc && isFI fm && ro && (m == 11 || m == 12)
  | 34 => gd && ga && dd && dc && rnd == 0 && mmaPair fm m &&
      (ovf == 0 || ((fm == 7 || fm == 11) && ovf != 3))
  | 35 => gd && ga && dd && rnd == 0 && mmaPair fm m && (ovf == 0 || ((fm == 7 || fm == 11) && ovf != 3))
  | 36 => gd && ga && dd && dc && rnd == 0 && mmaPair fm m && fm != 5 && fm != 6 &&
      (ovf == 0 || ((fm == 7 || fm == 11) && ovf != 3))
  | 37 => gd && ga && dd && da && db && dc && f0 && ro
  | 38 => gd && da && db && dc &&
      (if fm == 1 || fm == 2 then rnd != 3 && ovf == 0
       else if fm == 3 || fm == 4 then rnd != 3 && (ovf == 0 || ovf == 3)
       else (7 ≤ fm && fm ≤ 13 && fm != 10) && rnd == 0 && (ovf == 0 || ovf == 2))
  | 39 => gd && dd && db && dc && ro &&
      ((1 ≤ fm && fm ≤ 4) || (7 ≤ fm && fm ≤ 9) || fm == 11 || fm == 12)
  | 40 => gd && ga && acc && dc && db && ro && ((2 ≤ fm && fm ≤ 7) || fm == 11)
  | 41 => gd && ga && acc && dc && db && ro && fm != 15 && !(m == 1 && (fm == 5 || fm == 6))
  | 42 => acc && dc && db && da && f0 && ro
  | 43 | 44 => ga && acc && dc && db && da && f0 && ro
  | 45 | 47 | 49 => gd && ga && acc && dc && db && f0 && ro
  | 46 | 48 => gd && ga && acc && dc && db && da && f0 && ro
  | 50 => gd && acc && dc && db && da && dd && f0 && ro && (f.x2.toNat == 0 || ga)
  | 51 => acc && dc && db && ro && (f.x2.toNat == 0 || ga) &&
      (match f.cnd.toNat with
       | 0 => fm == 1 || fm == 2 || fm == 9
       | 3 => fm == 13
       | _ => fm == 1)
  | 52 => gd && acc && dc && db && ro && (f.x2.toNat == 0 || ga) && (fm == 11 || fm == 13)
  | 53 => acc && dc && db && da && f0 && ro && (f.x2.toNat == 0 || ga) && (m == 1 || dd)
  | 54 => acc && dc && db && da && f0 && ro && (f.x2.toNat == 0 || ga)
  | _ => false

/-! ## Codes of operand types -/

/-- RND codes (R174). -/
def rndCode : Rnd → Nat
  | .rne => 0 | .rtz => 1 | .rtp => 2 | .sr => 3
/-- RND from its code. -/
def rndOf : Nat → Rnd
  | 0 => .rne | 1 => .rtz | 2 => .rtp | _ => .sr
/-- OVF from its code (R174). -/
def ovfOf : Nat → Ovf
  | 0 => .dflt | 1 => .sat | 2 => .wrap | _ => .ovf
/-- Condition codes (R174). -/
def condCode : Cond → Nat
  | .eq => 0 | .ne => 1 | .lt => 2 | .le => 3 | .ltn => 4 | .len => 5
/-- Condition from its code; 6 and 7 are reserved. -/
def condOf : Nat → Option Cond
  | 0 => some .eq | 1 => some .ne | 2 => some .lt | 3 => some .le | 4 => some .ltn | 5 => some .len
  | _ => none
/-- P of R183. -/
def precCode : Prec → Nat
  | .s => 0 | .d => 1
/-- P from its code. -/
def precOf : Nat → Prec
  | 0 => .s | _ => .d
/-- T of the FCVT forms (R183). -/
def intTyCode : IntTy → Nat
  | .i32 => 0 | .n32 => 1 | .i64 => 2 | .n64 => 3
/-- T from its code. -/
def intTyOf : Nat → IntTy
  | 0 => .i32 | 1 => .n32 | 2 => .i64 | _ => .n64
/-- Scope codes (R84). -/
def scopeCode : Scope → Nat
  | .core => 0 | .rect => 1 | .pkg => 2 | .fab => 3
/-- Scope from its code. -/
def scopeOf : Nat → Scope
  | 0 => .core | 1 => .rect | 2 => .pkg | _ => .fab
/-- Format codes (R134). -/
def fmtCode : Fmt → Nat
  | .f64 => 0 | .f32 => 1 | .bf16 => 2 | .e4m3 => 3 | .e5m2 => 4 | .mxfp4 => 5 | .l6 => 6 | .i8 => 7
  | .i16 => 8 | .i32 => 9 | .i64 => 10 | .n8 => 11 | .n16 => 12 | .n32 => 13 | .n64 => 14
/-- Format from its code; 15 is reserved. -/
def fmtOf : Nat → Option Fmt
  | 0 => some .f64 | 1 => some .f32 | 2 => some .bf16 | 3 => some .e4m3 | 4 => some .e5m2
  | 5 => some .mxfp4 | 6 => some .l6 | 7 => some .i8 | 8 => some .i16 | 9 => some .i32
  | 10 => some .i64 | 11 => some .n8 | 12 => some .n16 | 13 => some .n32 | 14 => some .n64 | _ => none
/-- State register numbers (R333). -/
def sregCode : SReg → Nat
  | .pc => 0 | .region => 1 | .cause => 2 | .epc => 3 | .tval => 4 | .tvec => 5 | .slot => 6 | .core => 7
  | .window => 8 | .fault => 9 | .ovf => 10 | .actthr => 11 | .recast => 12 | .lease => 13 | .lfsr => 14
  | .fflags => 15 | .seals => 16 | .freq => 17 | .hid => 18 | .ctrlatch => 19 | .warrant => 20
/-- State register from its number. -/
def sregOf : Nat → Option SReg
  | 0 => some .pc | 1 => some .region | 2 => some .cause | 3 => some .epc | 4 => some .tval
  | 5 => some .tvec | 6 => some .slot | 7 => some .core | 8 => some .window | 9 => some .fault
  | 10 => some .ovf | 11 => some .actthr | 12 => some .recast | 13 => some .lease | 14 => some .lfsr
  | 15 => some .fflags | 16 => some .seals | 17 => some .freq | 18 => some .hid | 19 => some .ctrlatch
  | 20 => some .warrant | _ => none
/-- Whether MTS may name the register (R333: not those marked RO). -/
def sregWritable : SReg → Bool
  | .pc | .slot | .core | .fault | .ovf | .lease | .freq | .hid | .ctrlatch | .warrant => false
  | .region | .cause | .epc | .tval | .tvec | .window | .actthr | .recast | .lfsr | .fflags | .seals => true
/-- Whether MTS to the register is marked "control" (R333). -/
def sregControl : SReg → Bool
  | .tvec | .actthr | .recast | .lfsr => true
  | .pc | .slot | .core | .fault | .ovf | .lease | .freq | .hid | .ctrlatch | .warrant | .region | .cause
  | .epc | .tval | .window | .fflags | .seals => false
/-- Counter event numbers (R334). -/
def eventCode : CtrEvent → Nat
  | .cycles => 0 | .regmiss => 1 | .actwait => 2 | .balcyc => 3 | .dryrecv => 4 | .accretry => 5
  | .rampwait => 6 | .dlmiss => 7 | .failact => 8 | .issued n => 16 + n.val
/-- Counter event from its number. -/
def eventOf (n : Nat) : Option CtrEvent :=
  match n with
  | 0 => some .cycles | 1 => some .regmiss | 2 => some .actwait | 3 => some .balcyc | 4 => some .dryrecv
  | 5 => some .accretry | 6 => some .rampwait | 7 => some .dlmiss | 8 => some .failact
  | _ => if h : 16 ≤ n ∧ n < 28 then some (.issued ⟨n - 16, by omega⟩) else none
/-- MINOR of a W3 load (R180). -/
def ldSizeCode : LdSize → Nat
  | .i8 => 0 | .n8 => 1 | .i16 => 2 | .n16 => 3 | .i32 => 4 | .n32 => 5 | .w64 => 6
/-- W3 load size from MINOR. -/
def ldSizeOf : Nat → Option LdSize
  | 0 => some .i8 | 1 => some .n8 | 2 => some .i16 | 3 => some .n16 | 4 => some .i32 | 5 => some .n32
  | 6 => some .w64 | _ => none
/-- MINOR of a W3 store (R180). -/
def stSizeCode : StSize → Nat
  | .b8 => 0 | .b16 => 1 | .b32 => 2 | .b64 => 3
/-- W3 store size from MINOR. -/
def stSizeOf : Nat → Option StSize
  | 0 => some .b8 | 1 => some .b16 | 2 => some .b32 | 3 => some .b64 | _ => none

end Sys2Proof.Machine
end

