-- ==== Sys2Proof/Machine/Num.lean ====
section
/-! DEFINITION. Number formats and exact arithmetic (R106 to R131): a value is decoded exactly, the
operation is exact, and one rounding delivers the result and its flags. -/

namespace Sys2Proof.Machine

open Sys2Proof

/-- An exact value: NaN (or NaR), an infinity, or the finite value (-1)^neg · m · 2^e. -/
inductive Num where
  | nan
  | inf (neg : Bool)
  | fin (neg : Bool) (m : Nat) (e : Int)
  deriving DecidableEq, Repr

/-- A floating-point layout (R107): exponent width, fraction width, bias; `ieee` when the all-ones
exponent is special, `maxc` the code of the largest finite magnitude. -/
structure FpFmt where
  ew   : Nat
  fw   : Nat
  bias : Nat
  ieee : Bool
  maxc : Nat
  nanc : Nat
  deriving DecidableEq, Repr

/-- FP64. -/
def fp64 : FpFmt := ⟨11, 52, 1023, true, 0x7FEFFFFFFFFFFFFF, 0x7FF8000000000000⟩
/-- FP32. -/
def fp32 : FpFmt := ⟨8, 23, 127, true, 0x7F7FFFFF, 0x7FC00000⟩
/-- BF16. -/
def fpBf16 : FpFmt := ⟨8, 7, 127, true, 0x7F7F, 0x7FC0⟩
/-- FP8 E4M3: no infinity, one NaN magnitude. -/
def fpE4m3 : FpFmt := ⟨4, 3, 7, false, 0x7E, 0x7F⟩
/-- FP8 E5M2. -/
def fpE5m2 : FpFmt := ⟨5, 2, 15, true, 0x7B, 0x7E⟩
/-- E2M1, the MXFP4 element: neither infinity nor NaN. -/
def fpE2m1 : FpFmt := ⟨2, 1, 1, false, 7, 0⟩

/-- Width of the codes. -/
def FpFmt.width (f : FpFmt) : Nat := 1 + f.ew + f.fw

/-- The value of a code (R107). -/
def FpFmt.decode (f : FpFmt) (c : Nat) : Num :=
  let neg := bit c (f.ew + f.fw)
  let e := c / 2 ^ f.fw % 2 ^ f.ew
  let fr := c % 2 ^ f.fw
  if f.ieee && e == 2 ^ f.ew - 1 then (if fr == 0 then .inf neg else .nan)
  else if !f.ieee && f.nanc != 0 && c % 2 ^ (f.ew + f.fw) == f.nanc then .nan
  else if e == 0 then .fin neg fr (1 - (f.bias : Int) - f.fw)
  else .fin neg (2 ^ f.fw + fr) ((e : Int) - f.bias - f.fw)

/-! ## Exact operations -/

/-- The sign flipped. -/
def Num.neg : Num → Num
  | .nan => .nan
  | .inf s => .inf (!s)
  | .fin s m e => .fin (!s) m e

/-- The sign cleared. -/
def Num.abs : Num → Num
  | .nan => .nan
  | .inf _ => .inf false
  | .fin _ m e => .fin false m e

/-- Whether the value is a NaN. -/
def Num.isNan : Num → Bool
  | .nan => true
  | _ => false

/-- Whether the value is zero. -/
def Num.isZero : Num → Bool
  | .fin _ m _ => m == 0
  | _ => false

/-- Whether the value is an infinity. -/
def Num.isInf : Num → Bool
  | .inf _ => true
  | _ => false

/-- The sign bit. -/
def Num.sign : Num → Bool
  | .nan => false
  | .inf s => s
  | .fin s _ _ => s

/-- The signed mantissa scaled to exponent `e0`, for e0 at most the value's exponent. -/
def signedAt (neg : Bool) (m : Nat) (e e0 : Int) : Int :=
  let v : Int := (m * 2 ^ (e - e0).toNat : Nat)
  if neg then -v else v

/-- Exact sum. ∞ − ∞ is invalid and gives NaN; a zero sum is +0 unless both terms are −0. -/
def Num.add : Num → Num → Num
  | .nan, _ => .nan
  | _, .nan => .nan
  | .inf a, .inf b => if a == b then .inf a else .nan
  | .inf a, .fin _ _ _ => .inf a
  | .fin _ _ _, .inf b => .inf b
  | .fin sa ma ea, .fin sb mb eb =>
    if ma == 0 && mb == 0 then .fin (sa && sb) 0 0
    else
      let e0 := min ea eb
      let v := signedAt sa ma ea e0 + signedAt sb mb eb e0
      .fin (decide (v < 0)) v.natAbs e0

/-- Exact product. 0 · ∞ is invalid and gives NaN. -/
def Num.mul : Num → Num → Num
  | .nan, _ => .nan
  | _, .nan => .nan
  | .inf a, .inf b => .inf (a != b)
  | .inf a, .fin s m _ => if m == 0 then .nan else .inf (a != s)
  | .fin s m _, .inf b => if m == 0 then .nan else .inf (s != b)
  | .fin sa ma ea, .fin sb mb eb => .fin (sa != sb) (ma * mb) (ea + eb)

/-- Comparison of two values that are not NaN: less, equal or greater; −0 equals +0. -/
def Num.cmp : Num → Num → Ordering
  | .inf a, .inf b => if a == b then .eq else if a then .lt else .gt
  | .inf a, _ => if a then .lt else .gt
  | _, .inf b => if b then .gt else .lt
  | .fin sa ma ea, .fin sb mb eb =>
    let e0 := min ea eb
    compare (signedAt sa ma ea e0) (signedAt sb mb eb e0)
  | .nan, _ => .eq
  | _, .nan => .eq

/-- The comparison of R204 and R210 on values: with a NaN only .ne holds. -/
def Num.holds (c : Cond) (a b : Num) : Bool :=
  if a.isNan || b.isNan then c == .ne
  else match c with
    | .eq => a.cmp b == .eq
    | .ne => a.cmp b != .eq
    | .lt | .ltn => a.cmp b == .lt
    | .le | .len => a.cmp b != .gt

/-- An exact integer as a value. -/
def Num.ofInt (v : Int) : Num := .fin (decide (v < 0)) v.natAbs 0

/-- Multiply by a power of two, exactly. -/
def Num.scale (k : Int) : Num → Num
  | .fin s m e => .fin s m (e + k)
  | x => x

/-! ## Rounding -/

/-- `m · 2^-k` (with a remainder below when `sticky`) rounded to an integer: the value and whether it is
inexact (R119). -/
def roundInt (r : Rnd) (neg : Bool) (m : Nat) (k : Int) (sticky : Bool) : Nat × Bool :=
  if k ≤ 0 then (m * 2 ^ (-k).toNat, sticky)
  else
    let d := 2 ^ k.toNat
    let n := m / d
    let rem := m % d
    let up := match r with
      | .rne => decide (2 * rem > d) || (decide (2 * rem = d) && (sticky || n % 2 == 1))
      | .rtz | .sr => false
      | .rtp => !neg && (rem != 0 || sticky)
    (if up then n + 1 else n, rem != 0 || sticky)

/-- Round a nonzero magnitude into a format with unbounded exponent above: the code without sign, whether
inexact, whether tiny (judged after rounding, R119). -/
def roundMag (f : FpFmt) (r : Rnd) (neg : Bool) (m : Nat) (e : Int) (sticky : Bool) : Nat × Bool × Bool :=
  let l : Int := (Nat.log2 m : Int) + e
  let emin : Int := 1 - (f.bias : Int) - f.fw
  let q := max (l - f.fw) emin
  let (n, nx) := roundInt r neg m (q - e) sticky
  let n0 := (roundInt r neg m (l - f.fw - e) sticky).1
  let tiny := decide (l < 1 - (f.bias : Int)) && !(decide (l = -(f.bias : Int)) && n0 == 2 ^ (f.fw + 1))
  (((q - emin).toNat) * 2 ^ f.fw + n, nx, tiny)

/-- The code of a signed magnitude code. -/
def FpFmt.signed (f : FpFmt) (neg : Bool) (c : Nat) : Nat := if neg then 2 ^ (f.ew + f.fw) + c else c

/-- The code of +∞ in a format that has one. -/
def FpFmt.infc (f : FpFmt) : Nat := (2 ^ f.ew - 1) * 2 ^ f.fw

/-- How overflow of a format is handled (R120, R121). -/
inductive OvfMode where
  | ieee | saturate | infinite
  deriving DecidableEq, Repr

/-- Overflow away from the largest finite value in mode `r` (R120, R121). -/
def FpFmt.overflow (f : FpFmt) (o : OvfMode) (r : Rnd) (neg : Bool) : Nat :=
  let away := match r with
    | .rne | .sr => true
    | .rtz => false
    | .rtp => !neg
  match o with
  | .saturate => f.signed neg f.maxc
  | .ieee | .infinite =>
    if !away then f.signed neg f.maxc
    else if f.ieee then f.signed neg f.infc else f.nanc

/-- Round(x, f, m) of R194, with the overflow rule of the destination; a NaN gives the canonical NaN and
sets NV (R108). `sticky` says that the exact value lies just above the given magnitude. -/
def roundNum (f : FpFmt) (o : OvfMode) (r : Rnd) (x : Num) (sticky : Bool := false) : Nat × FlagSet :=
  match x with
  | .nan => (f.nanc, fNV)
  | .inf s =>
    match o with
    | .ieee => (f.signed s f.infc, 0)
    | .saturate => (f.signed s f.maxc, fOF ||| fNX)
    | .infinite => if f.ieee then (f.signed s f.infc, 0) else (f.nanc, fOF ||| fNX)
  | .fin s m e =>
    if m == 0 then (f.signed s 0, 0)
    else
      let (c, nx, tiny) := roundMag f r s m e sticky
      if c > f.maxc then (f.overflow o r s, fOF ||| fNX)
      else (f.signed s c, flagIf nx fNX ||| flagIf (nx && tiny) fUF)

/-- Round32(x, RNE) (R194). -/
def round32 (x : Num) : Nat × FlagSet := roundNum fp32 .ieee .rne x

/-- One step of the LFSR (R124). -/
def lfsrStep (s : W32) : W32 :=
  let v := s.toNat
  let fb := (v / 2 ^ 31 + v / 2 ^ 21 + v / 2 + v) % 2
  BitVec.ofNat 32 (2 * v + fb)

/-- Stochastic rounding of one element with the 16-bit draw `v` (R123). DESIGN CHOICE (log 109): below the smallest normal number the last
place is that of the subnormal numbers. -/
def roundSr (f : FpFmt) (o : OvfMode) (x : Num) (v : Nat) : Nat × FlagSet :=
  match x with
  | .fin s m e =>
    if m == 0 then (f.signed s 0, 0)
    else
      let l : Int := (Nat.log2 m : Int) + e
      let emin : Int := 1 - (f.bias : Int) - f.fw
      let q := max (l - f.fw) emin
      let k := q - e
      let d := 2 ^ k.toNat
      let n := if k ≤ 0 then m * 2 ^ (-k).toNat else m / d
      let rem := if k ≤ 0 then 0 else m % d
      let t := rem * 65536 / d
      let n' := if rem != 0 && decide (t + v ≥ 65536) then n + 1 else n
      let c := ((q - emin).toNat) * 2 ^ f.fw + n'
      let tiny := decide (c < 2 ^ f.fw)
      if c > f.maxc then
        (match o with
         | .saturate => f.signed s f.maxc
         | _ => if f.ieee then f.signed s f.infc else f.nanc, fOF ||| fNX)
      else (f.signed s c, flagIf (rem != 0) fNX ||| flagIf (rem != 0 && tiny) fUF)
  | y => roundNum f o .rne y

/-! ## Integers -/

/-- The value of a `w`-bit pattern, signed or not (R109). -/
def intOfBits (signed : Bool) (w c : Nat) : Int :=
  let m := c % 2 ^ w
  if signed && decide (2 ^ (w - 1) ≤ m) then (m : Int) - 2 ^ w else m

/-- The `w`-bit pattern of an integer modulo 2^w. -/
def bitsOfInt (w : Nat) (v : Int) : Nat := (v % (2 ^ w : Int)).toNat

/-- Least value of an integer format. -/
def intMin (signed : Bool) (w : Nat) : Int := if signed then -(2 ^ (w - 1) : Int) else 0
/-- Greatest value of an integer format. -/
def intMax (signed : Bool) (w : Nat) : Int := if signed then 2 ^ (w - 1) - 1 else 2 ^ w - 1

/-- An exact integer delivered in a format: wrapped, or clamped with ISAT (R122, R274). -/
def fitInt (signed : Bool) (w : Nat) (wrap : Bool) (v : Int) : Nat × FlagSet :=
  if wrap then (bitsOfInt w v, 0)
  else
    let c := clamp v (intMin signed w) (intMax signed w)
    (bitsOfInt w c, flagIf (c != v) fISAT)

/-- Conversion of a value into an integer format (R122). -/
def numToInt (r : Rnd) (signed : Bool) (w : Nat) (wrap : Bool) (x : Num) : Nat × FlagSet :=
  match x with
  | .nan => (0, fNV)
  | .inf s =>
    if wrap then (0, fNV)
    else (bitsOfInt w (if s then intMin signed w else intMax signed w), fISAT)
  | .fin s m e =>
    let (n, nx) := roundInt r s m (-e) false
    let v : Int := if s then -(n : Int) else n
    let (c, fl) := fitInt signed w wrap v
    (c, fl ||| flagIf nx fNX)

/-! ## Reciprocals, square roots, refinement (R212 to R214) -/

/-- Integer square root by bits: the largest r below 2^k with r² ≤ n. -/
def isqrtBits (n : Nat) : Nat → Nat
  | 0 => 0
  | k + 1 =>
    let r := 2 * isqrtBits (n / 4) k
    if (r + 1) * (r + 1) ≤ n then r + 1 else r

/-- Integer square root. -/
def isqrt (n : Nat) : Nat := isqrtBits n (Nat.log2 n / 2 + 1)

/-- Round a positive magnitude to `p` significant bits with RNE at unbounded exponent. -/
def roundSig (p : Nat) (m : Nat) (e : Int) (sticky : Bool) : Nat × Int × Bool :=
  let k : Int := (Nat.log2 m : Int) + 1 - p
  let (n, nx) := roundInt .rne false m k sticky
  (n, e + k, nx)

/-- Deliver a 12-bit estimate in precision `f`: NX and UF compare with the exact value, tininess is judged
on the final rounding (R212). -/
def estimate (f : FpFmt) (neg : Bool) (m : Nat) (e : Int) (sticky : Bool) : Nat × FlagSet :=
  let (n, q, nx12) := roundSig 12 m e sticky
  let (c, nx, tiny) := roundMag f .rne neg n q false
  if c > f.maxc then (f.signed neg f.infc, fOF ||| fNX)
  else
    let inexact := nx || nx12
    (f.signed neg c, flagIf inexact fNX ||| flagIf (inexact && tiny) fUF)

/-- FRCP (R212). -/
def rcpNum (f : FpFmt) (x : Num) : Nat × FlagSet :=
  match x with
  | .nan => (f.nanc, fNV)
  | .inf s => (f.signed s 0, 0)
  | .fin s m e =>
    if m == 0 then (f.signed s f.infc, fDZ)
    else
      let k := Nat.log2 m + 16
      estimate f s (2 ^ k / m) (-(k : Int) - e) (2 ^ k % m != 0)

/-- FRSQ (R213). -/
def rsqNum (f : FpFmt) (x : Num) : Nat × FlagSet :=
  match x with
  | .nan => (f.nanc, fNV)
  | .inf s => if s then (f.nanc, fNV) else (0, 0)
  | .fin s m e =>
    if m == 0 then (f.signed s f.infc, fDZ)
    else if s then (f.nanc, fNV)
    else
      let m' := if e % 2 == 0 then m else 2 * m
      let e' := if e % 2 == 0 then e else e - 1
      let k := Nat.log2 m' / 2 + 17
      let q := 2 ^ (2 * k) / m'
      let y := isqrt q
      estimate f false y (-(k : Int) - e' / 2) (2 ^ (2 * k) % m' != 0 || y * y != q)

/-- FNR and FNRS (R214). -/
def nrNum (f : FpFmt) (r : Rnd) (rs : Bool) (x e : Num) (ecode : Nat) : Nat × FlagSet :=
  if x.isNan || e.isNan then (f.nanc, fNV)
  else if e.isZero || e.isInf then (ecode, 0)
  else if rs then
    roundNum f .ieee r
      ((e.mul (Num.add (.fin false 3 0) ((x.mul e).mul e).neg)).scale (-1))
  else roundNum f .ieee r (e.mul (Num.add (.fin false 2 0) (x.mul e).neg))

/-! ## Powers and logarithms of two (R282) -/

/-- Fraction bits of the fixed-point evaluation. -/
def fixBits : Nat := 160

/-- ln 2 in fixed point: Σ 1/(k·2^k), k from 1 up to 180. -/
def ln2Fix : Nat := iterate (fun k a => a + 2 ^ fixBits / ((k + 1) * 2 ^ (k + 1))) 180 0

/-- exp(t) in fixed point for t in [0, 1): 60 terms of the Taylor series by Horner's rule. The first
step of `iterate` applied is k = 0, the innermost, with divisor 60. -/
def expFixH (t : Nat) : Nat :=
  iterate (fun k a => 2 ^ fixBits + a * t / ((60 - k) * 2 ^ fixBits)) 60 (2 ^ fixBits)

/-- VEXP2 on one element (R282): the exact power is irrational unless x is an integer. -/
def exp2Num (f : FpFmt) (x : Num) : Nat × FlagSet :=
  match x with
  | .nan => (f.nanc, fNV)
  | .inf s => if s then (0, 0) else (f.infc, 0)
  | .fin s m e =>
    if m == 0 then roundNum f .ieee .rne (.fin false 1 0)
    else if decide ((Nat.log2 m : Int) + e ≥ 12) then
      (if s then (0, fUF ||| fNX) else (f.infc, fOF ||| fNX))
    else if decide ((Nat.log2 m : Int) + e < -60) then (f.bias * 2 ^ f.fw, fNX)
    else
      -- x = i + g / 2^fixBits with 0 ≤ g < 2^fixBits; e is at least -200 here
      let v : Int := if decide (e + fixBits ≥ 0)
        then (if s then -((m * 2 ^ (e + fixBits).toNat : Nat) : Int) else (m * 2 ^ (e + fixBits).toNat : Nat))
        else 0
      let i := v / (2 ^ fixBits : Int)
      let g := (v % (2 ^ fixBits : Int)).toNat
      if g == 0 then roundNum f .ieee .rne (.fin false 1 i)
      else
        let y := expFixH (g * ln2Fix / 2 ^ fixBits)
        roundNum f .ieee .rne (.fin false y (i - fixBits)) true

/-- `n` binary digits of log2(y / 2^p) for 2^p ≤ y < 2^(p+1), by repeated squaring. -/
def log2Digits (p : Nat) : Nat → Nat → Nat → Nat
  | 0, _, acc => acc
  | n + 1, y, acc =>
    let z := y * y / 2 ^ p
    if z ≥ 2 ^ (p + 1) then log2Digits p n (z / 2) (2 * acc + 1) else log2Digits p n z (2 * acc)

/-- VLOG2 on one element (R282). -/
def log2Num (f : FpFmt) (x : Num) : Nat × FlagSet :=
  match x with
  | .nan => (f.nanc, fNV)
  | .inf s => if s then (f.nanc, fNV) else (f.infc, 0)
  | .fin s m e =>
    if m == 0 then (f.signed true f.infc, fDZ)
    else if s then (f.nanc, fNV)
    else
      let l := Nat.log2 m
      let i : Int := (l : Int) + e
      if m == 2 ^ l then roundNum f .ieee .rne (Num.ofInt i)
      else
        let d := log2Digits 256 100 (m * 2 ^ (256 - l)) 0
        let v : Int := i * 2 ^ 100 + d
        if v ≥ 0 then roundNum f .ieee .rne (.fin false v.toNat (-100)) true
        else roundNum f .ieee .rne (.fin true ((-v).toNat - 1) (-100)) true

/-! ## Element formats (R134) -/

/-- The layout of a floating-point format. -/
def fpOf : Fmt → Option FpFmt
  | .f64 => some fp64 | .f32 => some fp32 | .bf16 => some fpBf16 | .e4m3 => some fpE4m3
  | .e5m2 => some fpE5m2
  | .mxfp4 | .l6 | .i8 | .i16 | .i32 | .i64 | .n8 | .n16 | .n32 | .n64 => none

/-- Width of an element in bits (R107, R109, R112). -/
def fmtBits : Fmt → Nat
  | .f64 | .i64 | .n64 => 64
  | .f32 | .i32 | .n32 => 32
  | .bf16 | .i16 | .n16 => 16
  | .e4m3 | .e5m2 | .i8 | .n8 => 8
  | .l6 => 6
  | .mxfp4 => 4

/-- Whether the format is a signed integer (R109). -/
def fmtSigned : Fmt → Bool
  | .i8 | .i16 | .i32 | .i64 => true
  | _ => false

/-- Whether the format is an integer format. -/
def fmtInt : Fmt → Bool
  | .i8 | .i16 | .i32 | .i64 | .n8 | .n16 | .n32 | .n64 => true
  | _ => false

/-- Whether the format is a block format (R111). -/
def fmtBlock : Fmt → Bool
  | .mxfp4 | .l6 => true
  | _ => false

/-- The quarter table T (R116). -/
def quarter : Nat → Nat
  | 0 => 32768 | 1 => 38968 | 2 => 46341 | _ => 55109

/-- The exact value of a block scale code (R110) applied to an element value. -/
def withScale (sc : Nat) (v : Num) : Num :=
  if sc == 255 then .nan else v.scale ((sc : Int) - 127)

/-- The value of an L6 code at scale 2^0 (R115, R116). -/
def l6Value (c : Nat) : Num :=
  if c % 64 == 0 then .fin false 0 0
  else if c % 64 == 32 then .nan
  else .fin (bit c 5) (quarter (c % 4)) ((c / 4 % 8 : Nat) - 4 - 15 : Int)

/-- The value of an element code, scale 2^0 for block formats; integers are exact. -/
def elemValue (f : Fmt) (c : Nat) : Num :=
  match fpOf f with
  | some p => p.decode c
  | none =>
    match f with
    | .mxfp4 => fpE2m1.decode (c % 16)
    | .l6 => l6Value c
    | _ => Num.ofInt (intOfBits (fmtSigned f) (fmtBits f) c)

/-- The product of two L6 elements (R117). -/
def l6Mul (c1 e1 c2 e2 : Nat) : Num :=
  if c1 % 64 == 32 || c2 % 64 == 32 || e1 == 255 || e2 == 255 then .nan
  else if c1 % 64 == 0 || c2 % 64 == 0 then .fin false 0 0
  else
    let q : Int := 4 * ((c1 / 4 % 8 : Nat) + (c2 / 4 % 8 : Nat) - 8 : Int) + ((c1 % 4 + c2 % 4 : Nat) : Int) +
      4 * ((e1 : Int) + e2 - 254)
    .fin (bit c1 5 != bit c2 5) (quarter (q % 4).toNat) (q / 4 - 15)

/-- Magnitude of L6 code `c` from 1 to 31 in units of 2^-19. -/
def l6Mag (c : Nat) : Nat := quarter (c % 4) * 2 ^ (c / 4)

/-- The largest five-bit L6 code whose magnitude is at most m·2^e; 0 when none is. -/
def l6Floor (m : Nat) (e : Int) : Nat :=
  ((List.range 32).filter (fun c => c != 0 &&
    (Num.cmp (.fin false (l6Mag c) (-19)) (.fin false m e) != .gt))).foldl max 0

/-- Conversion of a value, already divided by its block scale, into L6 (R118). -/
def roundL6 (r : Rnd) (ovf : Bool) (x : Num) : Nat × FlagSet :=
  match x with
  | .nan => (32, fNV)
  | .inf s => (if ovf then 32 else if s then 63 else 31, fOF ||| fNX)
  | .fin s m e =>
    if m == 0 then (0, 0)
    else
      let lo := l6Floor m e
      let mag (c : Nat) : Num := if c == 0 then .fin false 0 0 else if c == 32 then .fin false 16 0
        else .fin false (l6Mag c) (-19)
      let v : Num := .fin false m e
      let exact := lo != 0 && (mag lo).cmp v == .eq
      let above := match r with
        | .rtz | .sr => false
        | .rtp => !s && !exact
        | .rne =>
          if exact then false
          else
            -- compare 2·|x| with the sum of the neighbours; a tie takes the code with even f
            match (v.scale 1).cmp ((mag lo).add (mag (lo + 1))) with
            | .lt => false
            | .gt => true
            | .eq => lo % 2 == 1
      let code := if above then lo + 1 else lo
      if above && lo == 31 then
        (if ovf then 32 else if s then 63 else 31, fOF ||| fNX)
      else
        let tiny := lo == 0
        (if code == 0 then 0 else if s then 32 + code else code,
          flagIf (!exact) fNX ||| flagIf (!exact && tiny) fUF)

/-- The overflow mode of a destination (R273). -/
def ovfModeOf (f : Fmt) (o : Ovf) : OvfMode :=
  match f with
  | .e4m3 | .e5m2 | .mxfp4 => if o == .ovf then .infinite else .saturate
  | _ => .ieee

/-- Round a value into a non-block element format (R119 to R122). Integers take OVF as given: `wrap` for
.wrap, otherwise clamped. -/
def roundElem (f : Fmt) (r : Rnd) (o : Ovf) (wrapInt : Bool) (x : Num) : Nat × FlagSet :=
  match fpOf f with
  | some p => roundNum p (ovfModeOf f o) r x
  | none => numToInt r (fmtSigned f) (fmtBits f) wrapInt x

end Sys2Proof.Machine
end

