-- ==== Sys2Proof/Machine/Ops.lean ====
section
/-! DEFINITION. Named operations over the state: registers, cores and contexts, the local store and its
full/empty words, the homes of global memory and a context's view of them, waits and wakes, the end of a
warrant, and taking and leaving a trap. -/

namespace Sys2Proof.Machine

open Sys2Proof

/-! ## Trap causes (R319) -/

/-- The word length class is reserved. -/
def cEncLength : BitVec 16 := 0x0001
/-- The major is reserved. -/
def cEncMajor : BitVec 16 := 0x0002
/-- A minor-type field holds an unlisted value. -/
def cEncMinor : BitVec 16 := 0x0003
/-- A reserved field or a value limit. -/
def cEncReserved : BitVec 16 := 0x0004
/-- A core operand, scope word or rectangle is out of range. -/
def cScope : BitVec 16 := 0x0005
/-- Extents, overlaps, VMAP ranges. -/
def cShape : BitVec 16 := 0x0006
/-- A descriptor's format. -/
def cFormat : BitVec 16 := 0x0007
/-- A descriptor's space. -/
def cSpace : BitVec 16 := 0x0008
/-- An instruction of the control context in a helper; TRAPRET outside a handler. -/
def cContext : BitVec 16 := 0x0009
/-- STOP without debug permission. -/
def cDebug : BitVec 16 := 0x000A
/-- A window word that breaks R320. -/
def cWindow : BitVec 16 := 0x000B
/-- Misalignment. -/
def cAlign : BitVec 16 := 0x0010
/-- A clear tag, or a set tag under a predicate write. -/
def cTag : BitVec 16 := 0x0011
/-- A seal. -/
def cSeal : BitVec 16 := 0x0012
/-- A missing permission. -/
def cPerm : BitVec 16 := 0x0013
/-- Out of bounds. -/
def cBounds : BitVec 16 := 0x0014
/-- Translation. -/
def cPage : BitVec 16 := 0x0015
/-- An empty descriptor. -/
def cDesc : BitVec 16 := 0x0018
/-- A well base outside the partition. -/
def cWellBound : BitVec 16 := 0x0019
/-- WELLW while another launch of the warrant runs on the die. -/
def cWellBusy : BitVec 16 := 0x001A
/-- TRAP. -/
def cProg : BitVec 16 := 0x0020
/-- A pinned claim that does not fit. -/
def cRamp : BitVec 16 := 0x0021
/-- Second mismatch under checked dispatch. -/
def cCheck : BitVec 16 := 0x0022
/-- No free helper record. -/
def cCisternFull : BitVec 16 := 0x0023
/-- A register fault. -/
def cRegFault : BitVec 16 := 0x0024
/-- Consumption of an uncorrectable error. -/
def cUncorr : BitVec 16 := 0x0025
/-- A helper identifier that names no fitting helper. -/
def cHid : BitVec 16 := 0x0026
/-- VMAP beyond the grant. -/
def cGrant : BitVec 16 := 0x0027
/-- VMAP over a mapped page. -/
def cMapped : BitVec 16 := 0x0028
/-- A handle that names no usable warrant. -/
def cWarrant : BitVec 16 := 0x0029
/-- A counter outside the allowed events. -/
def cCtrDeny : BitVec 16 := 0x002A
/-- The asynchronous trap of the fault ring. -/
def cHelperFault : BitVec 16 := 0x002B
/-- A stop fired. -/
def cStopped : BitVec 16 := 0x002C

/-! ## Registers (R12, R194) -/

/-- The 128 bits of register `n`; g0 reads as zero. -/
def Ctx.reg (c : Ctx) (n : Reg) : W128 := if n = 0 then 0 else c.regs.get n
/-- The tag of register `n`; g0's is clear. -/
def Ctx.tag (c : Ctx) (n : Reg) : Bool := if n = 0 then false else c.tags.getLsbD n.val
/-- The register line g8k to g8k+7 of a register (R44). -/
def lineOf (n : Reg) : BitVec 4 := 1 <<< (n.val / 8)
/-- Write register `n` and its tag; a write of g0 is discarded. The line becomes dirty (R49). -/
def Ctx.put (c : Ctx) (n : Reg) (v : W128) (t : Bool) : Ctx :=
  if n = 0 then c
  else { c with
    regs := c.regs.set n.val v n.isLt,
    tags := if t then c.tags ||| ((1 : BitVec 32) <<< n.val) else c.tags &&& ~~~((1 : BitVec 32) <<< n.val),
    dirty := c.dirty ||| lineOf n }

/-- SetInt of R194 on a context. -/
def Ctx.putInt (c : Ctx) (n : Reg) (v : Word) : Ctx := c.put n (v.setWidth 128) false

/-- g[n]: all 128 bits. -/
def State.g (s : State) (n : Reg) : W128 := s.cx.reg n
/-- The tag of g[n]. -/
def State.gtag (s : State) (n : Reg) : Bool := s.cx.tag n
/-- g[n][63:0]. -/
def State.int (s : State) (n : Reg) : Word := (s.g n).setWidth 64
/-- SetCap of R194. -/
def State.setCap (n : Reg) (v : W128) (t : Bool) (s : State) : State := { s with cx := s.cx.put n v t }
/-- SetInt of R194. -/
def State.setInt (n : Reg) (v : Word) (s : State) : State := { s with cx := s.cx.putInt n v }
/-- SetBit of R194: one bit of g[n]; the other bits and the tag stay (R13). -/
def State.setBit (n : Reg) (b : Nat) (v : Bool) (s : State) : State :=
  s.setCap n (if v then s.g n ||| ((1 : W128) <<< b) else s.g n &&& ~~~((1 : W128) <<< b)) (s.gtag n)
/-- Set PC. -/
def State.setPc (v : Word) (s : State) : State := { s with cx.pc := v }

/-! ## Launches, warrants, spaces -/

/-- An address space with nothing in it. -/
def Space.zero : Space :=
  { id := 0, mem := [], tags := [], pages := [], old := [], seq := 0, hist := [], rels := [], syncs := [], imem := [], ipages := [], ipoison := [], objs := [],
    groups := [], gbase := 0, glen := 0, poison := [], lineKeys := [], nic := [] }
/-- A warrant record of zeros. -/
def WarRec.zero : WarRec :=
  { version := 0, mode := 0, cls := 0, debug := false, notBefore := 0, notAfter := 0, serial := 0,
    parent := 0, issuer := 0, binding := 0, digest := 0, width := 0, height := 0, memGib := 0, wellGib := 0,
    share := 0, events := 0, deleg := 0, fgroup := 0, fgsize := 0, rsvZero := true }
/-- No warrant. -/
def Warrant.zero : Warrant :=
  { id := 0, hix := 0, rec_ := WarRec.zero, x0 := 0, y0 := 0, space := 0, parentW := none, holder := none, nested := false,
    child := false, consumed := false, launched := false, code := none, endTick := 0, lseqNext := 0,
    conn := 0, job := 0, key := 0, vi := 0, peeridx := 0, peers := [], memFree := 0, wellMib := 0,
    wellUsed := [], memHeld := 0, stackAt := 0, children := 0, evicted := none }
/-- No launch. -/
def Launch.zero : Launch :=
  { id := 0, war := 0, lseq := 0, ox := 0, oy := 0, px := 0, py := 0, width := 0, height := 0, entry := 0,
    det := false, pinned := false, checked := false, mirror := false, cls := 0, wbase := 0, wsize := 0,
    dep := none, fetch := 0, work := 0, stow := 0, kwords := [], state := .done, tick := 0, granted := [],
    started := [], ended := [], image := [], tails := [], halted := false, base := 0, conn := none, mirrorOf := none, replies := [] }

/-- The launch of an identifier. -/
def State.launchById (s : State) (l : Nat) : Launch := (s.launches.find? (·.id == l)).getD Launch.zero
/-- The warrant of an identifier. -/
def State.warById (s : State) (w : Nat) : Warrant := (s.wars.find? (·.id == w)).getD Warrant.zero
/-- The space of an identifier. -/
def State.spaceById (s : State) (n : Nat) : Space := (s.spaces.find? (·.id == n)).getD Space.zero
/-- The launch that runs on a core. -/
def State.launchOn (s : State) (c : Core) : Launch := s.launchById (c.launch.getD 0)
/-- The launch of the focused core. -/
def State.lau (s : State) : Launch := s.launchOn s.co
/-- The warrant under which the focused core's launch runs. -/
def State.war (s : State) : Warrant := s.warById s.lau.war
/-- The address space of the focused core's launch. -/
def State.space (s : State) : Space := s.spaceById s.war.space
/-- Change one space. -/
def State.modSpace (n : Nat) (f : Space → Space) (s : State) : State :=
  { s with spaces := s.spaces.map (fun x => if x.id == n then f x else x) }
/-- Change one warrant. -/
def State.modWar (n : Nat) (f : Warrant → Warrant) (s : State) : State :=
  { s with wars := s.wars.map (fun x => if x.id == n then f x else x) }
/-- Change one launch. -/
def State.modLaunch (n : Nat) (f : Launch → Launch) (s : State) : State :=
  { s with launches := s.launches.map (fun x => if x.id == n then f x else x) }
/-- Change the space of the focused core's launch. -/
def State.modMySpace (f : Space → Space) (s : State) : State := s.modSpace s.war.space f

/-- The die of a core: four columns of sixteen by two rows of sixteen (R2). -/
def dieOf (core : Nat) : Nat := core % 64 / 16 + 4 * (core / 64 / 16)
/-- x from the launch origin. -/
def Launch.xrel (l : Launch) (core : Nat) : Nat := core % 64 - l.px
/-- y from the launch origin. -/
def Launch.yrel (l : Launch) (core : Nat) : Nat := core / 64 - l.py
/-- The mesh index of launch-relative coordinates. -/
def Launch.coreAt (l : Launch) (x y : Nat) : Nat := (l.px + x) + 64 * (l.py + y)
/-- Whether a core lies in the launch rectangle. -/
def Launch.has (l : Launch) (core : Nat) : Bool :=
  l.px ≤ core % 64 && core % 64 < l.px + l.width && l.py ≤ core / 64 && core / 64 < l.py + l.height
/-- The cores of the launch rectangle in index order. -/
def Launch.cores (l : Launch) : List Nat :=
  (List.range (l.width * l.height)).map (fun i => l.coreAt (i % l.width) (i / l.width))
/-- The core index n of R42: launch-relative coordinates plus the launch's origin in the warrant's rectangle. -/
def Launch.coreIndex (l : Launch) (w : Warrant) (core : Nat) : Nat :=
  (l.yrel core + l.oy) * w.rec_.width + (l.xrel core + l.ox)
/-- A core in R233's register form, from the launch origin. -/
def Launch.form (l : Launch) (core : Nat) : Word :=
  BitVec.ofNat 64 (l.xrel core % 65536 + l.yrel core % 65536 * 65536)
/-- The core that a register value names, if it names one of the launch rectangle (R233). -/
def Launch.target (l : Launch) (v : Word) : Option Nat :=
  let n := v.toNat
  if n / 2 ^ 32 = 0 ∧ n % 65536 < l.width ∧ n / 65536 % 65536 < l.height then
    some (l.coreAt (n % 65536) (n / 65536 % 65536))
  else none

/-! ## Cores and contexts: the focus -/

/-- Put the focused context back among the core's contexts; a free one is nothing. -/
def keepCtx (c : Ctx) (l : List Ctx) : List Ctx := if c.status = .free then l else c :: l
/-- The focused core with all its contexts. -/
def State.packed (s : State) : Core := { s.co with ctxs := keepCtx s.cx s.co.ctxs }
/-- Every core that has ever held anything, with all contexts. -/
def State.allCores (s : State) : List Core := s.packed :: s.cores
/-- Core `id` with all its contexts. -/
def State.coreAt (s : State) (id : Nat) : Core :=
  if s.co.id = id then s.packed else (s.cores.find? (·.id == id)).getD (Core.zero id)
/-- Make core `id` the focused one. -/
def State.focusCore (id : Nat) (s : State) : State :=
  if s.co.id = id then s
  else
    let c := (s.cores.find? (·.id == id)).getD (Core.zero id)
    let rest := s.cores.filter (·.id != id)
    match c.ctxs with
    | [] => { s with cx := Ctx.zero, co := c, cores := rest ++ [s.packed] }
    | x :: xs => { s with cx := x, co := { c with ctxs := xs }, cores := rest ++ [s.packed] }
/-- Make the context that `p` picks the focused one of the focused core; nothing when there is none. -/
def State.focusOn (p : Ctx → Bool) (s : State) : State :=
  if s.cx.status ≠ .free ∧ p s.cx then s
  else
    match s.co.ctxs.find? p with
    | none => s
    | some x => { s with cx := x, co.ctxs := s.co.ctxs.erase x ++ keepCtx s.cx [] }
/-- Focus context `hid` of core `id`. -/
def State.focusCtx (id hid : Nat) (s : State) : State := (s.focusCore id).focusOn (·.hid == hid)
/-- Focus the context that holds slot `k` of core `id`. -/
def State.focusSlot (id k : Nat) (s : State) : State :=
  (s.focusCore id).focusOn (fun c => decide (c.slot = some k))
/-- Whether the focused context is context `hid` of core `id`, alive in the table. -/
def State.at (id hid : Nat) (s : State) : Bool :=
  s.co.id == id && s.cx.hid == hid && s.cx.status != .free
/-- The context `hid` of core `id`. -/
def State.ctxAt (id hid : Nat) (s : State) : Option Ctx := (s.coreAt id).ctxs.find? (·.hid == hid)
/-- Change core `id` (not its contexts). -/
def State.modCore (id : Nat) (f : Core → Core) (s : State) : State :=
  if s.co.id = id then { s with co := f s.co }
  else if s.cores.any (·.id == id) then
    { s with cores := s.cores.map (fun c => if c.id == id then f c else c) }
  else { s with cores := s.cores ++ [f (Core.zero id)] }
/-- Change a context in a list. -/
def modCtxIn (hid : Nat) (f : Ctx → Ctx) (l : List Ctx) : List Ctx :=
  l.map (fun c => if c.hid == hid then f c else c)
/-- Change context `hid` of core `id`. -/
def State.modCtx (id hid : Nat) (f : Ctx → Ctx) (s : State) : State :=
  if s.co.id = id then
    if s.cx.hid = hid ∧ s.cx.status ≠ .free then { s with cx := f s.cx }
    else { s with co.ctxs := modCtxIn hid f s.co.ctxs }
  else { s with cores := s.cores.map (fun c =>
    if c.id == id then { c with ctxs := modCtxIn hid f c.ctxs } else c) }

/-! ## Issue, retire, stall, wait, wake -/

/-- Count an event of the focused core (R334). -/
def State.count (ev : CtrEvent) (s : State) : State :=
  { s with co.counters := Tab.set 0 s.co.counters (eventCode ev) (Tab.get 0 s.co.counters (eventCode ev) + 1) }

/-- The counter event of instructions issued from a slot. -/
def issuedEvent (slot : Option Nat) : CtrEvent := .issued (Fin.ofNat 12 (slot.getD 0))

/-- The bookkeeping of an issue: ISSUEDn (R334), the issue unit's weight for one cycle (R159), RUN at the first issue after activation (R52), the number
of instructions retired since the context started (R437). -/
def State.issue (s : State) : State :=
  let s := s.count (issuedEvent s.cx.slot)
  { s with
    cx.run := if s.cx.fresh then BitVec.ofNat 64 s.tick else s.cx.run,
    cx.fresh := false, cx.retired := s.cx.retired + 1, cx.afterCtrl := false, cx.agreed := false, cx.dropped := false,
    co.weightSum := s.co.weightSum + 300 }

/-- The instruction of `len` bytes retires and PC becomes Next (R194). -/
def State.retire (len : Nat) (s : State) : State :=
  let s := s.issue
  s.setPc (s.cx.pc + BitVec.ofNat 64 len)

/-- The instruction retires and transfers control. -/
def State.jump (target : Word) (s : State) : State := s.issue.setPc target

/-- The context leaves the rotation with WAITK `k` (R38, R47); the instruction has issued and its Next is
`len` bytes on. -/
def State.waitOn (k : BitVec 4) (op : WaitOp) (len : Nat) (s : State) : State :=
  let s := s.issue
  { s with
    cx.status := .waiting, cx.waitk := k, cx.wait := some op, cx.waitSince := s.co.cycle,
    cx.npc := s.cx.pc + BitVec.ofNat 64 len }

/-- The context leaves the rotation before its instruction issues; it issues the instruction again when the
event of `op` arrives. A boundary within its wait is not that directly after a CTRL (R323). -/
def State.waitRe (k : BitVec 4) (op : WaitOp) (s : State) : State :=
  { s with
    cx.status := .waiting, cx.waitk := k, cx.wait := some op, cx.waitSince := s.co.cycle, cx.npc := s.cx.pc,
    cx.afterCtrl := false }

/-- A visit lost to a busy unit or an owned accumulator (R35). -/
def State.accRetry (s : State) : State := s.count .accretry

/-! ## The fault ring (R324) -/

/-- Insert a held fault in the order of TICK, then of slot (R326). -/
def insHeld (r : FaultRec) : List FaultRec → List FaultRec
  | [] => [r]
  | h :: t =>
    if r.tick.toNat < h.tick.toNat ∨ (r.tick = h.tick ∧ r.slot.getD 15 < h.slot.getD 15) then r :: h :: t
    else h :: insHeld r t

/-- A fault record enters the ring at its tail, or is held when the ring holds 64 (R324). -/
def Core.pushFault (r : FaultRec) (c : Core) : Core :=
  if c.ring.length < 64 then { c with ring := c.ring ++ [r], ringNews := true }
  else { c with held := insHeld r c.held }

/-- The fault record of a helper (R324). -/
def faultRec (c : Ctx) (tick : Nat) (kind : BitVec 4) (cause : BitVec 16) (tval fpc pc : Word) : FaultRec :=
  { tval := tval, region := c.region, fpc := fpc, pc := pc, tick := BitVec.ofNat 64 tick, cause := cause,
    hid := c.hid, slot := c.slot, kind := kind }

/-- A parked helper (R324): it keeps the slot that it holds. -/
def Ctx.parkAt (fpc pc : Word) (c : Ctx) : Ctx :=
  { c with status := .parked, wait := none, waitk := 0, fpc := fpc, pc := pc }

/-- The KIND of a fault that waited for the end of its context's wait: CHECK is a fault of its message's instruction (R324, R452). -/
def PendFault.kind (p : PendFault) : BitVec 4 := if p.cause = cCheck then 0 else 1

/-- Where a context stands after such a fault: at its region entry (R56), after CHECK at the message's instruction (R452). -/
def PendFault.pc (p : PendFault) (c : Ctx) : Word := if p.cause = cCheck then p.fpc else c.region

/-- A context that goes back to its region entry counts its outgoing messages and its loads from there (R56, R449, R451, R452). -/
def Ctx.restart (c : Ctx) : Ctx :=
  { c with sent := 0, restarted := true, agreed := false, dropped := false, loads := c.loads0 }

/-! ## Cycles of a core (R34, R159, R334) -/

/-- The full-core weight (R159). -/
def fullMw : Nat := 3300

/-- The cycles from `a` up to `b` in which a unit that is free from cycle `fin` on is busy. -/
def busyCycles (a b fin : Nat) : Nat := min b fin - a

/-- Program weight of the core's units from cycle `a` up to `b`, in mW cycles (R159). -/
def Core.unitWeight (a b : Nat) (c : Core) : Nat :=
  500 * (c.vop.map (fun v => busyCycles a b v.cycles)).getD 0 +
  2000 * (c.mop.map (fun v => busyCycles a b v.cycles)).getD 0 +
  (if c.pumpq.isEmpty then 0 else 300 * (b - a))

/-- Whether the activation queue is empty (R51). -/
def Core.queueEmpty (c : Core) : Bool := c.promoted.isEmpty && c.woken.isEmpty && c.started.isEmpty

/-- The core's cycle count becomes `n`: the counters of R334 that count cycles advance, and so do the weights (R159). -/
def Core.pass (n : Nat) (c : Core) : Core :=
  let k := n - c.cycle
  let cnt := if c.queueEmpty then c.counters
    else Tab.set 0 c.counters 2 (Tab.get 0 c.counters 2 + BitVec.ofNat 64 k)
  let b := min c.ballast k
  let cnt := if b = 0 then cnt else Tab.set 0 cnt 3 (Tab.get 0 cnt 3 + BitVec.ofNat 64 b)
  { c with
    cycle := n, counters := cnt, ballast := c.ballast - k, balSum := c.balSum + fullMw * b,
    weightSum := c.weightSum + c.unitWeight c.cycle n }

/-- The cycles that have passed on a core: those of its visits, and those of the present tick's begin (R34, R167). -/
def State.cyclesOf (c : Core) (s : State) : Nat :=
  let d := s.dies.getD (dieOf c.id) DieSt.reset
  max c.cycle (c.cycBase + (if d.relock.isSome then 0 else d.cur * (s.tick - c.cycTick)))

/-- Core `id` reaches the present tick: what changes now does not count for the cycles before. -/
def State.catchUp (id : Nat) (s : State) : State :=
  let n := s.cyclesOf (s.coreAt id)
  s.modCore id (Core.pass n)

/-- A waiting context becomes ready: resident when it holds a slot, else queued (R49). -/
def Ctx.wakeUp (tick : Nat) (c : Ctx) : Ctx :=
  let c := { c with wait := none, waitk := 0 }
  match c.status with
  | .waiting => { c with status := .resident }
  | .waitingOut => { c with status := .queued, ready := BitVec.ofNat 64 tick, age := 0 }
  | _ => c

/-- Context `hid` of core `id` becomes ready after all that did before, in the band that `f` gives it (R51). -/
def State.enqueue (id hid : Nat) (f : Core → Core) (s : State) : State :=
  let s := s.catchUp id
  let n := (s.coreAt id).readySeq
  (s.modCtx id hid (fun c => { c with readyNo := n })).modCore id (fun k => { f k with readySeq := n + 1 })

/-- A helper that holds no slot takes the fault that waited for the end of its wait: it is parked without a slot (R324). -/
def State.parkOut (id hid : Nat) (p : PendFault) (s : State) : State :=
  match s.ctxAt id hid with
  | none => s
  | some c =>
    let pc := p.pc c
    let s := s.modCtx id hid (fun c => { (c.parkAt p.fpc pc).restart with pend := none })
    s.modCore id (Core.pushFault (faultRec c s.tick p.kind p.cause p.tval p.fpc pc))

/-- The wait of context `hid` of core `id` ends with the effect `f` on it; a helper without a slot enters the
tail of the woken band (R51), or takes the fault that waited (R324). -/
def State.wake (id hid : Nat) (f : Ctx → Ctx) (s : State) : State :=
  match s.ctxAt id hid with
  | none => s
  | some c =>
    let s := s.modCtx id hid (fun c => (f c).wakeUp s.tick)
    if c.status ≠ .waitingOut then s
    else
      match c.pend with
      | none => s.enqueue id hid (fun k => { k with woken := k.woken ++ [hid] })
      | some p => s.parkOut id hid p

/-- The effect of a completed wait on its context: the instruction retires. -/
def Ctx.done (c : Ctx) : Ctx := { c with pc := c.npc }

/-- Wake every context of core `id` whose wait `p` accepts; each issues its instruction again. -/
def State.wakeAll (id : Nat) (p : WaitOp → Bool) (s : State) : State :=
  ((s.coreAt id).ctxs.filter (fun c => match c.wait with
    | some w => p w && (c.status == .waiting || c.status == .waitingOut)
    | none => false)).foldl (fun s c => s.wake id c.hid (fun c => c)) s

/-- Contexts that wait for helpers to end. -/
def isJoin : WaitOp → Bool
  | .join => true
  | _ => false
/-- Contexts that wait for descriptor `d`. -/
def isDesc (d : Nat) : WaitOp → Bool
  | .desc k => k == d
  | _ => false

/-- A count sensor rises by 1, modulo 2^32 (R455). -/
def State.countSensor (id : Nat) (s : State) : State :=
  { s with sensors := Tab.set 0 s.sensors id ((Tab.get 0 s.sensors id + 1) % 2 ^ 32) }

/-! ## Messages and replies -/

/-- A message between cores enters the network behind those sent before (R234, R249). -/
def State.send (m : Msg) (s : State) : State := { s with net := s.net ++ [m] }

/-- A message from the module to an outside party. -/
def State.emit (dest opc : Nat) (tag : Word) (body : List Byte) (s : State) : State :=
  { s with out := s.out ++ [{ dest := dest, opc := opc, tag := tag, body := body }] }

/-! ## The local store -/

/-- The local-store byte address of an access of `sz` bytes at offset `o` in a window (R73). -/
def localAddr (wbase : BitVec 20) (wsize : BitVec 4) (o : Word) (sz : Nat) : Nat :=
  wbase.toNat + (o.toNat - o.toNat % sz) % 2 ^ (wsize.toNat + 12)

/-- Local(o, s) read through the context's window (R73). -/
def State.localRead (s : State) (o : Word) (sz : Nat) : Nat :=
  leNat (Memory.readN s.co.store (localAddr s.cx.wbase s.cx.wsize o sz) sz)

/-- Local(o, s) := v. DESIGN CHOICE (log 107): a context's local stores are performed at issue, in program order also across banks,
whose order R86 leaves open. -/
def State.localWrite (o : Word) (sz : Nat) (v : Nat) (s : State) : State :=
  { s with co.store := Memory.writeN s.co.store (localAddr s.cx.wbase s.cx.wsize o sz) (leBytes sz v) }

/-- The bytes of the context's window at `o`. -/
def State.localBytes (s : State) (o : Word) (sz align : Nat) : List Byte :=
  Memory.readN s.co.store (localAddr s.cx.wbase s.cx.wsize o align) sz

/-- The lines of a list that a store does not cover whole: a store of a whole 64-byte line clears its poison (R448). -/
def unpoison (bytes : Nat → Bool) (l : List Nat) : List Nat :=
  l.filter (fun n => !(List.range 64).all (fun i => bytes (64 * n + i)))

/-- Write bytes into the context's window at `o` aligned down to `align`. -/
def State.localPut (o : Word) (align : Nat) (bs : List Byte) (s : State) : State :=
  let a := localAddr s.cx.wbase s.cx.wsize o align
  { s with
    co.store := Memory.writeN s.co.store a bs,
    co.poison := unpoison (fun b => decide (a ≤ b) && decide (b < a + bs.length)) s.co.poison }

/-- A 32-bit word of a core's store. -/
def Core.word (c : Core) (a : Nat) : W32 := BitVec.ofNat 32 (leNat (Memory.readN c.store a 4))
/-- Write a 32-bit word of a core's store. -/
def Core.setWord (a : Nat) (v : W32) (c : Core) : Core :=
  { c with store := Memory.writeN c.store a (leBytes 4 v.toNat) }

/-- The window of slot 0 of a core, through which remote offsets are taken (R75). -/
def State.slot0Window (s : State) (c : Core) : BitVec 20 × BitVec 4 :=
  match c.ctxs.find? (·.hid == 0) with
  | some x => (x.wbase, x.wsize)
  | none => ((s.launchOn c).wbase, (s.launchOn c).wsize)

/-! ## Full/empty words (R244 to R246) -/

/-- Whether a form's condition holds for the bit. -/
def FeKind.holds (k : FeKind) (full : Bool) : Bool :=
  match k with
  | .llf | .feq | .sle => full
  | .slf => !full

/-- The bit that a form leaves. -/
def FeKind.leaves (k : FeKind) : Bool :=
  match k with
  | .llf | .sle => false
  | .feq | .slf => true

/-- Whether a form writes its word. -/
def FeKind.writes (k : FeKind) : Bool :=
  match k with
  | .slf | .sle => true
  | .llf | .feq => false

/-- Set the full/empty bit of the word at byte address `a`. -/
def Core.setFull (a : Nat) (b : Bool) (c : Core) : Core :=
  { c with full := if b then insNat c.full a else delNat c.full a }

/-- The agent whose effect a full word is, in a deterministic launch (R90). -/
def Core.filler (a : Nat) (c : Core) : Option (Agent × Nat) := (c.fillers.find? (·.1 == a)).map (·.2)
/-- A word is the effect of an agent. -/
def Core.filledBy (a : Nat) (w : Option (Agent × Nat)) (c : Core) : Core :=
  match w with
  | none => c
  | some p => { c with fillers := (a, p) :: c.fillers.filter (·.1 != a) }

/-- Perform a form on the word at `a` whose condition holds; the value read comes back. -/
def Core.fePerform (k : FeKind) (a : Nat) (v : W32) (w : Option (Agent × Nat)) (c : Core) : Core × W32 :=
  let old := c.word a
  let c := if k.writes then (c.setWord a v).filledBy a w else c
  (c.setFull a k.leaves, old)

/-- Serve the queue of the word at `a` from its head, one indivisible act (R246): the core after it, the
waiters left, and the waiters served with the values they read and whose effects these are. -/
def feServe (a : Nat) : List FeWaiter → Core → Core × List FeWaiter × List (FeWaiter × W32 × Option (Agent × Nat))
  | [], c => (c, [], [])
  | w :: t, c =>
    if w.word ≠ a then
      let (c', l, d) := feServe a t c
      (c', w :: l, d)
    else if w.kind.holds (c.full.contains a) then
      let (c1, v) := c.fePerform w.kind a w.val w.by_
      let (c', l, d) := feServe a t c1
      (c', l, (w, v, c.filler a) :: d)
    else (c, w :: t, [])

/-- The register effect of a served own-core waiter. -/
def feDone (v : W32) (c : Ctx) : Ctx :=
  match c.wait with
  | some (.fe .llf rd _) | some (.fe .feq rd _) => (c.putInt rd (v.setWidth 64)).done
  | _ => c.done

/-- The later of two moments of each agent. -/
def noteMoment (p : Agent × Nat) (l : List (Agent × Nat)) : List (Agent × Nat) :=
  match l.find? (·.1 == p.1) with
  | none => p :: l
  | some q => if q.2 < p.2 then p :: l.filter (·.1 != p.1) else l

/-- Context `hid` of core `id` has observed an effect (R90). -/
def State.observe (id hid : Nat) (w : Option (Agent × Nat)) (s : State) : State :=
  match w with
  | none => s
  | some p => s.modCtx id hid (fun c => { c with seen := noteMoment p c.seen })

/-- Tell a served waiter: an own context becomes ready, a remote one gets a reply (R248). -/
def State.feTell (id : Nat) (w : FeWaiter) (v : W32) (by_ : Option (Agent × Nat)) (s : State) : State :=
  if w.own then (s.observe id w.hid by_).wake id w.hid (feDone v)
  else s.send { launch := (s.coreAt id).launch.getD 0, src := id, srcHid := w.hid, dst := w.src,
                payload := .reply (v.setWidth 64) false false, by_ := by_ }

/-- The word at `a` of core `id` has changed its bit: serve its queue (R246). -/
def State.feService (id a : Nat) (s : State) : State :=
  let c := s.coreAt id
  let (c', l, d) := feServe a c.waiters c
  let s := s.modCore id (fun k => { k with store := c'.store, full := c'.full, fillers := c'.fillers, waiters := l })
  d.foldl (fun s p => s.feTell id p.1 p.2.1 p.2.2) s

/-- A waiter joins its word's queue: at its end, in a deterministic launch before the waiters of the word with greater keys (R246). -/
def insKeyed (det : Bool) (w : FeWaiter) : List FeWaiter → List FeWaiter
  | [] => [w]
  | x :: t => if det && x.word == w.word && decide (w.key < x.key) then w :: x :: t else x :: insKeyed det w t

/-- A full/empty operation reaches the word at `a` of core `id`: performed at once (some value) with the
queue served, or not performed (none) (R246). -/
def State.feArrive (id a : Nat) (k : FeKind) (v : W32) (w : Option (Agent × Nat)) (s : State) : State × Option W32 :=
  let c := s.coreAt id
  if k.holds (c.full.contains a) then
    let (c', old) := c.fePerform k a v w
    let s := s.modCore id (fun x => { x with store := c'.store, full := c'.full, fillers := c'.fillers })
    (if k.leaves == c.full.contains a then s else s.feService id a, some old)
  else (s, none)

/-! ## Homes of global memory (R78, R91) -/

/-- The aligned 16-byte granules that `n` bytes at `a` touch. -/
def granules (a n : Nat) : List Nat :=
  if n = 0 then [] else (List.range ((a + n - 1) / 16 - a / 16 + 1)).map (fun i => (a / 16 + i) * 16)

/-- The granule tag at the home. -/
def Space.tagAt (sp : Space) (a : Nat) : Bool := sp.tags.contains (a / 16 * 16)

/-- One byte write at its home takes its place in the location's order (R91). -/
def Space.putByte (w : Agent) (atomic : Bool) (sp : Space) (a : Nat) (b : Byte) : Space :=
  { sp with
    hist := { seq := sp.seq + 1, by_ := w, atomic := atomic, addr := a, old := Memory.read sp.mem a, oldTag := sp.tagAt a } :: sp.hist,
    mem := Memory.write sp.mem a b }

/-- Write bytes at their homes as one event of agent `w`; `tag` is the granule tag that STC writes, every other store
clears the tags of the granules it touches (R78). -/
def Space.storeBy (w : Agent) (atomic : Bool) (a : Nat) (bs : List Byte) (tag : Bool) (sp : Space) : Space :=
  let sp := (bs.foldl (fun (p : Space × Nat) b => (p.1.putByte w atomic p.2 b, p.2 + 1)) (sp, a)).1
  { sp with
    seq := sp.seq + 1,
    tags := if tag then insNat sp.tags (a / 16 * 16) else (granules a bs.length).foldl delNat sp.tags,
    poison := unpoison (fun b => decide (a ≤ b) && decide (b < a + bs.length)) sp.poison }

/-- A plain store of agent `w`. -/
def Space.store (w : Agent) (a : Nat) (bs : List Byte) (tag : Bool) (sp : Space) : Space := sp.storeBy w false a bs tag

/-- Write bytes at listed addresses at their homes as one event; the tags of their granules clear (R78, R97). -/
def Space.storeMany (w : Agent) (l : List (Nat × Byte)) (sp : Space) : Space :=
  let sp := l.foldl (fun sp p => sp.putByte w false p.1 p.2) sp
  { sp with
    seq := sp.seq + 1,
    tags := l.foldl (fun t p => delNat t (p.1 / 16 * 16)) sp.tags,
    poison := unpoison (fun b => l.any (·.1 == b)) sp.poison }

/-- The byte that a location held, and the tag that its granule held, at the home at moment `n` (R78, R88). -/
def homeAt (sp : Space) (n a : Nat) : Byte × Bool :=
  (sp.hist.takeWhile (fun h => decide (n < h.seq))).foldl
    (fun v h => (if h.addr = a then h.old else v.1, if h.addr / 16 = a / 16 then h.oldTag else v.2))
    (Memory.read sp.mem a, sp.tagAt a)

/-! ## Scopes (R84, R85, R88, R90) -/

/-- The code of the narrowest scope of R84 that holds two agents: 0 core, 1 rect, 2 pkg, 3 fab. A scope covers an agent, from the
point of view of another, when its code is at least this. -/
def scopeBetween (a b : Agent) : Nat :=
  if a.launch = 0 ∨ b.launch = 0 then 3 else if a.core = b.core then 0 else if a.launch = b.launch then 1 else 2

/-- Whether a write must be seen by context `c`, the agent `me`: its own write; else an atomic before its snapshot point, or a write released
before that point at a scope that covers it (R84, R86, R88). In a deterministic launch, whose base is `det`, instead a write of another
launch before the launch began, or one of an agent's release that happens before (R90, R436, R438). DEDUCED (log 111). -/
def Space.certain (sp : Space) (det : Option Nat) (me : Agent) (c : Ctx) (h : HistRec) : Bool :=
  (h.by_ == me && decide (c.born < h.seq)) ||
  match det with
  | some base => (h.by_.launch != me.launch && decide (h.seq ≤ base)) || c.hb.any (fun p => p.1 == h.by_ && decide (h.seq ≤ p.2))
  | none =>
    (h.atomic && decide (h.seq ≤ c.snap.get 0)) ||
    sp.rels.any (fun r => r.by_ == h.by_ && decide (r.lo ≤ h.seq) && decide (h.seq ≤ r.hi) && decide (scopeBetween me h.by_ ≤ r.scope) &&
      decide (r.hi ≤ c.snap.get 0))

/-- The moment of the latest write of a list of locations that the context must see. -/
def Space.certainAt (sp : Space) (det : Option Nat) (me : Agent) (c : Ctx) (at_ : Nat → Bool) : Nat :=
  ((sp.hist.find? (fun h => at_ h.addr && sp.certain det me c h)).map (·.seq)).getD 0

/-- The base of a deterministic launch. -/
def Launch.detBase (l : Launch) : Option Nat := if l.det then some l.base else none

/-- The agent whose write a location holds, with the moment of the write (R90). -/
def Space.writerOf (sp : Space) (upto : Nat) (at_ : Nat → Bool) : Option (Agent × Nat) :=
  (sp.hist.find? (fun h => at_ h.addr && decide (h.seq ≤ upto))).map (fun h => (h.by_, h.seq))

/-- A release of a deterministic launch takes a moment of its own (R90). -/
def Space.sync (det : Bool) (w : Agent) (scope : Nat) (hb : List (Agent × Nat)) (sp : Space) : Space :=
  if det then { sp with seq := sp.seq + 1, syncs := { by_ := w, scope := scope, at_ := sp.seq + 1, hb := hb } :: sp.syncs } else sp

/-- The latest release of agent `p` before its effect of moment `m` whose scope is at least `k`, with what happens before it (R90). The releases
of agents outside the deterministic launches are those of R84 alone. -/
def Space.releaseBefore (sp : Space) (p : Agent) (m k : Nat) : Option (Nat × List (Agent × Nat)) :=
  match sp.syncs.find? (fun r => r.by_ == p && decide (r.at_ ≤ m) && decide (k ≤ r.scope)) with
  | some r => some (r.at_, r.hb)
  | none => (sp.rels.find? (fun r => r.by_ == p && decide (r.hi ≤ m) && decide (k ≤ r.scope))).map (fun r => (r.hi, []))

/-- The releases that happen before an acquire of agent `me` at a scope (R90): of each agent of which it has observed an effect, the latest release
before that effect whose scope covers `me`, if the acquire's scope covers the agent, and what happens before that release. -/
def Space.synced (sp : Space) (me : Agent) (scope : Nat) (seen hb : List (Agent × Nat)) : List (Agent × Nat) :=
  seen.foldl (fun hb p =>
    let k := scopeBetween me p.1
    if scope < k then hb
    else
      match sp.releaseBefore p.1 p.2 k with
      | none => hb
      | some r => r.2.foldl (fun l q => noteMoment q l) (noteMoment (p.1, r.1) hb)) hb

/-- A release by an agent that began at `born`, at a scope, of what has reached its homes. -/
def Space.released (w : Agent) (born scope : Nat) (sp : Space) : Space :=
  if sp.hist.any (fun h => h.by_ == w && decide (born < h.seq)) then
    { sp with rels := { by_ := w, scope := scope, lo := born + 1, hi := sp.seq } :: sp.rels }
  else sp

/-- Context `hid` of core `c` as an agent; a mirror counts to the launch of its primary (R84). -/
def Core.agent (c : Core) (hid : Nat) : Agent := ⟨(c.primary.or c.launch).getD 0, c.id, hid⟩
/-- The focused context as an agent. -/
def State.me (s : State) : Agent := s.co.agent s.cx.hid
/-- The focused context of a deterministic launch, with the moment of an effect that it produces now (R90). -/
def State.stamp (s : State) : Option (Agent × Nat) := if s.lau.det then some (s.me, s.space.seq) else none
/-- The outside as an agent. -/
def Agent.outside : Agent := ⟨0, 0, 0⟩

/-- The byte that the newest covering record of a view holds. -/
def viewByte : List ViewRec → Nat → Option Byte
  | [], _ => none
  | r :: t, a =>
    if r.addr ≤ a ∧ a < r.addr + r.data.length then r.data[a - r.addr]? else viewByte t a

/-- The granule tag that the newest record touching the granule with a known tag determines. -/
def viewTag : List ViewRec → Nat → Option Bool
  | [], _ => none
  | r :: t, gr =>
    if r.tag.isSome ∧ r.addr < gr + 16 ∧ gr < r.addr + r.data.length then r.tag else viewTag t gr

/-- Every plain store of an agent not yet carried home goes home, oldest first (R87, R91). -/
def releaseView (w : Agent) (v : List ViewRec) (sp : Space) : Space :=
  v.reverse.foldl (fun sp r =>
    if r.kind = .unreleased then sp.store w r.addr r.data (r.tag.getD false) else sp) sp

/-- The records of a view after its release. -/
def releasedView (v : List ViewRec) : List ViewRec :=
  v.map (fun r => if r.kind = .unreleased then { r with kind := .released } else r)

/-- The stores of the focused context reach their homes, with no release (R330). -/
def State.carryAll (s : State) : State :=
  let s' := s.modMySpace (releaseView s.me s.cx.view)
  { s' with cx.view := releasedView s.cx.view }

/-- Release at a scope by the focused context (R84, R87): its stores reach their homes and become certain for the agents that
the scope covers. -/
def State.release (scope : Nat) (s : State) : State :=
  let s' := s.modMySpace (fun sp =>
    ((releaseView s.me s.cx.view sp).sync s.lau.det s.me scope s.cx.hb).released s.me s.cx.born scope)
  { s' with cx.view := releasedView s.cx.view }

/-- The context after an acquire at a scope: of its view only stores not yet released stay, the scope and those within it have a new
snapshot point, and more may happen before it (R84, R88, R90). -/
def Ctx.acquired (scope : Nat) (me : Agent) (sp : Space) (c : Ctx) : Ctx :=
  { c with
    view := c.view.filter (fun r => decide (r.kind = .unreleased)),
    snap := Vector.ofFn (fun i => if i.val ≤ scope then sp.seq else c.snap.get i),
    hb := sp.synced me scope c.seen c.hb }

/-- Acquire by the focused context: a new snapshot point (R88). -/
def State.acquire (scope : Nat) (s : State) : State := { s with cx := s.cx.acquired scope s.me s.space }

/-- Acquire by context `hid` of core `id`. -/
def State.acquireAt (scope id hid : Nat) (s : State) : State :=
  let k := s.coreAt id
  s.modCtx id hid (Ctx.acquired scope (k.agent hid) (s.spaceById (s.warById (s.launchOn k).war).space))

/-- Release by context `hid` of core `id`. -/
def State.releaseAt (scope id hid : Nat) (s : State) : State :=
  match s.ctxAt id hid with
  | none => s
  | some c =>
    let k := s.coreAt id
    let s := s.modSpace (s.warById (s.launchOn k).war).space
      (fun sp => ((releaseView (k.agent hid) c.view sp).sync (s.launchOn k).det (k.agent hid) scope c.hb).released (k.agent hid) c.born scope)
    s.modCtx id hid (fun c => { c with view := releasedView c.view })

/-- The 64-byte lines with unreleased stores of a view, oldest first. -/
def openLines (v : List ViewRec) : List Nat :=
  (v.reverse.filter (fun r => decide (r.kind = .unreleased))).foldl
    (fun l r => (granules r.addr r.data.length).foldl (fun l g => if l.contains (g / 64) then l else l ++ [g / 64]) l) []

/-- The bytes of a record that lie in a 64-byte line. -/
def clipLine (line : Nat) (r : ViewRec) : Option ViewRec :=
  let lo := max r.addr (line * 64)
  let hi := min (r.addr + r.data.length) (line * 64 + 64)
  if lo < hi then some { r with addr := lo, data := (r.data.drop (lo - r.addr)).take (hi - lo) } else none

/-- An ended context's unreleased lines reach their homes whole or not at all, each as the outside decides
(R330, R350). `p` is the number of the first decision. -/
def dropView (w : Agent) (v : List ViewRec) (p : Nat) (sp : Space) : Space :=
  ((openLines v).foldl (fun (q : Space × Nat) line =>
    (if Config.lineSurvives q.2 then releaseView w (v.filterMap (clipLine line)) q.1 else q.1, q.2 + 1)) (sp, p)).1

/-! ## Pages that are freed (R448) -/

/-- The bytes that a mapping covers. -/
def PageMap.size (p : PageMap) : Nat := if p.big then 0x200000 else 0x10000

/-- The 64 KiB pages of a list of mappings that hold two or more poisoned lines. -/
def Space.spoiled (sp : Space) (l : List PageMap) : Nat :=
  (l.map (fun p => ((List.range (p.size / 0x10000)).filter (fun i =>
    decide (2 ≤ (sp.poison.filter (fun n => n * 64 / 0x10000 == p.base / 0x10000 + i)).length))).length)).sum

/-- Pages of a space are freed: those with two or more poisoned lines are retired (R448). -/
def State.freePages (sid : Nat) (l : List PageMap) (s : State) : State :=
  let n := (s.spaceById sid).spoiled l
  let s := s.modSpace sid (fun sp => { sp with
    poison := sp.poison.filter (fun n => !l.any (fun p => decide (p.base ≤ n * 64) && decide (n * 64 < p.base + p.size))) })
  { s with retired := s.retired + n }

/-! ## Footprints of descriptors (R135, R145) and what pump operations write (R302) -/

/-- Extent of dimension `k`; 1 above RANK (R135). -/
def Desc.ext (d : Desc) (k : Nat) : Nat :=
  if k ≤ d.rank.toNat then
    (match k with | 0 => d.ext0.toNat | 1 => d.ext1.toNat | 2 => d.ext2.toNat | _ => d.ext3.toNat) + 1
  else 1
/-- Stride of dimension `k` from 1 up. -/
def Desc.stride (d : Desc) (k : Nat) : Nat :=
  match k with | 1 => d.str1.toNat | 2 => d.str2.toNat | _ => d.str3.toNat
/-- The four extents. -/
def Desc.exts (d : Desc) : List Nat := [d.ext 0, d.ext 1, d.ext 2, d.ext 3]
/-- The element count N (R264). -/
def Desc.count (d : Desc) : Nat := d.ext 0 * d.ext 1 * d.ext 2 * d.ext 3
/-- Bits of an element. -/
def Desc.w (d : Desc) : Nat := fmtBits d.fmt
/-- The byte offset of a row; dimensions above RANK add nothing. -/
def Desc.rowOff (d : Desc) (i1 i2 i3 : Nat) : Nat := i1 * d.stride 1 + i2 * d.stride 2 + i3 * d.stride 3
/-- Where the indices of a compressed column at byte `a` begin: the next 64-byte boundary after its kept values,
two for each group of four (R145). -/
def Desc.sparseIdx (d : Desc) (a : Nat) : Nat := ceilDiv (a + ceilDiv (d.ext 0 / 2 * d.w) 8) 64 * 64

/-- The bytes of one row or column along dimension 0 that starts at byte `a` (R135, R145). -/
def Desc.rowLen (d : Desc) (a : Nat) : Nat :=
  if d.sparse then d.sparseIdx a + ceilDiv (d.ext 0 / 4) 2 - a else ceilDiv (d.ext 0 * d.w) 8

/-- The byte rows of a footprint: start and length (R135). -/
def Desc.rows (d : Desc) (base : Nat) : List (Nat × Nat) :=
  (List.range (d.ext 1 * d.ext 2 * d.ext 3)).map (fun r =>
    let a := base + d.rowOff (r % d.ext 1) (r / d.ext 1 % d.ext 2) (r / (d.ext 1 * d.ext 2))
    (a, d.rowLen a))

/-- The byte addresses of a list of byte rows. -/
def rowBytes (l : List (Nat × Nat)) : List Nat := l.flatMap (fun r => (List.range r.2).map (r.1 + ·))

/-- Whether a kind is a fill, which writes a back buffer (R302). -/
def PumpKind.fills : PumpKind → Bool
  | .xcopy | .tld _ | .wld _ => true
  | .drain | .wellw => false
/-- The space that an operation writes. -/
def PumpOp.space (o : PumpOp) : DSpace := if o.kind.fills then o.dst.bspace else o.dst.fspace
/-- The base that an operation writes over. -/
def PumpOp.base (o : PumpOp) : Nat := if o.kind.fills then o.dst.back.toNat else o.dst.front.toNat
/-- The byte rows that an operation writes. -/
def PumpOp.rows (o : PumpOp) : List (Nat × Nat) := o.dst.rows o.base
/-! ## Undefined values of abandoned operations (R59, R148, R269, R417) -/

/-- Free values into bytes that an abandoned operation leaves undefined, drawn from number `p` on (R59, R148,
R269). -/
def freeBytes (p : Nat) (as : List Nat) (m : Memory) : Memory :=
  m.writeAt (as.zipIdx.map (fun a => (a.1, Config.freeByte (p + a.2))))

/-- A free value, drawn as number `p`, into each of a list of accumulator elements (R59, R417). -/
def freeTile (p : Nat) (as : List Nat) (t : Tab W32) : Tab W32 :=
  as.zipIdx.foldl (fun t a => Tab.set 0 t a.1 (Config.freeWord (p + a.2))) t

/-- The well partition of a warrant on a die. -/
def State.wellOf (s : State) (war die : Nat) : Memory :=
  ((s.wells.find? (fun w => w.1 == war && w.2.1 == die)).map (·.2.2)).getD []

/-- Replace the well partition of a warrant on a die. -/
def State.setWell (war die : Nat) (m : Memory) (s : State) : State :=
  { s with wells := (war, die, m) :: s.wells.filter (fun w => !(w.1 == war && w.2.1 == die)) }

/-- The local bytes, the accumulator elements and the well bytes that core `c`'s operations in flight would have written are
undefined, and so are the bytes of this module that its DRAINs would have stored to (R59). -/
def State.voidOps (c : Core) (s : State) : State :=
  let pump (sp : DSpace) : List Nat := (c.pumpq.filter (fun o => o.space == sp)).flatMap (fun o => rowBytes o.rows)
  let dest := ((c.vop.map (fun v => v.dest)).getD [] ++ (c.mop.map (fun v => v.dest)).getD []) ++ pump .loc
  let acc := ((c.mop.map (fun v => v.writes)).getD []).map (·.1)
  let well := pump .well
  let war := (s.launchOn c).war
  let p := s.picks
  let s := s.modCore c.id (fun k => { k with
    store := freeBytes p dest k.store, acc := freeTile (p + dest.length) acc k.acc })
  let s := if well.isEmpty then s
    else s.setWell war (dieOf c.id) (freeBytes (p + dest.length + acc.length) well (s.wellOf war (dieOf c.id)))
  let p := p + dest.length + acc.length + well.length
  let glob := (c.pumpq.filter (fun o => o.kind == .drain && !o.stored)).flatMap (fun o => rowBytes o.rows)
  let s := s.modSpace (s.warById war).space (fun sp =>
    let own (a : Nat) : Bool := a / 2 ^ 62 == 0 || a / 2 ^ 48 % 2 ^ 14 == (s.warById war).peeridx
    let l := ((glob.zipIdx.filter (fun a => own a.1)).map (fun a => (a.1 % 2 ^ 48, Config.freeByte (p + a.2)))).filter
      (fun x => sp.pages.any (fun g => decide (g.base ≤ x.1) && decide (x.1 < g.base + g.size)))
    if l.isEmpty then sp else sp.storeMany (c.agent 0) l)
  { s with picks := p + glob.length }

/-! ## The end of a warrant (R350) -/

/-- Nothing runs on the core any more; its stores stay as they are, and so does a declaration until its window ends (R315). -/
def Core.halt (c : Core) : Core :=
  { c with
    launch := none, ctxs := [], waiters := [], ring := [], held := [], ringNews := false, stops := [],
    promoted := [], woken := [], started := [], lru := [], wbq := [], vop := none, mop := none, pumpq := [], fills := [],
    mmr := [], coll := [], fillers := [], primary := none, last := none, request := none }

/-- The unreleased lines of all contexts of a core meet their fate. -/
def State.dropCore (c : Core) (s : State) : State :=
  let sid := (s.warById (s.launchOn c).war).space
  c.ctxs.foldl (fun s x =>
    let s' := s.modSpace sid (dropView (c.agent x.hid) x.view s.picks)
    { s' with picks := s.picks + (openLines x.view).length }) s

/-- The launches of warrant `w`. -/
def State.launchesOf (s : State) (w : Nat) : List Nat := (s.launches.filter (·.war == w)).map (·.id)

/-- The core's router drops the messages that it holds for launches that have ended. -/
def Core.drop (ls : List Nat) (c : Core) : Core := { c with heldMsgs := c.heldMsgs.filter (fun m => !ls.contains m.launch) }

/-- Stop every core on which a launch of the list runs. -/
def State.haltLaunches (ls : List Nat) (s : State) : State :=
  let s := (s.allCores.filter (fun c => c.launch.any ls.contains)).foldl (fun s c => (s.dropCore c).voidOps c) s
  let s := { s with
    cores := s.cores.map (fun (c : Core) => let c := c.drop ls; if c.launch.any ls.contains then c.halt else c),
    co := s.co.drop ls,
    net := s.net.filter (fun m => !ls.contains m.launch),
    rounds := s.rounds.filter (fun r => !(ls.map (2 * ·)).contains r.owner) }
  if s.co.launch.any ls.contains then { s with cx := Ctx.zero, co := s.co.halt } else s

/-- The memory of the module's grants that warrant `w` holds, in 64 KiB units. -/
def Warrant.memUnits (w : Warrant) : Nat := w.rec_.memGib * 16384

/-- ENDED on the admitting connection (R393, R396). -/
def endedBody (w : Warrant) (code : BitVec 8) (tick : Nat) : List Byte :=
  leBytes 4 w.job ++ [code, 0, 0, 0] ++ leBytes 8 tick

/-- What a child holds itself returns to its parent while that runs and WDELEG has not consumed it, what any other warrant holds to the module
(R346 to R348, R410): the memory that its own children still hold stays theirs. A STANDBY warrant that ends evicted keeps its memory and well until the
next module reset (R410). -/
def State.giveBack (w : Warrant) (code : BitVec 8) (s : State) : State :=
  if code = 0x42 ∨ w.consumed then s
  else
    let p := w.parentW.getD 0
    if w.child ∧ (s.warById p).code.isNone ∧ !(s.warById p).consumed then
      s.modWar p (fun x => { x with memFree := x.memFree + w.memHeld, memHeld := x.memHeld + w.memHeld, wellMib := x.wellMib + w.wellMib })
    else { s with memUsed := s.memUsed - w.memHeld }

/-- What the launches of an ended warrant released is complete at its homes: whatever the scope, it counts as released at fab (R458). -/
def Space.settled (ls : List Nat) (sp : Space) : Space :=
  { sp with
    rels := sp.rels.map (fun (r : RelRec) => if ls.contains r.by_.launch then { r with scope := 3 } else r),
    syncs := sp.syncs.map (fun (r : SyncRec) => if ls.contains r.by_.launch then { r with scope := 3 } else r) }

/-- Termination of warrant `wid` with a code of R342: its contexts stop, long operations are abandoned, no
release happens, resources return, ENDED is sent (R350, R396). A warrant that has ended keeps its code; the pending entry of one that
was only reserved goes (R400). -/
def State.terminate (wid : Nat) (code : BitVec 8) (s : State) : State :=
  let w := s.warById wid
  if w.code.isSome ∨ w.id ≠ wid then s
  else
    let ls := s.launchesOf wid
    let s := s.haltLaunches ls
    let s := { s with
      redeem := s.redeem.filter (fun e => w.child || !(e.pending && e.serial == w.rec_.serial)),
      rounds := s.rounds.filter (·.owner != 2 * wid + 1), launches := s.launches.map (fun (l : Launch) => if l.war == wid then { l with state := .done, image := [], tails := [] } else l) }
    let sp := s.spaceById w.space
    let s := s.freePages w.space ((sp.pages ++ sp.old).filter (·.war == wid))
    let s := s.modSpace w.space (fun sp =>
      { sp.settled ls with pages := sp.pages.filter (·.war != wid), old := sp.old.filter (·.war != wid) })
    let s := s.modWar wid (fun x => { x with code := some code, endTick := BitVec.ofNat 64 s.tick })
    let s := s.giveBack w code
    if w.child || w.nested then s else s.emit w.conn 0x85 0 (endedBody w code s.tick)

/-- FAULT_UNHANDLED. -/
def codeFault : BitVec 8 := 0x43
/-- RAMP_VIOLATION. -/
def codeRamp : BitVec 8 := 0x44

/-! ## Traps (R321 to R325) -/

/-- A control context that enters its trap handler; none where it has none to enter (R321). -/
def Ctx.trapped (cause : BitVec 16) (tval epc : Word) (c : Ctx) : Option Ctx :=
  if c.intrap ∨ c.tvec = 0 then none
  else some { c with epc := epc, cause := cause, tval := tval, intrap := true, pc := c.tvec }

/-- The end of a warrant whose control context takes a trap that it cannot handle (R321). -/
def trapCode (cause : BitVec 16) : BitVec 8 := if cause = cRamp then codeRamp else codeFault

/-- TakeTrap(cause, tval, epc) of R321 in the control context. -/
def State.takeTrap (cause : BitVec 16) (tval epc : Word) (s : State) : State :=
  match s.cx.trapped cause tval epc with
  | none => s.terminate s.lau.war (trapCode cause)
  | some c => { s with cx := c }

/-- The focused helper takes a fault of a kind: parked, its record to the ring (R324). -/
def State.park (kind : BitVec 4) (cause : BitVec 16) (tval fpc pc : Word) (s : State) : State :=
  { s with
    cx := s.cx.parkAt fpc pc,
    co := s.co.pushFault (faultRec s.cx s.tick kind cause tval fpc pc) }

/-- A synchronous trap at the focused context's instruction (R188, R321, R324): the PC stays. -/
def State.trap (cause : BitVec 16) (tval : Word) (s : State) : State :=
  let s := { s with cx.agreed := false, cx.dropped := false }
  if s.cx.helper then s.park 0 cause tval s.cx.pc s.cx.pc else s.takeTrap cause tval s.cx.pc

/-- Whether an asynchronous trap of the focused core's control context is pending (R323). -/
def Core.pending (c : Core) : Bool := c.ringNews && !c.ring.isEmpty

/-- Taking HELPERFAULT at an instruction boundary of the focused control context (R323). -/
def State.takeHelperFault (s : State) : State :=
  let n := BitVec.ofNat 64 s.co.ring.length
  ({ s with co.ringNews := false }).takeTrap cHelperFault n s.cx.pc

/-- The return from a trap handler (R322). -/
def State.trapReturn (s : State) : State := { s.issue with cx.intrap := false, cx.pc := s.cx.epc }

/-- A wait that an asynchronous trap or a restart abandons (R56, R323): kinds 2, 3, 5, 6 and WAITW. The waits of CTRSEL and STOP
are of kind 1 (R336, R338). -/
def Ctx.abandonable (c : Ctx) : Bool :=
  match c.wait with
  | some (.fe _ _ _) | some (.send _ _ _) | some (.recv _ _ _) | some .join
  | some (.desc _) | some (.pub _) | some (.waitw _ _ _ _ _ _) => true
  | some .detHold => c.waitk == 2
  | some (.remote _ k _) => decide (k.toNat < 4)
  | some (.check _ _) => c.waitk != 1 && c.waitk != 4
  | _ => false

/-- Whether a message is a full/empty operation or a SEND of context `hid` of core `id`, not yet performed. -/
def Msg.asksFor (id hid : Nat) (m : Msg) : Bool :=
  m.src == id && m.srcHid == hid && (match m.payload with
    | .fe _ _ _ _ | .send _ _ _ => true
    | _ => false)

/-- Whether a waiter is that of context `hid` of core `id` on another core's word. -/
def FeWaiter.ofRemote (id hid : Nat) (w : FeWaiter) : Bool := !w.own && w.src == id && w.hid == hid

/-- Whether the remote full/empty operation or SEND of context `hid` of core `id` has not been performed yet. -/
def State.pendingAsk (id hid : Nat) (s : State) : Bool :=
  s.net.any (Msg.asksFor id hid) ||
  s.allCores.any (fun c => c.heldMsgs.any (Msg.asksFor id hid) || c.waiters.any (FeWaiter.ofRemote id hid))

/-- Whether the wait of context `c` of core `id` is abandoned for a trap or a restart: a full/empty operation or SEND that its
target has already performed ends by its reply (R56, R246, R323). -/
def State.canAbandon (id : Nat) (c : Ctx) (s : State) : Bool :=
  c.abandonable && (match c.wait with
    | some (.remote _ _ _) | some (.send _ _ _) => s.pendingAsk id c.hid
    | _ => true)

/-- The full/empty operation or SEND of context `hid` of core `id` leaves the network, the routers and the queues: no word and no
channel changes (R247, R263, R323). -/
def State.withdraw (id hid : Nat) (s : State) : State :=
  let g (c : Core) : Core :=
    { c with
      heldMsgs := c.heldMsgs.filter (fun m => !m.asksFor id hid),
      waiters := c.waiters.filter (fun w => !w.ofRemote id hid) }
  { s with net := s.net.filter (fun m => !m.asksFor id hid), co := g s.co, cores := s.cores.map g }

/-- Abandon the wait without effect: the PC stays at the waiting instruction, a full/empty waiter leaves its
queue, own or remote, and a SEND appends nothing. -/
def State.abandonWait (s : State) : State :=
  let s := match s.cx.wait with
    | some (.remote _ _ _) | some (.send _ _ _) => s.withdraw s.co.id s.cx.hid
    | _ => s
  { s with
    cx.wait := none, cx.waitk := 0,
    cx.status := if s.cx.status = .waiting then .resident else s.cx.status,
    co.waiters := s.co.waiters.filter (fun w => !(w.own && w.hid == s.cx.hid)) }

/-! ## Uncorrectable errors (R241, R325) -/

/-- The registers of a context, and those of its record, scrubbed by an uncorrectable error (R325). -/
def Ctx.scrub (c : Ctx) : Ctx :=
  { c with
    regs := Vector.replicate 32 0, tags := 0, erred := true,
    saved := { c.saved with regs := Vector.replicate 32 0, tags := 0 } }

/-- An uncorrectable error consumed by the focused context's register write, register line or instruction word (R241, R325, R446). -/
def State.uncorrReg (line : Word) (s : State) : State :=
  if s.cx.helper then
    let s' := s.park 4 cUncorr line s.cx.pc s.cx.pc
    { s' with cx := s'.cx.scrub }
  else s.terminate s.lau.war codeFault

/-- Whether an access of `sz` bytes at offset `o` of the window reads a poisoned line (R446, R448). -/
def State.localBad (s : State) (o : Word) (sz : Nat) : Bool := s.co.poison.contains (localAddr s.cx.wbase s.cx.wsize o sz / 64)

/-- A scalar read of the window: of a poisoned line, the uncorrectable error is consumed (R325, R446). -/
def State.readLocal (o : Word) (sz : Nat) (go : State → State) (s : State) : State :=
  if s.localBad o sz then s.uncorrReg (BitVec.ofNat 64 (localAddr s.cx.wbase s.cx.wsize o sz / 64)) else go s

end Sys2Proof.Machine
end

