-- ==== Sys2Proof/Machine/Operands.lean ====
section
/-! DEFINITION. Operand forms: capabilities and their checks (R215 to R223), window words (R320), global
addresses and accesses (R76 to R93), and the elements of tensor descriptors (R111, R112, R129, R135). -/

namespace Sys2Proof.Machine

open Sys2Proof

/-! ## Capabilities -/

/-- Permission LD. -/
def pLD : Nat := 1
/-- Permission ST. -/
def pST : Nat := 2
/-- Permission LDC. -/
def pLDC : Nat := 4
/-- Permission STC. -/
def pSTC : Nat := 8
/-- Permission AMO. -/
def pAMO : Nat := 16
/-- The permissions of the capabilities that the module creates (R339, R360, R361). -/
def pAll : Nat := 31

/-- The exponent E of a capability; 45 to 63 decode as 44 (R215). -/
def capE (c : Nat) : Nat := min (bits c 111 106) 44
/-- The cursor. -/
def capCursor (c : Nat) : Nat := c % 2 ^ 64
/-- OTYPE. -/
def capOtype (c : Nat) : Nat := bits c 127 124
/-- PERM. -/
def capPerm (c : Nat) : Nat := bits c 123 112

/-- The top of a capability (R217). -/
def capTop (c : Nat) : Nat :=
  let e := capE c
  let tm := bits c 84 64
  let u := ceilDiv (capCursor c) (2 ^ e)
  ((u / 2 ^ 21 + (if u % 2 ^ 21 > tm then 1 else 0)) * 2 ^ 21 + tm) * 2 ^ e

/-- (Tm − Bm) mod 2^21 in bytes: the length (R217). -/
def capSpan (c : Nat) : Nat := ((bits c 84 64 + 2 ^ 21 - bits c 105 85) % 2 ^ 21) * 2 ^ capE c

/-- The base of a capability (R217). -/
def capBase (c : Nat) : Nat := ((((capTop c : Int) - capSpan c) % (2 ^ 64 : Int))).toNat

/-- Whether cursor `a` lies in the representable region of `c` (R217). -/
def capRegion (c a : Nat) : Bool :=
  decide ((capTop c : Int) - (2 ^ (capE c + 21) : Nat) < (a : Int)) && decide (a ≤ capTop c)

/-- The first failing check of R218 for an access of `sz` bytes at `a` with permissions `p`. -/
def capCheck (c : W128) (tag : Bool) (p : Nat) (a : Int) (sz : Nat) : Option (BitVec 16) :=
  let n := c.toNat
  if !tag then some cTag
  else if capOtype n ≠ 0 then some cSeal
  else if capPerm n &&& p ≠ p then some cPerm
  else if a < (capBase n : Int) ∨ a + sz > (capTop n : Int) then some cBounds
  else none

/-- A capability from its fields (R215). -/
def mkCap (otype perm e basem topm cursor : Nat) : W128 :=
  BitVec.ofNat 128 (cursor % 2 ^ 64 + topm % 2 ^ 21 * 2 ^ 64 + basem % 2 ^ 21 * 2 ^ 85 + e % 64 * 2 ^ 106 +
    perm % 4096 * 2 ^ 112 + otype % 16 * 2 ^ 124)

/-- The smallest e of 0 to 44 that CSB's encoding accepts for the range [b, t), searched upward (R221). -/
def csbExp (b t : Nat) : Nat :=
  ((List.range 45).find? (fun e =>
    decide (ceilDiv t (2 ^ e) * 2 ^ e - b / 2 ^ e * 2 ^ e < 2 ^ (e + 21)))).getD 44

/-- The rounded base and top of CSB's encoding (R221). -/
def csbRange (b t : Nat) : Nat × Nat :=
  let e := csbExp b t
  (b / 2 ^ e * 2 ^ e, ceilDiv t (2 ^ e) * 2 ^ e)

/-- The capability with CSB's bounds over [b, t) and cursor `cur` (R221). -/
def csbCap (otype perm b t cur : Nat) : W128 :=
  let e := csbExp b t
  let r := csbRange b t
  mkCap otype perm e (r.1 / 2 ^ e) (r.2 / 2 ^ e) cur

/-- `c` with another cursor, every other field as it was (R220). -/
def withCursor (c : W128) (a : Word) : W128 := BitVec.ofNat 128 (c.toNat / 2 ^ 64 * 2 ^ 64 + a.toNat)

/-- The tag that CSA and CINC leave (R220). -/
def cursorTag (c : W128) (tag : Bool) (a : Word) : Bool :=
  tag && capOtype c.toNat == 0 && capRegion c.toNat a.toNat

/-! ## Window words (R320) -/

/-- Whether a window word is legal. -/
def windowLegal (w : Nat) : Bool :=
  w / 2 ^ 36 == 0 && bits w 31 20 == 0 && bits w 35 32 ≤ 8 && w % 2 ^ 20 % 2 ^ (bits w 35 32 + 12) == 0

/-- WBASE and WSIZE as a window word. -/
def windowWord (base : BitVec 20) (size : BitVec 4) : Word :=
  BitVec.ofNat 64 (base.toNat + size.toNat * 2 ^ 32)

/-! ## Global memory -/

/-- Where a global virtual address leads (R76, R405). -/
inductive Dest where
  | home (a : Nat)
  | peer (idx : Nat)
  | unmapped
  deriving DecidableEq, Repr

/-- Whether a page holds an address. -/
def PageMap.has (p : PageMap) (a : Nat) : Bool := p.base ≤ a && a < p.base + p.size
/-- Whether the page table maps an address. -/
def Space.mapped (sp : Space) (a : Nat) : Bool := sp.pages.any (·.has a)
/-- Whether a TLB entry whose lease runs still translates an address (R79, R80). -/
def Core.tlbHit (c : Core) (tick a : Nat) : Bool :=
  c.tlb.any (fun e => decide (e.base ≤ a) && decide (a < e.base + e.size) && decide (tick < e.till))

/-- Translation of a virtual address (R76, R79, R405). -/
def State.translate (s : State) (va : Nat) : Dest :=
  let kind := va / 2 ^ 62
  let peer := va / 2 ^ 48 % 2 ^ 14
  let off := va % 2 ^ 48
  if (kind = 0 ∧ peer = 0) ∨ (kind = 1 ∧ peer = s.war.peeridx) then
    if s.space.mapped off || s.co.tlbHit s.tick off then .home off else .unmapped
  else if kind = 1 ∧ peer < s.war.rec_.fgsize ∧ (Tab.get PeerEnt.none s.war.peers peer).used then .peer peer
  else .unmapped

/-- A translated page gets a TLB entry with a fresh lease unless one still runs (R79). -/
def State.tlbFill (a : Nat) (s : State) : State :=
  if s.co.tlbHit s.tick a then s
  else
    match s.space.pages.find? (·.has a) with
    | none => s
    | some p =>
      { s with co.tlb := { base := p.base, size := p.size, till := s.tick + s.cfg.lease } ::
                 s.co.tlb.filter (fun e => e.base != p.base) }

/-- The moment of the latest write of one of some locations that the focused context must see (R88, R90). -/
def State.certainAt (s : State) (at_ : Nat → Bool) : Nat := s.space.certainAt s.lau.detBase s.me s.cx at_

/-- Whether a location holds at the home at moment `m` what the view has read of it: its byte and the tag of its granule, where they are
known (R89). -/
def State.agreesAt (s : State) (m a : Nat) : Bool :=
  let h := homeAt s.space m a
  (match s.cx.view.find? (fun r => decide (r.addr ≤ a) && decide (a < r.addr + r.data.length)) with
    | some r => r.kind != .read || r.data[a - r.addr]? == some h.1
    | none => true) &&
  (match s.cx.view.find? (fun r => r.tag.isSome && decide (r.addr < a / 16 * 16 + 16) && decide (a / 16 * 16 < r.addr + r.data.length)) with
    | some r => r.kind != .read || r.tag == some h.2
    | none => true)

/-- The moment whose home values a plain load of `n` bytes at `a` sees, and the number of values drawn: any from the latest write that
must be seen, and from what the context has read of the line, up to now, at which the locations that the phase has read already hold what it
read (R77, R86, R88, R89, R91). -/
def State.moment (a n : Nat) (s : State) : Nat × Nat :=
  let seq := s.space.seq
  let c := s.certainAt (fun b => decide (a ≤ b) && decide (b < a + n))
  if s.lau.det then (c, 0)
  else
    let lo := max c (min seq (Tab.get 0 s.cx.floors (a / 64)))
    let l := ((List.range (seq + 1 - lo)).map (lo + ·)).filter (fun m => (List.range n).all (fun i => s.agreesAt m (a + i)))
    match l with
    | [] => (max lo seq, 0)
    | [m] => (m, 0)
    | _ => (l.getD (Config.viewPick s.picks % l.length) seq, 1)

/-- The byte and the granule tag at a home address that a load whose moment is `m` sees; in deterministic mode the latest that
happens before it (R438). -/
def State.seen (s : State) (m a : Nat) : Byte × Bool :=
  if s.lau.det then
    ((homeAt s.space (s.certainAt (fun b => b == a)) a).1, (homeAt s.space (s.certainAt (fun b => b / 16 == a / 16)) a).2)
  else homeAt s.space m a

/-- What a plain load of `n` bytes at home address `a` returns (R86, R88, R89). -/
def State.viewLoad (a n : Nat) (s : State) : List Byte :=
  let m := (s.moment a n).1
  (List.range n).map (fun i =>
    match viewByte s.cx.view (a + i) with
    | some b => b
    | none => (s.seen m (a + i)).1)

/-- The granule tag that LDC returns (R78, R88). -/
def State.viewLoadTag (a : Nat) (s : State) : Bool :=
  match viewTag s.cx.view (a / 16 * 16) with
  | some t => t
  | none => (s.seen (s.moment a 16).1 a).2

/-- The moment at which an engine's read that drew moment `n` sees a home address: the first from `n` on, if there is one, at which its
granule may be read (R77, R86, R88, R89, R91). -/
def State.engineAt (n : Nat) (s : State) (a : Nat) : Nat :=
  let seq := s.space.seq
  let g := a / 16 * 16
  let lo := max (min seq (Tab.get 0 s.cx.floors (a / 64))) (s.certainAt (fun b => b / 16 == a / 16))
  let l := ((List.range (seq + 1 - lo)).map (lo + ·)).filter (fun m => (List.range 16).all (fun i => s.agreesAt m (g + i)))
  (l.find? (fun m => decide (n ≤ m))).getD (l.getLastD (max lo seq))

/-- A byte of global memory as an engine of the focused context reads it by plain loads (R88, R302), `n` being the moment
drawn. -/
def State.globalByte (n : Nat) (s : State) (a : Nat) : Byte :=
  let a := a % 2 ^ 48
  match viewByte s.cx.view a with
  | some b => b
  | none => (s.seen (s.engineAt n a) a).1

/-- The moment that an engine's read draws. -/
def State.engineMoment (s : State) : Nat := Config.viewPick s.picks % (s.space.seq + 1)

/-- Later accesses of the context to the line of `a` see no moment before `m` (R86, R91). -/
def Ctx.floorAt (a m : Nat) (c : Ctx) : Ctx :=
  { c with floors := Tab.set 0 c.floors (a / 64) (max m (Tab.get 0 c.floors (a / 64))) }

/-- Whether the view already holds every byte of a range. -/
def covered (v : List ViewRec) (a n : Nat) : Bool := (List.range n).all (fun i => (viewByte v (a + i)).isSome)

/-- The load is remembered, so that later loads of the phase return the same (R89). -/
def State.noteRead (a : Nat) (bs : List Byte) (tag : Option Bool) (s : State) : State :=
  if tag.isNone && covered s.cx.view a bs.length then s
  else
    let m := s.moment a bs.length
    { s with
      picks := s.picks + m.2,
      cx := { s.cx.floorAt a m.1 with
        view := { addr := a, data := bs, tag := tag, kind := .read } :: s.cx.view } }

/-- The value that WAITW read at the home of `n` bytes at `a` is what later plain loads of the phase return, where none of them
was read before (R89, R91). -/
def Ctx.noteHome (sp : Space) (a n : Nat) (c : Ctx) : Ctx :=
  let bs := (List.range n).map (fun i => (viewByte c.view (a + i)).getD (Memory.read sp.mem (a + i)))
  let c := c.floorAt a sp.seq
  if covered c.view a n then c else { c with view := { addr := a, data := bs, tag := none, kind := .read } :: c.view }

/-- The unreleased stores of one 64-byte line are carried home, oldest first. -/
def carryLine (w : Agent) (line : Nat) (v : List ViewRec) (sp : Space) : Space :=
  releaseView w (v.filter (fun r => r.addr / 64 == line)) sp

/-- The view after one of its lines was carried home. -/
def carriedView (line : Nat) (v : List ViewRec) : List ViewRec :=
  v.map (fun r => if r.kind = .unreleased ∧ r.addr / 64 = line then { r with kind := .released } else r)

/-- Carry one line of the focused context's stores home (R91, R92). -/
def State.carry (line : Nat) (s : State) : State :=
  let s' := s.modMySpace (carryLine s.me line s.cx.view)
  { s' with cx.view := carriedView line s.cx.view }

/-- A plain store within one 64-byte line: the context's own loads see it at once; it may reach its home
before the release that must carry it there (R88, R90, R237); in a deterministic launch it does so in key order
(R105). -/
def State.viewStore (a : Nat) (bs : List Byte) (tag : Bool) (s : State) : State :=
  let s := { s with
    cx.view := { addr := a, data := bs, tag := some tag, kind := .unreleased } :: s.cx.view,
    picks := s.picks + 1 }
  if s.lau.det || Config.earlyHome (s.picks - 1) then s.carry (a / 64) else s

/-- An atomic act at a home: earlier own stores of the line go first; the new bytes, if any, take their place
in the order at once and are the context's latest value (R92). Gives the old value. -/
def State.atHome (a sz : Nat) (f : Nat → Option Nat) (s : State) : State × Nat :=
  let s := s.carry (a / 64)
  let old := leNat (Memory.readN s.space.mem a sz)
  match f old with
  | none => ({ s with cx := { s.cx.floorAt a s.space.seq with
      view := { addr := a, data := leBytes sz old, tag := none, kind := .read } :: s.cx.view } }, old)
  | some v =>
    let s' := s.modMySpace (Space.storeBy s.me true a (leBytes sz v) false)
    ({ s' with cx := { s'.cx.floorAt a s'.space.seq with view :=
        { addr := a, data := leBytes sz v, tag := some false, kind := .released } :: s'.cx.view } }, old)

/-- F of R253: the atomic operations by number (R185), on `w`-bit values. -/
def amoF (op w old x : Nat) : Nat :=
  let so := intOfBits true w old
  let sx := intOfBits true w x
  match op with
  | 0 => (old + x) % 2 ^ w
  | 1 => old &&& x
  | 2 => old ||| x
  | 3 => old ^^^ x
  | 4 => if so ≤ sx then old else x
  | 5 => if so ≤ sx then x else old
  | 6 => min old x
  | 7 => max old x
  | _ => x

/-- The effective address of a base register and an offset, unbounded (R218). -/
def State.ea (s : State) (base : Reg) (off : Word) : Int := (s.int base).toNat + off.toInt

/-- An address as st.tval holds it. -/
def tvalOf (a : Int) : Word := BitVec.ofInt 64 a

/-! ## Tensor descriptors (R111, R112, R129, R135) -/

/-- The number of the element at indices, in iteration order (R264). -/
def Desc.num (d : Desc) (i0 i1 i2 i3 : Nat) : Nat := i0 + d.ext 0 * (i1 + d.ext 1 * (i2 + d.ext 2 * i3))
/-- The indices of element `e` (R264). -/
def Desc.idx (d : Desc) (e : Nat) : Nat × Nat × Nat × Nat :=
  (e % d.ext 0, e / d.ext 0 % d.ext 1, e / (d.ext 0 * d.ext 1) % d.ext 2,
    e / (d.ext 0 * d.ext 1 * d.ext 2))
/-- The bit address of a stored position over a base (R112, R135). -/
def Desc.bitAddr (d : Desc) (base i0 i1 i2 i3 : Nat) : Nat :=
  (base + d.rowOff i1 i2 i3) * 8 + i0 * d.w

/-- `w` bits at bit address `ba` of a byte source. -/
def readBits (rd : Nat → Byte) (ba w : Nat) : Nat :=
  leNat ((List.range ((ba % 8 + w + 7) / 8)).map (fun i => rd (ba / 8 + i))) / 2 ^ (ba % 8) % 2 ^ w

/-- The bytes that writing `w` bits at bit address `ba` changes. -/
def writeBits (rd : Nat → Byte) (ba w v : Nat) : List (Nat × Byte) :=
  let n := (ba % 8 + w + 7) / 8
  let old := leNat ((List.range n).map (fun i => rd (ba / 8 + i)))
  let lo := old % 2 ^ (ba % 8)
  let hi := old / 2 ^ (ba % 8 + w)
  let x := lo + (v % 2 ^ w) * 2 ^ (ba % 8) + hi * 2 ^ (ba % 8 + w)
  (leBytes n x).zipIdx.map (fun p => (ba / 8 + p.2, p.1))

/-- The stored position along dimension 0 that iteration position `j` reads (R129). -/
def Desc.permAt (d : Desc) (store : Memory) (j : Nat) : Nat :=
  if d.perm = 0 then j else leNat (Memory.readN store (d.perm.toNat + 2 * j) 2) % d.ext 0

/-- Blocks of 32 along dimension 0 in a row (R111). -/
def Desc.bpr (d : Desc) : Nat := ceilDiv (d.ext 0) 32
/-- Number of scale bytes (R111, R136). -/
def Desc.blocks (d : Desc) : Nat := d.bpr * d.ext 1 * d.ext 2 * d.ext 3
/-- The block that holds a stored position (R111). -/
def Desc.blockOf (d : Desc) (i0 i1 i2 i3 : Nat) : Nat := i0 / 32 + d.bpr * (i1 + d.ext 1 * (i2 + d.ext 2 * i3))

/-- Which kept value of a compressed column at byte `a` stands at a logical index, if one does; of two, the second (R145, R146). -/
def Desc.keptSlot (d : Desc) (rd : Nat → Byte) (a i0 : Nat) : Option Nat :=
  let g := i0 / 4
  let ix := (rd (d.sparseIdx a + g / 2)).toNat / (if g % 2 = 0 then 1 else 16) % 16
  if ix / 4 = i0 % 4 then some (2 * g + 1) else if ix % 4 = i0 % 4 then some (2 * g) else none

/-- The code at a logical index of a compressed column (R145, R146): zero unless a kept value stands there. -/
def Desc.sparseCode (d : Desc) (rd : Nat → Byte) (base i0 i1 i2 i3 : Nat) : Nat :=
  let a := base + d.rowOff i1 i2 i3
  match d.keptSlot rd a i0 with
  | some k => readBits rd (a * 8 + k * d.w) d.w
  | none => 0

/-- The code of the element at logical indices over a base (R112, R135, R145). -/
def Desc.elemAt (d : Desc) (rd : Nat → Byte) (base i0 i1 i2 i3 : Nat) : Nat :=
  if d.sparse then d.sparseCode rd base i0 i1 i2 i3 else readBits rd (d.bitAddr base i0 i1 i2 i3) d.w

/-- The code of an element read through the permutation table (R129). -/
def Desc.code (d : Desc) (store : Memory) (rd : Nat → Byte) (base e : Nat) : Nat :=
  let (i0, i1, i2, i3) := d.idx e
  d.elemAt rd base (d.permAt store i0) i1 i2 i3

/-- The scale code of the element at iteration position `e` (R129): 0x7F without a scale array. -/
def Desc.scaleAt (d : Desc) (store : Memory) (rd : Nat → Byte) (e : Nat) : Nat :=
  if d.scale = 0 && !fmtBlock d.fmt then 127
  else
    let (i0, i1, i2, i3) := d.idx e
    (rd (d.scale.toNat + d.blockOf (d.permAt store i0) i1 i2 i3)).toNat

/-- All element codes in iteration order. -/
def Desc.codes (d : Desc) (store : Memory) (rd : Nat → Byte) (base : Nat) : List Nat :=
  (List.range d.count).map (d.code store rd base)

/-- Whether two footprints share a byte (R268). -/
def rowsOverlap (a b : List (Nat × Nat)) : Bool :=
  a.any (fun p => b.any (fun q => decide (p.1 < q.1 + q.2) && decide (q.1 < p.1 + p.2)))

/-- Write one element at its iteration position without a permutation table (R285: ignored in a destination). DESIGN CHOICE
(log 113): of a compressed destination the kept positions stay, and the elements at other positions are not stored. -/
def Desc.putElem (d : Desc) (base e v : Nat) (m : Memory) : Memory :=
  let (i0, i1, i2, i3) := d.idx e
  if d.sparse then
    let a := base + d.rowOff i1 i2 i3
    match d.keptSlot m.read a i0 with
    | some k => m.writeAt (writeBits m.read (a * 8 + k * d.w) d.w v)
    | none => m
  else m.writeAt (writeBits m.read (d.bitAddr base i0 i1 i2 i3) d.w v)

/-- Write elements in iteration order from element `e` up. -/
def Desc.putAll (d : Desc) (base : Nat) : List Nat → Nat → Memory → Memory
  | [], _, m => m
  | v :: t, e, m => Desc.putAll d base t (e + 1) (d.putElem base e v m)

end Sys2Proof.Machine
end

