-- ==== Sys2Proof/Machine/Scalar.lean ====
section
/-! DEFINITION. Scalar integer, comparison, selection, immediate and bit-field instructions (R195 to R206). -/

namespace Sys2Proof.Machine

open Sys2Proof

/-- An instruction of `len` bytes that writes one integer result and retires (R195). -/
def State.result (len : Nat) (d : Reg) (v : Word) (s : State) : State := (s.setInt d v).retire len

/-- DIV (R197, R198): truncated signed quotient; 0 for a zero divisor. -/
def sdivW (a b : Word) : Word := if b = 0 then 0 else BitVec.ofInt 64 (Int.tdiv a.toInt b.toInt)
/-- REM (R197, R198): the remainder takes the sign of `a`; `a` for a zero divisor. -/
def sremW (a b : Word) : Word := if b = 0 then a else BitVec.ofInt 64 (Int.tmod a.toInt b.toInt)
/-- DIVN (R197, R198). -/
def udivW (a b : Word) : Word := if b = 0 then 0 else BitVec.ofNat 64 (a.toNat / b.toNat)
/-- REMN (R197, R198). -/
def uremW (a b : Word) : Word := if b = 0 then a else BitVec.ofNat 64 (a.toNat % b.toNat)
/-- Number of leading zero bits; 64 for zero. -/
def clzW (a : Word) : Word := if a = 0 then 64 else BitVec.ofNat 64 (63 - Nat.log2 a.toNat)
/-- Number of trailing zero bits; 64 for zero. -/
def ctzW (a : Word) : Word := BitVec.ofNat 64 (((List.range 64).find? (fun i => a.getLsbD i)).getD 64)
/-- Number of set bits. -/
def popcW (a : Word) : Word := BitVec.ofNat 64 ((List.range 64).countP (fun i => a.getLsbD i))
/-- A condition between integer operands (R204). -/
def condHolds (c : Cond) (a b : Word) : Bool :=
  match c with
  | .eq => a == b
  | .ne => a != b
  | .lt => decide (a.toInt < b.toInt)
  | .le => decide (a.toInt ≤ b.toInt)
  | .ltn => decide (a.toNat < b.toNat)
  | .len => decide (a.toNat ≤ b.toNat)
/-- BFI (R203): bits [pos+width-1:pos] of `d` replaced by the low bits of `a`. -/
def bfiW (d a pos width : Nat) : Word :=
  BitVec.ofNat 64 (d % 2 ^ pos + a % 2 ^ width * 2 ^ pos + d / 2 ^ (pos + width) * 2 ^ (pos + width))

/-- ADD (R197). -/
def execAdd (d a b : Reg) (s : State) : Res := .next (s.result 4 d (s.int a + s.int b))
/-- SUB (R197). -/
def execSub (d a b : Reg) (s : State) : Res := .next (s.result 4 d (s.int a - s.int b))
/-- MUL (R197). -/
def execMul (d a b : Reg) (s : State) : Res := .next (s.result 4 d (s.int a * s.int b))
/-- MULH (R197). -/
def execMulh (d a b : Reg) (s : State) : Res := .next (s.result 4 d (BitVec.ofInt 64 ((s.int a).toInt * (s.int b).toInt / 2 ^ 64)))
/-- MULHN (R197). -/
def execMulhn (d a b : Reg) (s : State) : Res := .next (s.result 4 d (BitVec.ofNat 64 ((s.int a).toNat * (s.int b).toNat / 2 ^ 64)))
/-- DIV (R197). -/
def execDiv (d a b : Reg) (s : State) : Res := .next (s.result 4 d (sdivW (s.int a) (s.int b)))
/-- DIVN (R197). -/
def execDivn (d a b : Reg) (s : State) : Res := .next (s.result 4 d (udivW (s.int a) (s.int b)))
/-- REM (R197). -/
def execRem (d a b : Reg) (s : State) : Res := .next (s.result 4 d (sremW (s.int a) (s.int b)))
/-- REMN (R197). -/
def execRemn (d a b : Reg) (s : State) : Res := .next (s.result 4 d (uremW (s.int a) (s.int b)))
/-- AND (R197). -/
def execAnd (d a b : Reg) (s : State) : Res := .next (s.result 4 d (s.int a &&& s.int b))
/-- OR (R197). -/
def execOr (d a b : Reg) (s : State) : Res := .next (s.result 4 d (s.int a ||| s.int b))
/-- XOR (R197). -/
def execXor (d a b : Reg) (s : State) : Res := .next (s.result 4 d (s.int a ^^^ s.int b))
/-- ANDN (R197). -/
def execAndn (d a b : Reg) (s : State) : Res := .next (s.result 4 d (s.int a &&& ~~~(s.int b)))
/-- SHL (R197). -/
def execShl (d a b : Reg) (s : State) : Res := .next (s.result 4 d (s.int a <<< ((s.int b).toNat % 64)))
/-- SHR (R197). -/
def execShr (d a b : Reg) (s : State) : Res := .next (s.result 4 d (s.int a >>> ((s.int b).toNat % 64)))
/-- SAR (R197). -/
def execSar (d a b : Reg) (s : State) : Res := .next (s.result 4 d ((s.int a).sshiftRight ((s.int b).toNat % 64)))
/-- ROL (R197). -/
def execRol (d a b : Reg) (s : State) : Res := .next (s.result 4 d ((s.int a).rotateLeft ((s.int b).toNat % 64)))
/-- MIN (R197). -/
def execMin (d a b : Reg) (s : State) : Res := .next (s.result 4 d (if (s.int a).toInt ≤ (s.int b).toInt then s.int a else s.int b))
/-- MAX (R197). -/
def execMax (d a b : Reg) (s : State) : Res := .next (s.result 4 d (if (s.int a).toInt ≤ (s.int b).toInt then s.int b else s.int a))
/-- MINN (R197). -/
def execMinn (d a b : Reg) (s : State) : Res := .next (s.result 4 d (if (s.int a).toNat ≤ (s.int b).toNat then s.int a else s.int b))
/-- MAXN (R197). -/
def execMaxn (d a b : Reg) (s : State) : Res := .next (s.result 4 d (if (s.int a).toNat ≤ (s.int b).toNat then s.int b else s.int a))
/-- CLZ (R197). -/
def execClz (d a : Reg) (s : State) : Res := .next (s.result 4 d (clzW (s.int a)))
/-- CTZ (R197). -/
def execCtz (d a : Reg) (s : State) : Res := .next (s.result 4 d (ctzW (s.int a)))
/-- POPC (R197). -/
def execPopc (d a : Reg) (s : State) : Res := .next (s.result 4 d (popcW (s.int a)))
/-- ABS (R197). -/
def execAbs (d a : Reg) (s : State) : Res := .next (s.result 4 d (if (s.int a).toInt < 0 then -(s.int a) else s.int a))
/-- MOV (R197): all 128 bits with the tag. -/
def execMov (d a : Reg) (s : State) : Res := .next ((s.setCap d (s.g a) (s.gtag a)).retire 4)
/-- CMP (R204, R205): a set tag of the destination traps TAG. -/
def execCmp (c : Cond) (bit : Fin 32) (d a b : Reg) (s : State) : Res :=
  if s.gtag d then .next (s.trap cTag s.cx.pc)
  else .next ((s.setBit d bit.val (condHolds c (s.int a) (s.int b))).retire 4)
/-- SEL (R206). -/
def execSel (p : Reg) (bit : Fin 16) (d a b : Reg) (s : State) : Res :=
  let src := if (s.g p).getLsbD bit.val then a else b
  .next ((s.setCap d (s.g src) (s.gtag src)).retire 4)
/-- ADDI, W1 form (R199). -/
def execAddi (d a : Reg) (imm : BitVec 14) (s : State) : Res :=
  .next (s.result 4 d (s.int a + imm.signExtend 64))
/-- ADDI, W3 form (R199). -/
def execAddiW3 (d a : Reg) (lit : W32) (s : State) : Res :=
  .next (s.result 12 d (s.int a + lit.signExtend 64))
/-- ANDI, W1 form (R199). -/
def execAndi (d a : Reg) (imm : BitVec 14) (s : State) : Res :=
  .next (s.result 4 d (s.int a &&& imm.signExtend 64))
/-- ANDI, W3 form (R199). -/
def execAndiW3 (d a : Reg) (lit : W32) (s : State) : Res :=
  .next (s.result 12 d (s.int a &&& lit.signExtend 64))
/-- ORI, W1 form (R199). -/
def execOri (d a : Reg) (imm : BitVec 14) (s : State) : Res :=
  .next (s.result 4 d (s.int a ||| imm.signExtend 64))
/-- ORI, W3 form (R199). -/
def execOriW3 (d a : Reg) (lit : W32) (s : State) : Res :=
  .next (s.result 12 d (s.int a ||| lit.signExtend 64))
/-- XORI, W1 form (R199). -/
def execXori (d a : Reg) (imm : BitVec 14) (s : State) : Res :=
  .next (s.result 4 d (s.int a ^^^ imm.signExtend 64))
/-- XORI, W3 form (R199). -/
def execXoriW3 (d a : Reg) (lit : W32) (s : State) : Res :=
  .next (s.result 12 d (s.int a ^^^ lit.signExtend 64))
/-- LI, W1 form (R200). -/
def execLi (d : Reg) (imm : BitVec 14) (s : State) : Res := .next (s.result 4 d (imm.signExtend 64))
/-- LI, W3 form (R177, R200). -/
def execLiW3 (zext : Bool) (d : Reg) (lit : W32) (s : State) : Res :=
  .next (s.result 12 d (if zext then lit.setWidth 64 else lit.signExtend 64))
/-- LK (R201): a local load of word `k` of the context's window. -/
def execLk (d : Reg) (k : BitVec 8) (s : State) : Res :=
  let o : Word := BitVec.ofNat 64 (4 * k.toNat)
  .next (s.readLocal o 4 (fun s => s.result 4 d (BitVec.ofNat 64 (s.localRead o 4))))
/-- SEXT (R202). -/
def execSext (d a : Reg) (w : BitVec 14) (s : State) : Res :=
  .next (s.result 4 d (signExt (s.int a).toNat w.toNat))
/-- ZEXT (R202). -/
def execZext (d a : Reg) (w : BitVec 14) (s : State) : Res :=
  .next (s.result 4 d (zeroExt (s.int a).toNat w.toNat))
/-- BFX (R203). -/
def execBfx (d a : Reg) (pos wm1 : BitVec 6) (s : State) : Res :=
  .next (s.result 4 d (BitVec.ofNat 64 (bits (s.int a).toNat (pos.toNat + wm1.toNat) pos.toNat)))
/-- BFI (R203). -/
def execBfi (d a : Reg) (pos wm1 : BitVec 6) (s : State) : Res :=
  .next (s.result 4 d (bfiW (s.int d).toNat (s.int a).toNat pos.toNat (wm1.toNat + 1)))

end Sys2Proof.Machine
end

