-- ==== Sys2Proof/Machine/Caps.lean ====
section
/-! DEFINITION. Capability instructions (R215 to R223). -/

namespace Sys2Proof.Machine

open Sys2Proof

/-- CGB (R219). -/
def execCgb (d a : Reg) (s : State) : Res := .next (s.result 4 d (BitVec.ofNat 64 (capBase (s.g a).toNat)))
/-- CGL (R219). -/
def execCgl (d a : Reg) (s : State) : Res :=
  .next (s.result 4 d (BitVec.ofInt 64
    (min ((capTop (s.g a).toNat : Int) - capBase (s.g a).toNat) (2 ^ 64 - 1))))
/-- CGP (R219). -/
def execCgp (d a : Reg) (s : State) : Res := .next (s.result 4 d (BitVec.ofNat 64 ((s.g a).toNat / 2 ^ 112)))
/-- CGA (R219). -/
def execCga (d a : Reg) (s : State) : Res := .next (s.result 4 d (s.int a))
/-- CTAG (R219). -/
def execCtag (d a : Reg) (s : State) : Res := .next (s.result 4 d (if s.gtag a then 1 else 0))
/-- CCT (R219). -/
def execCct (d a : Reg) (s : State) : Res := .next ((s.setCap d (s.g a) false).retire 4)
/-- A cursor move (R220), by an instruction of `len` bytes. -/
def State.moveCursor (len : Nat) (d a : Reg) (cur : Word) (s : State) : State :=
  (s.setCap d (withCursor (s.g a) cur) (cursorTag (s.g a) (s.gtag a) cur)).retire len
/-- CSA (R219, R220). -/
def execCsa (d a b : Reg) (s : State) : Res := .next (s.moveCursor 4 d a (s.int b))
/-- CINC, register form (R219, R220). -/
def execCinc (d a b : Reg) (s : State) : Res := .next (s.moveCursor 4 d a (s.int a + s.int b))
/-- CINC, W1 immediate form (R219, R220). -/
def execCincImm (d a : Reg) (imm : BitVec 14) (s : State) : Res :=
  .next (s.moveCursor 4 d a (s.int a + imm.signExtend 64))
/-- CINC, W3 immediate form (R219, R220). -/
def execCincW3 (d a : Reg) (lit : W32) (s : State) : Res :=
  .next (s.moveCursor 12 d a (s.int a + lit.signExtend 64))
/-- `c` with PERM ANDed (R219). -/
def withPermAnd (c : W128) (m : Nat) : W128 :=
  let n := c.toNat
  BitVec.ofNat 128 (n % 2 ^ 112 + (capPerm n &&& m % 4096) * 2 ^ 112 + capOtype n * 2 ^ 124)
/-- CAP (R219, R220): PERM is ANDed, so no bit is ever set; a sealed source loses its tag. -/
def execCap (d a b : Reg) (s : State) : Res :=
  .next ((s.setCap d (withPermAnd (s.g a) (s.int b).toNat)
    (s.gtag a && capOtype (s.g a).toNat == 0)).retire 4)
/-- CSB (R221). Every trap takes the cursor as st.tval. -/
def execCsb (d a b : Reg) (s : State) : Res :=
  let c := (s.g a).toNat
  let lo := capCursor c
  let hi := lo + (s.int b).toNat
  let r := csbRange lo hi
  if !s.gtag a then .next (s.trap cTag (s.int a))
  else if capOtype c ≠ 0 then .next (s.trap cSeal (s.int a))
  else if lo < capBase c ∨ hi > capTop c then .next (s.trap cBounds (s.int a))
  else if r.1 < capBase c ∨ r.2 > capTop c then .next (s.trap cBounds (s.int a))
  else .next ((s.setCap d (csbCap (capOtype c) (capPerm c) lo hi lo) true).retire 4)
/-- `c` with another OTYPE. -/
def withOtype (c : W128) (t : Nat) : W128 := BitVec.ofNat 128 (c.toNat % 2 ^ 124 + t % 16 * 2 ^ 124)
/-- CSEAL (R222). -/
def execCseal (d a b : Reg) (s : State) : Res :=
  let t := (s.int b).toNat
  if !s.gtag a then .next (s.trap cTag (s.int b))
  else if capOtype (s.g a).toNat ≠ 0 then .next (s.trap cSeal (s.int b))
  else if t = 0 ∨ t > 15 ∨ t = 10 then .next (s.trap cSeal (s.int b))
  else if !s.cx.seals.getLsbD t then .next (s.trap cPerm (s.int b))
  else .next ((s.setCap d (withOtype (s.g a) t) true).retire 4)
/-- CUNSEAL (R222). -/
def execCunseal (d a b : Reg) (s : State) : Res :=
  let t := (s.int b).toNat
  let o := capOtype (s.g a).toNat
  if !s.gtag a then .next (s.trap cTag (s.int b))
  else if o = 0 ∨ o = 10 then .next (s.trap cSeal (s.int b))
  else if t ≠ o then .next (s.trap cSeal (s.int b))
  else if !s.cx.seals.getLsbD t then .next (s.trap cPerm (s.int b))
  else .next ((s.setCap d (withOtype (s.g a) 0) true).retire 4)

end Sys2Proof.Machine
end

