-- ==== Sys2Proof/WellFormed.lean ====
section
/-! DEFINITION. Well-formed instructions: those that an instruction word of R168 to R186 encodes. The
checks are the minor-type values (ENC_MINOR) and the value limits (ENC_RESERVED) of the entries. -/

namespace Sys2Proof

open Sys2Proof.Machine

/-- A W2 instruction whose fields pass the minor-type check and the value limits of its form. -/
def w2Wf (maj : Nat) (f : W2) : Bool := w2Minor maj f && w2Limit maj f

/-- Whether some encoding of R170 to R186 decodes to the instruction. A step of the module that no word
encodes is not well formed. -/
def Instr.wf (i : Instr) : Bool :=
  match i with
  | .sext _ _ w | .zext _ _ w => 1 ≤ w.toNat && w.toNat ≤ 64
  | .bfx _ _ p w | .bfi _ _ p w => p.toNat + w.toNat < 64
  | .loop r _ => r.val != 0
  | .fadd r _ _ _ _ | .fsub r _ _ _ _ | .fmul r _ _ _ _ | .fma r _ _ _ _ | .fnr r _ _ _ | .fnrs r _ _ _
  | .fcvtToInt r _ _ _ _ | .fcvtFromInt r _ _ _ _ | .fcvtWrapToInt r _ _ _ _ | .fcvtDTos r _ _ =>
      r != .sr
  | .fcmp _ c _ _ _ _ => c != .ltn && c != .len
  | .mts r _ => sregWritable r
  | .vadd f => w2Wf 1 f
  | .vsub f => w2Wf 2 f
  | .vmul f => w2Wf 3 f
  | .vfma f => w2Wf 4 f
  | .vmin f => w2Wf 5 f
  | .vmax f => w2Wf 6 f
  | .vabs f => w2Wf 7 f
  | .vneg f => w2Wf 8 f
  | .vand f => w2Wf 9 f
  | .vor f => w2Wf 10 f
  | .vxor f => w2Wf 11 f
  | .vshl f => w2Wf 12 f
  | .vshr f => w2Wf 13 f
  | .vsar f => w2Wf 14 f
  | .vcmp f => w2Wf 15 f
  | .vsel f => w2Wf 16 f
  | .vcvt f => w2Wf 17 f
  | .vqnt f => w2Wf 18 f
  | .vdqnt f => w2Wf 19 f
  | .vrcp f => w2Wf 20 f
  | .vrsq f => w2Wf 21 f
  | .vnr f => w2Wf 22 f
  | .vexp2 f => w2Wf 23 f
  | .vlog2 f => w2Wf 24 f
  | .vscan f => w2Wf 25 f
  | .vred f => w2Wf 26 f
  | .vbcast f => w2Wf 27 f
  | .vfill f => w2Wf 28 f
  | .vcopy f => w2Wf 29 f
  | .vtran f => w2Wf 30 f
  | .vgath f => w2Wf 31 f
  | .vscat f => w2Wf 32 f
  | .vlut f => w2Wf 33 f
  | .mma f => w2Wf 34 f
  | .mmag f => w2Wf 35 f
  | .mmr f => w2Wf 36 f
  | .mzero f => w2Wf 37 f
  | .mrd f => w2Wf 38 f
  | .mwr f => w2Wf 39 f
  | .wld f => w2Wf 40 f
  | .tld f => w2Wf 41 f
  | .dset f => w2Wf 42 f
  | .dget f => w2Wf 43 f
  | .dsta f => w2Wf 44 f
  | .xcopy f => w2Wf 45 f
  | .pub f => w2Wf 46 f
  | .drain f => w2Wf 47 f
  | .dclr f => w2Wf 48 f
  | .wellw f => w2Wf 49 f
  | .bar f => w2Wf 50 f
  | .red f => w2Wf 51 f
  | .redx f => w2Wf 52 f
  | .rstat f => w2Wf 53 f
  | .corr f => w2Wf 54 f
  | .add _ _ _ | .sub _ _ _ | .mul _ _ _ | .mulh _ _ _ | .mulhn _ _ _ | .div _ _ _ | .divn _ _ _
  | .rem _ _ _ | .remn _ _ _ | .and _ _ _ | .or _ _ _ | .xor _ _ _ | .andn _ _ _ | .shl _ _ _
  | .shr _ _ _ | .sar _ _ _ | .rol _ _ _ | .min _ _ _ | .max _ _ _ | .minn _ _ _ | .maxn _ _ _
  | .clz _ _ | .ctz _ _ | .popc _ _ | .abs _ _ | .mov _ _ | .cmp _ _ _ _ _ | .sel _ _ _ _ _
  | .addi _ _ _ | .andi _ _ _ | .ori _ _ _ | .xori _ _ _ | .addiW3 _ _ _ | .andiW3 _ _ _ | .oriW3 _ _ _
  | .xoriW3 _ _ _ | .li _ _ | .liW3 _ _ _ | .lk _ _ | .fmin _ _ _ _ | .fmax _ _ _ _ | .fabs _ _ _
  | .fneg _ _ _ | .fcls _ _ _ | .frcp _ _ _ | .frsq _ _ _ | .fcvtSTod _ _ | .cgb _ _ | .cgl _ _
  | .cgp _ _ | .cga _ _ | .csa _ _ _ | .cinc _ _ _ | .csb _ _ _ | .cap _ _ _ | .ctag _ _ | .cct _ _
  | .cseal _ _ _ | .cunseal _ _ _ | .cincImm _ _ _ | .cincW3 _ _ _ | .b _ | .bt _ _ _ | .bf _ _ _
  | .bz _ _ | .bnz _ _ | .call _ | .callW3 _ | .j _ | .nop | .region | .ret _ | .yield | .callc _
  | .trap _ | .ldI8 _ _ _ | .ldN8 _ _ _ | .ldI16 _ _ _ | .ldN16 _ _ _ | .ldI32 _ _ _ | .ldN32 _ _ _
  | .ld _ _ _ | .stI8 _ _ _ | .stI16 _ _ _ | .stI32 _ _ _ | .st _ _ _ | .ldc _ _ _ | .stc _ _ _
  | .ldW3 _ _ _ _ | .stW3 _ _ _ _ | .ldcW3 _ _ _ | .stcW3 _ _ _ | .ll _ _ _ | .sl _ _ _ | .llW3 _ _ _
  | .slW3 _ _ _ | .llf _ _ _ | .slf _ _ _ | .sle _ _ _ | .feq _ _ _ | .post _ _ _ | .postf _ _ _
  | .llfRemote _ _ _ | .slfRemote _ _ _ | .sleRemote _ _ _ | .feqRemote _ _ _ | .phase _
  | .amoAdd _ _ _ _ | .amoAnd _ _ _ _ | .amoOr _ _ _ _ | .amoXor _ _ _ _ | .amoMin _ _ _ _
  | .amoMax _ _ _ _ | .amoMinn _ _ _ _ | .amoMaxn _ _ _ _ | .amoSwap _ _ _ _ | .cas _ _ _ _
  | .lamoAdd _ _ _ | .lamoAnd _ _ _ | .lamoOr _ _ _ | .lamoXor _ _ _ | .lamoMin _ _ _ | .lamoMax _ _ _
  | .lamoMinn _ _ _ | .lamoMaxn _ _ _ | .lamoSwap _ _ _ | .waitw _ _ _ _ | .pref _ _ | .send _ _ _
  | .recv _ _ _ | .chq _ _ | .role _ _ | .start _ _ _ | .exit | .join _ _ | .kill _ | .resume _ _
  | .launch _ _ _ | .trapret | .faultq _ _ | .ctrsel _ _ _ | .time _ _ | .stop _ _ _ | .vmap _ _ _
  | .vunmap _ | .ifl _ _ | .mfs _ _ | .ctr _ _ | .ctrl _ _ | .ctrh _ _ | .wpres _ _ _ | .wsplit _ _ _
  | .wdeleg _ _ _ | .wsurr _ _ | .wqry _ _ _ | .gramp _ _ | .gpin _ | .wellq _ _ => true
  | .slotVisit _ _ | .instructionFetchArrival _ _ _ | .globalReply _ _ _ _ | .remoteMessageArrival _
  | .remoteReplyArrival _ | .vectorCompletion _ | .matrixCompletion _ | .pumpOperationCompletion _ _
  | .coreStart _ _ | .launchAcceptance _ | .registerLineFill _ _ _ _ | .slotRelease _
  | .sendCompletion _ _ | .recvCompletion _ _ | .waitwWake _ _ _ | .governorWindowBoundary
  | .helperfaultTrap _ | .helperDeactivation _ _ | .longOperationFault _ _ _ | .recvDry _ _
  | .waitwTimeout _ _ | .tlbLeaseExpiry _ _ | .vunmapCompletion _ | .wellRefresh _
  | .redNodeArrival _ _ | .redNodeCutoff _ _ _ | .redResultDelivery _ _ | .corrTimeout _ _
  | .barRelease _ _ | .redxRelease _ _ | .mmrTransfer _ _ | .mmrRelease _ | .relockEnd _
  | .standbyEviction _ | .standbyRestore _ _ _ | .standbyRotation _ _ | .standbyHoldExpiry _
  | .warrantExpiry _ | .checkedHashArrival _ _ _ | .checkedHashTimeout _ _ | .scrubLine _ _ _
  | .scrubPassLate _ | .present _ | .object _ | .launchMessage _ | .query _ | .surrender _ | .group _
  | .beacon _ | .claim _ | .claimed _ | .claimResend _ | .claimTimeout _ | .migrate _ _ _ | .moved _ _
  | .oldViPacket _ _ | .announceRepeat | .rmaWrite _ _ _ _ | .rmaRead _ _ _ _
  | .ueUnsupportedPacket _ _ | .controllerCommand _ _ _ _ | .powerOn _ _ _ _ | .moduleColdReset
  | .moduleWarmReset | .dieReset _ | .coreReset _ | .engineReset _ | .portReset _ | .watchdogExpiry _ _
  | .controllerException _ _ _ _ | .securityAlarm _ | .sumpread _ | .cfgread _ | .cfgwrite _ _
  | .rdirEntryWrite _ _ | .gvread _ | .gvwrite _ _ | .dbgreadCounters _ _ | .dbgreadRecord _ _ _
  | .dbgstop _ _ _ | .spdmMeasurements _ | .pldmFirmwareUpdate _ _ | .firmwareActivation _
  | .firmwareSelfTestFailure _ | .powerLoss | .vmapCompletion _ | .warrantInstructionCompletion _
  | .inboundPeerAtomic _ _ _ _ _ _ _ | .portLinkTraining _ | .dieTemperatureSample _ _
  | .platformEventAcknowledge | .redemptionEntryExpiry _ | .dieResetCompletion _ => false

end Sys2Proof
end

