-- ==== Sys2Proof/Decode.lean ====
section
/-! DEFINITION. The decoder of R187 and an encoder, both written from the encoding tables of R168 to
R186. The words are natural numbers below 2^32; a field is cut out by division and remainder. -/

namespace Sys2Proof

open Sys2Proof.Machine

/-- Which check of R187 refuses a bit pattern. -/
inductive DecErr where
  | length | major | minor | reserved
  deriving DecidableEq, Repr

/-- What decoding gives: an instruction or the failing check. -/
abbrev Dec := Except DecErr Instr

/-- The `n` bits of `w` from bit `lo` up. -/
def fld (w lo n : Nat) : Nat := w / 2 ^ lo % 2 ^ n
/-- A register field. -/
def regOf (w lo : Nat) : Reg := Fin.ofNat 32 (w / 2 ^ lo)
/-- DST of W1, GD of W2 and W3. -/
def rD (w : Nat) : Reg := regOf w 8
/-- SA of W1, GA of W2 and W3. -/
def rA (w : Nat) : Reg := regOf w 13
/-- SB of W1.A. -/
def rB (w : Nat) : Reg := regOf w 18
/-- IMM14 or DISP. -/
def immOf (w : Nat) : BitVec 14 := BitVec.ofNat 14 (w / 2 ^ 18)

/-- Accept when the reserved fields are zero and the value limits hold. -/
def need (b : Bool) (i : Instr) : Dec := if b then .ok i else .error .reserved

/-- A W1.A form with destination and two sources. -/
def mk3 (c : Reg → Reg → Reg → Instr) (w : Nat) : Dec := .ok (c (rD w) (rA w) (rB w))
/-- A W1.A form with destination and one source; SB is reserved. -/
def mk2 (c : Reg → Reg → Instr) (w : Nat) : Dec := need (fld w 18 5 == 0) (c (rD w) (rA w))
/-- A W1.I form with data register, base register and immediate. -/
def mkI (c : Reg → Reg → BitVec 14 → Instr) (w : Nat) : Dec := .ok (c (rD w) (rA w) (immOf w))

/-- INTR minors (R181). -/
def decIntr (m w : Nat) : Dec :=
  match m with
  | 0 => mk3 .add w
  | 1 => mk3 .sub w
  | 2 => mk3 .mul w
  | 3 => mk3 .mulh w
  | 4 => mk3 .mulhn w
  | 5 => mk3 .div w
  | 6 => mk3 .divn w
  | 7 => mk3 .rem w
  | 8 => mk3 .remn w
  | 9 => mk3 .and w
  | 10 => mk3 .or w
  | 11 => mk3 .xor w
  | 12 => mk3 .andn w
  | 13 => mk3 .shl w
  | 14 => mk3 .shr w
  | 15 => mk3 .sar w
  | 16 => mk3 .rol w
  | 17 => mk3 .min w
  | 18 => mk3 .max w
  | 19 => mk3 .minn w
  | 20 => mk3 .maxn w
  | 21 => mk2 .clz w
  | 22 => mk2 .ctz w
  | 23 => mk2 .popc w
  | 24 => mk2 .abs w
  | 25 => mk2 .mov w
  | _ => .error .minor

/-- FOP operations (R183, R207). RND 0b11 and an unlisted OP refuse as a minor. DESIGN CHOICE (log 110): RND 0b01 or 0b10 in a form that
takes no rounding refuses as a reserved value (R176). -/
def decFop (w : Nat) : Dec :=
  let r := rndOf (fld w 30 2)
  let p := precOf (fld w 29 1)
  let r0 := fld w 30 2 == 0
  let s0 := fld w 18 5 == 0
  if fld w 30 2 == 3 then .error .minor
  else match fld w 23 6 with
  | 0 => mk3 (.fadd r p) w
  | 1 => mk3 (.fsub r p) w
  | 2 => mk3 (.fmul r p) w
  | 3 => mk3 (.fma r p) w
  | 4 => need r0 (.fmin p (rD w) (rA w) (rB w))
  | 5 => need r0 (.fmax p (rD w) (rA w) (rB w))
  | 6 => need (r0 && s0) (.fabs p (rD w) (rA w))
  | 7 => need (r0 && s0) (.fneg p (rD w) (rA w))
  | 8 => need (r0 && s0) (.fcls p (rD w) (rA w))
  | 9 => need (r0 && s0) (.frcp p (rD w) (rA w))
  | 10 => need (r0 && s0) (.frsq p (rD w) (rA w))
  | 11 => mk2 (.fnr r p) w
  | 12 => mk2 (.fnrs r p) w
  | 16 => mk2 (.fcvtToInt r p (intTyOf 0)) w
  | 17 => mk2 (.fcvtToInt r p (intTyOf 1)) w
  | 18 => mk2 (.fcvtToInt r p (intTyOf 2)) w
  | 19 => mk2 (.fcvtToInt r p (intTyOf 3)) w
  | 20 => mk2 (.fcvtFromInt r p (intTyOf 0)) w
  | 21 => mk2 (.fcvtFromInt r p (intTyOf 1)) w
  | 22 => mk2 (.fcvtFromInt r p (intTyOf 2)) w
  | 23 => mk2 (.fcvtFromInt r p (intTyOf 3)) w
  | 24 => if fld w 29 1 == 0 then need (r0 && s0) (.fcvtSTod (rD w) (rA w)) else mk2 (.fcvtDTos r) w
  | 32 => mk2 (.fcvtWrapToInt r p (intTyOf 0)) w
  | 33 => mk2 (.fcvtWrapToInt r p (intTyOf 1)) w
  | 34 => mk2 (.fcvtWrapToInt r p (intTyOf 2)) w
  | 35 => mk2 (.fcvtWrapToInt r p (intTyOf 3)) w
  | _ => .error .minor

/-- CAPR minors (R184). -/
def decCapr (m w : Nat) : Dec :=
  match m with
  | 0 => mk2 .cgb w
  | 1 => mk2 .cgl w
  | 2 => mk2 .cgp w
  | 3 => mk2 .cga w
  | 4 => mk3 .csa w
  | 5 => mk3 .cinc w
  | 6 => mk3 .csb w
  | 7 => mk3 .cap w
  | 8 => mk2 .ctag w
  | 9 => mk2 .cct w
  | 10 => mk3 .cseal w
  | 11 => mk3 .cunseal w
  | _ => .error .minor

/-- CTL minors (R184). -/
def decCtl (m w : Nat) : Dec :=
  match m with
  | 0 => need (fld w 8 15 == 0) .nop
  | 1 => need (fld w 8 15 == 0) .region
  | 2 => need (fld w 8 5 == 0 && fld w 18 5 == 0) (.ret (rA w))
  | 3 => need (fld w 8 15 == 0) .yield
  | 4 => need (fld w 8 5 == 0 && fld w 18 5 == 0) (.callc (rA w))
  | _ => .error .minor

/-- SYS minors (R184). -/
def decSys (m w : Nat) : Dec :=
  match m with
  | 0 => mk3 .start w
  | 1 => need (fld w 8 15 == 0) .exit
  | 2 => mk2 .join w
  | 3 => need (fld w 8 5 == 0 && fld w 18 5 == 0) (.kill (rA w))
  | 4 => need (fld w 8 5 == 0) (.resume (rA w) (rB w))
  | 5 => mk3 .launch w
  | 6 => need (fld w 8 15 == 0) .trapret
  | 7 => mk2 .faultq w
  | 8 => mk3 .ctrsel w
  | 9 => mk2 .time w
  | 10 => mk3 .stop w
  | 11 => mk3 .vmap w
  | 12 => need (fld w 8 5 == 0 && fld w 18 5 == 0) (.vunmap (rA w))
  | 13 => mk2 .ifl w
  | _ => .error .minor

/-- WAR minors (R184). -/
def decWar (m w : Nat) : Dec :=
  match m with
  | 0 => mk3 .wpres w
  | 1 => mk3 .wsplit w
  | 2 => mk3 .wdeleg w
  | 3 => mk2 .wsurr w
  | 4 => mk3 .wqry w
  | _ => .error .minor

/-- GOV minors (R184). -/
def decGov (m w : Nat) : Dec :=
  match m with
  | 0 => need (fld w 8 5 == 0) (.gramp (rA w) (rB w))
  | 1 => need (fld w 8 5 == 0 && fld w 18 5 == 0) (.gpin (rA w))
  | _ => .error .minor

/-- REMOTE minors (R184). -/
def decRemote (m w : Nat) : Dec :=
  match m with
  | 0 => mk3 .post w
  | 1 => mk3 .postf w
  | 2 => mk3 .llfRemote w
  | 3 => mk3 .slfRemote w
  | 4 => mk3 .sleRemote w
  | 5 => mk3 .feqRemote w
  | _ => .error .minor

/-- SYNC minors (R185). -/
def decSync (m w : Nat) : Dec :=
  match m with
  | 0 => need (fld w 8 15 == 0) (.phase (scopeOf 0))
  | 1 => need (fld w 8 15 == 0) (.phase (scopeOf 1))
  | 2 => need (fld w 8 15 == 0) (.phase (scopeOf 2))
  | 3 => need (fld w 8 15 == 0) (.phase (scopeOf 3))
  | 16 => mk3 (.amoAdd false) w
  | 17 => mk3 (.amoAdd true) w
  | 18 => mk3 (.amoAnd false) w
  | 19 => mk3 (.amoAnd true) w
  | 20 => mk3 (.amoOr false) w
  | 21 => mk3 (.amoOr true) w
  | 22 => mk3 (.amoXor false) w
  | 23 => mk3 (.amoXor true) w
  | 24 => mk3 (.amoMin false) w
  | 25 => mk3 (.amoMin true) w
  | 26 => mk3 (.amoMax false) w
  | 27 => mk3 (.amoMax true) w
  | 28 => mk3 (.amoMinn false) w
  | 29 => mk3 (.amoMinn true) w
  | 30 => mk3 (.amoMaxn false) w
  | 31 => mk3 (.amoMaxn true) w
  | 32 => mk3 (.amoSwap false) w
  | 33 => mk3 (.amoSwap true) w
  | 40 => mk3 (.cas false) w
  | 41 => mk3 (.cas true) w
  | 48 => mk3 .lamoAdd w
  | 49 => mk3 .lamoAnd w
  | 50 => mk3 .lamoOr w
  | 51 => mk3 .lamoXor w
  | 52 => mk3 .lamoMin w
  | 53 => mk3 .lamoMax w
  | 54 => mk3 .lamoMinn w
  | 55 => mk3 .lamoMaxn w
  | 56 => mk3 .lamoSwap w
  | 64 => mk3 (.waitw false) w
  | 65 => mk3 (.waitw true) w
  | 72 => mk2 .pref w
  | _ => .error .minor

/-- CHAN minors (R184): the channel is in the low three bits. -/
def decChan (m w : Nat) : Dec :=
  let c : Fin 8 := Fin.ofNat 8 m
  match m / 8 with
  | 0 => need (fld w 8 5 == 0) (.send c (rA w) (rB w))
  | 1 => mk2 (.recv c) w
  | 2 => need (fld w 13 10 == 0) (.chq c (rD w))
  | 3 => if m == 24 then mk2 .role w else .error .minor
  | _ => .error .minor

/-- CTR (R186): the kind is IMM14[13:12], the event IMM14[11:0]. -/
def decCtr (w : Nat) : Dec :=
  match eventOf (fld w 18 12) with
  | none => .error .minor
  | some e =>
    match fld w 30 2 with
    | 0 => need (fld w 13 5 == 0) (.ctr (rD w) e)
    | 1 => need (fld w 13 5 == 0) (.ctrl (rD w) e)
    | 2 => need (fld w 13 5 == 0) (.ctrh (rD w) e)
    | _ => .error .minor

/-- A W1 word (R178). -/
def decW1 (w : Nat) : Dec :=
  let m := fld w 23 9
  match fld w 2 6 with
  | 1 => decIntr m w
  | 2 => match condOf (fld w 24 3) with
    | none => .error .minor
    | some c => if fld w 23 1 == 0 then .ok (.cmp c (regOf w 27) (rD w) (rA w) (rB w)) else .error .minor
  | 3 => .ok (.sel (regOf w 27) (Fin.ofNat 16 (w / 2 ^ 23)) (rD w) (rA w) (rB w))
  | 4 => mkI .addi w
  | 5 => mkI .andi w
  | 6 => mkI .ori w
  | 7 => mkI .xori w
  | 8 => need (fld w 13 5 == 0) (.li (rD w) (immOf w))
  | 9 => if fld w 26 6 != 0 then .error .minor
      else need (fld w 13 5 == 0) (.lk (rD w) (BitVec.ofNat 8 (w / 2 ^ 18)))
  | 10 => need (1 ≤ fld w 18 14 && fld w 18 14 ≤ 64) (.sext (rD w) (rA w) (immOf w))
  | 11 => need (1 ≤ fld w 18 14 && fld w 18 14 ≤ 64) (.zext (rD w) (rA w) (immOf w))
  | 12 => need (fld w 30 2 == 0 && fld w 18 6 + fld w 24 6 < 64)
      (.bfx (rD w) (rA w) (BitVec.ofNat 6 (w / 2 ^ 18)) (BitVec.ofNat 6 (w / 2 ^ 24)))
  | 13 => need (fld w 30 2 == 0 && fld w 18 6 + fld w 24 6 < 64)
      (.bfi (rD w) (rA w) (BitVec.ofNat 6 (w / 2 ^ 18)) (BitVec.ofNat 6 (w / 2 ^ 24)))
  | 14 => decFop w
  | 15 => match condOf (fld w 24 3) with
    | none => .error .minor
    | some c => if c == .ltn || c == .len then .error .minor
        else .ok (.fcmp (precOf (fld w 23 1)) c (regOf w 27) (rD w) (rA w) (rB w))
  | 16 => decCapr m w
  | 17 => mkI .cincImm w
  | 18 => need (fld w 8 10 == 0) (.b (immOf w))
  | 19 => .ok (.bt (rD w) (rA w) (immOf w))
  | 20 => .ok (.bf (rD w) (rA w) (immOf w))
  | 21 => need (fld w 13 5 == 0) (.bz (rD w) (immOf w))
  | 22 => need (fld w 13 5 == 0) (.bnz (rD w) (immOf w))
  | 23 => need (fld w 13 5 == 0 && fld w 8 5 != 0) (.loop (rD w) (immOf w))
  | 24 => need (fld w 8 10 == 0) (.call (immOf w))
  | 25 => decCtl m w
  | 26 => need (fld w 8 10 == 0) (.trap (immOf w))
  | 27 => mkI .ldI8 w
  | 28 => mkI .ldN8 w
  | 29 => mkI .ldI16 w
  | 30 => mkI .ldN16 w
  | 31 => mkI .ldI32 w
  | 32 => mkI .ldN32 w
  | 33 => mkI .ld w
  | 34 => mkI .stI8 w
  | 35 => mkI .stI16 w
  | 36 => mkI .stI32 w
  | 37 => mkI .st w
  | 38 => mkI .ldc w
  | 39 => mkI .stc w
  | 40 => mkI .ll w
  | 41 => mkI .sl w
  | 42 => mkI .llf w
  | 43 => mkI .slf w
  | 44 => mkI .sle w
  | 45 => mkI .feq w
  | 46 => decRemote m w
  | 47 => decSync m w
  | 48 => decChan m w
  | 49 => decSys m w
  | 50 => match sregOf (fld w 18 14) with
    | none => .error .minor
    | some r => need (fld w 13 5 == 0) (.mfs (rD w) r)
  | 51 => match sregOf (fld w 18 14) with
    | none => .error .minor
    | some r => if !sregWritable r then .error .minor else need (fld w 8 5 == 0) (.mts r (rA w))
  | 52 => decCtr w
  | 53 => decWar m w
  | 54 => decGov m w
  | 55 => if m != 0 then .error .minor else mk2 .wellq w
  | _ => .error .major

/-- The fields of a W2 instruction (R171). -/
def w2Fields (w0 w1 : Nat) : W2 :=
  { minor := BitVec.ofNat 7 (w0 / 2 ^ 25), ovf := BitVec.ofNat 2 (w0 / 2 ^ 23),
    rnd := BitVec.ofNat 2 (w0 / 2 ^ 21), cnd := BitVec.ofNat 3 (w0 / 2 ^ 18), ga := rA w0, gd := rD w0,
    x2 := BitVec.ofNat 2 (w1 / 2 ^ 30), fmt := BitVec.ofNat 4 (w1 / 2 ^ 26),
    acc := BitVec.ofNat 2 (w1 / 2 ^ 24), dc := BitVec.ofNat 6 (w1 / 2 ^ 18),
    db := BitVec.ofNat 6 (w1 / 2 ^ 12), da := BitVec.ofNat 6 (w1 / 2 ^ 6), dd := BitVec.ofNat 6 w1 }

/-- A W2 instruction (R179). -/
def decW2 (w0 w1 : Nat) : Dec :=
  let f := w2Fields w0 w1
  match w2Make (fld w0 2 6) f with
  | none => .error .major
  | some i =>
    if !w2Minor (fld w0 2 6) f then .error .minor
    else need (w2Limit (fld w0 2 6) f) i

/-- The reserved fields of W3 word 0 above GA, MINOR apart, and word 1 (R172, R176). -/
def w3Rest (w0 w1 : Nat) : Bool := fld w0 18 7 == 0 && w1 == 0

/-- A W3 instruction (R180). -/
def decW3 (w0 w1 w2 : Nat) : Dec :=
  let m := fld w0 25 7
  let lit : W32 := BitVec.ofNat 32 w2
  let z := w3Rest w0 w1
  let d := rD w0
  let a := rA w0
  let m0 (i : Instr) : Dec := if m != 0 then .error .minor else need z i
  match fld w0 2 6 with
  | 1 => if m > 1 then .error .minor else need (z && fld w0 13 5 == 0) (.liW3 (m == 1) d lit)
  | 2 => m0 (.addiW3 d a lit)
  | 3 => m0 (.andiW3 d a lit)
  | 4 => m0 (.oriW3 d a lit)
  | 5 => m0 (.xoriW3 d a lit)
  | 6 => if m != 0 then .error .minor else need (z && fld w0 8 10 == 0) (.j lit)
  | 7 => if m != 0 then .error .minor else need (z && fld w0 8 10 == 0) (.callW3 lit)
  | 8 => match ldSizeOf m with
    | none => .error .minor
    | some sz => need z (.ldW3 sz d a lit)
  | 9 => match stSizeOf m with
    | none => .error .minor
    | some sz => need z (.stW3 sz d a lit)
  | 10 => m0 (.ldcW3 d a lit)
  | 11 => m0 (.stcW3 d a lit)
  | 12 => m0 (.llW3 d a lit)
  | 13 => m0 (.slW3 d a lit)
  | 14 => m0 (.cincW3 d a lit)
  | _ => .error .major

/-- How many words an instruction has, by the length field of word 0 (R169); 0 for the reserved class. -/
def wordCount (w0 : Nat) : Nat :=
  match fld w0 0 2 with
  | 0 => 1 | 1 => 2 | 2 => 3 | _ => 0

/-- Decoding in the order of R187. Words that the class does not have are not looked at. -/
def decodeWords (w0 w1 w2 : Nat) : Dec :=
  match wordCount w0 with
  | 1 => decW1 w0
  | 2 => decW2 w0 w1
  | 3 => decW3 w0 w1 w2
  | _ => .error .length

/-- The little-endian 32-bit word at the head of a byte list; a missing byte counts as 0. -/
def wordAt (bs : List Byte) (k : Nat) : Nat :=
  (bs.getD k 0).toNat + (bs.getD (k + 1) 0).toNat * 256 + (bs.getD (k + 2) 0).toNat * 65536 +
    (bs.getD (k + 3) 0).toNat * 16777216

/-- Decoding the bytes of an instruction, in the order of their addresses (R168). -/
def decodeBytes (bs : List Byte) : Dec := decodeWords (wordAt bs 0) (wordAt bs 4) (wordAt bs 8)

/-! ## The encoder -/

/-- A W1.A word (R170). -/
def encA (maj m : Nat) (d a b : Nat) : List Nat :=
  [maj * 4 + d * 2 ^ 8 + a * 2 ^ 13 + b * 2 ^ 18 + m * 2 ^ 23]
/-- A W1.I or W1.B word (R170). -/
def encI (maj d a imm : Nat) : List Nat := [maj * 4 + d * 2 ^ 8 + a * 2 ^ 13 + imm * 2 ^ 18]
/-- The two words of a W2 instruction (R171). -/
def encW2 (maj : Nat) (f : W2) : List Nat :=
  [1 + maj * 4 + f.gd.val * 2 ^ 8 + f.ga.val * 2 ^ 13 + f.cnd.toNat * 2 ^ 18 + f.rnd.toNat * 2 ^ 21 +
     f.ovf.toNat * 2 ^ 23 + f.minor.toNat * 2 ^ 25,
   f.dd.toNat + f.da.toNat * 2 ^ 6 + f.db.toNat * 2 ^ 12 + f.dc.toNat * 2 ^ 18 + f.acc.toNat * 2 ^ 24 +
     f.fmt.toNat * 2 ^ 26 + f.x2.toNat * 2 ^ 30]
/-- The three words of a W3 instruction (R172). -/
def encW3 (maj m d a : Nat) (lit : W32) : List Nat :=
  [2 + maj * 4 + d * 2 ^ 8 + a * 2 ^ 13 + m * 2 ^ 25, 0, lit.toNat]
/-- A FOP word (R183). -/
def encF (r : Rnd) (p : Prec) (op d a b : Nat) : List Nat :=
  encA 14 (op + precCode p * 64 + rndCode r * 128) d a b
/-- w of R185. -/
def wBit (w : Bool) : Nat := if w then 1 else 0

/-- The words of an instruction. A step of the module has no words. -/
def encode (i : Instr) : List Nat :=
  match i with
  | .add d a b => encA 1 0 d.val a.val b.val
  | .sub d a b => encA 1 1 d.val a.val b.val
  | .mul d a b => encA 1 2 d.val a.val b.val
  | .mulh d a b => encA 1 3 d.val a.val b.val
  | .mulhn d a b => encA 1 4 d.val a.val b.val
  | .div d a b => encA 1 5 d.val a.val b.val
  | .divn d a b => encA 1 6 d.val a.val b.val
  | .rem d a b => encA 1 7 d.val a.val b.val
  | .remn d a b => encA 1 8 d.val a.val b.val
  | .and d a b => encA 1 9 d.val a.val b.val
  | .or d a b => encA 1 10 d.val a.val b.val
  | .xor d a b => encA 1 11 d.val a.val b.val
  | .andn d a b => encA 1 12 d.val a.val b.val
  | .shl d a b => encA 1 13 d.val a.val b.val
  | .shr d a b => encA 1 14 d.val a.val b.val
  | .sar d a b => encA 1 15 d.val a.val b.val
  | .rol d a b => encA 1 16 d.val a.val b.val
  | .min d a b => encA 1 17 d.val a.val b.val
  | .max d a b => encA 1 18 d.val a.val b.val
  | .minn d a b => encA 1 19 d.val a.val b.val
  | .maxn d a b => encA 1 20 d.val a.val b.val
  | .clz d a => encA 1 21 d.val a.val 0
  | .ctz d a => encA 1 22 d.val a.val 0
  | .popc d a => encA 1 23 d.val a.val 0
  | .abs d a => encA 1 24 d.val a.val 0
  | .mov d a => encA 1 25 d.val a.val 0
  | .cmp c t d a b => encA 2 (condCode c * 2 + t.val * 16) d.val a.val b.val
  | .sel p t d a b => encA 3 (t.val + p.val * 16) d.val a.val b.val
  | .addi d a imm => encI 4 d.val a.val imm.toNat
  | .andi d a imm => encI 5 d.val a.val imm.toNat
  | .ori d a imm => encI 6 d.val a.val imm.toNat
  | .xori d a imm => encI 7 d.val a.val imm.toNat
  | .addiW3 d a lit => encW3 2 0 d.val a.val lit
  | .andiW3 d a lit => encW3 3 0 d.val a.val lit
  | .oriW3 d a lit => encW3 4 0 d.val a.val lit
  | .xoriW3 d a lit => encW3 5 0 d.val a.val lit
  | .li d imm => encI 8 d.val 0 imm.toNat
  | .liW3 z d lit => encW3 1 (wBit z) d.val 0 lit
  | .lk d k => encI 9 d.val 0 k.toNat
  | .sext d a w => encI 10 d.val a.val w.toNat
  | .zext d a w => encI 11 d.val a.val w.toNat
  | .bfx d a p w => encI 12 d.val a.val (p.toNat + w.toNat * 64)
  | .bfi d a p w => encI 13 d.val a.val (p.toNat + w.toNat * 64)
  | .fadd r p d a b => encF r p 0 d.val a.val b.val
  | .fsub r p d a b => encF r p 1 d.val a.val b.val
  | .fmul r p d a b => encF r p 2 d.val a.val b.val
  | .fma r p d a b => encF r p 3 d.val a.val b.val
  | .fmin p d a b => encF .rne p 4 d.val a.val b.val
  | .fmax p d a b => encF .rne p 5 d.val a.val b.val
  | .fabs p d a => encF .rne p 6 d.val a.val 0
  | .fneg p d a => encF .rne p 7 d.val a.val 0
  | .fcls p d a => encF .rne p 8 d.val a.val 0
  | .frcp p d a => encF .rne p 9 d.val a.val 0
  | .frsq p d a => encF .rne p 10 d.val a.val 0
  | .fnr r p d a => encF r p 11 d.val a.val 0
  | .fnrs r p d a => encF r p 12 d.val a.val 0
  | .fcvtToInt r p t d a => encF r p (16 + intTyCode t) d.val a.val 0
  | .fcvtFromInt r p t d a => encF r p (20 + intTyCode t) d.val a.val 0
  | .fcvtSTod d a => encF .rne .s 24 d.val a.val 0
  | .fcvtDTos r d a => encF r .d 24 d.val a.val 0
  | .fcvtWrapToInt r p t d a => encF r p (32 + intTyCode t) d.val a.val 0
  | .fcmp p c t d a b => encA 15 (precCode p + condCode c * 2 + t.val * 16) d.val a.val b.val
  | .cgb d a => encA 16 0 d.val a.val 0
  | .cgl d a => encA 16 1 d.val a.val 0
  | .cgp d a => encA 16 2 d.val a.val 0
  | .cga d a => encA 16 3 d.val a.val 0
  | .csa d a b => encA 16 4 d.val a.val b.val
  | .cinc d a b => encA 16 5 d.val a.val b.val
  | .csb d a b => encA 16 6 d.val a.val b.val
  | .cap d a b => encA 16 7 d.val a.val b.val
  | .ctag d a => encA 16 8 d.val a.val 0
  | .cct d a => encA 16 9 d.val a.val 0
  | .cseal d a b => encA 16 10 d.val a.val b.val
  | .cunseal d a b => encA 16 11 d.val a.val b.val
  | .cincImm d a imm => encI 17 d.val a.val imm.toNat
  | .cincW3 d a lit => encW3 14 0 d.val a.val lit
  | .b disp => encI 18 0 0 disp.toNat
  | .bt r t disp => encI 19 r.val t.val disp.toNat
  | .bf r t disp => encI 20 r.val t.val disp.toNat
  | .bz r disp => encI 21 r.val 0 disp.toNat
  | .bnz r disp => encI 22 r.val 0 disp.toNat
  | .loop r disp => encI 23 r.val 0 disp.toNat
  | .call disp => encI 24 0 0 disp.toNat
  | .callW3 lit => encW3 7 0 0 0 lit
  | .j lit => encW3 6 0 0 0 lit
  | .nop => encA 25 0 0 0 0
  | .region => encA 25 1 0 0 0
  | .ret a => encA 25 2 0 a.val 0
  | .yield => encA 25 3 0 0 0
  | .callc a => encA 25 4 0 a.val 0
  | .trap c => encI 26 0 0 c.toNat
  | .ldI8 d a imm => encI 27 d.val a.val imm.toNat
  | .ldN8 d a imm => encI 28 d.val a.val imm.toNat
  | .ldI16 d a imm => encI 29 d.val a.val imm.toNat
  | .ldN16 d a imm => encI 30 d.val a.val imm.toNat
  | .ldI32 d a imm => encI 31 d.val a.val imm.toNat
  | .ldN32 d a imm => encI 32 d.val a.val imm.toNat
  | .ld d a imm => encI 33 d.val a.val imm.toNat
  | .stI8 d a imm => encI 34 d.val a.val imm.toNat
  | .stI16 d a imm => encI 35 d.val a.val imm.toNat
  | .stI32 d a imm => encI 36 d.val a.val imm.toNat
  | .st d a imm => encI 37 d.val a.val imm.toNat
  | .ldc d a imm => encI 38 d.val a.val imm.toNat
  | .stc d a imm => encI 39 d.val a.val imm.toNat
  | .ldW3 sz d a lit => encW3 8 (ldSizeCode sz) d.val a.val lit
  | .stW3 sz d a lit => encW3 9 (stSizeCode sz) d.val a.val lit
  | .ldcW3 d a lit => encW3 10 0 d.val a.val lit
  | .stcW3 d a lit => encW3 11 0 d.val a.val lit
  | .ll d a imm => encI 40 d.val a.val imm.toNat
  | .sl d a imm => encI 41 d.val a.val imm.toNat
  | .llW3 d a lit => encW3 12 0 d.val a.val lit
  | .slW3 d a lit => encW3 13 0 d.val a.val lit
  | .llf d a imm => encI 42 d.val a.val imm.toNat
  | .slf d a imm => encI 43 d.val a.val imm.toNat
  | .sle d a imm => encI 44 d.val a.val imm.toNat
  | .feq d a imm => encI 45 d.val a.val imm.toNat
  | .post d a b => encA 46 0 d.val a.val b.val
  | .postf d a b => encA 46 1 d.val a.val b.val
  | .llfRemote d a b => encA 46 2 d.val a.val b.val
  | .slfRemote d a b => encA 46 3 d.val a.val b.val
  | .sleRemote d a b => encA 46 4 d.val a.val b.val
  | .feqRemote d a b => encA 46 5 d.val a.val b.val
  | .phase s => encA 47 (scopeCode s) 0 0 0
  | .amoAdd w d a b => encA 47 (16 + wBit w) d.val a.val b.val
  | .amoAnd w d a b => encA 47 (18 + wBit w) d.val a.val b.val
  | .amoOr w d a b => encA 47 (20 + wBit w) d.val a.val b.val
  | .amoXor w d a b => encA 47 (22 + wBit w) d.val a.val b.val
  | .amoMin w d a b => encA 47 (24 + wBit w) d.val a.val b.val
  | .amoMax w d a b => encA 47 (26 + wBit w) d.val a.val b.val
  | .amoMinn w d a b => encA 47 (28 + wBit w) d.val a.val b.val
  | .amoMaxn w d a b => encA 47 (30 + wBit w) d.val a.val b.val
  | .amoSwap w d a b => encA 47 (32 + wBit w) d.val a.val b.val
  | .cas w d a b => encA 47 (40 + wBit w) d.val a.val b.val
  | .lamoAdd d a b => encA 47 48 d.val a.val b.val
  | .lamoAnd d a b => encA 47 49 d.val a.val b.val
  | .lamoOr d a b => encA 47 50 d.val a.val b.val
  | .lamoXor d a b => encA 47 51 d.val a.val b.val
  | .lamoMin d a b => encA 47 52 d.val a.val b.val
  | .lamoMax d a b => encA 47 53 d.val a.val b.val
  | .lamoMinn d a b => encA 47 54 d.val a.val b.val
  | .lamoMaxn d a b => encA 47 55 d.val a.val b.val
  | .lamoSwap d a b => encA 47 56 d.val a.val b.val
  | .waitw w d a b => encA 47 (64 + wBit w) d.val a.val b.val
  | .pref d a => encA 47 72 d.val a.val 0
  | .send c a b => encA 48 c.val 0 a.val b.val
  | .recv c d a => encA 48 (8 + c.val) d.val a.val 0
  | .chq c d => encA 48 (16 + c.val) d.val 0 0
  | .role d a => encA 48 24 d.val a.val 0
  | .start d a b => encA 49 0 d.val a.val b.val
  | .exit => encA 49 1 0 0 0
  | .join d a => encA 49 2 d.val a.val 0
  | .kill a => encA 49 3 0 a.val 0
  | .resume a b => encA 49 4 0 a.val b.val
  | .launch d a b => encA 49 5 d.val a.val b.val
  | .trapret => encA 49 6 0 0 0
  | .faultq d a => encA 49 7 d.val a.val 0
  | .ctrsel d a b => encA 49 8 d.val a.val b.val
  | .time d a => encA 49 9 d.val a.val 0
  | .stop d a b => encA 49 10 d.val a.val b.val
  | .vmap d a b => encA 49 11 d.val a.val b.val
  | .vunmap a => encA 49 12 0 a.val 0
  | .ifl d a => encA 49 13 d.val a.val 0
  | .mfs d r => encI 50 d.val 0 (sregCode r)
  | .mts r a => encI 51 0 a.val (sregCode r)
  | .ctr d e => encI 52 d.val 0 (eventCode e + 0 * 4096)
  | .ctrl d e => encI 52 d.val 0 (eventCode e + 1 * 4096)
  | .ctrh d e => encI 52 d.val 0 (eventCode e + 2 * 4096)
  | .wpres d a b => encA 53 0 d.val a.val b.val
  | .wsplit d a b => encA 53 1 d.val a.val b.val
  | .wdeleg d a b => encA 53 2 d.val a.val b.val
  | .wsurr d a => encA 53 3 d.val a.val 0
  | .wqry d a b => encA 53 4 d.val a.val b.val
  | .gramp a b => encA 54 0 0 a.val b.val
  | .gpin a => encA 54 1 0 a.val 0
  | .wellq d a => encA 55 0 d.val a.val 0
  | .vadd f => encW2 1 f
  | .vsub f => encW2 2 f
  | .vmul f => encW2 3 f
  | .vfma f => encW2 4 f
  | .vmin f => encW2 5 f
  | .vmax f => encW2 6 f
  | .vabs f => encW2 7 f
  | .vneg f => encW2 8 f
  | .vand f => encW2 9 f
  | .vor f => encW2 10 f
  | .vxor f => encW2 11 f
  | .vshl f => encW2 12 f
  | .vshr f => encW2 13 f
  | .vsar f => encW2 14 f
  | .vcmp f => encW2 15 f
  | .vsel f => encW2 16 f
  | .vcvt f => encW2 17 f
  | .vqnt f => encW2 18 f
  | .vdqnt f => encW2 19 f
  | .vrcp f => encW2 20 f
  | .vrsq f => encW2 21 f
  | .vnr f => encW2 22 f
  | .vexp2 f => encW2 23 f
  | .vlog2 f => encW2 24 f
  | .vscan f => encW2 25 f
  | .vred f => encW2 26 f
  | .vbcast f => encW2 27 f
  | .vfill f => encW2 28 f
  | .vcopy f => encW2 29 f
  | .vtran f => encW2 30 f
  | .vgath f => encW2 31 f
  | .vscat f => encW2 32 f
  | .vlut f => encW2 33 f
  | .mma f => encW2 34 f
  | .mmag f => encW2 35 f
  | .mmr f => encW2 36 f
  | .mzero f => encW2 37 f
  | .mrd f => encW2 38 f
  | .mwr f => encW2 39 f
  | .wld f => encW2 40 f
  | .tld f => encW2 41 f
  | .dset f => encW2 42 f
  | .dget f => encW2 43 f
  | .dsta f => encW2 44 f
  | .xcopy f => encW2 45 f
  | .pub f => encW2 46 f
  | .drain f => encW2 47 f
  | .dclr f => encW2 48 f
  | .wellw f => encW2 49 f
  | .bar f => encW2 50 f
  | .red f => encW2 51 f
  | .redx f => encW2 52 f
  | .rstat f => encW2 53 f
  | .corr f => encW2 54 f
  | .slotVisit _ _ | .instructionFetchArrival _ _ _ | .globalReply _ _ _ _ | .remoteMessageArrival _
  | .remoteReplyArrival _ | .vectorCompletion _ | .matrixCompletion _ | .pumpOperationCompletion _ _
  | .coreStart _ _ | .launchAcceptance _ | .registerLineFill _ _ _ _ | .slotRelease _
  | .sendCompletion _ _ | .recvCompletion _ _ | .waitwWake _ _ _ | .governorWindowBoundary
  | .helperfaultTrap _ | .helperDeactivation _ _ | .longOperationFault _ _ _ | .recvDry _ _
  | .waitwTimeout _ _ | .tlbLeaseExpiry _ _ | .vunmapCompletion _ | .wellRefresh _
  | .redNodeArrival _ _ | .redNodeCutoff _ _ _ | .redResultDelivery _ _ | .corrTimeout _ _
  | .barRelease _ _ | .redxRelease _ _ | .mmrTransfer _ _ | .mmrRelease _ | .relockEnd _
  | .standbyEviction _ | .standbyRestore _ _ _ | .standbyRotation _ _ | .standbyHoldExpiry _
  | .warrantExpiry _ | .checkedHashArrival _ _ _ | .checkedHashTimeout _ _ | .scrubLine _ _ _
  | .scrubPassLate _ | .present _ | .object _ | .launchMessage _ | .query _ | .surrender _ | .group _
  | .beacon _ | .claim _ | .claimed _ | .claimResend _ | .claimTimeout _ | .migrate _ _ _ | .moved _ _
  | .oldViPacket _ _ | .announceRepeat | .rmaWrite _ _ _ _ | .rmaRead _ _ _ _
  | .ueUnsupportedPacket _ _ | .controllerCommand _ _ _ _ | .powerOn _ _ _ _ | .moduleColdReset
  | .moduleWarmReset | .dieReset _ | .coreReset _ | .engineReset _ | .portReset _ | .watchdogExpiry _ _
  | .controllerException _ _ _ _ | .securityAlarm _ | .sumpread _ | .cfgread _ | .cfgwrite _ _
  | .rdirEntryWrite _ _ | .gvread _ | .gvwrite _ _ | .dbgreadCounters _ _ | .dbgreadRecord _ _ _
  | .dbgstop _ _ _ | .spdmMeasurements _ | .pldmFirmwareUpdate _ _ | .firmwareActivation _
  | .firmwareSelfTestFailure _ | .powerLoss | .vmapCompletion _ | .warrantInstructionCompletion _
  | .inboundPeerAtomic _ _ _ _ _ _ _ | .portLinkTraining _ | .dieTemperatureSample _ _
  | .platformEventAcknowledge | .redemptionEntryExpiry _ | .dieResetCompletion _ => []

/-- The instruction that the decoder reads from an instruction whose bits are `w`, bit 0 the least
significant bit of the first word, later words counting on (bits above `nbits` are 0). -/
def decodeTableWord (nbits w : Nat) : Option Instr :=
  let w := w % 2 ^ nbits
  match decodeWords (fld w 0 32) (fld w 32 32) (fld w 64 32) with
  | .ok i => some i
  | .error _ => none

end Sys2Proof
end

