-- ==== Sys2Proof/Machine/Contexts.lean ====
section
/-! DEFINITION. The life of contexts on a core: leaving a slot, the activation queue, activation, the end of
helpers and of a launch on a core, and the start of a launch on a core (R28 to R70, R234). -/

namespace Sys2Proof.Machine

open Sys2Proof

/-- Whether a long operation issued by context `hid` is in flight on the core (R55); RED and REDX are none (R317). -/
def Core.longOf (c : Core) (hid : Nat) : Bool :=
  c.vop.any (fun v => v.hid == hid && !v.reads) || c.mop.any (·.hid == hid) || c.pumpq.any (·.hid == hid) || c.mmr.any (·.hid == hid)

/-- The number of set bits of a line mask. -/
def lineCount (l : BitVec 4) : Nat := (List.range 4).countP (fun i => l.getLsbD i)

/-- Slot 11 is to issue a write-back for each dirty line and one for the state block of context `hid` that leaves a slot; the slot
frees at the last of them (R39, R49). -/
def Core.writeBacks (slot : Option Nat) (hid n : Nat) (c : Core) : Core :=
  match slot with
  | none => c
  | some k => { c with wbq := c.wbq ++ [{ slot := k, hid := hid, left := n }] }

/-- A context leaves its slot with a status: its record is written back (R41, R49). -/
def Ctx.vacate (st : Status) (c : Ctx) : Ctx :=
  let c := { c with status := st, slot := none, dirty := 0, fresh := false }
  { c with saved := c.toRec }

/-- The register lines that a context leaves in the cache (R45). -/
def Ctx.lineRecs (c : Ctx) : List LineRec :=
  ((List.finRange 4).filter (fun i => c.lines.getLsbD i.val)).map (fun i => { hid := c.hid, line := i.val, use := c.lineUse.get i })

/-- Context `hid` of core `id` is deactivated with a status (R45, R49). -/
def State.deactivate (id hid : Nat) (st : Status) (s : State) : State :=
  match s.ctxAt id hid with
  | none => s
  | some c =>
    let s := s.modCtx id hid (Ctx.vacate st)
    s.modCore id (fun k => { k.writeBacks c.slot hid (lineCount c.dirty + 1) with
      lru := k.lru.filter (·.hid != hid) ++ c.lineRecs })

/-- A helper becomes ready into the tail of the started band (R51). -/
def State.enterStarted (id hid : Nat) (s : State) : State :=
  let s := s.modCtx id hid (fun c => { c with status := .queued, ready := BitVec.ofNat 64 s.tick, age := 0 })
  s.enqueue id hid (fun k => { k with started := k.started ++ [hid] })

/-- The lowest free slot of 1 to 10 (R52, R53): a slot whose write-backs are not acknowledged is not free (R49). DESIGN CHOICE (log 103):
which of several free slots a helper takes. -/
def Core.freeSlot (c : Core) : Option Nat :=
  ((List.range 10).map (· + 1)).find? (fun n => !c.ctxs.any (fun x => decide (x.slot = some n)) && !c.wbq.any (·.slot == n))

/-- The least identifier of a band. -/
def minHid : List Nat → Option Nat
  | [] => none
  | h :: t => match minHid t with
    | none => some h
    | some m => some (min h m)

/-- The head of a band: in deterministic mode a band is ordered by HID (R70). -/
def bandHead (det : Bool) (l : List Nat) : Option Nat := if det then minHid l else l.head?

/-- The head of the activation queue (R51). -/
def Core.queueHead (det : Bool) (c : Core) : Option Nat :=
  match bandHead det c.promoted with
  | some h => some h
  | none => match bandHead det c.woken with
    | some h => some h
    | none => bandHead det c.started

/-- Insert a helper into a list in the order in which they became ready (R51). -/
def insByReady (ready : Nat → Nat) (h : Nat) : List Nat → List Nat
  | [] => [h]
  | x :: t => if ready h < ready x then h :: x :: t else x :: insByReady ready h t

/-- The helper `hid` is activated into slot `n` (R52): SLOT, ACT, STATUS 2; the lines still in the cache are
present. -/
def Ctx.activate (n tick : Nat) (lines : BitVec 4) (c : Ctx) : Ctx :=
  let c := { c with status := .resident, slot := some n, act := BitVec.ofNat 64 tick, fresh := true, lines := lines,
                    lineReq := 0, awaitFetch := true }
  { c with saved := { c.saved with status := .resident, slot := some n, act := c.act } }

/-- The lines of a context that are still in the cache (R45). -/
def keptLines (l : List LineRec) (hid : Nat) : BitVec 4 :=
  (l.filter (·.hid == hid)).foldl (fun m r => m ||| ((1 : BitVec 4) <<< r.line)) 0

/-- The line that is replaced: the least recently used of a list, of equals the first (R45). -/
def leastUsed : List LineRec → Option LineRec
  | [] => none
  | r :: t => match leastUsed t with
    | none => some r
    | some m => if m.use < r.use then some m else some r

/-- A line is brought into the 64-line cache: when it is full, the least recently used line of a non-resident context makes room; one whose
context's write-backs are not all acknowledged is not replaced (R2, R45, R49). DEDUCED (log 112). -/
def Core.trimLines (c : Core) : Core :=
  if ((c.ctxs.filter (·.slot.isSome)).map (fun x => lineCount x.lines)).sum + c.lru.length ≤ 64 then c
  else
    match leastUsed (c.lru.filter (fun r => !c.wbq.any (·.hid == r.hid))) with
    | none => c
    | some r => { c with lru := c.lru.erase r }

/-- A free slot of core `id` receives the head of the activation queue; those passed over age (R51, R52). DEDUCED (log 104): a promotion
under R51 may place a started helper before a later woken one, beyond the bound of R67, since R51 states the order of the queue. -/
def State.activateHead (id : Nat) (s : State) : State :=
  let c := s.coreAt id
  match c.freeSlot, c.queueHead (s.launchOn c).det with
  | some n, some h =>
    let s := (s.catchUp id).modCtx id h (Ctx.activate n s.tick (keptLines c.lru h))
    let rest := (c.promoted ++ c.woken ++ c.started).filter (· != h)
    let s := rest.foldl (fun s x => s.modCtx id x (fun c => { c with age := c.age + 1 })) s
    let c' := s.coreAt id
    let at_ (x : Nat) : Ctx := (c'.ctxs.find? (·.hid == x)).getD Ctx.zero
    let due := (c.woken ++ c.started).filter (fun x => x != h && (at_ x).age ≥ 8)
    let due := due.foldl (fun l x => insByReady (fun y => (at_ y).readyNo) x l) []
    s.modCore id (fun k => { k with
      promoted := k.promoted.filter (· != h) ++ due,
      woken := k.woken.filter (fun x => x != h && !due.contains x),
      started := k.started.filter (fun x => x != h && !due.contains x),
      lru := k.lru.filter (·.hid != h) })
  | _, _ => s

/-! ## Deterministic order (R437) -/

/-- The value for which a WAITW of context `c` returns, if there is one, with its moment: a home value that differs from `cmp`; in a
deterministic launch, whose base is `det`, the first such value after the latest store that happens before it (R256, R438). -/
def waitwFind (sp : Space) (det : Option Nat) (me : Agent) (c : Ctx) (h sz cmp : Nat) : Option (Nat × Nat) :=
  let v := leNat (Memory.readN sp.mem h sz)
  if det.isSome then
    let lo := sp.certainAt det me c (fun b => decide (h ≤ b) && decide (b < h + sz))
    ((List.range (sp.seq - lo + 1)).map (fun i =>
      (leNat ((List.range sz).map (fun j => (homeAt sp (lo + i) (h + j)).1)), lo + i))).find? (·.1 != cmp)
  else if v != cmp then some (v, sp.seq) else none

/-- Whether a round of a collective that core `core` has joined still lacks participants. -/
def State.roundOpen (core : Nat) (key : ScopeKey) (kind : RKind) (k : Nat) (s : State) : Bool :=
  s.rounds.any (fun r => r.key == key && r.kind == kind && r.k == k && r.cores.contains core && r.result.isNone &&
    decide (r.issued.length < r.parts))

/-- Whether a context waits for what another context or the outside has yet to do, in the sense of R437. DEDUCED (log 50): a wait
that ends by itself, since all that it needs has been done, is none: its context has not passed the keys of its next operations. -/
def State.stalled (x : Core) (c : Ctx) (s : State) : Bool :=
  match c.wait with
  | some (.fe _ _ _) | some .join => true
  | some (.desc d) => (Tab.get Desc.zero x.descs d).state == .filling
  | some (.recv ch _ _) => (x.chans.get ch).isEmpty
  | some (.remote _ _ _) | some (.send _ _ _) => s.pendingAsk x.id c.hid
  | some (.bar key k) => s.roundOpen x.id key .bar k
  | some (.red key k _) => s.roundOpen x.id key .red k
  | some (.redx key k _) => s.roundOpen x.id key .redx k
  | some (.waitw _ va sz cmp _ _) =>
    va.toNat / 2 ^ 62 != 0 ||
      (waitwFind (s.spaceById (s.warById (s.launchOn x).war).space) (s.launchOn x).detBase (x.agent c.hid) c va.toNat sz cmp.toNat).isNone
  | _ => false

/-- The key of a context's next operation in a deterministic launch (R437): `n` is its core index. -/
def Ctx.key (n : Nat) (c : Ctx) : Nat := (c.retired * 65536 + n) * 16 + c.slot.getD 15

/-- The key of the focused context's operation in a deterministic launch (R437). -/
def State.myKey (s : State) : Nat := if s.lau.det then s.cx.key (s.lau.coreIndex s.war s.co.id) else 0

/-- Whether a context of core `x` has not passed a key: it can issue, its operation is held, or its wait ends by itself; a PUB that
waits for its fill has not reached the homes (R97, R437). -/
def State.behind (x : Core) (n key : Nat) (c : Ctx) (s : State) : Bool :=
  match c.status with
  | .queued | .resident => decide (c.key n < key)
  | .waiting | .waitingOut =>
    match c.wait with
    | some (.pub _) => decide (({ c with retired := c.retired - 1 } : Ctx).key n < key)
    | _ => !s.stalled x c && decide (c.key n < key)
  | _ => false

/-- Whether a message is an operation that its home orders by key (R437). -/
def Payload.ordered : Payload → Bool
  | .post _ _ _ | .fe _ _ _ _ | .send _ _ _ => true
  | _ => false

/-- Whether every context of deterministic launch `lid` has passed a key or waits, and every operation with a lesser key has been
performed at its home or has joined a queue there (R437). -/
def State.detReady (lid key : Nat) (s : State) : Bool :=
  let l := s.launchById lid
  let w := s.warById l.war
  l.started.length == l.width * l.height &&
  !s.net.any (fun m => m.launch == lid && m.payload.ordered && decide (m.key < key)) &&
  s.allCores.all (fun x => x.launch != some lid ||
    (x.ctxs.all (fun y => !s.behind x (l.coreIndex w x.id) key y) &&
      !x.pumpq.any (fun o => o.kind == .drain && !o.stored && decide (o.key < key))))

/-- Whether the operation of context `c` of core `core` goes next in its deterministic launch (R437). -/
def State.detMin (core : Nat) (c : Ctx) (s : State) : Bool :=
  let l := s.launchOn (s.coreAt core)
  s.detReady l.id (c.key (l.coreIndex (s.warById l.war) core))

/-- Operations in flight of context `hid`, which ends, no longer belong to a live context (R328, R330). -/
def Core.orphan (hid : Nat) (c : Core) : Core :=
  let f (h : Nat) : Nat := if h = hid then hid + 65536 else h
  { c with
    vop := c.vop.map (fun v => { v with hid := f v.hid }),
    mop := c.mop.map (fun v => { v with hid := f v.hid }),
    pumpq := c.pumpq.map (fun v => { v with hid := f v.hid }),
    mmr := c.mmr.map (fun v => { v with hid := f v.hid }) }

/-- No operation in flight belongs to a live context: the launch has ended on the core, and its operations, the MMRs included,
complete without it (R288, R328). -/
def Core.orphanAll (c : Core) : Core :=
  let f (h : Nat) : Nat := if h < 65536 then h + 65536 else h
  { c with
    vop := c.vop.map (fun v => { v with hid := f v.hid }),
    mop := c.mop.map (fun v => { v with hid := f v.hid }),
    pumpq := c.pumpq.map (fun v => { v with hid := f v.hid }),
    mmr := c.mmr.map (fun v => { v with hid := f v.hid }) }

/-- The live or queued helpers of a core (R54). -/
def Core.liveHelpers (c : Core) : List Ctx := c.ctxs.filter (fun x => x.helper && x.status != .exited)

/-- A helper leaves the table of the focused core: collected or killed (R43). -/
def State.removeCtx (hid : Nat) (s : State) : State :=
  { s with co := { s.co with
    ctxs := s.co.ctxs.filter (fun x => x.hid != hid),
    promoted := delNat s.co.promoted hid, woken := delNat s.co.woken hid, started := delNat s.co.started hid,
    lru := s.co.lru.filter (fun x => x.hid != hid), waiters := s.co.waiters.filter (fun w => !(w.own && w.hid == hid)) } }

/-- The reply that makes the sender trap SCOPE: its target's launch has ended (R234). -/
def refusalReply (l dst : Nat) (m : Msg) : Msg :=
  { launch := l, src := dst, srcHid := m.srcHid, dst := m.src, payload := .reply 0 true false }

/-- Whether a message is a POST or POSTF. -/
def Payload.isPost : Payload → Bool
  | .post _ _ _ => true
  | _ => false

/-- Whether a message asks its target for a reply. -/
def Payload.asks : Payload → Bool
  | .fe _ _ _ _ | .send _ _ _ | .ctrsel _ _ | .stop _ _ _ _ => true
  | _ => false

/-- The warrant stands wholly evicted from now on when each of its launches that has not ended does (R410). -/
def State.noteEvicted (war : Nat) (s : State) : State :=
  let ls := s.launches.filter (fun l => l.war == war && l.state != .done)
  if !ls.isEmpty && ls.all (fun l => l.state == .evicted) then
    s.modWar war (fun w => { w with evicted := some (w.evicted.getD s.tick) })
  else s.modWar war (fun w => { w with evicted := none })

/-- The record of a control context whose EXIT retires (R33, R41). -/
def Ctx.ended (tick : Nat) (c : Ctx) : Rec := ({ c with exitTick := BitVec.ofNat 64 tick }.vacate .exited).saved

/-- The launch ends on core `id` (R33): its messages held there and its waiters are refused, the launch is
done when it has ended on every core. The declaration of GRAMP stays until its window ends (R315), and the record of the control context
stays readable. DESIGN CHOICE (log 117): the records of exited helpers that no JOIN or KILL collected, of which R43 is silent, go back to
their free list. -/
def State.launchEnds (id : Nat) (s : State) : State :=
  let c := s.coreAt id
  match c.launch with
  | none => s
  | some l =>
    let replies := (c.heldMsgs.filter (fun m => m.payload.asks && m.launch == l)).map (refusalReply l id) ++
      ((c.waiters.filter (fun w => !w.own)).map (fun w =>
        { launch := l, src := id, srcHid := w.hid, dst := w.src, payload := .reply 0 true false }))
    let s := s.modLaunch l (fun x =>
      let e := insNat x.ended id
      { x with ended := e, state := if e.length = x.width * x.height then .done else x.state })
    let halt (k : Core) : Core := { k.orphanAll with
      launch := none, ctxs := [], waiters := [], ring := [], held := [], ringNews := false, stops := [],
      promoted := [], woken := [], started := [], lru := [], wbq := [], coll := [], heldMsgs := k.heldMsgs.filter (·.launch != l),
      fillers := [], primary := none, last := (c.ctxs.find? (fun x => !x.helper)).map (Ctx.ended s.tick), request := none }
    let s := ({ s with net := s.net ++ replies }).noteEvicted (s.launchById l).war
    if s.co.id = id then { s with cx := Ctx.zero, co := halt s.co } else s.modCore id halt

/-! ## The start of a launch on a core (R31, R32) -/

/-- The role with which a core starts: 0 none, 1 fetch, 2 work, 3 stow (R62). -/
def Launch.rows (l : Launch) : List Nat :=
  (if l.fetch = 0 then [] else [1]) ++ (if l.work = 0 then [] else [2]) ++ (if l.stow = 0 then [] else [3])
/-- The entry of a role row. -/
def Launch.rowEntry (l : Launch) (r : Nat) : Word :=
  match r with | 1 => l.fetch | 2 => l.work | 3 => l.stow | _ => 0
/-- The starting role of a core. -/
def Launch.startRole (l : Launch) (core : Nat) : Nat :=
  if l.rows = [] then 0 else l.rows.getD (l.xrel core % l.rows.length) 0

/-- The identity block, words k0 to k15 (R32). -/
def identity (l : Launch) (core tick : Nat) : List Byte :=
  let n := l.xrel core % 65536 + l.yrel core % 65536 * 2 ^ 16 + l.width % 65536 * 2 ^ 32 +
    l.height % 65536 * 2 ^ 48 + l.startRole core * 2 ^ 64 + l.lseq % 2 ^ 32 * 2 ^ 96 + tick % 2 ^ 64 * 2 ^ 128 +
    (if l.det then 2 ^ 192 else 0) + (if l.pinned then 2 ^ 193 else 0) + (if l.checked then 2 ^ 194 else 0) +
    (if l.mirror then 2 ^ 195 else 0) + l.cls % 4 * 2 ^ 196 + dieOf core * 2 ^ 224
  leBytes 64 n

/-- The group whose entry equals the launch's (R332, R382). -/
def groupOf (sp : Space) (entry : Word) : Option Group := sp.groups.find? (fun g => g.entry == entry)

/-- The broadcast words k16 to k255: .const lines win over KWORDS (R31, R332). -/
def kWords (l : Launch) (g : Option Group) : List Byte :=
  (List.range 240).flatMap (fun i =>
    let v : W32 := match g with
      | some g => (match g.consts.find? (·.1 == i + 16) with | some p => p.2 | none => l.kwords.getD i 0)
      | none => l.kwords.getD i 0
    leBytes 4 v.toNat)

/-- The seed of st.lfsr (R124). -/
def lfsrSeed (n : Nat) : W32 := BitVec.ofNat 32 ((n + 1) * 0x9E3779B1)

/-- Drop the bytes of a range of a memory. -/
def eraseRange (lo hi : Nat) (m : Memory) : Memory := m.filter (fun c => c.1 < lo || hi ≤ c.1)

/-- The address of core n's stack segment (R361). -/
def Warrant.stackSeg (w : Warrant) (n : Nat) : Nat := w.stackAt + n * 0x100000

/-- The anchor capability of a stack segment at S (R361). -/
def anchorCap (sg : Nat) : W128 := csbCap 0 pAll sg (sg + 0x100000) (sg + 0xFFFF0)
/-- g2 at launch start (R361). -/
def stackCap (sg : Nat) : W128 := csbCap 0 pAll (sg + 0x10000) (sg + 0x100000) (sg + 0xFFFF0)
/-- g3 at launch start (R360, R381): null when there is no global data. -/
def gdataCap (sp : Space) : W128 × Bool :=
  if sp.glen = 0 then (0, false) else (csbCap 0 pAll sp.gbase (sp.gbase + sp.glen) sp.gbase, true)

/-- The local store after the start steps: window zeroed, identity block, broadcast words, .data images. DESIGN CHOICE (log 118): a block
whose window is smaller than the one that the group declares, of which R18 is silent, takes an image's offset modulo its own window, and
the image's bytes follow one another from there, even past the window's end. -/
def startStore (l : Launch) (g : Option Group) (core tick : Nat) (m : Memory) : Memory :=
  let b := l.wbase.toNat
  let m := eraseRange b (b + 2 ^ (l.wsize.toNat + 12)) m
  let m := Memory.writeN m b (identity l core tick ++ kWords l g)
  match g with
  | none => m
  | some g => g.images.foldl (fun m p => Memory.writeN m (b + p.1 % 2 ^ (l.wsize.toNat + 12)) p.2) m

/-- The full/empty bits outside the window, whose bits all become empty (R244). -/
def startFull (l : Launch) (f : List Nat) : List Nat :=
  f.filter (fun a => a < l.wbase.toNat || l.wbase.toNat + 2 ^ (l.wsize.toNat + 12) ≤ a)

/-- Context `hid` of a core of a launch as an agent; a mirror counts to the launch of its primary (R84). -/
def Launch.agentAt (l : Launch) (core hid : Nat) : Agent := ⟨l.mirrorOf.getD l.id, core, hid⟩

/-- The control context of a launch on a core (R31, R41, R223, R433): its snapshot is the moment of its start, before which the module has
written the anchor. -/
def startCtx (l : Launch) (sp : Space) (sg core tick : Nat) : Ctx :=
  let r := l.startRole core
  let pc := if r = 0 then l.entry else l.rowEntry r
  let c := { Ctx.zero with
    pc := pc, region := pc, wbase := l.wbase, wsize := l.wsize, status := .resident, slot := some 0,
    pinned := l.pinned, seals := 0xFBFE, ready := BitVec.ofNat 64 tick, act := BitVec.ofNat 64 tick,
    snap := Vector.replicate 4 sp.seq, born := sp.seq, hb := [(l.agentAt core 0, sp.seq)], fresh := true, awaitFetch := true }
  let c := c.put 2 (stackCap sg) true
  let c := c.put 3 (gdataCap sp).1 (gdataCap sp).2
  { c with saved := c.toRec }

/-- A .tensor descriptor on a core whose launch has a window: its offsets become local-store addresses; a back, scale or permutation
offset of 0 is none (R20). -/
def Desc.inWindow (wbase : BitVec 20) (wsize : BitVec 4) (d : Desc) : Desc :=
  let at_ (o : Nat) : Nat := wbase.toNat + o % 2 ^ (wsize.toNat + 12)
  let opt (o : Nat) : Nat := if o = 0 then 0 else at_ o
  { d with
    front := BitVec.ofNat 64 (at_ d.front.toNat), back := BitVec.ofNat 64 (opt d.back.toNat),
    scale := BitVec.ofNat 64 (opt d.scale.toNat), perm := BitVec.ofNat 20 (opt d.perm.toNat) }

/-- The start steps of launch `lid` on core `id` (R31). What launches of another space left in the store and the TLB is gone
(R72, R81). A mirror's core has its own index (R42), and so its own seed (R124) and stack segment (R361). -/
def State.startCore (lid id : Nat) (s : State) : State :=
  let l := s.launchById lid
  let w := s.warById l.war
  let n := l.coreIndex w id
  let sg := w.stackSeg n
  let base := (s.spaceById w.space).seq
  let s := s.modSpace w.space (fun sp =>
    (sp.store (l.agentAt id 0) (sg + 0xFFFF0) (leBytes 16 (anchorCap sg).toNat) true).released (l.agentAt id 0) 0 0)
  let sp := s.spaceById w.space
  let g := groupOf sp l.entry
  let c := s.coreAt id
  let c := if c.owner = w.space then c else { c with store := [], full := [], poison := [], tlb := [] }
  let c' : Core := { Core.zero id with
    launch := some lid, primary := l.mirrorOf, owner := w.space, store := startStore l g id (s.tick / 100 * 100) c.store, full := startFull l c.full,
    poison := c.poison.filter (fun n => !(l.wbase.toNat ≤ 64 * n && 64 * n < l.wbase.toNat + 2 ^ (l.wsize.toNat + 12))),
    emptyAt := Vector.replicate 8 s.tick,
    descs := match g with
      | none => []
      | some g => g.descs.foldl (fun t p => Tab.set Desc.zero t p.1 (p.2.inWindow l.wbase l.wsize)) [],
    lfsr := lfsrSeed n, role := l.startRole id, cycTick := ((s.dies.getD (dieOf id) DieSt.reset).relock).getD s.tick, grant := c.grant, tlb := c.tlb,
    weightSum := c.weightSum, balSum := c.balSum, gramp := c.gramp,
    corrBase := s.corrLog.length, heldMsgs := c.heldMsgs }
  let ctx := startCtx l sp sg id s.tick
  let s := s.modLaunch lid (fun x => { x with started := insNat x.started id, base := if x.started.isEmpty then base else x.base })
  let s := s.modWar l.war (fun x => { x with launched := true })
  if s.co.id = id then { s with cx := ctx, co := c' }
  else { s with cores := s.cores.filter (·.id != id) ++ [{ c' with ctxs := [ctx] }] }

end Sys2Proof.Machine
end

