-- ==== Sys2Proof/Machine/Control.lean ====
section
/-! DEFINITION. Control instructions (R224 to R230). -/

namespace Sys2Proof.Machine

open Sys2Proof

/-- The target of a displacement in 32-bit units, counted from the instruction (R15, R224). -/
def State.rel (s : State) (disp : BitVec 14) : Word := s.cx.pc + disp.signExtend 64 * 4
/-- A branch: taken to its target, else to Next. -/
def State.branch (taken : Bool) (disp : BitVec 14) (s : State) : State :=
  if taken then s.jump (s.rel disp) else s.retire 4
/-- B (R224). -/
def execB (disp : BitVec 14) (s : State) : Res := .next (s.branch true disp)
/-- BT (R224). -/
def execBt (r : Reg) (bit : Fin 32) (disp : BitVec 14) (s : State) : Res :=
  .next (s.branch ((s.g r).getLsbD bit.val) disp)
/-- BF (R224). -/
def execBf (r : Reg) (bit : Fin 32) (disp : BitVec 14) (s : State) : Res :=
  .next (s.branch (!(s.g r).getLsbD bit.val) disp)
/-- BZ (R224). -/
def execBz (r : Reg) (disp : BitVec 14) (s : State) : Res := .next (s.branch (s.int r == 0) disp)
/-- BNZ (R224). -/
def execBnz (r : Reg) (disp : BitVec 14) (s : State) : Res := .next (s.branch (s.int r != 0) disp)
/-- LOOP (R224): the counter is written first, then tested. -/
def execLoop (r : Reg) (disp : BitVec 14) (s : State) : Res :=
  .next ((s.setInt r (s.int r - 1)).branch (s.int r - 1 != 0) disp)
/-- CALL, W1 form (R225). -/
def execCall (disp : BitVec 14) (s : State) : Res :=
  .next ((s.setInt 1 (s.cx.pc + 4)).jump (s.rel disp))
/-- CALL, W3 form (R225). -/
def execCallW3 (lit : W32) (s : State) : Res :=
  .next ((s.setInt 1 (s.cx.pc + 12)).jump (s.cx.pc + lit.signExtend 64 * 4))
/-- J (R225). -/
def execJ (lit : W32) (s : State) : Res := .next (s.jump (s.cx.pc + lit.signExtend 64 * 4))
/-- NOP (R228). -/
def execNop (s : State) : Res := .next (s.retire 4)
/-- REGION (R55, R228, R451): a lost visit while a long operation of the context is in flight. -/
def execRegion (s : State) : Res :=
  if s.co.longOf s.cx.hid then .next s
  else .next ({ s with
    cx.region := s.cx.pc + 4, cx.sent := 0, cx.hashes := [], cx.restarted := false, cx.redo := [],
    cx.loads0 := s.cx.loads }.retire 4)
/-- RET (R226). -/
def execRet (a : Reg) (s : State) : Res :=
  let t := s.int a
  if t.toNat % 4 ≠ 0 then .next (s.trap cAlign t) else .next (s.jump t)
/-- CALLC (R226): the target is read before g1 is written. -/
def execCallc (a : Reg) (s : State) : Res :=
  let t := s.int a
  if t.toNat % 4 ≠ 0 then .next (s.trap cAlign t)
  else .next ((s.setInt 1 (s.cx.pc + 4)).jump t)
/-- YIELD (R229): a helper gives its slot up when another waits for one; it is ready at once. -/
def execYield (s : State) : Res :=
  let r := s.retire 4
  if !s.cx.helper || s.co.queueEmpty then .next r
  else
    let r := r.deactivate s.co.id s.cx.hid .queued
    .next (r.enterStarted s.co.id s.cx.hid)
/-- TRAP (R230). -/
def execTrap (code : BitVec 14) (s : State) : Res := .next (s.trap cProg (code.setWidth 64))

end Sys2Proof.Machine
end

