-- ==== Sys2Proof/Machine/Checked.lean ====
section
/-! DEFINITION. Checked dispatch at issue (R449 to R452): the hash of an outgoing message, and the gate that holds the
message until the pair agrees. -/

namespace Sys2Proof.Machine

open Sys2Proof

/-- One bit of CRC-64 with polynomial 0x42F0E1EBA9EA3693, unreflected (R450). -/
def crcBit (c : Word) : Word := if c.msb then (c <<< 1) ^^^ 0x42F0E1EBA9EA3693 else c <<< 1
/-- One byte of the CRC. -/
def crcByte (c : Word) (b : Byte) : Word :=
  let c := c ^^^ (b.setWidth 64 <<< 56)
  (List.range 8).foldl (fun c _ => crcBit c) c
/-- The CRC of a byte string from initial value 0. -/
def crc64 (bs : List Byte) : Word := bs.foldl crcByte 0

/-- Whether a virtual address names a peer (R76, R449). -/
def State.isPeer (va : Nat) (s : State) : Bool := va / 2 ^ 62 == 1 && va / 2 ^ 48 % 2 ^ 14 != s.war.peeridx

/-- An address as the hash of the pair covers it. DEDUCED (log 47): the corresponding target of an address in a mirror core's own stack
segment (R361) is the one in the segment of its primary core. -/
def State.canon (va : Word) (s : State) : Nat :=
  let l := s.lau
  let w := s.war
  let p := s.launchById (l.mirrorOf.getD 0)
  let sg := w.stackSeg (l.coreIndex w s.co.id)
  if l.mirror ∧ sg ≤ va.toNat ∧ va.toNat < sg + 0x100000 then
    va.toNat - sg + w.stackSeg (p.coreIndex w (p.coreAt (l.xrel s.co.id) (l.yrel s.co.id)))
  else va.toNat

/-- The bytes that the hash covers of an access to the address of a register and an offset: its kind, its address, its payload. -/
def State.msgAt (kind : Nat) (a : Reg) (off : Word) (payload : List Byte) (s : State) : List Byte :=
  leBytes 1 kind ++ leBytes 8 (s.canon (s.int a + off)) ++ payload

/-- A load, WAITW or PREF is an outgoing message only when it goes to a peer. -/
def State.msgPeer (kind : Nat) (a : Reg) (off : Word) (s : State) : Option (List Byte) :=
  if s.isPeer (s.int a + off).toNat then some (s.msgAt kind a off []) else none

/-- The bytes that the hash covers of a message to a core of the launch: its kind, its target, its offset there, its payload. -/
def State.msgCore (kind : Nat) (a b : Reg) (payload : List Byte) (s : State) : List Byte :=
  leBytes 1 kind ++ leBytes 8 (s.int a).toNat ++ leBytes 8 (s.int b).toNat ++ payload

/-- The low bytes of a register, as a payload. -/
def State.low (n : Nat) (r : Reg) (s : State) : List Byte := leBytes n (s.g r).toNat

/-- An atomic's message. -/
def State.msgAtomic (op : Nat) (w : Bool) (a : Reg) (operands : List Reg) (s : State) : Option (List Byte) :=
  some (s.msgAt (64 + op) a 0 (operands.flatMap (fun r => s.low (if w then 8 else 4) r)))

/-- The kind, target, address and payload of an outgoing message of W1 or W3 form; none for every other instruction (R449, R450). -/
def State.outScalar (s : State) (i : Instr) : Option (List Byte) :=
  match i with
  | .post d a b => some (s.msgCore 0 a b (s.low 4 d))
  | .postf d a b => some (s.msgCore 1 a b (s.low 4 d))
  | .llfRemote _ a b => some (s.msgCore 2 a b [])
  | .feqRemote _ a b => some (s.msgCore 3 a b [])
  | .slfRemote d a b => some (s.msgCore 4 a b (s.low 4 d))
  | .sleRemote d a b => some (s.msgCore 5 a b (s.low 4 d))
  | .send ch a b => some (leBytes 1 (8 + ch.val) ++ leBytes 8 (s.int a).toNat ++ s.localBytes (s.int b) 64 64)
  | .stI8 d a o => some (s.msgAt 16 a (o.signExtend 64) (s.low 1 d))
  | .stI16 d a o => some (s.msgAt 17 a (o.signExtend 64) (s.low 2 d))
  | .stI32 d a o => some (s.msgAt 18 a (o.signExtend 64) (s.low 4 d))
  | .st d a o => some (s.msgAt 19 a (o.signExtend 64) (s.low 8 d))
  | .stc d a o => some (s.msgAt 20 a (o.signExtend 64) (s.low 16 d ++ leBytes 1 (if s.gtag d then 1 else 0)))
  | .stW3 .b8 d a o => some (s.msgAt 16 a (o.signExtend 64) (s.low 1 d))
  | .stW3 .b16 d a o => some (s.msgAt 17 a (o.signExtend 64) (s.low 2 d))
  | .stW3 .b32 d a o => some (s.msgAt 18 a (o.signExtend 64) (s.low 4 d))
  | .stW3 .b64 d a o => some (s.msgAt 19 a (o.signExtend 64) (s.low 8 d))
  | .stcW3 d a o => some (s.msgAt 20 a (o.signExtend 64) (s.low 16 d ++ leBytes 1 (if s.gtag d then 1 else 0)))
  | .amoAdd w _ a b => s.msgAtomic 0 w a [b]
  | .amoAnd w _ a b => s.msgAtomic 1 w a [b]
  | .amoOr w _ a b => s.msgAtomic 2 w a [b]
  | .amoXor w _ a b => s.msgAtomic 3 w a [b]
  | .amoMin w _ a b => s.msgAtomic 4 w a [b]
  | .amoMax w _ a b => s.msgAtomic 5 w a [b]
  | .amoMinn w _ a b => s.msgAtomic 6 w a [b]
  | .amoMaxn w _ a b => s.msgAtomic 7 w a [b]
  | .amoSwap w _ a b => s.msgAtomic 8 w a [b]
  | .cas w d a b => s.msgAtomic 32 w a [b, d]
  | .ldI8 _ a o | .ldN8 _ a o => s.msgPeer 32 a (o.signExtend 64)
  | .ldI16 _ a o | .ldN16 _ a o => s.msgPeer 33 a (o.signExtend 64)
  | .ldI32 _ a o | .ldN32 _ a o => s.msgPeer 34 a (o.signExtend 64)
  | .ld _ a o => s.msgPeer 35 a (o.signExtend 64)
  | .ldc _ a o => s.msgPeer 36 a (o.signExtend 64)
  | .ldW3 .i8 _ a o | .ldW3 .n8 _ a o => s.msgPeer 32 a (o.signExtend 64)
  | .ldW3 .i16 _ a o | .ldW3 .n16 _ a o => s.msgPeer 33 a (o.signExtend 64)
  | .ldW3 .i32 _ a o | .ldW3 .n32 _ a o => s.msgPeer 34 a (o.signExtend 64)
  | .ldW3 .w64 _ a o => s.msgPeer 35 a (o.signExtend 64)
  | .ldcW3 _ a o => s.msgPeer 36 a (o.signExtend 64)
  | .waitw _ _ a _ => s.msgPeer 40 a 0
  | .pref _ a => s.msgPeer 41 a 0
  | _ => none

/-- The bytes of the rows of a descriptor's local front, as an engine message carries them. -/
def State.frontBytes (s : State) (d : BitVec 6) : List Byte :=
  let e := Tab.get Desc.zero s.co.descs d.toNat
  (e.rows e.front.toNat).flatMap (fun r => Memory.readN s.co.store r.1 r.2)

/-- The front base of a descriptor, as an engine message carries it. -/
def State.frontAt (s : State) (d : BitVec 6) : List Byte := leBytes 8 (s.canon (Tab.get Desc.zero s.co.descs d.toNat).front)

/-- The message of a pump operation that reads a peer (R449). -/
def State.msgFill (kind : Nat) (d : BitVec 6) (s : State) : Option (List Byte) :=
  let e := Tab.get Desc.zero s.co.descs d.toNat
  if e.fspace = .glob ∧ s.isPeer e.front.toNat then some (leBytes 1 kind ++ s.frontAt d) else none

/-- The kind, target, address and payload of an outgoing message of an engine instruction (R449). A PUB's leaves once its fill has
completed. -/
def State.outEngine (s : State) (i : Instr) : Option (List Byte) :=
  match i with
  | .bar f => some (leBytes 1 (128 + f.x2.toNat) ++ leBytes 8 (s.int f.ga).toNat)
  | .red f => some (leBytes 1 (132 + f.x2.toNat) ++ leBytes 1 f.cnd.toNat ++ leBytes 1 f.fmt.toNat ++ leBytes 8 (s.int f.ga).toNat ++
      leBytes 8 (s.int f.gd).toNat ++ s.frontBytes f.da)
  | .redx f => some (leBytes 1 (136 + f.x2.toNat) ++ leBytes 1 f.fmt.toNat ++ leBytes 8 (s.int f.ga).toNat ++ s.frontBytes f.da)
  | .mmr f => some (leBytes 1 140 ++ s.frontBytes f.da ++ s.frontBytes f.db)
  | .drain f => some (leBytes 1 141 ++ s.frontAt f.dd ++ s.frontBytes f.da)
  | .pub f =>
    let e := Tab.get Desc.zero s.co.descs f.dd.toNat
    match s.co.fills.find? (·.1 == f.dd.toNat) with
    | some x => if e.bspace = .glob then some (leBytes 1 142 ++ leBytes 8 (s.canon e.back) ++ x.2.2.map (·.2)) else none
    | none => none
  | .xcopy f => s.msgFill 143 f.da
  | .tld f => s.msgFill 144 f.da
  | .wellw f => s.msgFill 145 f.da
  | _ => none

/-- The bytes that the hash of an instruction's outgoing message covers; none when it sends nothing (R449, R450). -/
def State.outgoing (s : State) (i : Instr) : Option (List Byte) := (s.outScalar i).or (s.outEngine i)

/-- The register that the reply to an outgoing message would write. -/
def replyReg : Instr → Option Reg
  | .llfRemote d _ _ | .feqRemote d _ _ => some d
  | .amoAdd _ d _ _ | .amoAnd _ d _ _ | .amoOr _ d _ _ | .amoXor _ d _ _ | .amoMin _ d _ _ | .amoMax _ d _ _
  | .amoMinn _ d _ _ | .amoMaxn _ d _ _ | .amoSwap _ d _ _ | .cas _ d _ _ => some d
  | .ldI8 d _ _ | .ldN8 d _ _ | .ldI16 d _ _ | .ldN16 d _ _ | .ldI32 d _ _ | .ldN32 d _ _ | .ld d _ _ | .ldc d _ _ => some d
  | .ldW3 _ d _ _ | .ldcW3 d _ _ => some d
  | .waitw _ d _ _ | .pref d _ => some d
  | _ => none

/-- Whether an instruction has an effect on its own core beside its outgoing message, which it keeps when that is dropped (R451). -/
def keepsLocal : Instr → Bool
  | .red _ | .redx _ | .mmr _ | .pub _ | .xcopy _ | .tld _ | .wellw _ => true
  | _ => false

/-- A message that was already forwarded before the restart is dropped (R451). DEDUCED (log 46): a reply that it would bring is a free
value. -/
def State.suppress (i : Instr) (len : Nat) (s : State) : State :=
  let n := s.cx.sent + 1
  let s := match replyReg i with
    | some d =>
      let v : Word := (Config.freeWord s.picks).setWidth 64 + ((Config.freeWord (s.picks + 1)).setWidth 64 <<< 32)
      { s.setInt d v with picks := s.picks + 2 }
    | none => s
  let s := s.retire len
  { s with cx.sent := n }

/-- The wait kind of an instruction whose outgoing message waits for its pair (R47, R450); 0 for those that R47 does not list, whose
visits are lost while the message is held. -/
def outKind : Instr → BitVec 4
  | .llfRemote _ _ _ | .slfRemote _ _ _ | .sleRemote _ _ _ | .feqRemote _ _ _ => 2
  | .send _ _ _ => 3
  | .bar _ | .red _ | .redx _ => 4
  | .post _ _ _ | .postf _ _ _ | .mmr _ | .drain _ | .pub _ | .xcopy _ | .tld _ | .wellw _ => 0
  | _ => 1

/-- The instruction `i` of `len` bytes goes on to `go`, or in a checked launch its outgoing message waits for the pair. A message that was
forwarded before a restart is dropped; that of an MMR which the restart abandoned goes again (R451). -/
def State.gate (i : Instr) (len : Nat) (go : State → State) (s : State) : State :=
  if !s.lau.checked || s.cx.agreed || s.cx.dropped then go s
  else
    match s.outgoing i with
    | none => go s
    | some bs =>
      if s.cx.sent ≥ 64 then s.trap cCheck s.cx.pc
      else
        let n := s.cx.sent
        let h := crc64 bs
        match s.cx.hashes[n]? with
        | some k =>
          if k ≠ h then s.waitRe (outKind i) (.check h s.tick)
          else if s.cx.redo.contains n then go { s with cx.sent := n + 1, cx.agreed := true, cx.redo := delNat s.cx.redo n }
          else if keepsLocal i then go { s with cx.sent := n + 1, cx.dropped := true }
          else s.suppress i len
        | none => s.waitRe (outKind i) (.check h (s.tick + 10000))

/-- A mirror's load, WAITW or atomic takes the primary's reply (R449). -/
def State.mirrorLoad (len : Nat) (d : Reg) (s : State) : State :=
  let n := s.cx.loads
  ({ s with cx.loads := n + 1 }).waitOn 1 (.mirror d n) len

/-- Whether a reply is for context `hid` of relative core (x, y). -/
def MirrorReply.isOf (x y hid : Nat) (r : MirrorReply) : Bool := r.x == x && r.y == y && r.hid == hid

/-- What a primary copy's n-th load gave is kept for its mirror, as `f` fills it in (R449). -/
def State.keepReply (core hid n : Nat) (f : MirrorReply → MirrorReply) (s : State) : State :=
  let l := s.launchOn (s.coreAt core)
  if !l.checked || l.mirror then s
  else
    let r : MirrorReply := { x := l.xrel core, y := l.yrel core, hid := hid, n := n, val := 0, tag := false }
    s.modLaunch l.id (fun x => { x with replies := x.replies.filter (fun q => !q.isOf r.x r.y hid || q.n != n) ++ [f r] })

/-- The number of the latest load of a context. -/
def State.loadNo (core hid : Nat) (s : State) : Nat := ((s.ctxAt core hid).map (·.loads)).getD 1 - 1

/-- The reply of a primary copy is kept for its mirror (R449). -/
def State.noteReply (core hid : Nat) (val : W128) (tag : Bool) (s : State) : State :=
  s.keepReply core hid (s.loadNo core hid) (fun r => { r with val := val, tag := tag })

/-- A primary copy's access meets a page that its peer refuses, and so does its mirror's (R81, R449). -/
def State.noteRefusal (core hid : Nat) (va : Word) (s : State) : State :=
  s.keepReply core hid (s.loadNo core hid) (fun r => { r with unmapped := some va })

/-- A primary's load, WAITW or atomic takes its number. -/
def State.countLoad (s : State) : State := if s.lau.checked then { s with cx.loads := s.cx.loads + 1 } else s

/-- A mirror has taken a reply: those of loads before its region entry are not needed again (R449, R451). -/
def State.dropReply (core : Nat) (r : MirrorReply) (s : State) : State :=
  let n := ((s.ctxAt core r.hid).map (·.loads0)).getD r.n
  s.modLaunch ((s.launchOn (s.coreAt core)).mirrorOf.getD 0) (fun l => { l with
    replies := l.replies.filter (fun q => !(q.isOf r.x r.y r.hid && decide (q.n < n))) })

/-- The primary's reply that a mirror's wait `n` takes, once it is there. -/
def State.mirrorReply (core hid n : Nat) (s : State) : Option MirrorReply :=
  let l := s.launchOn (s.coreAt core)
  (s.launchById (l.mirrorOf.getD 0)).replies.find? (fun r =>
    r.isOf (l.xrel core) (l.yrel core) hid && r.n == n)

end Sys2Proof.Machine
end

