-- ==== Sys2Proof/Machine/Visit.lean ====
section
/-! DEFINITION. A slot visit (R34 to R40, R44, R168, R187, R188, R338): the cycle, the instruction fetch, the
decoding and its traps, and the decision to issue. -/

namespace Sys2Proof.Machine

open Sys2Proof

/-! ## Power weights (R159, R161) -/

/-- Power in the model's unit, 1/2048 mW: a unit's weight in mW at 1.6 GHz, on a die at m · 100 MHz. -/
def weightAt (m mw : Nat) : Nat := mw * 128 * m
/-- The die of the focused core. -/
def State.die (s : State) : DieSt := s.dies.getD (dieOf s.co.id) DieSt.reset
/-- The present multiplier of the focused core's die (R167). -/
def State.mult (s : State) : Nat := s.die.cur
/-- The weight in mW of the units that program work keeps busy in the cycle of the present visit, the last that the core has reached (R159,
R161). -/
def Core.busyMw (c : Core) : Nat :=
  (if c.vop.any (fun v => decide (c.cycle - 1 < v.cycles)) then 500 else 0) +
  (if c.mop.any (fun v => decide (c.cycle - 1 < v.cycles)) then 2000 else 0) + (if c.pumpq.isEmpty then 0 else 300)
/-! ## Time -/

/-- The focused core's cycle count becomes `n`; ticks follow at m cycles a tick (R34, R167). -/
def State.reach (n : Nat) (s : State) : State :=
  { s with
    tick := max s.tick (s.co.cycTick + (n - 1 - s.co.cycBase) / max 1 s.mult),
    co := s.co.pass n }

/-- The first cycle of the focused core, now or later, that belongs to a slot (R34). -/
def State.slotCycle (slot : Nat) (s : State) : Nat :=
  let c := s.cyclesOf s.co
  c + (slot + 12 - c % 12) % 12

/-- Slot 11: the next write-back, whose last one frees its slot; with none pending, a ballast operation when the account reaches
the full-core weight (R39, R49, R163). DESIGN CHOICE (log 119): the issues of slot 11 add no weight of the issue unit (R159). -/
def State.serviceSlot (s : State) : State :=
  match s.co.wbq with
  | w :: rest =>
    ({ s with co.wbq := if w.left ≤ 1 then rest else { w with left := w.left - 1 } :: rest }).count (.issued 11)
  | [] =>
  let m := s.mult
  let used := weightAt m s.co.busyMw
  let acct := s.co.balAcct + min (s.co.grant - used) (fullMw * 2048)
  if acct ≥ weightAt m fullMw ∧ s.co.mop.isNone ∧ s.gov.resetTill.isNone then
    ({ s with co.balAcct := acct - weightAt m fullMw, co.ballast := 12 }).count (.issued 11)
  else { s with co.balAcct := acct }

/-! ## Fetch and decode -/

/-- Whether the instruction page of an address is mapped (R82). -/
def Space.imapped (sp : Space) (a : Nat) : Bool := sp.ipages.contains (a / 2 ^ 21)
/-- The instruction word at an address. -/
def Space.iword (sp : Space) (a : Nat) : Nat := leNat (Memory.readN sp.imem a 4)

/-- What the fetch and decoding of the instruction at an address give (R187). -/
inductive Fetched where
  | page (a : Nat)
  | bad (e : DecErr) (w0 w1 : Nat)
  | ok (i : Instr) (w0 : Nat)
  deriving DecidableEq, Repr

/-- Fetch and decode in the order of R187. -/
def Space.fetch (sp : Space) (pc : Nat) : Fetched :=
  if !sp.imapped pc then .page pc
  else
    let w0 := sp.iword pc
    let n := wordCount w0
    if n = 0 then .bad .length w0 0
    else if n ≥ 2 ∧ !sp.imapped (pc + 4) then .page (pc + 4)
    else if n ≥ 3 ∧ !sp.imapped (pc + 8) then .page (pc + 8)
    else
      let w1 := if n ≥ 2 then sp.iword (pc + 4) else 0
      let w2 := if n ≥ 3 then sp.iword (pc + 8) else 0
      match decodeWords w0 w1 w2 with
      | .ok i => .ok i w0
      | .error e => .bad e w0 w1

/-- A poisoned line that the fetch of the instruction at an address reads (R446, R448). -/
def Space.fetchBad (sp : Space) (pc : Nat) : Option Nat :=
  if !sp.imapped pc then none
  else ((List.range (max 1 (wordCount (sp.iword pc)))).map (fun i => (pc + 4 * i) / 64)).find? sp.ipoison.contains

/-- The cause of a decoding failure (R187, R319). -/
def decCause : DecErr → BitVec 16
  | .length => cEncLength
  | .major => cEncMajor
  | .minor => cEncMinor
  | .reserved => cEncReserved

/-- st.tval of an encoding trap: word 0 and, where there is one, word 1 (R188). -/
def decTval (w0 w1 : Nat) : Word := BitVec.ofNat 64 (w0 + w1 * 2 ^ 32)

/-- The registers that an instruction names by its fields, of word 0 (R44, R170, R171). SEL's predicate
register lies in bits [31:27]. -/
def namedRegs (w0 : Nat) : List Reg :=
  let r (lo : Nat) : Reg := regOf w0 lo
  let maj := fld w0 2 6
  if fld w0 0 2 ≠ 0 then [r 8, r 13]
  else if maj = 1 ∨ maj = 2 ∨ maj = 14 ∨ maj = 15 ∨ maj = 16 ∨ (46 ≤ maj ∧ maj ≤ 49) ∨ maj = 53 ∨ maj = 54 ∨ maj = 55
    then [r 8, r 13, r 18]
  else if maj = 3 then [r 8, r 13, r 18, r 27]
  else if 18 ≤ maj ∧ maj ≤ 24 ∨ maj = 9 then [r 8]
  else if maj = 25 then [r 13]
  else [r 8, r 13]

/-- The register lines that an instruction names (R44): g0 needs none. -/
def namedLines (w0 : Nat) : BitVec 4 :=
  (namedRegs w0).foldl (fun l r => if r = 0 then l else l ||| lineOf r) 0

/-- Whether a register that the instruction names is held by a VCMP of the context (R275). -/
def State.heldReg (s : State) (rs : List Reg) : Bool :=
  match s.co.vop with
  | some v => v.hid == s.cx.hid && (match v.pred with
    | some (p, _, _) => p != 0 && rs.contains p
    | none => false)
  | none => false

/-- Whether the entry of an instruction tests a register held by a VCMP itself, as its check 8 (R266, R275, R287). -/
def checksHeld (i : Instr) : Bool :=
  match w2Of i with
  | some (maj, _) => decide (maj < 34) || maj == 38 || maj == 39 || maj == 51 || maj == 52
  | none => false

/-- The armed stop that the focused helper meets at its PC (R338, R434). -/
def State.stopHit (s : State) : Bool :=
  s.cx.helper && s.co.stops.any (fun r => decide (s.cx.slot = some r.slot) && r.pc == s.cx.pc)

/-- A stop fires: the helper is parked before issue, the stop is disarmed (R338). -/
def State.fireStop (s : State) : State :=
  let s' := s.park 2 cStopped s.cx.pc s.cx.pc s.cx.pc
  { s' with co.stops := s'.co.stops.eraseP (fun r => decide (s.cx.slot = some r.slot) && r.pc == s.cx.pc) }

/-- A long-operation fault whose context has ended its wait: the context resumes at its region entry and takes
the trap, or for a helper its record (R56, R321, R324, R452). -/
def State.pendingFault (s : State) : State :=
  match s.cx.pend with
  | none => s
  | some p =>
    let s := { s with cx := { s.cx.restart with pend := none } }
    if s.cx.helper then s.park p.kind p.cause p.tval p.fpc (p.pc s.cx)
    else s.takeTrap p.cause p.tval (p.pc s.cx)

/-- Whether an asynchronous trap is taken at this boundary of the focused context (R323): an instruction whose held message or operation
now goes completes first. -/
def State.asyncDue (s : State) : Bool :=
  !s.cx.helper && s.co.pending && !s.cx.intrap && !s.cx.afterCtrl && !s.cx.agreed

/-- A waiting helper is deactivated at a visit when its wait has lasted the threshold and others are ready
(R48). -/
def State.waitVisit (s : State) : State :=
  if s.cx.helper ∧ s.cx.status = .waiting ∧ s.cx.waitk ≠ 0 ∧ s.co.cycle - s.cx.waitSince ≥ s.co.actthr.toNat ∧
      !s.co.queueEmpty then
    s.deactivate s.co.id s.cx.hid .waitingOut
  else s

/-- The operations that a deterministic launch performs at their issue and therefore holds there until their key is the least, each with the
WAITK of R47 while it is held, 0 for a visit lost as to a busy unit (R35, R99, R105, R246, R437). DESIGN CHOICE (log 50): the kinds. Those that
another core performs are held there. -/
def heldKind : Instr → Option (BitVec 4)
  | .stI8 _ _ _ | .stI16 _ _ _ | .stI32 _ _ _ | .st _ _ _ | .stc _ _ _ | .stW3 _ _ _ _ | .stcW3 _ _ _
  | .amoAdd _ _ _ _ | .amoAnd _ _ _ _ | .amoOr _ _ _ _ | .amoXor _ _ _ _ | .amoMin _ _ _ _ | .amoMax _ _ _ _
  | .amoMinn _ _ _ _ | .amoMaxn _ _ _ _ | .amoSwap _ _ _ _ | .cas _ _ _ _
  | .lamoAdd _ _ _ | .lamoAnd _ _ _ | .lamoOr _ _ _ | .lamoXor _ _ _ | .lamoMin _ _ _ | .lamoMax _ _ _
  | .lamoMinn _ _ _ | .lamoMaxn _ _ _ | .lamoSwap _ _ _ => some 1
  | .llf _ _ _ | .slf _ _ _ | .sle _ _ _ | .feq _ _ _ => some 2
  | .drain _ | .pub _ => some 0
  | _ => none

/-- The instruction is left in `ir` for the step to run; in a deterministic launch an operation whose key is not the least is held
(R437). -/
def State.holdOrIssue (i : Instr) (s : State) : State :=
  match (if s.lau.det then heldKind i else none) with
  | none => { s with ir := some i }
  | some k =>
    if s.detMin s.co.id s.cx then { s with ir := some i }
    else if k = 0 then s
    else s.waitRe k .detHold

/-- The named register lines are used in this cycle (R45). -/
def Ctx.useLines (l : BitVec 4) (cycle : Nat) (c : Ctx) : Ctx :=
  { c with lineUse := Vector.ofFn (fun i => if l.getLsbD i.val then cycle else c.lineUse.get i) }

/-- The visit of the focused context: a trap, a stop, a lost visit, or the instruction that issues, left in
`ir` for the step to run (R35, R187). -/
def State.visitReady (s : State) : State :=
  if s.cx.rewind then { s with cx.rewind := false, cx.pc := s.cx.region }
  else if s.cx.pend.isSome then s.pendingFault
  else if s.asyncDue then s.takeHelperFault
  else if s.stopHit then s.fireStop
  else if s.cx.awaitFetch then s
  else
    match s.space.fetchBad s.cx.pc.toNat, s.space.fetch s.cx.pc.toNat with
    | some n, _ => s.uncorrReg (BitVec.ofNat 64 n)
    | none, .page a => s.trap cPage (BitVec.ofNat 64 a)
    | none, .bad e w0 w1 => s.trap (decCause e) (decTval w0 w1)
    | none, .ok i w0 =>
      let missing := namedLines w0 &&& ~~~s.cx.lines
      if missing ≠ 0 then
        let new := missing &&& ~~~s.cx.lineReq
        let cnt := s.co.counters
        { s with
          cx.lineReq := s.cx.lineReq ||| missing,
          co.counters := Tab.set 0 cnt 1 (Tab.get 0 cnt 1 + BitVec.ofNat 64 (lineCount new)) }
      else if !checksHeld i && s.heldReg (namedRegs w0) then s.accRetry
      else
        let s := { s with cx := s.cx.useLines (namedLines w0) s.co.cycle }
        let s := if s.cx.helper && s.cx.retired == 0 then s.acquire 0 else s
        s.gate i (4 * wordCount w0) (State.holdOrIssue i)

/-- The visit of a slot that holds a context: a held operation goes when its key is the least (R437). -/
def State.visitCtx (s : State) : State :=
  if s.cx.status = .resident then s.visitReady
  else if s.cx.status = .waiting ∧ s.cx.wait = some .detHold ∧ s.detMin s.co.id s.cx then
    ({ s with cx := { s.cx.wakeUp s.tick with agreed := true } }).visitReady
  else s.waitVisit

/-- Whether the focused core's die relocks (R40, R166). -/
def State.relocking (s : State) : Bool := s.die.relock.isSome

/-- The slots of a core whose visits may do something: those of contexts that can issue, those of waiting helpers while others
are ready (R48), and slot 11 with write-backs pending, under a grant or with an account that may be full (R39, R163). -/
def Core.visitSlots (c : Core) : List Nat :=
  ((List.range 11).filter (fun k => c.ctxs.any (fun x => decide (x.slot = some k) &&
    ((x.status == .resident && !x.awaitFetch) || (x.status == .waiting && x.helper && !c.queueEmpty))))) ++
  (if c.grant = 0 && c.wbq.isEmpty && decide (c.balAcct < weightAt 10 fullMw) then [] else [11])

/-- The slots of a core whose visits may do something now: once its launch's eviction has begun, slot 11 alone (R59, step 1). -/
def State.dueSlots (c : Core) (s : State) : List Nat :=
  if (s.launchOn c).halted then c.visitSlots.filter (· == 11) else c.visitSlots

/-- The first slot, from the focused core's present cycle on, that is `slot` or whose visit may do something (R34, R66). -/
def State.nextVisit (slot : Nat) (s : State) : Nat :=
  let c := s.cyclesOf s.co
  let l := s.dueSlots s.packed
  (((List.range 12).map (fun i => (c + i) % 12)).find? (fun k => k == slot || l.contains k)).getD slot

/-- The visit of slot `slot` of the focused core at its next cycle. -/
def State.visitSlot (slot : Nat) (s : State) : State :=
  let s := s.reach (s.slotCycle slot + 1)
  if slot = 11 then s.serviceSlot
  else
    let s := s.focusSlot s.co.id slot
    if s.cx.slot = some slot ∧ s.cx.status ≠ .free ∧ !s.lau.halted then s.visitCtx else s

/-- SLOT_VISIT (R34): the next cycle of core `core` that belongs to slot `slot`. The cycles of other slots that come first are not
passed over: the visit of the first of them that may do something is made, and that of `slot` is still to come (R66). -/
def execSlotVisit (core slot : Nat) (s : State) : Res :=
  let s := s.focusCore core
  if s.relocking then .next s
  else
    let k := s.nextVisit slot
    .next (s.visitSlot k |> fun t => if k = slot then t else { t with agenda := .slotVisit core slot :: t.agenda })

/-- Whether the die of a core relocks: messages to it wait at the FIFOs' inputs (R166, R355). -/
def State.relocks (s : State) (core : Nat) : Bool := (s.dies.getD (dieOf core) DieSt.reset).relock.isSome

/-- The dies that a message passes, its ends included: x first, then y (R26). -/
def pathDies (a b : Nat) : List Nat :=
  let xa := a % 64 / 16
  let xb := b % 64 / 16
  let ya := a / 64 / 16
  let yb := b / 64 / 16
  ((List.range 4).filter (fun x => decide (min xa xb ≤ x) && decide (x ≤ max xa xb))).map (fun x => x + 4 * ya) ++
  ((List.range 2).filter (fun y => decide (min ya yb ≤ y) && decide (y ≤ max ya yb))).map (fun y => xb + 4 * y)

/-- Whether a die on the path from core `a` to core `b` relocks: a message waits (R166). -/
def State.pathHeld (a b : Nat) (s : State) : Bool :=
  (pathDies a b).any (fun d => (s.dies.getD d DieSt.reset).relock.isSome)

/-- What has come to the inputs of a relocking die's FIFOs and is not listed there yet: messages of the network, and corrections (R355). -/
def State.waitingAt (die : Nat) (s : State) : List DieInput :=
  let d := s.dies.getD die DieSt.reset
  let n := s.corrLog.length
  let held : List Msg := s.net.filter (fun m => (pathDies m.src m.dst).contains die)
  let l : List DieInput := held.map DieInput.message ++ (if n = 0 then [] else [DieInput.corrections n])
  l.filter (fun e => !d.inputs.contains e)

/-- An arrival at a die that relocks waits there, behind what came before. -/
def State.atInput (die : Nat) (e : DieInput) (s : State) : State :=
  let w := s.waitingAt die
  { s with dies := s.dies.modify die (fun d => { d with inputs := d.inputs ++ w ++ [e] }) }

/-- An arrival at a core whose die relocks waits at the inputs of the die's FIFOs until the relock ends (R40, R166, R355). -/
def State.inputOf (core : Nat) (e : DieInput) (go : Res) (s : State) : Res :=
  if s.relocks core then .next (s.atInput (dieOf core) e) else go

/-- INSTRUCTION_FETCH_ARRIVAL (R35): the next instruction of a context has been fetched; a word with an uncorrectable error ends the
context that reads it (R325, R446). -/
def execInstructionFetchArrival (core hid : Nat) (uncorrectable : Bool) (s : State) : Res :=
  s.inputOf core (.fetch core hid uncorrectable) <|
  match s.ctxAt core hid with
  | none => .next s
  | some c =>
    if uncorrectable ∧ c.status = .resident then
      .next (((s.countSensor 0x41).focusCtx core hid).uncorrReg (BitVec.ofNat 64 (c.pc.toNat / 64)))
    else .next (s.modCtx core hid (fun c => { c with awaitFetch := false }))

end Sys2Proof.Machine
end

