-- ==== Sys2Proof/Machine/Global.lean ====
section
/-! DEFINITION. Global loads and stores, atomics, WAITW, PREF and PHASE (R232 to R241, R251 to R258), with the
replies and wakes that end their waits. -/

namespace Sys2Proof.Machine

open Sys2Proof

/-- The outcome of the checks of R232: a trap, or where the access goes. -/
inductive Access where
  | trap (cause : BitVec 16)
  | home (a : Nat)
  | peer (idx : Nat)
  deriving DecidableEq, Repr

/-- Steps 2 to 4 of R232: CapCheck, alignment, translation. -/
def State.access (s : State) (base : Reg) (off : Word) (perm sz : Nat) : Access :=
  let ea := s.ea base off
  match capCheck (s.g base) (s.gtag base) perm ea sz with
  | some c => .trap c
  | none =>
    if ea.toNat % sz ≠ 0 then .trap cAlign
    else
      match s.translate ea.toNat with
      | .home a => .home a
      | .peer i => .peer i
      | .unmapped => .trap cPage

/-- The access that begins reads no poisoned line of this module. -/
def State.clean (s : State) : State := { s with cx.badLine := false }

/-- A request to a peer module's network interface: to its VI, with the address and data; an access of an atomic has as many bytes
of each operand as its width (R241, R253, R254). -/
def State.askPeer (idx opc : Nat) (va : Word) (data : List Byte) (s : State) : State :=
  s.clean.emit (idx + 2 ^ 32) opc va data

/-- Whether a poisoned line holds a byte of an access (R446). -/
def Space.bad (sp : Space) (a : Nat) : Bool := sp.poison.contains (a / 64)

/-- The value of a load's bytes in its register: sign- or zero-extended below 16 bytes (R235). -/
def extendVal (signed : Bool) (bytes v : Nat) : W128 :=
  if bytes = 16 then BitVec.ofNat 128 v
  else (if signed then signExt v (8 * bytes) else zeroExt v (8 * bytes)).setWidth 128

/-- A global load (R236): the context waits for the reply, which writes the register. -/
def State.gload (len : Nat) (d a : Reg) (off : Word) (sz : Nat) (signed : Bool) (s : State) : State :=
  match s.access a off pLD sz with
  | .trap c => s.trap c (tvalOf (s.ea a off))
  | .home h =>
    if s.lau.mirror then s.mirrorLoad len d else
    let s := s.countLoad
    let bs := s.viewLoad h sz
    let s' := (s.tlbFill h).noteRead h bs none
    ({ s' with cx.badLine := s.space.bad h, cx.loadLine := h / 64 }).waitOn 1
      (.reply d (extendVal signed sz (leNat bs)) false signed sz none) len
  | .peer i =>
    let va := tvalOf (s.ea a off)
    if s.lau.mirror then s.mirrorLoad len d
    else (({ s with cx.loadLine := va.toNat / 64 }.countLoad).askPeer i 1 va []).waitOn 1 (.reply d 0 false signed sz (some va)) len

/-- LDC (R238). -/
def State.gloadCap (len : Nat) (d a : Reg) (off : Word) (s : State) : State :=
  match s.access a off pLD 16 with
  | .trap c => s.trap c (tvalOf (s.ea a off))
  | .home h =>
    if s.lau.mirror then s.mirrorLoad len d else
    let s := s.countLoad
    let bs := s.viewLoad h 16
    let t := s.viewLoadTag h
    let s' := (s.tlbFill h).noteRead h bs (some t)
    ({ s' with cx.badLine := s.space.bad h, cx.loadLine := h / 64 }).waitOn 1
      (.reply d (extendVal false 16 (leNat bs)) (t && (capPerm (s.g a).toNat &&& pLDC == pLDC)) false 16 none) len
  | .peer i =>
    let va := tvalOf (s.ea a off)
    if s.lau.mirror then s.mirrorLoad len d else
    (({ s with cx.loadLine := va.toNat / 64 }.countLoad).askPeer i 2 va []).waitOn 1 (.reply d 0 (capPerm (s.g a).toNat &&& pLDC == pLDC) false 16 (some va)) len

/-- A store to a peer's address is the latest value that the context reads there (R86, R88). -/
def State.peerStore (va : Word) (bs : List Byte) (tag : Bool) (s : State) : State :=
  { s with cx.view := { addr := va.toNat, data := bs, tag := some tag, kind := .released } :: s.cx.view }

/-- A global store of the low `sz` bytes of the data register (R236, R239): accepted, then its wait ends. A mirror's store to a peer takes the
primary's answer (R81, R449). -/
def State.gstore (len : Nat) (d a : Reg) (off : Word) (sz : Nat) (cap : Bool) (s : State) : State :=
  let tag := cap && s.gtag d
  match s.access a off (if tag then pST + pSTC else pST) sz with
  | .trap c => s.trap c (tvalOf (s.ea a off))
  | .home h =>
    if s.lau.mirror then s.waitOn 1 (.accept none) len
    else ((s.tlbFill h).viewStore h (leBytes sz (s.g d).toNat) tag).waitOn 1 (.accept none) len
  | .peer i =>
    let va := tvalOf (s.ea a off)
    let bs := leBytes sz (s.g d).toNat
    if s.lau.mirror then s.mirrorLoad len 0 else
    (((s.countLoad).askPeer i (if tag then 4 else 3) va bs).peerStore va bs tag).waitOn 1 (.accept (some va)) len

/-- What an atomic writes: operation `op` of R185 with operand `x`, or CAS (32) with its compare value; none when nothing is written
(R253, R254). -/
def atomicF (op bits x cmp old : Nat) : Option Nat :=
  if op = 32 then (if old = cmp then some x else none) else some (amoF op bits old x)

/-- The agent whose write `sz` bytes at home address `a` hold, as an atomic of a deterministic launch observes it (R90). -/
def State.holder (a sz : Nat) (s : State) : Option (Agent × Nat) :=
  if s.lau.det then s.space.writerOf s.space.seq (fun b => decide (a ≤ b) && decide (b < a + sz)) else none

/-- AMO and CAS (R253, R254). -/
def State.gatomic (op : Nat) (w : Bool) (d a b : Reg) (s : State) : State :=
  let bits := if w then 64 else 32
  let x := (s.int b).toNat % 2 ^ bits
  let cmp := (s.int d).toNat % 2 ^ bits
  let sz := if w then 8 else 4
  match s.access a 0 pAMO sz with
  | .trap c => s.trap c (tvalOf (s.ea a 0))
  | .home h =>
    if s.lau.mirror then s.mirrorLoad 4 d else
    let (s', old) := (((s.countLoad).tlbFill h).observe s.co.id s.cx.hid (s.holder h sz)).atHome h sz (atomicF op bits x cmp)
    ({ s' with cx.badLine := s.space.bad h, cx.loadLine := h / 64 }).waitOn 1 (.reply d (extendVal false sz old) false false sz none) 4
  | .peer i =>
    if s.lau.mirror then s.mirrorLoad 4 d else
    ((s.countLoad).askPeer i (if op = 32 then 32 else 16 + op) (s.int a) (leBytes sz x ++ leBytes sz cmp)).waitOn 1
      (.peerAtomic d (s.int a) sz op x cmp) 4

/-- LD.i8 (R235, R236). -/
def execLdI8 (d a : Reg) (imm : BitVec 14) (s : State) : Res := .next (s.gload 4 d a (imm.signExtend 64) 1 true)
/-- LD.n8 (R235, R236). -/
def execLdN8 (d a : Reg) (imm : BitVec 14) (s : State) : Res := .next (s.gload 4 d a (imm.signExtend 64) 1 false)
/-- LD.i16 (R235, R236). -/
def execLdI16 (d a : Reg) (imm : BitVec 14) (s : State) : Res := .next (s.gload 4 d a (imm.signExtend 64) 2 true)
/-- LD.n16 (R235, R236). -/
def execLdN16 (d a : Reg) (imm : BitVec 14) (s : State) : Res := .next (s.gload 4 d a (imm.signExtend 64) 2 false)
/-- LD.i32 (R235, R236). -/
def execLdI32 (d a : Reg) (imm : BitVec 14) (s : State) : Res := .next (s.gload 4 d a (imm.signExtend 64) 4 true)
/-- LD.n32 (R235, R236). -/
def execLdN32 (d a : Reg) (imm : BitVec 14) (s : State) : Res := .next (s.gload 4 d a (imm.signExtend 64) 4 false)
/-- LD, 64-bit (R235, R236). -/
def execLd (d a : Reg) (imm : BitVec 14) (s : State) : Res := .next (s.gload 4 d a (imm.signExtend 64) 8 false)
/-- ST 8-bit (R235, R236). -/
def execStI8 (d a : Reg) (imm : BitVec 14) (s : State) : Res := .next (s.gstore 4 d a (imm.signExtend 64) 1 false)
/-- ST 16-bit (R235, R236). -/
def execStI16 (d a : Reg) (imm : BitVec 14) (s : State) : Res := .next (s.gstore 4 d a (imm.signExtend 64) 2 false)
/-- ST 32-bit (R235, R236). -/
def execStI32 (d a : Reg) (imm : BitVec 14) (s : State) : Res := .next (s.gstore 4 d a (imm.signExtend 64) 4 false)
/-- ST 64-bit (R235, R236). -/
def execSt (d a : Reg) (imm : BitVec 14) (s : State) : Res := .next (s.gstore 4 d a (imm.signExtend 64) 8 false)
/-- LDC (R238). -/
def execLdc (d a : Reg) (imm : BitVec 14) (s : State) : Res := .next (s.gloadCap 4 d a (imm.signExtend 64))
/-- STC (R239). -/
def execStc (d a : Reg) (imm : BitVec 14) (s : State) : Res := .next (s.gstore 4 d a (imm.signExtend 64) 16 true)
/-- Bytes of a W3 load. -/
def ldBytes : LdSize → Nat
  | .i8 | .n8 => 1
  | .i16 | .n16 => 2
  | .i32 | .n32 => 4
  | .w64 => 8
/-- Whether a W3 load sign-extends. -/
def ldSigned : LdSize → Bool
  | .i8 | .i16 | .i32 => true
  | .n8 | .n16 | .n32 | .w64 => false
/-- Bytes of a W3 store. -/
def stBytes : StSize → Nat
  | .b8 => 1 | .b16 => 2 | .b32 => 4 | .b64 => 8
/-- LD, W3 form (R235, R236). -/
def execLdW3 (sz : LdSize) (d a : Reg) (lit : W32) (s : State) : Res :=
  .next (s.gload 12 d a (lit.signExtend 64) (ldBytes sz) (ldSigned sz))
/-- ST, W3 form (R235, R236). -/
def execStW3 (sz : StSize) (d a : Reg) (lit : W32) (s : State) : Res :=
  .next (s.gstore 12 d a (lit.signExtend 64) (stBytes sz) false)
/-- LDC, W3 form (R238). -/
def execLdcW3 (d a : Reg) (lit : W32) (s : State) : Res := .next (s.gloadCap 12 d a (lit.signExtend 64))
/-- STC, W3 form (R239). -/
def execStcW3 (d a : Reg) (lit : W32) (s : State) : Res :=
  .next (s.gstore 12 d a (lit.signExtend 64) 16 true)
/-- AMO.add (R253). -/
def execAmoAdd (w : Bool) (d a b : Reg) (s : State) : Res := .next (s.gatomic 0 w d a b)
/-- AMO.and (R253). -/
def execAmoAnd (w : Bool) (d a b : Reg) (s : State) : Res := .next (s.gatomic 1 w d a b)
/-- AMO.or (R253). -/
def execAmoOr (w : Bool) (d a b : Reg) (s : State) : Res := .next (s.gatomic 2 w d a b)
/-- AMO.xor (R253). -/
def execAmoXor (w : Bool) (d a b : Reg) (s : State) : Res := .next (s.gatomic 3 w d a b)
/-- AMO.min (R253). -/
def execAmoMin (w : Bool) (d a b : Reg) (s : State) : Res := .next (s.gatomic 4 w d a b)
/-- AMO.max (R253). -/
def execAmoMax (w : Bool) (d a b : Reg) (s : State) : Res := .next (s.gatomic 5 w d a b)
/-- AMO.minn (R253). -/
def execAmoMinn (w : Bool) (d a b : Reg) (s : State) : Res := .next (s.gatomic 6 w d a b)
/-- AMO.maxn (R253). -/
def execAmoMaxn (w : Bool) (d a b : Reg) (s : State) : Res := .next (s.gatomic 7 w d a b)
/-- AMO.swap (R253). -/
def execAmoSwap (w : Bool) (d a b : Reg) (s : State) : Res := .next (s.gatomic 8 w d a b)
/-- CAS (R254): a failing CAS writes nothing. -/
def execCas (w : Bool) (d a b : Reg) (s : State) : Res :=
  .next (s.gatomic 32 w d a b)

/-! ## WAITW and PREF -/

/-- A WAITW returns the value of `sz` bytes: of home address `va`, or of peer address `va`. What it read, later plain loads of the
phase do not go behind (R91); in a deterministic launch plain loads follow R438 alone. A poisoned line is consumed (R446, R448). -/
def State.waitwDone (core hid : Nat) (rd : Reg) (va : Word) (sz v : Nat) (s : State) : State :=
  let l := s.launchOn (s.coreAt core)
  let sp := s.spaceById (s.warById l.war).space
  let home := va.toNat / 2 ^ 62 == 0
  if home && sp.bad va.toNat then
    let s := s.focusCtx core hid
    ({ s with cx.wait := none, cx.waitk := 0, cx.spur := false }).uncorrReg (BitVec.ofNat 64 (va.toNat / 64))
  else
    let note (c : Ctx) : Ctx :=
      if l.det then c
      else if home then c.noteHome sp va.toNat sz
      else { c with view := { addr := va.toNat, data := leBytes sz v, tag := none, kind := .read } :: c.view }
    (s.noteReply core hid (BitVec.ofNat 128 v) false).wake core hid
      (fun c => { (note c).putInt rd (BitVec.ofNat 64 v) with spur := false }.done)

/-- A WAITW returns a value of its home with its moment, an effect of the agent that wrote it (R90). -/
def State.waitwFound (core hid : Nat) (rd : Reg) (va : Word) (sz : Nat) (v : Nat × Nat) (s : State) : State :=
  let l := s.launchOn (s.coreAt core)
  let by_ := if l.det then
      (s.spaceById (s.warById l.war).space).writerOf v.2 (fun b => decide (va.toNat ≤ b) && decide (b < va.toNat + sz))
    else none
  (s.observe core hid by_).waitwDone core hid rd va sz v.1

/-- WAITW (R256): the context's earlier stores of the line go home (R86), the home value is read, then a wait until it differs, a
timeout or a spurious wake. -/
def execWaitw (w : Bool) (d a b : Reg) (s : State) : Res :=
  let sz := if w then 8 else 4
  let c := (s.int b).toNat % 2 ^ (8 * sz)
  let till := s.tick + (s.int d).toNat
  match s.access a 0 pAMO sz with
  | .trap k => .next (s.trap k (tvalOf (s.ea a 0)))
  | .home h =>
    if s.lau.mirror then .next (s.mirrorLoad 4 d) else
    let s := ((s.countLoad).tlbFill h).carry (h / 64)
    let t := ({ s with cx.spur := false }).waitOn 1 (.waitw d (BitVec.ofNat 64 h) sz (BitVec.ofNat 64 c) till none) 4
    match waitwFind s.space s.lau.detBase s.me s.cx h sz c with
    | some v => .next (t.waitwFound s.co.id s.cx.hid d (BitVec.ofNat 64 h) sz v)
    | none =>
      if till ≤ s.tick then .next (t.waitwDone s.co.id s.cx.hid d (BitVec.ofNat 64 h) sz (leNat (Memory.readN s.space.mem h sz)))
      else .next t
  | .peer i =>
    if s.lau.mirror then .next (s.mirrorLoad 4 d) else
    .next ((({ s with cx.spur := false }).countLoad.askPeer i 40 (s.int a) []).waitOn 1
      (.waitw d (s.int a) sz (BitVec.ofNat 64 c) till none) 4)

/-- A fresh lease for the page of a translated address (R258). -/
def State.tlbFresh (a : Nat) (s : State) : State :=
  ({ s with co.tlb := s.co.tlb.filter (fun e => !(decide (e.base ≤ a) && decide (a < e.base + e.size))) }).tlbFill a

/-- PREF (R258): 1 when a 1-byte LD at the cursor would pass every check; a peer's address is translated by the peer. A page that the page
table no longer maps fails, and an entry filled earlier stays as it is (R80, R81). -/
def execPref (d a : Reg) (s : State) : Res :=
  let cur := (s.int a).toNat
  let ok := (capCheck (s.g a) (s.gtag a) pLD cur 1).isNone
  match s.translate cur with
  | .home h =>
    if s.space.mapped h then .next ((s.clean.tlbFresh h).waitOn 1 (.pref d ok false) 4)
    else .next (s.clean.waitOn 1 (.pref d false false) 4)
  | .peer i =>
    if s.lau.mirror then .next (s.mirrorLoad 4 d) else
    .next (((s.countLoad).askPeer i 41 (s.int a) []).waitOn 1 (.pref d ok true) 4)
  | .unmapped => .next (s.clean.waitOn 1 (.pref d false false) 4)

/-! ## PHASE (R251, R252) -/

/-- Whether a DRAIN or WELLW that context `hid` issued is in the pump queue. -/
def Core.draining (c : Core) (hid : Nat) : Bool :=
  c.pumpq.any (fun p => p.hid == hid && (p.kind == .drain || p.kind == .wellw))

/-- PHASE (R251): it waits for the context's DRAINs and WELLWs, then releases and acquires at its scope (R87). -/
def execPhase (sc : Scope) (s : State) : Res :=
  if s.co.draining s.cx.hid then .next (s.waitOn 1 (.phase sc) 4)
  else .next (((s.release (scopeCode sc)).acquire (scopeCode sc)).retire 4)

/-- The waiting PHASEs of core `id` whose pump operations have completed release, acquire and retire. -/
def State.phaseCheck (id : Nat) (s : State) : State :=
  ((s.coreAt id).ctxs.filter (fun c => match c.wait with
    | some (.phase _) => !(s.coreAt id).draining c.hid
    | _ => false)).foldl
      (fun s c =>
        let k := match c.wait with
          | some (.phase sc) => scopeCode sc
          | _ => 0
        ((s.releaseAt k id c.hid).acquireAt k id c.hid).wake id c.hid Ctx.done) s

/-! ## Replies and wakes -/

/-- The bytes that a plain load of a peer's address returns: those that the context has stored or read there in this phase, else
those of the reply (R86, R88, R89). -/
def Ctx.peerBytes (va : Word) (sz : Nat) (bs : List Byte) (c : Ctx) : List Byte :=
  (List.range sz).map (fun j => (viewByte c.view (va.toNat + j)).getD (bs.getD j 0))

/-- A load, LDC or atomic of a peer's address has returned: later loads of the phase return the same (R88, R89). -/
def Ctx.notePeer (va : Word) (bs : List Byte) (tag : Option Bool) (kind : ViewKind) (c : Ctx) : Ctx :=
  { c with view := { addr := va.toNat, data := bs, tag := tag, kind := kind } :: c.view }

/-- The wait of an access ends in a PAGE trap at its instruction: the peer cannot translate its page, and nothing changes (R81, R232,
R241). -/
def State.peerUnmapped (core hid : Nat) (va : Word) (s : State) : State :=
  let s := (s.noteRefusal core hid va).focusCtx core hid
  let s := { s with
    cx.wait := none, cx.waitk := 0, cx.status := if s.cx.status = Status.waiting then Status.resident else s.cx.status,
    cx.retired := s.cx.retired - 1 }
  s.trap cPage va

/-- The reply that the wait of context `c` of core `core` takes, and what it does (R49, R81, R236, R241, R253, R254, R256, R258). -/
def State.globalReplied (core : Nat) (c : Ctx) (how : ReplyHow) (s : State) : State :=
  let hid := c.hid
  match c.wait, how with
  | some (.reply rd v t _ _ none), .home =>
    if c.badLine then
      let s := s.focusCtx core hid
      ({ s with cx.wait := none, cx.waitk := 0, cx.badLine := false }).uncorrReg (BitVec.ofNat 64 c.loadLine)
    else (s.noteReply core hid v t).wake core hid (fun c => (c.put rd v t).done)
  | some (.reply rd _ t sg sz (some va)), .peer bs =>
    let tag := (viewTag c.view (va.toNat / 16 * 16)).getD (decide ((bs.getD 16 0) = 1))
    let bs := c.peerBytes va sz bs
    let v := extendVal sg sz (leNat bs)
    (s.noteReply core hid v (t && tag)).wake core hid (fun c =>
      (((c.notePeer va bs (if sz = 16 then some tag else none) .read).put rd v (t && tag))).done)
  | some (.peerAtomic rd va sz op x cmp), .peer bs =>
    let old := leNat (bs.take sz)
    let v := extendVal false sz old
    (s.noteReply core hid v false).wake core hid (fun c =>
      ((match atomicF op (8 * sz) x cmp old with
        | some n => c.notePeer va (leBytes sz n) (some false) .released
        | none => c.notePeer va (leBytes sz old) none .read).put rd v false).done)
  | some (.waitw rd va sz cmp till _), .peer bs =>
    let v := leNat (bs.take sz)
    if va.toNat / 2 ^ 62 ≠ 1 then s
    else if BitVec.ofNat 64 v ≠ cmp ∨ till ≤ s.tick then s.waitwDone core hid rd va sz v
    else s.modCtx core hid (fun c => { c with wait := some (.waitw rd va sz cmp till (some (BitVec.ofNat 64 v))) })
  | some (.reply _ _ _ _ _ (some va)), .unmapped _ | some (.peerAtomic _ va _ _ _ _), .unmapped _ => s.peerUnmapped core hid va
  | some (.waitw _ va _ _ _ _), .unmapped _ => if va.toNat / 2 ^ 62 = 1 then s.peerUnmapped core hid va else s
  | some (.accept (some va)), .unmapped _ =>
    (s.modCtx core hid (fun c => { c with
      view := c.view.eraseP (fun r => decide (r.kind = .released) && r.addr == va.toNat) })).peerUnmapped core hid va
  | some (.accept none), .home => s.wake core hid Ctx.done
  | some (.accept (some _)), .peer _ => (s.noteReply core hid 0 false).wake core hid Ctx.done
  | some (.pref rd ok false), .home => s.wake core hid (fun c => (c.putInt rd (if ok then 1 else 0)).done)
  | some (.pref rd ok true), .peer _ =>
    (s.noteReply core hid (if ok then 1 else 0) false).wake core hid (fun c => (c.putInt rd (if ok then 1 else 0)).done)
  | some (.pref rd _ true), .unmapped _ => (s.noteReply core hid 0 false).wake core hid (fun c => (c.putInt rd 0).done)
  | some (.mirror rd n), .home =>
    match s.mirrorReply core hid n with
    | none => s
    | some r =>
      let s := s.dropReply core r
      match r.unmapped with
      | some va => s.peerUnmapped core hid va
      | none => s.wake core hid (fun c => (c.put rd r.val r.tag).done)
  | some .detHold, .home => if s.detMin core c then s.wake core hid (fun c => { c with agreed := true }) else s
  | _, _ => s

/-- The reply brings a line with an uncorrectable error to a load, an atomic or a WAITW (R241, R325, R446, R455); PREF reads no data
(R258). -/
def State.globalUncorr (core : Nat) (c : Ctx) (s : State) : State :=
  let consume (line : Nat) : State :=
    ({ (s.countSensor 0x41).focusCtx core c.hid with cx.wait := none, cx.waitk := 0, cx.badLine := false }).uncorrReg (BitVec.ofNat 64 line)
  match c.wait with
  | some (.reply _ _ _ _ _ _) => consume c.loadLine
  | some (.peerAtomic _ va _ _ _ _) | some (.waitw _ va _ _ _ _) => consume (va.toNat / 64)
  | _ => s

/-- A reply without what its line's correction counts (R446). -/
def plainReply : ReplyHow → ReplyHow
  | .corrected => .home
  | h => h

/-- GLOBAL_REPLY (R49, R236): the reply of a global access arrives; an error in its line was corrected and is counted, or it is
uncorrectable (R446, R455). -/
def execGlobalReply (core hid : Nat) (how : ReplyHow) (uncorrectable : Bool) (s : State) : Res :=
  s.inputOf core (.reply core hid how uncorrectable) <|
  match s.ctxAt core hid with
  | none => .next s
  | some c =>
    let s := if how = .corrected then s.countSensor 0x40 else s
    .next (if uncorrectable then s.globalUncorr core c else s.globalReplied core c (plainReply how))

/-- The value that a WAITW last read: the home's, or what a peer's home last gave (R256). -/
def State.waitwVal (core : Nat) (va : Word) (sz : Nat) (last : Option Word) (s : State) : Option Nat :=
  if va.toNat / 2 ^ 62 = 0 then
    some (leNat (Memory.readN (s.spaceById (s.warById (s.launchOn (s.coreAt core)).war).space).mem va.toNat sz))
  else last.map (·.toNat)

/-- The words of an HBM channel that WAITWs watch: space and address (R257). -/
def State.watched (ch : Nat) (s : State) : List (Nat × Nat) :=
  (s.allCores.flatMap (fun c =>
    let sid := (s.warById (s.launchOn c).war).space
    c.ctxs.filterMap (fun x => match x.wait with
      | some (.waitw _ va _ _ _ _) =>
        if va.toNat / 2 ^ 62 = 0 ∧ Config.hbmChannel sid (va.toNat / 64) = ch then some (sid, va.toNat) else none
      | _ => none))).eraseDups

/-- Whether the WAITW of a context on address `va` may wake spuriously: at a restore or a migration, when its channel's watch table of 256
words overflows, or by an event at the peer that holds the word (R257). -/
def State.maySpur (core : Nat) (c : Ctx) (va : Word) (s : State) : Bool :=
  let sid := (s.warById (s.launchOn (s.coreAt core)).war).space
  (c.spur && (s.launchOn (s.coreAt core)).tick.toNat == s.tick) || va.toNat / 2 ^ 62 == 1 || (va.toNat / 2 ^ 62 == 0 && decide (256 < (s.watched (Config.hbmChannel sid (va.toNat / 64))).length))

/-- WAITW_WAKE (R256, R257): the home reports a differing value, or a spurious wake. -/
def execWaitwWake (core hid : Nat) (spurious : Bool) (s : State) : Res :=
  s.inputOf core (.waitwWake core hid spurious) <|
  match s.ctxAt core hid with
  | some c =>
    match c.wait with
    | some (.waitw rd va sz cmp _ last) =>
      let k := s.coreAt core
      let l := s.launchOn k
      if spurious then
        match s.waitwVal core va sz last with
        | some v => .next (if s.maySpur core c va then s.waitwDone core hid rd va sz v else s)
        | none => .next s
      else if va.toNat / 2 ^ 62 = 0 then
        match waitwFind (s.spaceById (s.warById l.war).space) l.detBase (k.agent hid) c va.toNat sz cmp.toNat with
        | some v => .next (s.waitwFound core hid rd va sz v)
        | none => .next s
      else .next s
    | _ => .next s
  | none => .next s

/-- WAITW_TIMEOUT (R256, R356): a WAITW on a peer's word whose first reply is outstanding returns with that reply. -/
def execWaitwTimeout (core hid : Nat) (s : State) : Res :=
  match s.ctxAt core hid with
  | some c =>
    match c.wait with
    | some (.waitw rd va sz _ till last) =>
      match s.waitwVal core va sz last with
      | some v => .next (if till ≤ s.tick then s.waitwDone core hid rd va sz v else s)
      | none => .next s
    | _ => .next s
  | none => .next s

/-- TLB_LEASE_EXPIRY (R79): entries of the page whose lease has run out are no longer used. -/
def execTlbLeaseExpiry (core page : Nat) (s : State) : Res :=
  .next (s.modCore core (fun c => { c with
    tlb := c.tlb.filter (fun e => !(e.base == page && decide (e.till ≤ s.tick))) }))

end Sys2Proof.Machine
end

