-- ==== Sys2Proof/Machine/Local.lean ====
section
/-! DEFINITION. Local loads and stores, full/empty words, posted stores, LAMO, channels and roles (R233, R234,
R242 to R250, R255, R259 to R263), and the arrival of messages and replies at cores. -/

namespace Sys2Proof.Machine

open Sys2Proof

/-! ## LL, SL, LAMO (R242, R243, R255) -/

/-- The size that the two low bits of the offset select (R242). -/
def llSize (o : Word) : Nat :=
  match o.toNat % 4 with
  | 1 => 8
  | 2 => 16
  | _ => 4

/-- LL at offset `o` (R243). -/
def State.lload (len : Nat) (d : Reg) (o : Word) (s : State) : State := s.readLocal o (llSize o) (fun s =>
  let v := s.localRead o (llSize o)
  if llSize o = 16 then (s.setCap d (BitVec.ofNat 128 v) false).retire len
  else s.result len d (BitVec.ofNat 64 v))
/-- SL at offset `o` (R243). -/
def State.lstore (len : Nat) (d : Reg) (o : Word) (s : State) : State :=
  (s.localWrite o (llSize o) (s.g d).toNat).retire len
/-- LL, W1 form. -/
def execLl (d a : Reg) (imm : BitVec 14) (s : State) : Res := .next (s.lload 4 d (s.int a + imm.signExtend 64))
/-- SL, W1 form. -/
def execSl (d a : Reg) (imm : BitVec 14) (s : State) : Res := .next (s.lstore 4 d (s.int a + imm.signExtend 64))
/-- LL, W3 form. -/
def execLlW3 (d a : Reg) (lit : W32) (s : State) : Res := .next (s.lload 12 d (s.int a + lit.signExtend 64))
/-- SL, W3 form. -/
def execSlW3 (d a : Reg) (lit : W32) (s : State) : Res := .next (s.lstore 12 d (s.int a + lit.signExtend 64))

/-- LAMO with operation `op` (R255). -/
def State.lamo (op : Nat) (d a b : Reg) (s : State) : State := s.readLocal (s.int a) 4 (fun s =>
  let old := s.localRead (s.int a) 4
  (s.localWrite (s.int a) 4 (amoF op 32 old ((s.int b).toNat % 2 ^ 32))).result 4 d (BitVec.ofNat 64 old))
/-- LAMO.add (R255). -/
def execLamoAdd (d a b : Reg) (s : State) : Res := .next (s.lamo 0 d a b)
/-- LAMO.and (R255). -/
def execLamoAnd (d a b : Reg) (s : State) : Res := .next (s.lamo 1 d a b)
/-- LAMO.or (R255). -/
def execLamoOr (d a b : Reg) (s : State) : Res := .next (s.lamo 2 d a b)
/-- LAMO.xor (R255). -/
def execLamoXor (d a b : Reg) (s : State) : Res := .next (s.lamo 3 d a b)
/-- LAMO.min (R255). -/
def execLamoMin (d a b : Reg) (s : State) : Res := .next (s.lamo 4 d a b)
/-- LAMO.max (R255). -/
def execLamoMax (d a b : Reg) (s : State) : Res := .next (s.lamo 5 d a b)
/-- LAMO.minn (R255). -/
def execLamoMinn (d a b : Reg) (s : State) : Res := .next (s.lamo 6 d a b)
/-- LAMO.maxn (R255). -/
def execLamoMaxn (d a b : Reg) (s : State) : Res := .next (s.lamo 7 d a b)
/-- LAMO.swap (R255). -/
def execLamoSwap (d a b : Reg) (s : State) : Res := .next (s.lamo 8 d a b)

/-! ## Full/empty words (R244 to R248) -/

/-- An own-core full/empty operation (R245): performed at once, or the context joins the word's queue. An SLF
waits for the context's pump operations, whose local stores come first (R94, R248). -/
def State.feOwn (k : FeKind) (d a : Reg) (imm : BitVec 14) (s : State) : State :=
  if k = .slf ∧ s.co.pumpq.any (·.hid == s.cx.hid) then s
  else
    let w := localAddr s.cx.wbase s.cx.wsize (s.int a + imm.signExtend 64) 4
    let v : W32 := (s.g d).setWidth 32
    match s.feArrive s.co.id w k v s.stamp with
    | (s', some old) =>
      if k.writes then s'.retire 4 else (s'.observe s.co.id s.cx.hid (s.co.filler w)).result 4 d (old.setWidth 64)
    | (s', none) =>
      let w1 : FeWaiter := { word := w, kind := k, val := v, src := s.co.id, hid := s.cx.hid, own := true, key := s.myKey, by_ := s.stamp }
      let s1 : State := { s' with co.waiters := insKeyed s.lau.det w1 s'.co.waiters }
      s1.waitOn 2 (.fe k d w) 4
/-- LLF (R244). -/
def execLlf (d a : Reg) (imm : BitVec 14) (s : State) : Res := .next (s.feOwn .llf d a imm)
/-- SLF (R244). -/
def execSlf (d a : Reg) (imm : BitVec 14) (s : State) : Res := .next (s.feOwn .slf d a imm)
/-- SLE (R244). -/
def execSle (d a : Reg) (imm : BitVec 14) (s : State) : Res := .next (s.feOwn .sle d a imm)
/-- FEQ (R244). -/
def execFeq (d a : Reg) (imm : BitVec 14) (s : State) : Res := .next (s.feOwn .feq d a imm)

/-- A message of the focused context to a core of its launch. -/
def State.post (dst : Nat) (p : Payload) (s : State) : State :=
  s.send { launch := s.co.launch.getD 0, src := s.co.id, srcHid := s.cx.hid, dst := dst, payload := p, key := s.myKey, by_ := s.stamp }

/-- The number of a full/empty form in a remote wait. -/
def feNum : FeKind → BitVec 4
  | .llf => 0 | .slf => 1 | .sle => 2 | .feq => 3

/-- A remote full/empty operation (R245, R248): the request goes to the core and the context waits. -/
def State.feRemote (k : FeKind) (d a b : Reg) (s : State) : State :=
  match s.lau.target (s.int a) with
  | none => s.trap cScope (s.int a)
  | some t => (s.post t (.fe k (s.int b) ((s.g d).setWidth 32) (s.int a))).waitOn 2 (.remote d (feNum k) (s.int a)) 4
/-- LLF, remote form. -/
def execLlfRemote (d a b : Reg) (s : State) : Res := .next (s.feRemote .llf d a b)
/-- SLF, remote form. -/
def execSlfRemote (d a b : Reg) (s : State) : Res := .next (s.feRemote .slf d a b)
/-- SLE, remote form. -/
def execSleRemote (d a b : Reg) (s : State) : Res := .next (s.feRemote .sle d a b)
/-- FEQ, remote form. -/
def execFeqRemote (d a b : Reg) (s : State) : Res := .next (s.feRemote .feq d a b)

/-- The entries of the outbound queue of a core's router (R250). -/
def State.outbound (s : State) : Nat := (s.net.filter (fun m => m.src == s.co.id && m.payload.isPost)).length

/-- POST and POSTF (R249, R250): a full outbound queue loses the visit. -/
def State.postWord (full : Bool) (d a b : Reg) (s : State) : State :=
  match s.lau.target (s.int a) with
  | none => s.trap cScope (s.int a)
  | some t =>
    if s.outbound ≥ 16 then s
    else (s.post t (.post full (s.int b) ((s.g d).setWidth 32))).retire 4
/-- POST (R249). -/
def execPost (d a b : Reg) (s : State) : Res := .next (s.postWord false d a b)
/-- POSTF (R249). -/
def execPostf (d a b : Reg) (s : State) : Res := .next (s.postWord true d a b)

/-! ## Channels and roles (R63 to R65, R259 to R262) -/

/-- SEND (R259): the entry is captured at issue; the context waits until it is appended. -/
def execSend (ch : Fin 8) (a b : Reg) (s : State) : Res :=
  match s.lau.target (s.int a) with
  | none => .next (s.trap cScope (s.int a))
  | some t =>
    let e := s.localBytes (s.int b) 64 64
    .next ((s.post t (.send ch e (s.int a))).waitOn 3 (.send t ch e) 4)

/-- The channels of a core with one changed. -/
def Core.setChan (ch : Fin 8) (l : List (List Byte)) (c : Core) : Core :=
  { c with chans := c.chans.set ch.val l ch.isLt }

/-- The message of the least key, of equals the first (R437). -/
def leastKey : List Msg → Option Msg
  | [] => none
  | m :: t => match leastKey t with
    | none => some m
    | some x => if x.key < m.key then some x else some m

/-- The entry of a channel enters with its sender as the agent whose effect it is, in a deterministic launch (R90). -/
def Core.addEntry (ch : Fin 8) (e : List Byte) (by_ : Option (Agent × Nat)) (c : Core) : Core :=
  { c.setChan ch (c.chans.get ch ++ [e]) with chanBy := c.chanBy.set ch.val (c.chanBy.get ch ++ by_.toList) ch.isLt }

/-- The first held entry for a channel enters it when there is room (R259), in a deterministic launch the one of the least key (R263):
the sender gets its reply. -/
def State.serveSend (id : Nat) (ch : Fin 8) (s : State) : State :=
  let c := s.coreAt id
  let isFor (m : Msg) : Bool := match m.payload with
    | .send k _ _ => k == ch && c.launch == some m.launch
    | _ => false
  match if (s.launchOn c).det then leastKey (c.heldMsgs.filter isFor) else c.heldMsgs.find? isFor with
  | none => s
  | some m =>
    match m.payload with
    | .send _ e _ =>
      if (c.chans.get ch).length ≥ 8 then s
      else
        let s := s.modCore id (fun c => { c.addEntry ch e m.by_ with heldMsgs := c.heldMsgs.erase m })
        s.send { launch := m.launch, src := id, srcHid := m.srcHid, dst := m.src, payload := .reply 0 false true }
    | _ => s

/-- The oldest entry of a channel leaves it for context `hid`, which observes its sender (R90); the tick at which the channel became
empty is kept (R64). -/
def State.takeEntry (id hid : Nat) (ch : Fin 8) (s : State) : State :=
  let s := s.observe id hid ((s.coreAt id).chanBy.get ch).head?
  let s := s.modCore id (fun c =>
    let l := (c.chans.get ch).tail
    let c := { c.setChan ch l with chanBy := c.chanBy.set ch.val (c.chanBy.get ch).tail ch.isLt }
    if l.isEmpty then { c with emptyAt := c.emptyAt.set ch.val s.tick ch.isLt } else c)
  s.serveSend id ch

/-- The row before the present role, when the core may recast (R64). -/
def State.newRole (s : State) (c : Core) : Option Nat :=
  let rows := (s.launchOn c).rows
  match rows.findIdx? (· == c.role) with
  | some (k + 1) => rows[k]?
  | _ => none

/-- Whether a RECV of the control context on this channel returns DRY now (R64, R439). -/
def State.dryNow (s : State) (c : Core) (x : Ctx) (ch : Fin 8) : Option Nat :=
  if x.helper || (s.launchOn c).det || c.recast == 0 || !(c.chans.get ch).isEmpty then none
  else if s.tick - c.emptyAt.get ch ≥ c.recast.toNat then s.newRole c else none

/-- Whether a context waits in RECV on a channel. -/
def Ctx.recvs (ch : Fin 8) (c : Ctx) : Bool :=
  match c.wait with
  | some (.recv k _ _) => k == ch
  | _ => false

/-- The waiting RECV that takes the next entry of a channel: in deterministic mode the one in the lowest slot, then of the least HID
(R70). DESIGN CHOICE (log 120): those that hold no slot come after all that do, which the rule leaves open. -/
def leastRecv : List Ctx → Option Ctx
  | [] => none
  | c :: t => match leastRecv t with
    | none => some c
    | some m => if m.slot.getD 15 < c.slot.getD 15 ∨ (m.slot.getD 15 = c.slot.getD 15 ∧ m.hid < c.hid) then some m else some c

/-- RECV (R260). In deterministic mode the RECVs that wait come first (R70). -/
def execRecv (ch : Fin 8) (d a : Reg) (s : State) : Res :=
  match (if s.lau.det && s.co.ctxs.any (Ctx.recvs ch) then [] else s.co.chans.get ch) with
  | e :: _ => .next (((s.localPut (s.int a) 64 e).takeEntry s.co.id s.cx.hid ch).result 4 d 0)
  | [] =>
    match s.dryNow s.co s.cx ch with
    | some r =>
      .next ((({ s with co.role := r }).count .dryrecv).result 4 d (BitVec.ofNat 64 (0x100 + r)))
    | none => .next (s.waitOn 3 (.recv ch d (s.int a)) 4)

/-- CHQ (R261). -/
def execChq (ch : Fin 8) (d : Reg) (s : State) : Res :=
  .next (s.result 4 d (BitVec.ofNat 64 (s.co.chans.get ch).length))

/-- ROLE (R262). -/
def execRole (d a : Reg) (s : State) : Res :=
  let r := (s.int a).toNat
  .next (s.result 4 d
    (if r = 0 then BitVec.ofNat 64 s.co.role
     else if r ≤ 3 ∧ s.lau.rows.contains r then s.lau.rowEntry r else 0))

/-- RECV_COMPLETION (R260): an entry has arrived for a waiting RECV. -/
def execRecvCompletion (core hid : Nat) (s : State) : Res :=
  match s.ctxAt core hid with
  | some x =>
    match x.wait with
    | some (.recv ch _ _) =>
      let k := s.coreAt core
      let c := if (s.launchOn k).det then (leastRecv (k.ctxs.filter (Ctx.recvs ch))).getD x else x
      match c.wait, k.chans.get ch with
      | some (.recv _ rd off), e :: _ =>
        let a := localAddr c.wbase c.wsize off 64
        let s := s.modCore core (fun k => { k with
          store := Memory.writeN k.store a e,
          poison := unpoison (fun b => decide (a ≤ b) && decide (b < a + e.length)) k.poison })
        .next ((s.takeEntry core c.hid ch).wake core c.hid (fun c => (c.putInt rd 0).done))
      | _, _ => .next s
    | _ => .next s
  | none => .next s

/-- RECV_DRY (R64, R65): the waiting RECV of a control context returns DRY with the new role. -/
def execRecvDry (core hid : Nat) (s : State) : Res :=
  match s.ctxAt core hid with
  | some c =>
    match c.wait with
    | some (.recv ch rd _) =>
      match s.dryNow (s.coreAt core) c ch with
      | some r =>
        let s := s.modCore core (fun k => { k with
          role := r, counters := Tab.set 0 k.counters 4 (Tab.get 0 k.counters 4 + 1) })
        .next (s.wake core hid (fun c => (c.putInt rd (BitVec.ofNat 64 (0x100 + r))).done))
      | none => .next s
    | _ => .next s
  | none => .next s

/-! ## Counters (R167, R334) -/

/-- The multiplier of the die of a core. -/
def State.multOf (s : State) (core : Nat) : Nat := (s.dies.getD (dieOf core) DieSt.reset).cur

/-- The value of a counter of a core: cycles advance by m a tick, by 0 in a relock, and one by one in the visits of a tick (R34, R167). -/
def State.counterOf (s : State) (c : Core) (e : CtrEvent) : Word :=
  match e with
  | .cycles => BitVec.ofNat 64 (s.cyclesOf c)
  | _ => Tab.get 0 c.counters (eventCode e)

/-! ## Messages (R234) -/

/-- Arming or disarming a stop on a core: the value that STOP writes (R338). -/
def Core.armStop (slot : Nat) (arm : Bool) (pc : Word) (c : Core) : Core × Word :=
  if arm then
    if c.stops.length ≥ 4 then (c, 0) else ({ c with stops := c.stops ++ [{ slot := slot, pc := pc }] }, 1)
  else if c.stops.contains { slot := slot, pc := pc } then
    ({ c with stops := c.stops.erase { slot := slot, pc := pc } }, 1)
  else (c, 0)

/-- The reply to a message. -/
def replyTo (m : Msg) (v : Word) (refused : Bool) : Msg :=
  { launch := m.launch, src := m.dst, srcHid := m.srcHid, dst := m.src, payload := .reply v refused false }

/-- A message is performed at its target core (R246, R249, R259, R336, R338). -/
def State.perform (m : Msg) (s : State) : State :=
  let id := m.dst
  let c := s.coreAt id
  let (wb, ws) := s.slot0Window c
  match m.payload with
  | .post full off v =>
    let a := localAddr wb ws off 4
    let s := s.modCore id (Core.setWord a v)
    if full then (s.modCore id (fun k => (k.setFull a true).filledBy a m.by_)).feService id a else s
  | .fe k off v _ =>
    let a := localAddr wb ws off 4
    match s.feArrive id a k v m.by_ with
    | (s', some old) => s'.send { replyTo m (old.setWidth 64) false with by_ := if k.writes then none else c.filler a }
    | (s', none) =>
      let w : FeWaiter := { word := a, kind := k, val := v, src := m.src, hid := m.srcHid, own := false, key := m.key, by_ := m.by_ }
      s'.modCore id (fun x => { x with waiters := insKeyed (s.launchOn c).det w x.waiters })
  | .send ch _ _ => (s.modCore id (fun c => { c with heldMsgs := c.heldMsgs ++ [m] })).serveSend id ch
  | .ctrsel e _ => s.send (replyTo m (s.counterOf c e) false)
  | .stop slot arm pc _ =>
    let r := c.armStop slot arm pc
    (s.modCore id (fun c => { c with stops := r.1.stops })).send (replyTo m r.2 false)
  | .reply _ _ _ | .node _ _ _ _ _ _ | .correction _ _ _ _ => s

/-- Whether message `n` may arrive: no earlier message of its context to its target is on the way (R249). -/
def State.deliverable (s : State) (n : Nat) (m : Msg) : Bool :=
  !((s.net.take n).any (fun x => x.src == m.src && x.srcHid == m.srcHid && x.dst == m.dst && !(match x.payload with
      | .reply _ _ _ => true
      | _ => false)))

/-- The cores whose routers forward a message from core `a` to core `b`: along x, then along y (R26). -/
def pathCores (a b : Nat) : List Nat :=
  let xb := b % 64
  ((List.range 64).filter (fun x => decide (min (a % 64) xb ≤ x) && decide (x ≤ max (a % 64) xb))).map (fun x => x + 64 * (a / 64)) ++
  ((List.range 32).filter (fun y => decide (min (a / 64) (b / 64) ≤ y) && decide (y ≤ max (a / 64) (b / 64)) && y != a / 64)).map
    (fun y => xb + 64 * y)

/-- The routers of the cores `p` forward for `n` cycles each (R159). -/
def State.routing (p : List Nat) (n : Nat) (s : State) : State :=
  let f (c : Core) : Core := if p.contains c.id then { c with weightSum := c.weightSum + 200 * n } else c
  let far := p.filter (fun c => c != s.co.id && !s.cores.any (·.id == c))
  { s with co := f s.co, cores := s.cores.map f, gov.routed := s.gov.routed + far.length * n }

/-- The n-th message leaves the network: the router of every core on its path has forwarded it (R159). DESIGN CHOICE (log 28): for one
cycle each. -/
def State.forwarded (n : Nat) (m : Msg) (s : State) : State :=
  { s.routing (pathCores m.src m.dst) 1 with net := s.net.eraseIdx n }

/-- Whether the home of a message of a deterministic launch holds it for its key (R437). -/
def State.keyHeld (m : Msg) (s : State) : Bool :=
  (s.launchById m.launch).det && m.payload.ordered && !s.detReady m.launch m.key

/-- REMOTE_MESSAGE_ARRIVAL (R234): the n-th message in the network reaches its core and is performed, held
until the launch starts there, or refused after it has ended; in a deterministic launch it is performed when its key is the least
(R437). -/
def execRemoteMessageArrival (n : Nat) (s : State) : Res :=
  match s.net[n]? with
  | none => .next s
  | some m =>
    let isRequest := m.payload.isPost || m.payload.asks
    if !isRequest || !s.deliverable n m || s.pathHeld m.src m.dst || (s.launchById m.launch).state == .evicted then .next s
    else
      let s' := s.forwarded n m
      let c := s.coreAt m.dst
      let l := s.launchById m.launch
      if c.launch = some m.launch then .next (if s.keyHeld m then s else s'.perform m)
      else if l.ended.contains m.dst ∨ l.state = .done then
        .next (if m.payload.isPost then s' else s'.send (replyTo m 0 true))
      else if (c.heldMsgs.filter (fun x => c.launch != some x.launch)).length < 64 then
        .next (s'.modCore m.dst (fun c => { c with heldMsgs := c.heldMsgs ++ [m] }))
      else .next s

/-- The messages that a core's router held for the launch that has now started are performed in order
(R234). -/
def State.performHeld (id : Nat) (s : State) : State :=
  let c := s.coreAt id
  let mine (m : Msg) : Bool := c.launch == some m.launch
  (c.heldMsgs.filter mine).foldl (fun s m => s.perform m)
    (s.modCore id (fun c => { c with heldMsgs := c.heldMsgs.filter (fun m => !mine m) }))

/-- The register effect of a remote reply by kind: 0 LLF, 1 SLF, 2 SLE, 3 FEQ, 4 CTR, 5 CTRL, 6 CTRH, 7 STOP
(R248, R335, R336, R338). -/
def Ctx.remoteDone (kind : BitVec 4) (rd : Reg) (v : Word) (c : Ctx) : Ctx :=
  match kind.toNat with
  | 1 | 2 => c.done
  | 5 => { (c.putInt rd (BitVec.ofNat 64 (v.toNat % 2 ^ 32))).done with ctrlatch := BitVec.ofNat 32 (v.toNat / 2 ^ 32) }
  | 6 => (c.putInt rd (c.ctrlatch.setWidth 64)).done
  | _ => (c.putInt rd v).done

/-- A wait refused because the launch has ended at its target traps SCOPE at the waiting instruction (R234). -/
def State.refuseWait (core hid : Nat) (tval : Word) (s : State) : State :=
  ((s.focusCtx core hid).abandonWait).trap cScope tval

/-- A reply reaches the context that waits for it. -/
def State.takeReply (m : Msg) (v : Word) (refused appended : Bool) (s : State) : State :=
  match s.ctxAt m.dst m.srcHid with
  | none => s
  | some c =>
    let s := s.observe m.dst m.srcHid m.by_
    match c.wait with
    | some (.remote rd kind tg) =>
      if refused then s.refuseWait m.dst m.srcHid tg
      else if appended then s else s.wake m.dst m.srcHid (Ctx.remoteDone kind rd v)
    | some (.send t _ _) =>
      if refused then s.refuseWait m.dst m.srcHid ((s.launchById m.launch).form t)
      else if appended then s.wake m.dst m.srcHid Ctx.done else s
    | _ => s

/-- REMOTE_REPLY_ARRIVAL (R248, R336, R338): the n-th message, a reply, reaches its context. -/
def execRemoteReplyArrival (n : Nat) (s : State) : Res :=
  match s.net[n]? with
  | none => .next s
  | some m =>
    match m.payload with
    | .reply v refused appended =>
      if s.pathHeld m.src m.dst || (s.launchById m.launch).state == .evicted then .next s
      else .next ((s.forwarded n m).takeReply m v refused appended)
    | _ => .next s

/-- Whether a message tells context `hid` of core `id` that its entry was appended. -/
def isAppended (id hid : Nat) (m : Msg) : Bool :=
  m.dst == id && m.srcHid == hid && (match m.payload with
    | .reply _ false true => true
    | _ => false)

/-- SEND_COMPLETION (R259): the entry has been appended and the SEND retires. -/
def execSendCompletion (core hid : Nat) (s : State) : Res :=
  match s.net.find? (isAppended core hid) with
  | none => .next s
  | some m =>
    if s.pathHeld m.src core then .next s
    else .next ((s.forwarded (s.net.findIdx (isAppended core hid)) m).takeReply m 0 false true)

end Sys2Proof.Machine
end

