-- ==== Sys2Proof/Machine/Engine.lean ====
section
/-! DEFINITION. What the engine instructions share: the checks of R266 and R287 in their order, the grant check
of R161 and R164, and the predicate write at a vector completion. -/

namespace Sys2Proof.Machine

open Sys2Proof

/-- Descriptor `d` of the focused core. -/
def State.desc (s : State) (d : BitVec 6) : Desc := Tab.get Desc.zero s.co.descs d.toNat
/-- Write a descriptor of a core. -/
def Core.setDesc (d : Nat) (v : Desc) (c : Core) : Core := { c with descs := Tab.set Desc.zero c.descs d v }
/-- Change a descriptor of a core. -/
def Core.modDesc (d : Nat) (f : Desc → Desc) (c : Core) : Core := c.setDesc d (f (Tab.get Desc.zero c.descs d))

/-- The element format that a code of an instruction names. -/
def fmtAt (n : Nat) : Fmt := (fmtOf n).getD .f64

/-- What an instruction requires of one descriptor that it names (R137, R266): its format, whether the space of
the base that it uses is accepted, whether RD or WR must be set, whether check 2 applies, and whether it reads the scale array
(R111). -/
structure Opnd where
  d     : Nat
  fmt   : Option Fmt
  space : Desc → Bool
  rd    : Bool
  wr    : Bool
  wait  : Bool
  scale : Bool

/-- A front in the local store. -/
def frontLocal (d : Desc) : Bool := d.fspace == .loc
/-- A local front and a local scale array. -/
def scaleLocal (d : Desc) : Bool := d.fspace == .loc && d.sspace == .loc
/-- A vector source. -/
def vsrc (d : BitVec 6) (f : Fmt) : Opnd := ⟨d.toNat, some f, frontLocal, true, false, true, false⟩
/-- A vector destination. -/
def vdst (d : BitVec 6) (f : Fmt) : Opnd := ⟨d.toNat, some f, frontLocal, false, true, true, false⟩

/-- The outcome of checks 1 to 4 of R266. -/
inductive EngChk where
  | go
  | wait (d : Nat)
  | trap (cause : BitVec 16)
  deriving DecidableEq, Repr

/-- SPACE, then PERM, of one descriptor. -/
def Opnd.access (o : Opnd) (c : Core) : Option (BitVec 16) :=
  let e := Tab.get Desc.zero c.descs o.d
  if !o.space e then some cSpace
  else if (o.rd && !e.rd) || (o.wr && !e.wr) then some cPerm
  else none

/-- Checks 1 to 4 of R266, each over the operands in the order DD, DA, DB, DC. -/
def engCheck (c : Core) (ops : List Opnd) : EngChk :=
  let ent (o : Opnd) : Desc := Tab.get Desc.zero c.descs o.d
  if ops.any (fun o => (ent o).state == .empty) then .trap cDesc
  else
    match ops.find? (fun o => o.wait && ((ent o).state == .filling || (ent o).state == .draining)) with
    | some o => .wait o.d
    | none =>
      if ops.any (fun o => match o.fmt with | some f => (ent o).fmt != f | none => false) then .trap cFormat
      else
        match ops.findSome? (fun o => o.access c) with
        | some k => .trap k
        | none => .go

/-- Check 9 (R161, R164): the instruction issues when the grant covers its unit of weight `mw`, which is not
yet busy; else the visit is lost with a request, or a pinned context claims the need or traps RAMP. -/
def State.underGrant (mw : Nat) (go : State → State) (s : State) : State :=
  let need := weightAt s.mult (s.co.busyMw + mw + 300)
  if need ≤ s.co.grant then go s
  else if s.cx.pinned then
    if need - s.co.grant ≤ s.gov.upLeft then
      go { s with gov.upLeft := s.gov.upLeft - (need - s.co.grant), co.grant := need }
    else s.trap cRamp s.cx.pc
  else ({ s with co.request := some (need - s.co.grant) }).count .rampwait

/-- Whether two operands agree in extents (R265). -/
def Desc.agrees (a b : Desc) : Bool := a.exts == b.exts
/-- The footprint of a front (R135). -/
def Desc.foot (d : Desc) : List (Nat × Nat) := d.rows d.front.toNat
/-- The bytes of the scale array (R136). -/
def Desc.scaleFoot (d : Desc) : List (Nat × Nat) :=
  if d.scale = 0 && !fmtBlock d.fmt then [] else [(d.scale.toNat, d.blocks)]
/-- The bytes of the permutation table (R129). -/
def Desc.permFoot (d : Desc) : List (Nat × Nat) := if d.perm = 0 then [] else [(d.perm.toNat, 2 * d.ext 0)]
/-- The model's number of a line of a warrant's well partition on a die (R446, R448). -/
def wellLine (war die line : Nat) : Nat := (war * 8 + die) * 2 ^ 24 + line

/-- A poisoned line that an operand reads (R446). -/
def State.badOperand (ops : List Opnd) (s : State) : Option Nat :=
  ops.findSome? (fun o =>
    let e := Tab.get Desc.zero s.co.descs o.d
    let hit (sp : DSpace) (rows : List (Nat × Nat)) : Option Nat :=
      match sp with
      | .loc => s.co.poison.find? (fun n => (rowBytes rows).any (fun a => a / 64 == n))
      | .well => s.wellPoison.find? (fun n => (rowBytes rows).any (fun a => wellLine s.lau.war (dieOf s.co.id) (a / 64) == n))
      | _ => none
    ((if o.rd then hit e.fspace e.foot else none).or (if o.scale then hit e.sspace e.scaleFoot else none)).or
      (if o.rd then hit .loc e.permFoot else none))

/-- A vector or matrix operation keeps the poisoned line that it reads: its fault comes in place of its completion. -/
def State.markBad (mw : Option Nat) (line : Option Nat) (s : State) : State :=
  match mw, line with
  | some 500, some n => { s with co.vop := s.co.vop.map (fun (v : VecOp) => { v with bad := some n }) }
  | some 2000, some n => { s with co.mop := s.co.mop.map (fun (v : MatOp) => { v with bad := some n }) }
  | _, _ => s

/-- The byte rows that the operands name as destinations. -/
def State.destRows (ops : List Opnd) (s : State) : List (Nat × Nat) :=
  (ops.filter (·.wr)).flatMap (fun o => (Tab.get Desc.zero s.co.descs o.d).foot)

/-- The poison of the local lines that stores to some byte rows cover whole is cleared (R448). -/
def Core.coverPoison (rows : List (Nat × Nat)) (c : Core) : Core :=
  { c with poison := unpoison (fun b => rows.any (fun r => decide (r.1 ≤ b) && decide (b < r.1 + r.2))) c.poison }

/-- The checks of R266 and R287 before `go`: `bad` is the cause of checks 5 to 7 if one fails, `busy` is check 8, `mw` the
weight of the unit that the instruction makes busy (none where check 9 does not apply). -/
def State.checks (ops : List Opnd) (bad : Option (BitVec 16)) (busy : Bool) (mw : Option Nat)
    (go : State → State) (s : State) : State :=
  match engCheck s.co ops with
  | .trap c => s.trap c s.cx.pc
  | .wait d => s.waitRe 6 (.desc d)
  | .go =>
    match bad with
    | some c => s.trap c s.cx.pc
    | none =>
      if busy then s.accRetry
      else match mw with
        | some w => s.underGrant w go
        | none => go s

/-- A vector or matrix operation that reads whole operands and stores whole destinations at its issue: its checks, the poisoned line that
it reads, and the poison that its stores clear (R446, R448). -/
def State.engine (ops : List Opnd) (bad : Option (BitVec 16)) (busy : Bool) (mw : Option Nat)
    (go : State → State) (s : State) : State :=
  s.checks ops bad busy mw (fun s =>
    let t := (go s).markBad mw (s.badOperand ops)
    { t with co := t.co.coverPoison (s.destRows ops) })

/-- The front bases that an instruction captures (R96, R140). -/
def State.fronts (s : State) (ops : List Opnd) : List Nat :=
  ops.map (fun o => (Tab.get Desc.zero s.co.descs o.d).front.toNat)

/-- A SHAPE trap when the condition fails. -/
def shapeIf (ok : Bool) : Option (BitVec 16) := if ok then none else some cShape

/-- A long-operation fault (R56, R139, R148, R324): a live context ends its wait and resumes at its region entry with
the trap or the record; an exited helper leaves a record of KIND 5; of an ended control context nothing is
reported. `hid` is 65536 more than the identifier of an ended context. -/
def State.longFault (id hid : Nat) (cause : BitVec 16) (tval fpc region : Word) (s : State) : State :=
  if hid = 65536 then s
  else if hid > 65536 then
    let r : FaultRec :=
      { tval := tval, region := region, fpc := fpc, pc := 0, tick := BitVec.ofNat 64 s.tick, cause := cause,
        hid := hid - 65536, slot := none, kind := 5 }
    s.modCore id (fun c => if c.launch.isSome then c.pushFault r else c)
  else
    match s.ctxAt id hid with
    | none => s
    | some c =>
      let p : PendFault := { cause := cause, tval := tval, fpc := fpc }
      if c.status = .parked ∨ c.pend.isSome then s.modCtx id hid (fun c => { c with pend := some (c.pend.getD p) })
      else if c.wait.isSome && !s.canAbandon id c then s.modCtx id hid (fun c => { c with pend := some p })
      else
        let s := s.focusCtx id hid
        let s := if c.wait.isSome then s.abandonWait else s
        let s := { s with cx.pend := some p }.pendingFault
        s.modCore id (fun k => { k with
          promoted := delNat k.promoted hid, woken := delNat k.woken hid, started := delNat k.started hid })

/-- The local front that a collective which waits on the core has captured for its result (R96, R140, R288). -/
def WaitOp.captured : WaitOp → Option Nat
  | .red _ _ dd | .redx _ _ dd | .corr _ dd _ _ _ => some dd.front.toNat
  | _ => none

/-- Whether an operation on the core, which is given with all its contexts, other than MMR `k` holds a buffer as a captured front (R96,
R140, R288, R295). -/
def Core.holds (c : Core) (b : Nat) (k : Option Nat) : Bool :=
  c.ctxs.any (fun x => x.wait.any (fun w => w.captured == some b)) ||
  c.vop.any (fun v => v.caps.contains b) || c.mop.any (fun v => v.caps.contains b && !(v.mmr && k.isSome)) ||
  c.mmr.any (fun o => o.caps.contains b && some o.k != k)

/-- The PUBs that wait for descriptor `d` of core `id` retire, or issue again where they wait to issue (R139, R450). -/
def State.wakePubs (id d : Nat) (s : State) : State :=
  ((s.coreAt id).ctxs.filter (fun c => c.wait == some (.pub d))).foldl (fun s c => s.wake id c.hid Ctx.done) s

/-- Descriptor `d` of core `id` is no longer filling or draining: the contexts that wait for it issue again, and the PUBs that wait
for it retire (R138, R139, R266). -/
def State.descReady (id d : Nat) (s : State) : State :=
  let st := (Tab.get Desc.zero (s.coreAt id).descs d).state
  if st = .filling ∨ st = .draining then s
  else
    (s.wakeAll id (isDesc d)).wakePubs id d

/-- A message of context `hid` of core `id` has no effect, as its MMR is abandoned: it is sent again after a restart (R295, R451). -/
def State.sendAgain (id hid n : Nat) (s : State) : State :=
  s.modCtx id hid (fun c => { c with redo := insNat c.redo n })

/-- The newest MMR of the focused core is abandoned: its descriptors return to ready, and the MMR that issues next takes
its number (R138, R295). -/
def State.abandonMmr (s : State) : State :=
  match s.co.mmr.getLast? with
  | none => s
  | some o =>
    let rdy (d : Desc) : Desc := if d.state = .filling then { d with state := .ready } else d
    let co := (s.co.modDesc o.da rdy).modDesc o.db rdy
    let co : Core := { co with mmr := co.mmr.dropLast, mmrs := co.mmrs - 1 }
    let s := { s with co := co }
    ((s.descReady s.co.id o.da).descReady s.co.id o.db).sendAgain s.co.id o.hid o.msg

/-- An uncorrectable error in a line that the focused core's vector operation reads (R269, R446). -/
def State.vecFault (v : VecOp) (line : Word) (s : State) : State :=
  let s := { s with
    co.vop := none,
    co.store := freeBytes s.picks v.dest s.co.store,
    picks := s.picks + v.dest.length }
  s.longFault s.co.id v.hid cUncorr line v.fpc v.region

/-- An uncorrectable error in a line that the focused core's matrix operation reads (R317, R446). -/
def State.matFault (v : MatOp) (line : Word) (s : State) : State :=
  let as := v.writes.map (fun (p : Nat × W32) => p.1)
  let s := { s with
    co.mop := none,
    co.store := freeBytes s.picks v.dest s.co.store,
    co.acc := freeTile (s.picks + v.dest.length) as s.co.acc,
    picks := s.picks + v.dest.length + as.length }
  let s := if v.mmr then s.abandonMmr else s
  s.longFault s.co.id v.hid cUncorr line v.fpc v.region

end Sys2Proof.Machine
end

