-- ==== Sys2Proof/Machine/Float.lean ====
section
/-! DEFINITION. Scalar floating point (R207 to R214). -/

namespace Sys2Proof.Machine

open Sys2Proof

/-- The layout of a precision. -/
def precFmt : Prec → FpFmt
  | .s => fp32
  | .d => fp64
/-- The source pattern of register `n` in a precision (R196). -/
def State.fcode (s : State) (p : Prec) (n : Reg) : Nat := (s.int n).toNat % 2 ^ (precFmt p).width
/-- The source value. -/
def State.fval (s : State) (p : Prec) (n : Reg) : Num := (precFmt p).decode (s.fcode p n)
/-- A floating-point instruction writes its pattern, sets its flags and retires (R126, R196). -/
def State.fresult (d : Reg) (r : Nat × FlagSet) (s : State) : State :=
  ((s.setInt d (BitVec.ofNat 64 r.1)).orFlags r.2).retire 4
/-- The smaller or larger code; a NaN gives the canonical NaN with NV; −0 counts below +0 (R207, R208). -/
def minMaxCode (f : FpFmt) (isMax : Bool) (x y : Nat) : Nat × FlagSet :=
  let a := f.decode x
  let b := f.decode y
  if a.isNan || b.isNan then (f.nanc, fNV)
  else
    let aLess := match a.cmp b with
      | .lt => true
      | .gt => false
      | .eq => a.sign
    (if aLess != isMax then x else y, 0)
/-- The sign cleared or flipped; a NaN gives the canonical NaN with NV (R207, R208). -/
def signCode (f : FpFmt) (flip : Bool) (x : Nat) : Nat × FlagSet :=
  if (f.decode x).isNan then (f.nanc, fNV)
  else
    let m := x % 2 ^ (f.ew + f.fw)
    (if flip then f.signed (!(f.decode x).sign) m else m, 0)
/-- The class mask of FCLS (R209). -/
def classMask (f : FpFmt) (x : Nat) : Nat :=
  match f.decode x with
  | .nan => if bit x (f.fw - 1) then 512 else 256
  | .inf s => if s then 1 else 128
  | .fin s m _ =>
    if m == 0 then (if s then 8 else 16)
    else if m < 2 ^ f.fw then (if s then 4 else 32)
    else (if s then 2 else 64)
/-- Signedness of an FCVT integer type. -/
def intTySigned : IntTy → Bool
  | .i32 | .i64 => true
  | .n32 | .n64 => false
/-- Width of an FCVT integer type. -/
def intTyWidth : IntTy → Nat
  | .i32 | .n32 => 32
  | .i64 | .n64 => 64
/-- An integer result in a register: sign- or zero-extended to 64 bits (R211). -/
def intTyExt (t : IntTy) (c : Nat) : Nat :=
  if intTySigned t then (signExt c (intTyWidth t)).toNat else c
/-- Floating point to integer (R122, R211). -/
def State.toInt (r : Rnd) (p : Prec) (t : IntTy) (wrap : Bool) (a : Reg) (s : State) : Nat × FlagSet :=
  let (c, f) := numToInt r (intTySigned t) (intTyWidth t) wrap (s.fval p a)
  (intTyExt t c, f)

/-- FADD (R207). -/
def execFadd (r : Rnd) (p : Prec) (d a b : Reg) (s : State) : Res :=
  .next (s.fresult d (roundNum (precFmt p) .ieee r ((s.fval p a).add (s.fval p b))))
/-- FSUB (R207). -/
def execFsub (r : Rnd) (p : Prec) (d a b : Reg) (s : State) : Res :=
  .next (s.fresult d (roundNum (precFmt p) .ieee r ((s.fval p a).add (s.fval p b).neg)))
/-- FMUL (R207). -/
def execFmul (r : Rnd) (p : Prec) (d a b : Reg) (s : State) : Res :=
  .next (s.fresult d (roundNum (precFmt p) .ieee r ((s.fval p a).mul (s.fval p b))))
/-- FMA (R207). -/
def execFma (r : Rnd) (p : Prec) (d a b : Reg) (s : State) : Res :=
  .next (s.fresult d (roundNum (precFmt p) .ieee r (((s.fval p a).mul (s.fval p b)).add (s.fval p d))))
/-- FMIN (R207, R208). -/
def execFmin (p : Prec) (d a b : Reg) (s : State) : Res :=
  .next (s.fresult d (minMaxCode (precFmt p) false (s.fcode p a) (s.fcode p b)))
/-- FMAX (R207, R208). -/
def execFmax (p : Prec) (d a b : Reg) (s : State) : Res :=
  .next (s.fresult d (minMaxCode (precFmt p) true (s.fcode p a) (s.fcode p b)))
/-- FABS (R208). -/
def execFabs (p : Prec) (d a : Reg) (s : State) : Res := .next (s.fresult d (signCode (precFmt p) false (s.fcode p a)))
/-- FNEG (R208). -/
def execFneg (p : Prec) (d a : Reg) (s : State) : Res := .next (s.fresult d (signCode (precFmt p) true (s.fcode p a)))
/-- FCLS (R209). -/
def execFcls (p : Prec) (d a : Reg) (s : State) : Res := .next (s.fresult d ((classMask (precFmt p) (s.fcode p a), 0)))
/-- FRCP (R212). -/
def execFrcp (p : Prec) (d a : Reg) (s : State) : Res := .next (s.fresult d (rcpNum (precFmt p) (s.fval p a)))
/-- FRSQ (R213). -/
def execFrsq (p : Prec) (d a : Reg) (s : State) : Res := .next (s.fresult d (rsqNum (precFmt p) (s.fval p a)))
/-- FNR (R214): x from `a`, the estimate from `d`. -/
def execFnr (r : Rnd) (p : Prec) (d a : Reg) (s : State) : Res :=
  .next (s.fresult d (nrNum (precFmt p) r false (s.fval p a) (s.fval p d) (s.fcode p d)))
/-- FNRS (R214): x from `a`, the estimate from `d`. -/
def execFnrs (r : Rnd) (p : Prec) (d a : Reg) (s : State) : Res :=
  .next (s.fresult d (nrNum (precFmt p) r true (s.fval p a) (s.fval p d) (s.fcode p d)))
/-- FCVT.P.toT (R211). -/
def execFcvtToInt (r : Rnd) (p : Prec) (t : IntTy) (d a : Reg) (s : State) : Res :=
  .next (s.fresult d (s.toInt r p t false a))
/-- FCVT.P.fromT (R211). -/
def execFcvtFromInt (r : Rnd) (p : Prec) (t : IntTy) (d a : Reg) (s : State) : Res :=
  .next (s.fresult d (roundNum (precFmt p) .ieee r
    (Num.ofInt (intOfBits (intTySigned t) (intTyWidth t) (s.int a).toNat))))
/-- FCVT.S.tod (R211): exact. -/
def execFcvtSTod (d a : Reg) (s : State) : Res :=
  .next (s.fresult d (roundNum fp64 .ieee .rne (s.fval .s a)))
/-- FCVT.D.tos (R211). -/
def execFcvtDTos (r : Rnd) (d a : Reg) (s : State) : Res :=
  .next (s.fresult d (roundNum fp32 .ieee r (s.fval .d a)))
/-- FCVT.P.wrap.toT (R211). -/
def execFcvtWrapToInt (r : Rnd) (p : Prec) (t : IntTy) (d a : Reg) (s : State) : Res :=
  .next (s.fresult d (s.toInt r p t true a))
/-- FCMP (R205, R210). -/
def execFcmp (p : Prec) (c : Cond) (bit : Fin 32) (d a b : Reg) (s : State) : Res :=
  if s.gtag d then .next (s.trap cTag s.cx.pc)
  else
    let x := s.fval p a
    let y := s.fval p b
    .next (((s.setBit d bit.val (Num.holds c x y)).orFlags (flagIf (x.isNan || y.isNan) fNV)).retire 4)

end Sys2Proof.Machine
end

