-- ==== Sys2Proof/Machine/Vector.lean ====
section
/-! DEFINITION. The vector unit (R264 to R285): results are formed group by group in iteration order at issue;
flags and VCMP's predicate take effect at completion. -/

namespace Sys2Proof.Machine

open Sys2Proof

/-- Lanes: elements per cycle for elements at most `w` bits wide (R267). -/
def lanes (w : Nat) : Nat := 2048 / w
/-- Element width for occupancy: block formats count as 8 (R267). -/
def occBits (f : Fmt) : Nat := max 8 (fmtBits f)

/-- The results of group `g`: elements g·L up to N, every source element read from the store `m` before the group. -/
def vgroup (L N g : Nat) (f : Memory → Nat → Nat × FlagSet) (m : Memory) : List (Nat × Nat × FlagSet) :=
  (List.range (min L (N - g * L))).map (fun i => (g * L + i, f m (g * L + i)))

/-- All groups in increasing order (R267): the store after them and the flags. -/
def vgroups (L N : Nat) (f : Memory → Nat → Nat × FlagSet) (put : Nat → Nat → Memory → Memory) (m : Memory) :
    Memory × FlagSet :=
  (List.range (ceilDiv N L)).foldl (fun p g =>
    (vgroup L N g f p.1).foldl (fun p r => (put r.1 r.2.1 p.1, p.2 ||| r.2.2)) p) (m, 0)

/-- The code of element `e` of a local operand in store `m`. -/
def Desc.at (d : Desc) (m : Memory) (e : Nat) : Nat := d.code m m.read d.front.toNat e

/-- The vector unit takes an instruction (R37, R267): it is busy for `cyc` cycles; flags and predicate come at
completion (R269). -/
def State.vtake (cyc : Nat) (m : Memory) (fl : FlagSet) (pred : Option (Reg × Fin 32 × Bool)) (dest : List Nat)
    (caps : List Nat) (s : State) : State :=
  ({ s with
    co.store := m,
    co.vop := some { hid := s.cx.hid, fpc := s.cx.pc, flags := fl, pred := pred, dest := dest,
                     cycles := s.co.cycle + cyc, caps := caps, region := s.cx.region, bad := none } }).retire 8

/-- Whether a register named by a vector instruction is held by a VCMP, or the unit is busy (check 8). -/
def State.vbusy (s : State) (f : W2) : Bool := s.co.vop.isSome || s.heldReg [f.ga, f.gd]

/-- An elementwise instruction (R267, R268): `f` gives element `e` from the store. -/
def State.elementwise (w : W2) (ops : List Opnd) (bad : Option (BitVec 16)) (bitsw mul : Nat)
    (f : Memory → Nat → Nat × FlagSet) (s : State) : State :=
  s.engine ops bad (s.vbusy w) (some 500) (fun s =>
    let dd := s.desc w.dd
    let n := dd.count
    let r := vgroups (lanes bitsw) n f (dd.putElem dd.front.toNat) s.co.store
    s.vtake (mul * ceilDiv n (lanes bitsw)) r.1 r.2 none (rowBytes dd.foot) (s.fronts ops))

/-! ## Arithmetic and logic (R272 to R274) -/

/-- A source: an element of a descriptor, or with .gs the low bits of a register (R272). -/
def State.vsource (s : State) (gs : Bool) (w : W2) (d : BitVec 6) (f : Fmt) : Memory → Nat → Nat :=
  let v := (s.g w.ga).toNat % 2 ^ fmtBits f
  let e := s.desc d
  if gs then fun _ _ => v else fun m i => e.at m i

/-- The integer result of an exact value under OVF: wrap unless .sat (R273). -/
def arithInt (f : Fmt) (w : W2) (v : Int) : Nat × FlagSet :=
  fitInt (fmtSigned f) (fmtBits f) (ovfOf w.ovf.toNat != .sat) v

/-- The floating-point result of an exact value (R273). -/
def arithFp (f : Fmt) (w : W2) (x : Num) : Nat × FlagSet :=
  roundElem f (rndOf w.rnd.toNat) (ovfOf w.ovf.toNat) true x

/-- The exact integer value of a code. -/
def intVal (f : Fmt) (c : Nat) : Int := intOfBits (fmtSigned f) (fmtBits f) c

/-- A two-source form: integer and floating-point operations on codes. -/
def arith2 (f : Fmt) (w : W2) (opI : Int → Int → Int) (opF : Num → Num → Num) (a b : Nat) : Nat × FlagSet :=
  if fmtInt f then arithInt f w (opI (intVal f a) (intVal f b))
  else arithFp f w (opF (elemValue f a) (elemValue f b))

/-- The elementwise forms of two descriptor sources, the second replaced under .gs. -/
def State.vec2 (w : W2) (op : Fmt → Nat → Nat → Nat × FlagSet) (s : State) : State :=
  let f := fmtAt w.fmt.toNat
  let gs := w.minor.toNat % 2 == 1
  let a := s.vsource false w w.da f
  let b := s.vsource gs w w.db f
  let dd := s.desc w.dd
  s.elementwise w ([vdst w.dd f, vsrc w.da f] ++ (if gs then [] else [vsrc w.db f]))
    (shapeIf (dd.agrees (s.desc w.da) && (gs || dd.agrees (s.desc w.db)))) (occBits f) 1
    (fun m e => op f (a m e) (b m e))

/-- VMIN and VMAX on codes (R274). -/
def vminmax (isMax : Bool) (f : Fmt) (a b : Nat) : Nat × FlagSet :=
  match fpOf f with
  | some p => minMaxCode p isMax a b
  | none => (if (decide (intVal f a ≤ intVal f b)) != isMax then a else b, 0)

/-- A bitwise or shift operation on codes, as an integer pattern. -/
def vbits (op : Fmt → Nat → Nat → Nat) (f : Fmt) (a b : Nat) : Nat × FlagSet := (op f a b % 2 ^ fmtBits f, 0)

/-- VADD (R274). -/
def execVadd (f : W2) (s : State) : Res := .next (s.vec2 f (fun t => arith2 t f (· + ·) Num.add))
/-- VSUB (R274). -/
def execVsub (f : W2) (s : State) : Res :=
  .next (s.vec2 f (fun t => arith2 t f (· - ·) (fun x y => x.add y.neg)))
/-- VMUL (R274). -/
def execVmul (f : W2) (s : State) : Res := .next (s.vec2 f (fun t => arith2 t f (· * ·) Num.mul))
/-- VMIN (R274). -/
def execVmin (f : W2) (s : State) : Res := .next (s.vec2 f (vminmax false))
/-- VMAX (R274). -/
def execVmax (f : W2) (s : State) : Res := .next (s.vec2 f (vminmax true))
/-- VAND (R274). -/
def execVand (f : W2) (s : State) : Res := .next (s.vec2 f (vbits (fun _ a b => a &&& b)))
/-- VOR (R274). -/
def execVor (f : W2) (s : State) : Res := .next (s.vec2 f (vbits (fun _ a b => a ||| b)))
/-- VXOR (R274). -/
def execVxor (f : W2) (s : State) : Res := .next (s.vec2 f (vbits (fun _ a b => a ^^^ b)))
/-- VSHL (R274). -/
def execVshl (f : W2) (s : State) : Res := .next (s.vec2 f (vbits (fun t a b => a * 2 ^ (b % fmtBits t))))
/-- VSHR (R274). -/
def execVshr (f : W2) (s : State) : Res := .next (s.vec2 f (vbits (fun t a b => a / 2 ^ (b % fmtBits t))))
/-- VSAR (R274): the bits read as signed. -/
def execVsar (f : W2) (s : State) : Res :=
  .next (s.vec2 f (vbits (fun t a b =>
    bitsOfInt (fmtBits t) (intOfBits true (fmtBits t) a / 2 ^ (b % fmtBits t)))))

/-- VFMA (R274): one rounding; .gs replaces the first factor. -/
def execVfma (f : W2) (s : State) : Res :=
  let t := fmtAt f.fmt.toNat
  let gs := f.minor.toNat % 2 == 1
  let a := s.vsource gs f f.da t
  let b := s.vsource false f f.db t
  let c := s.vsource false f f.dc t
  let dd := s.desc f.dd
  .next (s.elementwise f ([vdst f.dd t] ++ (if gs then [] else [vsrc f.da t]) ++ [vsrc f.db t, vsrc f.dc t])
    (shapeIf ((gs || dd.agrees (s.desc f.da)) && dd.agrees (s.desc f.db) && dd.agrees (s.desc f.dc))) (occBits t) 1
    (fun m e =>
      if fmtInt t then arithInt t f (intVal t (a m e) * intVal t (b m e) + intVal t (c m e))
      else arithFp t f (((elemValue t (a m e)).mul (elemValue t (b m e))).add (elemValue t (c m e)))))

/-- A form of one descriptor source with DD and DA of one format. -/
def State.vec1 (w : W2) (mul : Nat) (op : Fmt → Nat → Nat × FlagSet) (s : State) : State :=
  let f := fmtAt w.fmt.toNat
  let da := s.desc w.da
  s.elementwise w [vdst w.dd f, vsrc w.da f] (shapeIf ((s.desc w.dd).agrees da)) (occBits f) mul
    (fun m e => op f (da.at m e))

/-- VABS (R274). -/
def execVabs (f : W2) (s : State) : Res :=
  .next (s.vec1 f 1 (fun t a => match fpOf t with
    | some p => signCode p false a
    | none => arithInt t f (intVal t a).natAbs))
/-- VNEG (R274). -/
def execVneg (f : W2) (s : State) : Res :=
  .next (s.vec1 f 1 (fun t a => match fpOf t with
    | some p => signCode p true a
    | none => arithInt t f (-(intVal t a))))

/-! ## Comparison and selection (R275, R276) -/

/-- The comparison of VCMP on codes and its flags. -/
def vcmpElem (f : Fmt) (c : Cond) (a b : Nat) : Bool × FlagSet :=
  match fpOf f with
  | some _ =>
    let x := elemValue f a
    let y := elemValue f b
    (Num.holds c x y, flagIf (x.isNan || y.isNan) fNV)
  | none =>
    let x := intVal f a
    let y := intVal f b
    (match c with
     | .eq => a == b
     | .ne => a != b
     | .lt => decide (x < y)
     | .le => decide (x ≤ y)
     | .ltn => decide (a < b)
     | .len => decide (a ≤ b), 0)

/-- VCMP (R275). -/
def execVcmp (f : W2) (s : State) : Res :=
  let t := fmtAt f.fmt.toNat
  let gs := f.minor.toNat % 2 == 1
  let c := (condOf f.cnd.toNat).getD .eq
  let a := s.vsource false f f.da t
  let b := s.vsource gs f f.db t
  let dd := s.desc f.dd
  let ops := [vdst f.dd .n8, vsrc f.da t] ++ (if gs then [] else [vsrc f.db t])
  let bad :=
    match shapeIf (dd.agrees (s.desc f.da) && (gs || dd.agrees (s.desc f.db))) with
    | some k => some k
    | none => if s.gtag f.gd then some cTag else none
  let L := lanes (occBits t)
  .next (s.engine ops bad (s.vbusy f) (some 500) (fun s =>
    let n := dd.count
    let g (m : Memory) (e : Nat) : Nat × FlagSet :=
      let r := vcmpElem t c (a m e) (b m e)
      (if r.1 then 1 else 0, r.2)
    -- the stored elements and whether any comparison held, in group order
    let r := (List.range (ceilDiv n L)).foldl (fun (p : Memory × FlagSet × Bool) k =>
      (vgroup L n k g p.1).foldl (fun (p : Memory × FlagSet × Bool) x =>
        (dd.putElem dd.front.toNat x.1 x.2.1 p.1, p.2.1 ||| x.2.2, p.2.2 || x.2.1 == 1)) p) (s.co.store, 0, false)
    s.vtake (ceilDiv n L) r.1 r.2.1 (some (f.gd, Fin.ofNat 32 (f.minor.toNat / 2), r.2.2)) (rowBytes dd.foot)
      (s.fronts ops)))

/-- VSEL (R276). -/
def execVsel (f : W2) (s : State) : Res :=
  let t := fmtAt f.fmt.toNat
  let dd := s.desc f.dd
  let da := s.desc f.da
  let db := s.desc f.db
  let dc := s.desc f.dc
  .next (s.elementwise f [vdst f.dd t, vsrc f.da t, vsrc f.db t, vsrc f.dc .n8]
    (shapeIf (dd.agrees da && dd.agrees db && dd.agrees dc)) (occBits t) 1
    (fun m e => (if dc.at m e ≠ 0 then da.at m e else db.at m e, 0)))

/-! ## Conversion and quantisation (R277 to R279) -/

/-- The source format that MINOR[3:0] names. -/
def srcFmt (w : W2) : Fmt := fmtAt (w.minor.toNat % 16)

/-- The n-th draw of st.lfsr from now on, counted from 0 (R123, R125). -/
def lfsrAfter (s0 : W32) (n : Nat) : W32 := iterate (fun _ x => lfsrStep x) n s0
/-- Sixteen low bits of the register. -/
def draw (v : W32) : Nat := v.toNat % 65536

/-- Conversion of a value into a format by RND and OVF (R277): under .sr with the element's draw. -/
def convElem (f : Fmt) (w : W2) (x : Num) (v : W32) : Nat × FlagSet :=
  match fpOf f with
  | some p =>
    if rndOf w.rnd.toNat == .sr then roundSr p (ovfModeOf f (ovfOf w.ovf.toNat)) x (draw v)
    else roundElem f (rndOf w.rnd.toNat) (ovfOf w.ovf.toNat) true x
  | none => numToInt (rndOf w.rnd.toNat) (fmtSigned f) (fmtBits f) (ovfOf w.ovf.toNat == .wrap) x

/-- The steps that a conversion of `n` elements gives st.lfsr (R125). -/
def State.stepLfsr (w : W2) (n : Nat) (s : State) : State :=
  if rndOf w.rnd.toNat == .sr then { s with co.lfsr := lfsrAfter s.co.lfsr n } else s

/-- VCVT (R277). -/
def execVcvt (f : W2) (s : State) : Res :=
  let t := fmtAt f.fmt.toNat
  let g := srcFmt f
  let da := s.desc f.da
  let dd := s.desc f.dd
  let ops := [vdst f.dd t, vsrc f.da g]
  let L := lanes (max (occBits t) (occBits g))
  .next (s.engine ops (shapeIf (dd.agrees da)) (s.vbusy f) (some 500) (fun s =>
    let n := dd.count
    let l0 := s.co.lfsr
    let r := vgroups L n (fun m e => convElem t f (elemValue g (da.at m e)) (lfsrAfter l0 (e + 1)))
      (dd.putElem dd.front.toNat) s.co.store
    (s.stepLfsr f n).vtake (ceilDiv n L) r.1 r.2 none (rowBytes dd.foot) (s.fronts ops)))

/-- The largest finite value of a quantised format, as m·2^e (R278). -/
def quantMax : Fmt → Num
  | .mxfp4 => .fin false 6 0
  | .l6 => .fin false 55109 (-12)
  | .e4m3 => .fin false 448 0
  | .e5m2 => .fin false 57344 0
  | _ => .fin false 255 120

/-- The scale code of a block (R278). -/
def blockScale (f : Fmt) (vs : List Num) : Nat :=
  if vs.any Num.isNan then 255
  else
    let fin := vs.filter (fun v => !v.isInf && !v.isZero)
    match fin with
    | [] => 127
    | v :: t =>
      let x := t.foldl (fun (a b : Num) => if a.abs.cmp b.abs == .lt then b else a) v
      -- the smallest integer k, clamped to 0 … 254, with x · 2^(127 − k) ≤ M
      ((List.range 255).find? (fun (k : Nat) => (x.abs.scale (127 - (k : Int))).cmp (quantMax f) != .gt)).getD 254

/-- The sign of a value. -/
def Num.isNeg : Num → Bool
  | .fin s _ _ => s
  | .inf s => s
  | .nan => false

/-- Whether rounding in a mode takes an overflow of a sign to the infinity (R121). -/
def overflowsAway (r : Rnd) (neg : Bool) : Bool :=
  match r with
  | .rne | .sr => true
  | .rtz => false
  | .rtp => !neg

/-- One element of a block with scale code `e` (R278). The flag says that an mxfp4 element became an infinity under .ovf, which writes
0xFF into its block's scale byte (R121). DESIGN CHOICE (log 108): the codes that the elements of such a block keep. -/
def quantElem (f : Fmt) (w : W2) (e : Nat) (x : Num) (v : W32) : Nat × FlagSet × Bool :=
  if e = 255 then
    (match f with
     | .l6 => 32
     | .mxfp4 => 0
     | .e4m3 => fpE4m3.nanc
     | .e5m2 => fpE5m2.nanc
     | _ => fpBf16.nanc, flagIf x.isNan fNV, false)
  else
    let y := x.scale (127 - (e : Int))
    let ovf := ovfOf w.ovf.toNat == .ovf
    match f with
    | .l6 =>
      let r := roundL6 (rndOf w.rnd.toNat) ovf y
      (r.1, r.2, false)
    | .mxfp4 =>
      if y.isNan then ((Config.mxfp4NanCode e).toNat, fNV, false)
      else
        let r := roundNum fpE2m1 .saturate (rndOf w.rnd.toNat) y
        (r.1, r.2, ovf && (r.2 &&& fOF) != 0 && (y.isInf || overflowsAway (rndOf w.rnd.toNat) y.isNeg))
    | _ =>
      let r := convElem f w y v
      (r.1, r.2, false)

/-- One block of VQNT: element codes with flags, and the scale byte that it leaves; .sonly rounds no element. -/
def quantBlock (f : Fmt) (w : W2) (old : Nat) (vs : List Num) (l : Nat → W32) : List (Nat × FlagSet) × Nat :=
  let given := w.minor.toNat / 16 % 2 == 1
  let e := if given then old else blockScale f vs
  let r := vs.zipIdx.map (fun p => quantElem f w e p.1 (l p.2))
  (r.map (fun x => (x.1, x.2.1)), if r.any (·.2.2) && w.minor.toNat / 32 % 2 == 0 then 255 else e)

/-- Block `b` of a descriptor, as the elements that it holds in iteration order (R111). -/
def blockElems (b : Nat) : List Nat := (List.range 32).map (32 * b + ·)

/-- VQNT (R278). DESIGN CHOICE (log 108): .sonly sets no flag, and .sr steps st.lfsr for the elements of a block of scale 0xFF too. -/
def execVqnt (f : W2) (s : State) : Res :=
  let t := fmtAt f.fmt.toNat
  let g := srcFmt f
  let da := s.desc f.da
  let dd := s.desc f.dd
  let sonly := f.minor.toNat / 32 % 2 == 1
  let dst := dd.foot ++ dd.scaleFoot
  let ok := dd.agrees da && dd.ext 0 % 32 == 0 && (fmtBlock t || dd.scale != 0) &&
    !rowsOverlap dst (da.foot ++ da.permFoot)
  let given := f.minor.toNat / 16 % 2 == 1
  let ops := [⟨f.dd.toNat, some t, scaleLocal, false, true, true, given⟩, vsrc f.da g]
  let L := lanes (max (occBits t) (occBits g))
  .next (s.engine ops (shapeIf ok) (s.vbusy f) (some 500) (fun s =>
    let n := dd.count
    let l0 := s.co.lfsr
    let m0 := s.co.store
    let r := (List.range (n / 32)).foldl (fun (p : Memory × FlagSet) b =>
      let vs := (blockElems b).map (fun e => elemValue g (da.at m0 e))
      let q := quantBlock t f (Memory.read m0 (dd.scale.toNat + b)).toNat vs (fun i => lfsrAfter l0 (32 * b + i + 1))
      let m := p.1.write (dd.scale.toNat + b) (BitVec.ofNat 8 q.2)
      if sonly then (m, p.2)
      else
        ((q.1.zipIdx).foldl (fun m x => dd.putElem dd.front.toNat (32 * b + x.2) x.1.1 m) m, p.2 ||| flagsOf q.1))
      (m0, 0)
    let s := if sonly then s else s.stepLfsr f n
    let wrote := (if sonly then [] else dd.foot) ++ (if given && !(t == .mxfp4 && ovfOf f.ovf.toNat == .ovf) then [] else dd.scaleFoot)
    s.vtake (ceilDiv n L) r.1 r.2 none (rowBytes wrote) (s.fronts ops)))

/-- The exact value of an element of a scaled operand (R113, R116, R279). -/
def scaledValue (f : Fmt) (c sc : Nat) : Num := withScale sc (elemValue f c)

/-- VDQNT (R279). -/
def execVdqnt (f : W2) (s : State) : Res :=
  let t := fmtAt f.fmt.toNat
  let g := srcFmt f
  let da := s.desc f.da
  let dd := s.desc f.dd
  let ok := dd.agrees da && dd.ext 0 % 32 == 0 && !rowsOverlap dd.foot da.scaleFoot
  .next (s.elementwise f [vdst f.dd t, ⟨f.da.toNat, some g, scaleLocal, true, false, true, true⟩] (shapeIf ok)
    (max (occBits t) (occBits g)) 1
    (fun m e => roundElem t (rndOf f.rnd.toNat) .dflt true (scaledValue g (da.at m e) (da.scaleAt m m.read e))))

/-! ## Special functions (R280 to R282) -/

/-- A special function of one floating-point source. -/
def State.vspecial (w : W2) (op : FpFmt → Num → Nat × FlagSet) (s : State) : State :=
  s.vec1 w 2 (fun t a => match fpOf t with
    | some p => op p (p.decode a)
    | none => (a, 0))
/-- VRCP (R280). -/
def execVrcp (f : W2) (s : State) : Res := .next (s.vspecial f rcpNum)
/-- VRSQ (R280). -/
def execVrsq (f : W2) (s : State) : Res := .next (s.vspecial f rsqNum)
/-- VEXP2 (R282). -/
def execVexp2 (f : W2) (s : State) : Res := .next (s.vspecial f exp2Num)
/-- VLOG2 (R282). -/
def execVlog2 (f : W2) (s : State) : Res := .next (s.vspecial f log2Num)
/-- VNR (R281): x from DA, the estimate from DB. -/
def execVnr (f : W2) (s : State) : Res :=
  let t := fmtAt f.fmt.toNat
  let da := s.desc f.da
  let db := s.desc f.db
  let dd := s.desc f.dd
  .next (s.elementwise f [vdst f.dd t, vsrc f.da t, vsrc f.db t] (shapeIf (dd.agrees da && dd.agrees db)) (occBits t) 2
    (fun m e => match fpOf t with
      | some p => nrNum p (rndOf f.rnd.toNat) (f.minor.toNat % 2 == 1) (p.decode (da.at m e)) (p.decode (db.at m e))
          (db.at m e)
      | none => (0, 0)))

/-! ## Scans and reductions (R283, R284) -/

/-- The accumulated value of a line: a code of a floating-point format, or an exact integer. -/
inductive ScanVal where
  | fp (c : Nat)
  | int (v : Int)
  deriving DecidableEq, Repr

/-- The identity of an operation in a format (R283): 0 .add, 1 .max, 2 .min. -/
def scanId (f : Fmt) (op : Nat) : ScanVal :=
  match fpOf f with
  | some p =>
    if op = 0 then .fp 0
    else .fp (p.signed (op == 1) (if p.ieee then p.infc else p.maxc))
  | none =>
    if op = 0 then .int 0
    else .int (if op = 1 then intMin (fmtSigned f) (fmtBits f) else intMax (fmtSigned f) (fmtBits f))

/-- Op(s, x) for an element of format `g` accumulated in format `f` (R283). -/
def scanOp (f g : Fmt) (w : W2) (op : Nat) (v : ScanVal) (c : Nat) : ScanVal × FlagSet :=
  match v with
  | .int i =>
    let x := intVal g c
    (.int (match op with | 0 => i + x | 1 => max i x | _ => min i x), 0)
  | .fp a =>
    match fpOf f with
    | some p =>
      if op = 0 then
        let r := arithFp f w ((p.decode a).add (elemValue g c))
        (.fp r.1, r.2)
      else
        let x := (roundNum p .ieee .rne (elemValue g c)).1
        let r := minMaxCode p (op == 1) a x
        (.fp r.1, r.2)
    | none => (.fp a, 0)

/-- The value written for an accumulated value (R283). -/
def scanOut (f : Fmt) (w : W2) : ScanVal → Nat × FlagSet
  | .fp c => (c, 0)
  | .int v => arithInt f w v

/-- An element of a format as an accumulated value. -/
def scanIn (f : Fmt) (c : Nat) : ScanVal := if fmtInt f then .int (intVal f c) else .fp c

/-- One line: the written codes in index order and the final accumulated value with all flags. -/
def scanLine (f g : Fmt) (w : W2) (op : Nat) (excl : Bool) : ScanVal → List Nat → List (Nat × FlagSet) × ScanVal × FlagSet
  | v, [] => ([], v, 0)
  | v, c :: t =>
    let (v', fl) := scanOp f g w op v c
    let o := scanOut f w (if excl then v else v')
    let (l, vn, fr) := scanLine f g w op excl v' t
    (o :: l, vn, fl ||| fr)

/-- The extents with dimension `n` set to 1. -/
def dropDim (l : List Nat) (n : Nat) : List Nat := l.set n 1
/-- Stride in element numbers of dimension `n`. -/
def dimStep (l : List Nat) (n : Nat) : Nat := (l.take n).foldl (· * ·) 1
/-- The element numbers of line `k` along dimension `n`. -/
def lineElems (l : List Nat) (n k : Nat) : List Nat :=
  let st := dimStep l n
  (List.range (l.getD n 1)).map (fun j => k % st + (k / st * l.getD n 1 + j) * st)
/-- The number of lines along dimension `n`. -/
def lineNum (l : List Nat) (n : Nat) : Nat := (dropDim l n).foldl (· * ·) 1

/-- VSCAN (R283). -/
def execVscan (f : W2) (s : State) : Res :=
  let g := fmtAt f.fmt.toNat
  let mi := f.minor.toNat
  let t := fmtAt ((scanDest f.fmt.toNat (mi / 2 % 2 == 1)).getD 0)
  let carry := mi / 4 % 2 == 1
  let n := f.x2.toNat
  let da := s.desc f.da
  let db := s.desc f.db
  let dd := s.desc f.dd
  let ops := [vdst f.dd t, vsrc f.da g] ++ (if carry then [vsrc f.db t] else [])
  let ok := dd.agrees da && (!carry || db.exts == dropDim dd.exts n) &&
    !rowsOverlap dd.foot (da.foot ++ da.permFoot ++ (if carry then db.foot ++ db.permFoot else []))
  let L := lanes (max (occBits t) (occBits g))
  .next (s.engine ops (shapeIf ok) (s.vbusy f) (some 500) (fun s =>
    let m0 := s.co.store
    let r := (List.range (lineNum dd.exts n)).foldl (fun (p : Memory × FlagSet) k =>
      let es := lineElems dd.exts n k
      let v0 := if carry then scanIn t (db.at m0 k) else scanId t f.cnd.toNat
      let r := scanLine t g f f.cnd.toNat (mi % 2 == 1) v0 (es.map (da.at m0))
      ((es.zip r.1).foldl (fun m x => dd.putElem dd.front.toNat x.1 x.2.1 m) p.1, p.2 ||| r.2.2 ||| flagsOf r.1))
      (m0, 0)
    s.vtake (ceilDiv dd.count L) r.1 r.2 none (rowBytes dd.foot) (s.fronts ops)))

/-- VRED (R284). -/
def execVred (f : W2) (s : State) : Res :=
  let g := fmtAt f.fmt.toNat
  let t := fmtAt ((scanDest f.fmt.toNat (f.minor.toNat / 2 % 2 == 1)).getD 0)
  let n := f.x2.toNat
  let da := s.desc f.da
  let dd := s.desc f.dd
  let ops := [vdst f.dd t, vsrc f.da g]
  let ok := dd.exts == dropDim da.exts n && !rowsOverlap dd.foot (da.foot ++ da.permFoot)
  let L := lanes (max (occBits t) (occBits g))
  .next (s.engine ops (shapeIf ok) (s.vbusy f) (some 500) (fun s =>
    let m0 := s.co.store
    let r := (List.range (lineNum da.exts n)).foldl (fun (p : Memory × FlagSet) k =>
      let r := scanLine t g f f.cnd.toNat false (scanId t f.cnd.toNat) ((lineElems da.exts n k).map (da.at m0))
      let o := scanOut t f r.2.1
      (dd.putElem dd.front.toNat k o.1 p.1, p.2 ||| r.2.2 ||| o.2)) (m0, 0)
    s.vtake (ceilDiv dd.count L) r.1 r.2 none (rowBytes dd.foot) (s.fronts ops)))

/-! ## Moving and rearranging (R285) -/

/-- The source element number that VBCAST reads: index 0 in every dimension of extent 1. -/
def bcastSrc (dd da : Desc) (e : Nat) : Nat :=
  let (i0, i1, i2, i3) := dd.idx e
  let p (i k : Nat) : Nat := if da.ext k = 1 then 0 else i
  da.num (p i0 0) (p i1 1) (p i2 2) (p i3 3)

/-- VBCAST (R285). -/
def execVbcast (f : W2) (s : State) : Res :=
  let t := fmtAt f.fmt.toNat
  let da := s.desc f.da
  let dd := s.desc f.dd
  let ok := (List.range 4).all (fun k => da.ext k == dd.ext k || da.ext k == 1)
  .next (s.elementwise f [vdst f.dd t, vsrc f.da t] (shapeIf ok) (occBits t) 1
    (fun m e => (da.at m (bcastSrc dd da e), 0)))

/-- VFILL (R285). -/
def execVfill (f : W2) (s : State) : Res :=
  let t := fmtAt f.fmt.toNat
  let v := (s.g f.ga).toNat % 2 ^ fmtBits t
  .next (s.elementwise f [vdst f.dd t] none (occBits t) 1 (fun _ _ => (v, 0)))

/-- VCOPY (R285): a block format's scale bytes are copied too. DESIGN CHOICE (log 121): they are all read before any write and all written
after the last group, an order that R268 leaves open for overlapping footprints. -/
def execVcopy (f : W2) (s : State) : Res :=
  let t := fmtAt f.fmt.toNat
  let da := s.desc f.da
  let dd := s.desc f.dd
  let sp := if fmtBlock t then scaleLocal else frontLocal
  let ops := [⟨f.dd.toNat, some t, sp, false, true, true, false⟩, ⟨f.da.toNat, some t, sp, true, false, true, fmtBlock t⟩]
  let L := lanes (occBits t)
  .next (s.engine ops (shapeIf (dd.agrees da && !(fmtBlock t && da.perm != 0))) (s.vbusy f) (some 500) (fun s =>
    let n := dd.count
    let r := vgroups L n (fun m e => (da.at m e, 0)) (dd.putElem dd.front.toNat) s.co.store
    let m := if fmtBlock t then Memory.writeN r.1 dd.scale.toNat (Memory.readN s.co.store da.scale.toNat da.blocks)
      else r.1
    s.vtake (ceilDiv n L) m 0 none (rowBytes (dd.foot ++ (if fmtBlock t then dd.scaleFoot else []))) (s.fronts ops)))

/-- A list with entries `p` and `q` exchanged. -/
def swapAt (l : List Nat) (p q : Nat) : List Nat := (l.set p (l.getD q 0)).set q (l.getD p 0)

/-- The element number at a list of four indices. -/
def Desc.numL (d : Desc) (l : List Nat) : Nat := d.num (l.getD 0 0) (l.getD 1 0) (l.getD 2 0) (l.getD 3 0)
/-- The four indices of an element as a list. -/
def Desc.idxL (d : Desc) (e : Nat) : List Nat :=
  let (i0, i1, i2, i3) := d.idx e
  [i0, i1, i2, i3]

/-- The bytes that a read of element `e` touches: its own, of a compressed descriptor those of the footprint. -/
def Desc.readBytes (d : Desc) (m : Memory) (e : Nat) : List Nat :=
  if d.sparse then rowBytes d.foot
  else
    let (i0, i1, i2, i3) := d.idx e
    let b := d.bitAddr d.front.toNat (d.permAt m i0) i1 i2 i3
    (List.range ((b % 8 + d.w + 7) / 8)).map (b / 8 + ·)

/-- A form that moves elements without overlap: element `e` of DD from the store before the instruction. `part` gives for an operand that
it reads only at some elements the bytes that these take; a poisoned line elsewhere in it is not read (R269, R446). -/
def State.vmove (w : W2) (ops : List Opnd) (part : Option (Nat × (Memory → List Nat))) (ok : Bool) (n bitsw : Nat) (perCycle : Option Nat)
    (dest : Memory → List Nat) (write : Memory → Memory) (s : State) : State :=
  s.checks ops (shapeIf ok) (s.vbusy w) (some 500) (fun s =>
    let whole := s.badOperand (match part with
      | some p => ops.filter (·.d != p.1)
      | none => ops)
    let some_ := part.bind (fun p => s.co.poison.find? (fun n => (p.2 s.co.store).any (fun a => a / 64 == n)))
    let dst := dest s.co.store
    let t := (s.vtake (ceilDiv n (perCycle.getD (lanes bitsw))) (write s.co.store) 0 none dst (s.fronts ops)).markBad (some 500)
      (whole.or some_)
    { t with co := t.co.coverPoison (dst.map (fun a => (a, 1))) })

/-- VTRAN (R285). -/
def execVtran (f : W2) (s : State) : Res :=
  let t := fmtAt f.fmt.toNat
  let p := f.minor.toNat % 4
  let q := f.minor.toNat / 4 % 4
  let da := s.desc f.da
  let dd := s.desc f.dd
  .next (s.vmove f [vdst f.dd t, vsrc f.da t] none
    (dd.exts == swapAt da.exts p q && !rowsOverlap dd.foot (da.foot ++ da.permFoot)) dd.count (occBits t) none
    (fun _ => rowBytes dd.foot)
    (fun m => dd.putAll dd.front.toNat
      ((List.range dd.count).map (fun e => da.at m (da.numL (swapAt (dd.idxL e) p q)))) 0 m))

/-- VGATH (R285). -/
def execVgath (f : W2) (s : State) : Res :=
  let t := fmtAt f.fmt.toNat
  let g := srcFmt f
  let da := s.desc f.da
  let db := s.desc f.db
  let dd := s.desc f.dd
  .next (s.vmove f [vdst f.dd t, vsrc f.da t, vsrc f.db g]
    (if f.da = f.db then none
      else some (f.da.toNat, fun m => (List.range dd.count).flatMap (fun e => da.readBytes m (db.at m e % da.count))))
    (dd.agrees db && !rowsOverlap dd.foot (da.foot ++ da.permFoot ++ db.foot ++ db.permFoot)) dd.count (occBits t)
    (some 16) (fun _ => rowBytes dd.foot)
    (fun m => dd.putAll dd.front.toNat ((List.range dd.count).map (fun e => da.at m (db.at m e % da.count))) 0 m))

/-- The bytes that hold one element of a destination. -/
def Desc.elemBytes (d : Desc) (base e : Nat) : List Nat :=
  let (i0, i1, i2, i3) := d.idx e
  let b := d.bitAddr base i0 i1 i2 i3
  (List.range ((b % 8 + d.w + 7) / 8)).map (b / 8 + ·)

/-- VSCAT (R285): in increasing order, the last write wins. -/
def execVscat (f : W2) (s : State) : Res :=
  let t := fmtAt f.fmt.toNat
  let g := srcFmt f
  let da := s.desc f.da
  let db := s.desc f.db
  let dd := s.desc f.dd
  .next (s.vmove f [vdst f.dd t, vsrc f.da t, vsrc f.db g] none
    (da.agrees db && !rowsOverlap dd.foot (da.foot ++ da.permFoot ++ db.foot ++ db.permFoot)) da.count (occBits t)
    (some 16)
    (fun m => if dd.sparse then rowBytes dd.foot else (List.range da.count).flatMap (fun e => dd.elemBytes dd.front.toNat (db.at m e % dd.count)))
    (fun m => (List.range da.count).foldl (fun m' e => dd.putElem dd.front.toNat (db.at m e % dd.count) (da.at m e) m') m))

/-- VLUT (R285): DA holds the indices, DB is the table. -/
def execVlut (f : W2) (s : State) : Res :=
  let t := fmtAt f.fmt.toNat
  let g := srcFmt f
  let da := s.desc f.da
  let db := s.desc f.db
  let dd := s.desc f.dd
  .next (s.vmove f [vdst f.dd t, vsrc f.da g, vsrc f.db t]
    (if f.da = f.db then none
      else some (f.db.toNat, fun m => (List.range dd.count).flatMap (fun e => db.readBytes m (da.at m e % db.count))))
    (dd.agrees da && !rowsOverlap dd.foot (da.foot ++ da.permFoot ++ db.foot ++ db.permFoot)) dd.count (occBits t)
    (some 16) (fun _ => rowBytes dd.foot)
    (fun m => dd.putAll dd.front.toNat ((List.range dd.count).map (fun e => db.at m (da.at m e % db.count))) 0 m))

/-! ## Completion (R269) -/

/-- The predicate write of VCMP in its context (R13, R275). -/
def Ctx.setBit (n : Reg) (b : Nat) (v : Bool) (c : Ctx) : Ctx :=
  c.put n (if v then c.reg n ||| ((1 : W128) <<< b) else c.reg n &&& ~~~((1 : W128) <<< b)) (c.tag n)

/-- The cycle count of core `core` is at least `n`: an operation ends then. -/
def State.reachOn (core n : Nat) (s : State) : State :=
  let s := s.focusCore core
  if n ≤ s.co.cycle then s else s.reach n

/-- VECTOR_COMPLETION (R126, R269): flags and the predicate take effect, the unit is free. -/
def execVectorCompletion (core : Nat) (s : State) : Res :=
  match (s.coreAt core).vop with
  | none => .next s
  | some v =>
    let s := s.reachOn core v.cycles
    match v.bad with
    | some n => .next (s.vecFault v (BitVec.ofNat 64 n))
    | none =>
      let s := { s with
        co.vop := none,
        co.fflags := s.co.fflags ||| v.flags }
      match v.pred with
      | some (p, b, x) => .next (s.modCtx core v.hid (Ctx.setBit p b.val x))
      | none => .next s

end Sys2Proof.Machine
end

