-- ==== Sys2Proof/Machine/Matrix.lean ====
section
/-! DEFINITION. The matrix unit (R130, R131, R141 to R146, R286 to R298): products are formed at issue; the tile and the
flags take effect at completion, and so do the transfers and the swap of MMR. -/

namespace Sys2Proof.Machine

open Sys2Proof

/-! ## Spaces that operands are read from -/

/-- A byte of a space as the focused context reads it: global bytes by plain loads (R88, R302). -/
def State.spaceByte (s : State) (sp : DSpace) : Nat → Byte :=
  match sp with
  | .loc => Memory.read s.co.store
  | .wbuf => Memory.read s.co.wbuf
  | .well =>
    let m := s.wellOf s.lau.war (dieOf s.co.id)
    Memory.read m
  | .glob => s.globalByte s.engineMoment

/-- Code and scale code of the element of a matrix operand at logical indices, read through its permutation table along
dimension 0 (R129). `rd` reads its front's space, `sc` its scale array's. -/
def Desc.matElem (d : Desc) (store : Memory) (rd sc : Nat → Byte) (k j g : Nat) : Nat × Nat :=
  let i0 := d.permAt store k
  (d.elemAt rd d.front.toNat i0 j g 0,
    if fmtBlock d.fmt then (sc (d.scale.toNat + d.blockOf i0 j g 0)).toNat else 127)

/-! ## Products and sums (R130, R131) -/

/-- Whether a list of products makes its group NaN: a NaN, or infinities of both signs (R130). An invalid product is a
NaN already. -/
def groupNan (ps : List Num) : Bool :=
  ps.any Num.isNan || (ps.any (· == .inf false) && ps.any (· == .inf true))

/-- floor(log2 |p|) of a nonzero finite value. -/
def Num.logFloor : Num → Int
  | .fin _ m e => (Nat.log2 m : Int) + e
  | _ => 0

/-- sign(p) · floor(|p| / 2^q). -/
def Num.truncAt (q : Int) : Num → Int
  | .fin s m e =>
    let k := e - q
    let v : Nat := if k ≥ 0 then m * 2 ^ k.toNat else m / 2 ^ (-k).toNat
    if s then -(v : Int) else v
  | _ => 0

/-- The sum G of one group as an f32 code, with its flags (R130). -/
def groupSum (ps : List Num) : Nat × FlagSet :=
  if groupNan ps then (fp32.nanc, fNV)
  else if ps.any (· == .inf false) then (fp32.infc, 0)
  else if ps.any (· == .inf true) then (fp32.signed true fp32.infc, 0)
  else
    match ps.filter (fun p => !p.isZero) with
    | [] => (0, 0)
    | p :: t =>
      let e := t.foldl (fun a x => max a x.logFloor) p.logFloor
      let w : Int := (p :: t).foldl (fun a x => a + x.truncAt (e - 57)) 0
      if w = 0 then (0, 0) else round32 (.fin (decide (w < 0)) w.natAbs (e - 57))

/-- A list in groups of 32. -/
def groups32 {α : Type} : Nat → List α → List (List α)
  | 0, _ => []
  | n + 1, l => match l with
    | [] => []
    | _ => l.take 32 :: groups32 n (l.drop 32)

/-- One floating-point accumulator element (R130): the groups are applied in increasing K. -/
def mmaFp (acc : Nat) (ps : List Num) : Nat × FlagSet :=
  (groups32 (ceilDiv ps.length 32) ps).foldl (fun (p : Nat × FlagSet) g =>
    let s := groupSum g
    let r := round32 ((fp32.decode p.1).add (fp32.decode s.1))
    (r.1, p.2 ||| s.2 ||| r.2)) (acc, 0)

/-- One integer accumulator element (R131). -/
def mmaInt (sat : Bool) (acc : Nat) (ps : List Int) : Nat × FlagSet :=
  if sat && (acc == 0x7FFFFFFF || acc == 0x80000000) then (acc, 0)
  else fitInt true 32 (!sat) (ps.foldl (· + ·) (intOfBits true 32 acc))

/-- The product of two elements of the formats `f` and `g`. -/
def elemMul (f g : Fmt) (a b : Nat × Nat) : Num :=
  match f with
  | .l6 => l6Mul a.1 a.2 b.1 b.2
  | _ => (withScale a.2 (elemValue f a.1)).mul (withScale b.2 (elemValue g b.1))

/-- One accumulator element from the pairs of its K steps. -/
def mmaElem (f g : Fmt) (sat : Bool) (acc : Nat) (ps : List ((Nat × Nat) × (Nat × Nat))) : Nat × FlagSet :=
  if fmtInt f then mmaInt sat acc (ps.map (fun p => intVal f p.1.1 * intVal g p.2.1))
  else mmaFp acc (ps.map (fun p => elemMul f g p.1 p.2))

/-- The address of tile element (m, n) in the accumulator table. -/
def accAt (tile m n : Nat) : Nat := tile * 4096 + m * 64 + n

/-- K steps per cycle (R141). -/
def kSteps : Fmt → Nat
  | .bf16 => 1
  | .mxfp4 | .l6 => 4
  | _ => 2

/-! ## Issue -/

/-- Operand A: local (R137). -/
def matA (d : BitVec 6) (f : Fmt) : Opnd := ⟨d.toNat, some f, frontLocal, true, false, true, fmtBlock f⟩
/-- Operand B: local, well or weight buffer (R137). -/
def matB (d : BitVec 6) (f : Fmt) : Opnd := ⟨d.toNat, some f, fun e => e.fspace != .glob, true, false, true, fmtBlock f⟩

/-- Check 8 of a matrix instruction (R142, R292). -/
def State.mbusy (s : State) (b : Option Desc) : Bool :=
  s.co.mop.isSome || (match b with
    | some d => d.fspace == .well && s.co.pumpq.any (·.kind == .wellw)
    | none => false)

/-- The bank of a well offset (R149). -/
def wellBank (o : Nat) : Nat := o / 4096 % 16
/-- The bank that is in refresh at tick `t` (R149). -/
def refreshing (t : Nat) : Option Nat := if t % 400 < 100 then some (t % 6400 / 400) else none
/-- The banks of a list of byte rows of the well. -/
def rowBanks (l : List (Nat × Nat)) : List Nat :=
  (l.flatMap (fun r => if r.2 = 0 then [] else (List.range ((r.1 + r.2 - 1) / 4096 - r.1 / 4096 + 1)).map (fun i => (r.1 / 4096 + i) % 16))).eraseDups
/-- The well banks that a matrix operand is read from: its front and, in a block format, its scales. -/
def Desc.wellBanks (d : Desc) : List Nat :=
  (if d.fspace = .well then rowBanks d.foot else []) ++
  (if fmtBlock d.fmt && d.sspace == .well then rowBanks d.scaleFoot else [])

/-- The matrix unit takes an instruction (R37, R141, R143): a ballast operation stops. An operation that reads a bank in refresh waits for
the end of the refresh (R150). DEDUCED (log 114): it reads its banks throughout its cycles. -/
def State.mtake (cyc tile : Nat) (w : List (Nat × W32)) (fl : FlagSet) (dest caps banks : List Nat) (mmr : Bool) (s : State) :
    State :=
  let rest := match refreshing s.tick with
    | some b => if banks.contains b then 100 - s.tick % 400 else 0
    | none => 0
  ({ s with
    co.ballast := 0,
    co.mop := some { hid := s.cx.hid, fpc := s.cx.pc, tile := tile, writes := w, flags := fl,
                     cycles := s.co.cycle + cyc + rest * s.mult, caps := caps, dest := dest, mmr := mmr,
                     region := s.cx.region, bad := none, banks := banks, since := s.tick / 400 + 1 } }).retire 8

/-- The format G of operand B: that of A when MINOR is 0 (R290). -/
def matG (f : W2) : Fmt := if f.minor.toNat % 16 = 0 then fmtAt f.fmt.toNat else fmtAt (f.minor.toNat % 16)

/-- The shape rule of R291. -/
def mmaShape (a b : Desc) : Bool :=
  b.ext 0 == a.ext 0 && a.ext 1 ≤ 64 && b.ext 1 ≤ 64 && a.rank.toNat ≤ 1 && b.rank.toNat ≤ 1 && !a.sparse

/-- Row `m` of the product with group `g` of B: the elements n < N with their flags (R130, R131). -/
def State.mmaRow (s : State) (f : W2) (a b : Desc) (m g : Nat) : List (Nat × W32) × FlagSet :=
  let t := fmtAt f.fmt.toNat
  let u := matG f
  let sat := ovfOf f.ovf.toNat == .sat
  let rdb := s.spaceByte b.fspace
  let row := (List.range (a.ext 0)).map (fun k => a.matElem s.co.store (Memory.read s.co.store) (s.spaceByte a.sspace) k m 0)
  let rs := (List.range (b.ext 1)).map (fun n =>
    let ps := row.zip ((List.range (b.ext 0)).map (fun k => b.matElem s.co.store rdb (s.spaceByte b.sspace) k n g))
    let r := mmaElem t u sat (Tab.get 0 s.co.acc (accAt f.acc.toNat m n)).toNat ps
    (accAt f.acc.toNat m n, r))
  (rs.map (fun p => (p.1, BitVec.ofNat 32 p.2.1)), rs.foldl (fun x p => x ||| p.2.2) 0)

/-- The whole product of R291. -/
def State.product (s : State) (f : W2) (a b : Desc) : List (Nat × W32) × FlagSet :=
  (List.range (a.ext 1)).foldl (fun p m =>
    let r := s.mmaRow f a b m 0
    (p.1 ++ r.1, p.2 ||| r.2)) ([], 0)

/-- MMA (R291). -/
def execMma (f : W2) (s : State) : Res :=
  let t := fmtAt f.fmt.toNat
  let a := s.desc f.da
  let b := s.desc f.db
  let ops := [matA f.da t, matB f.db (matG f)]
  .next (s.engine ops (shapeIf (mmaShape a b)) (s.mbusy (some b)) (some 2000) (fun s =>
    let r := s.product f a b
    s.mtake (ceilDiv (a.ext 0) (kSteps t)) f.acc.toNat r.1 r.2 [] (s.fronts ops) b.wellBanks false))

/-- One group of MMAG from row `row0` on: writes, flags, whether it computes a row (R293). -/
def State.mmagGroup (s : State) (f : W2) (a b : Desc) (row0 c g : Nat) : List (Nat × W32) × FlagSet × Bool :=
  let rows := (List.range c).map (row0 + ·)
  let r := (rows.filter (· < a.ext 1)).foldl (fun p m =>
    let r := s.mmaRow f a b m g
    (p.1 ++ r.1, p.2 ||| r.2)) ([], (0 : FlagSet))
  (r.1, r.2 ||| flagIf (rows.any (fun m => decide (a.ext 1 ≤ m))) fRAG, rows.any (· < a.ext 1))

/-- MMAG (R293). -/
def execMmag (f : W2) (s : State) : Res :=
  let t := fmtAt f.fmt.toNat
  let a := s.desc f.da
  let b := s.desc f.db
  let c := s.desc f.dc
  let ops := [matA f.da t, matB f.db (matG f), vsrc f.dc .n16]
  let ok := b.ext 0 == a.ext 0 && a.ext 1 ≤ 64 && b.ext 1 ≤ 64 && a.rank.toNat ≤ 1 && !a.sparse &&
    b.rank.toNat ≤ 2 && c.rank == 0 && c.ext 0 ≤ 64 && b.ext 2 == c.ext 0
  .next (s.engine ops (shapeIf ok) (s.mbusy (some b)) (some 2000) (fun s =>
    let counts := (List.range (c.ext 0)).map (c.at s.co.store)
    let r := counts.zipIdx.foldl (fun (p : Nat × List (Nat × W32) × FlagSet × Nat) x =>
      let q := s.mmagGroup f a b p.1 x.1 x.2
      (p.1 + x.1, p.2.1 ++ q.1, p.2.2.1 ||| q.2.1, p.2.2.2 + (if q.2.2 then 1 else 0))) (0, [], 0, 0)
    s.mtake (r.2.2.2 * ceilDiv (a.ext 0) (kSteps t)) f.acc.toNat r.2.1 r.2.2.1 [] (s.fronts ops) b.wellBanks false))

/-- MZERO (R297): every element of the tile becomes zero. -/
def execMzero (f : W2) (s : State) : Res :=
  .next (s.engine [] none (s.mbusy none) (some 2000) (fun s =>
    let t := f.acc.toNat
    let w := (s.co.acc.filter (fun (p : Nat × W32) => p.1 / 4096 == t)).map (fun (p : Nat × W32) => (p.1, (0 : W32)))
    s.mtake 1 t w 0 [] [] [] false))

/-- Whether a descriptor is at most 64 by 64 (R298). -/
def tileShape (d : Desc) : Bool := d.rank.toNat ≤ 1 && d.ext 0 ≤ 64 && d.ext 1 ≤ 64

/-- The tile element that element `e` of a descriptor maps to, from the origin register (R298). -/
def tileElem (d : Desc) (tile : Nat) (org : Nat) (e : Nat) : Nat :=
  accAt tile ((org % 64 + e / d.ext 0) % 64) ((org / 256 % 64 + e % d.ext 0) % 64)

/-- MRD of one element (R298): an f32 or i32 tile element into the format. -/
def mrdElem (t : Fmt) (f : W2) (c : Nat) : Nat × FlagSet :=
  match fpOf t with
  | some p => roundNum p (ovfModeOf t (ovfOf f.ovf.toNat)) (rndOf f.rnd.toNat) (fp32.decode c)
  | none => fitInt (fmtSigned t) (fmtBits t) (ovfOf f.ovf.toNat == .wrap) (intOfBits true 32 c)

/-- MRD (R298). -/
def execMrd (f : W2) (s : State) : Res :=
  let t := fmtAt f.fmt.toNat
  let dd := s.desc f.dd
  let org := (s.int f.ga).toNat
  let ops := [vdst f.dd t]
  .next (s.engine ops (shapeIf (tileShape dd)) (s.mbusy none || s.heldReg [f.ga]) (some 2000) (fun s =>
    let rs := (List.range dd.count).map (fun e =>
      mrdElem t f (Tab.get 0 s.co.acc (tileElem dd f.acc.toNat org e)).toNat)
    ({ s with co.store := dd.putAll dd.front.toNat (rs.map (fun (p : Nat × FlagSet) => p.1)) 0 s.co.store }).mtake (dd.ext 1) f.acc.toNat []
      (flagsOf rs) (rowBytes dd.foot) (s.fronts ops) [] false))

/-- MWR of one element (R298): widened exactly to f32, or extended to i32. -/
def mwrElem (t : Fmt) (c : Nat) : W32 :=
  match fpOf t with
  | some p => BitVec.ofNat 32 (roundNum fp32 .ieee .rne (p.decode c)).1
  | none => BitVec.ofInt 32 (intVal t c)

/-- MWR (R298). -/
def execMwr (f : W2) (s : State) : Res :=
  let t := fmtAt f.fmt.toNat
  let da := s.desc f.da
  let org := (s.int f.ga).toNat
  let ops := [vsrc f.da t]
  .next (s.engine ops (shapeIf (tileShape da)) (s.mbusy none || s.heldReg [f.ga]) (some 2000) (fun s =>
    let es := List.range da.count
    let w := es.map (fun e => (tileElem da f.acc.toNat org e, mwrElem t (da.at s.co.store e)))
    let fl := flagIf (es.any (fun e => (elemValue t (da.at s.co.store e)).isNan)) fNV
    s.mtake (da.ext 1) f.acc.toNat w fl [] (s.fronts ops) [] false))

/-! ## MMR (R294 to R296) -/

/-- The bytes of a footprint over a base, in iteration order. -/
def Desc.footBytes (d : Desc) (base : Nat) (m : Memory) : List Byte :=
  (rowBytes (d.rows base)).map (Memory.read m)

/-- A descriptor that MMR accepts (R295). -/
def mmrDesc (d : Desc) : Bool :=
  d.fspace == .loc && d.bspace == .loc && d.back != 0 && !d.sparse && d.perm == 0

/-- MMR (R294, R295). DESIGN CHOICE (log 122): one whose transfers were forwarded before a restart (R451), and that was not abandoned then,
forms its product and nothing else. -/
def execMmr (f : W2) (s : State) : Res :=
  let t0 := fmtAt f.fmt.toNat
  let a := s.desc f.da
  let b := s.desc f.db
  let ops := [⟨f.da.toNat, some t0, frontLocal, true, true, true, false⟩,
    ⟨f.db.toNat, some (matG f), fun e => e.fspace != .glob, true, true, true, false⟩]
  let ok := mmaShape a b && mmrDesc a && mmrDesc b && f.da != f.db
  .next (s.checks ops (shapeIf ok) (s.mbusy (some b)) (some 2000) (fun s =>
    let r := s.product f a b
    let take (t : State) : State :=
      (t.mtake (ceilDiv (a.ext 0) (kSteps t0)) f.acc.toNat r.1 r.2 [] (s.fronts ops) [] (!s.cx.dropped)).markBad (some 2000) (s.badOperand ops)
    if s.cx.dropped then take s
    else
    let op : MmrOp :=
      { launch := s.co.launch.getD 0, hid := s.cx.hid, k := s.co.mmrs, da := f.da.toNat, db := f.db.toNat,
        a := a.footBytes a.front.toNat s.co.store, b := b.footBytes b.front.toNat s.co.store,
        inA := false, inB := false, prod := false, done := false,
        caps := [a.front.toNat, b.front.toNat], msg := s.cx.sent - 1 }
    let c := (s.co.modDesc f.da.toNat (fun d => { d with state := .filling })).modDesc f.db.toNat
      (fun d => { d with state := .filling })
    let c : Core := { c with mmr := c.mmr ++ [op], mmrs := c.mmrs + 1 }
    take { s with co := c }))

/-- Change the MMR numbered `k` of a core's launch. -/
def Core.modMmr (k : Nat) (f : MmrOp → MmrOp) (c : Core) : Core :=
  { c with mmr := c.mmr.map (fun o => if o.k == k then f o else o) }

/-- The neighbour that receives on the torus of R26: west for DA, north for DB. -/
def Launch.torus (l : Launch) (core : Nat) (north : Bool) : Nat :=
  let x := l.xrel core
  let y := l.yrel core
  if north then l.coreAt x ((y + l.height - 1) % l.height) else l.coreAt ((x + l.width - 1) % l.width) y

/-- The MMR of a core that pairs with MMR `o`. -/
def Core.pairOf (o : MmrOp) (c : Core) : Option MmrOp := c.mmr.find? (fun q => q.launch == o.launch && q.k == o.k)

/-- Whether a core may take the transfer of its MMR `q`: it has not, and no operation in flight holds its back buffer as a captured
front (R140, R294, R295). -/
def Core.takes (q : MmrOp) (north : Bool) (c : Core) : Bool :=
  let b := (Tab.get Desc.zero c.descs (if north then q.db else q.da)).back.toNat
  !(if north then q.inB else q.inA) && !c.holds b (some q.k) &&
  !c.pumpq.any (fun p => p.data.isNone && p.src.fspace == .loc && p.src.front.toNat == b)

/-- MMR_TRANSFER (R294): the front of DA goes to the west neighbour's back of DA, or that of DB to the north
neighbour's back of DB, once both have issued the MMR. It goes on when its contexts have ended (R288). The routers of its path
but the receiver's forward it, 64 bytes a cycle (R159). DEDUCED (log 28): which routers, and that width. -/
def execMmrTransfer (core : Nat) (north : Bool) (s : State) : Res :=
  let c := s.coreAt core
  let toward (o : MmrOp) : Nat := (s.launchById o.launch).torus core north
  match c.mmr.find? (fun o => let rc := s.coreAt (toward o); (rc.pairOf o).any (fun q => rc.takes q north)) with
  | none => .next s
  | some o =>
    let r := toward o
    let rc := s.coreAt r
    match rc.pairOf o with
    | none => .next s
    | some q =>
      if s.relocks core || s.relocks r then .next s
      else
        let d := Tab.get Desc.zero rc.descs (if north then q.db else q.da)
        let as := rowBytes (d.rows d.back.toNat)
        let bs := if north then o.b else o.a
        let put (k : Core) : Core :=
          { (k.modMmr o.k (fun (x : MmrOp) => if north then { x with inB := true } else { x with inA := true })) with
            store := freeBytes s.picks (as.drop bs.length) (Memory.writeAt k.store (as.zip bs)) }.coverPoison (d.rows d.back.toNat)
        let s := (s.modCore r put).routing ((pathCores core r).filter (· != r)) (ceilDiv as.length 64)
        .next { s with picks := s.picks + (as.drop bs.length).length }

/-- FRONT and BACK exchanged together with their spaces (R96). -/
def Desc.swapped (d : Desc) : Desc :=
  { d with front := d.back, back := d.front, fspace := d.bspace, bspace := d.fspace, state := .ready }

/-- Whether the root has sent the release of an MMR: every core of the launch has arrived (R294). -/
def State.mmrArrived (s : State) (o : MmrOp) : Bool :=
  o.done || (s.launchById o.launch).cores.all (fun x => ((s.coreAt x).pairOf o).any (fun q => q.prod && q.inA && q.inB))

/-- The release of an MMR leaves the root for every core (R294, R296). -/
def State.mmrSent (o : MmrOp) (s : State) : State :=
  (s.launchById o.launch).cores.foldl (fun s x => s.modCore x (fun c => { c with
    mmr := c.mmr.map (fun q => if q.launch == o.launch && q.k == o.k then { q with done := true } else q) })) s

/-- MMR_RELEASE (R294, R296): the release reaches a core, which swaps DA and DB. -/
def execMmrRelease (core : Nat) (s : State) : Res :=
  let c := s.coreAt core
  match c.mmr with
  | [] => .next s
  | o :: rest =>
    if !s.mmrArrived o || s.relocks core then .next s
    else
      let s := s.mmrSent o
      let s := s.modCore core (fun k =>
        { ((k.modDesc o.da Desc.swapped).modDesc o.db Desc.swapped) with mmr := rest, mmrOuts := k.mmrOuts + 1 })
      .next ((s.descReady core o.da).descReady core o.db)

/-- The core cycle, on a core whose cycle `base` falls at tick `at_`, at which an operation ends that would end at cycle `n`, the refreshes
of its banks from number `i` on counted in (R150). -/
def refreshed (banks : List Nat) (m base at_ : Nat) : Nat → Nat → Nat → Nat
  | 0, _, n => n
  | fuel + 1, i, n =>
    if (i * 400 - at_) * m + base < n then
      refreshed banks m base at_ fuel (i + 1) (if banks.contains (i % 16) then n + 100 * m else n)
    else n

/-- The matrix operation of a core with the refreshes that it meets before its end. -/
def MatOp.ending (v : MatOp) (m : Nat) (c : Core) : Nat :=
  if v.banks.isEmpty then v.cycles
  else refreshed v.banks m c.cycBase c.cycTick 
    ((c.cycTick + 2 * ((v.cycles - c.cycBase) / max 1 m) + 400) / 400 + 1 - v.since) v.since v.cycles

/-- WELL_REFRESH (R149, R150): a bank's refresh begins. The matrix operations that read it wait it out, busy and with their tiles owned;
a WLD that reads it does not complete before its end. -/
def execWellRefresh (bank : Fin 16) (s : State) : Res :=
  if refreshing s.tick = some bank.val then
    let f (c : Core) : Core := { c with
      mop := c.mop.map (fun v =>
        let m := s.multOf c.id
        let n := refreshed v.banks m c.cycBase c.cycTick (s.tick / 400 - v.since) v.since v.cycles
        if v.banks.contains bank.val && decide (v.since ≤ s.tick / 400) && decide (c.cycle < n) then
          { v with cycles := n + (100 - s.tick % 400) * m, since := s.tick / 400 + 1 }
        else v) }
    .next { s with co := f s.co, cores := s.cores.map f }
  else .next s

/-- MATRIX_COMPLETION (R126, R141): the tile and the flags take effect, the unit and the tile are free. -/
def execMatrixCompletion (core : Nat) (s : State) : Res :=
  match (s.coreAt core).mop with
  | none => .next s
  | some v =>
    let s := s.reachOn core (v.ending (s.multOf core) (s.coreAt core))
    match v.bad with
    | some n => .next (s.matFault v (BitVec.ofNat 64 n))
    | none =>
    let acc := v.writes.foldl (fun t p => Tab.set 0 t p.1 p.2) s.co.acc
    let s := { s with
      co.mop := none,
      co.acc := acc,
      co.fflags := s.co.fflags ||| v.flags }
    if v.mmr then
      .next { s with co.mmr := s.co.mmr.map (fun (o : MmrOp) =>
        if o.hid == v.hid && !o.prod then { o with prod := true } else o) }
    else .next s

end Sys2Proof.Machine
end

