-- ==== Sys2Proof/Machine/Pump.lean ====
section
/-! DEFINITION. The pump and the descriptor instructions (R96 to R99, R133 to R150, R299 to R307). An operation reads its
source at issue, behind the operations before it in the queue, or at its completion where that is not at hand; it writes its
destination at completion. -/

namespace Sys2Proof.Machine

open Sys2Proof

/-! ## Descriptor entries (R133, R299, R300) -/

/-- The code of a space. -/
def spaceCode : DSpace → Nat
  | .loc => 0 | .glob => 1 | .well => 2 | .wbuf => 3
/-- The space of a code. -/
def spaceOf (n : Nat) : DSpace :=
  match n % 4 with | 0 => .loc | 1 => .glob | 2 => .well | _ => .wbuf
/-- The code of a descriptor state. -/
def stateCode : DState → Nat
  | .empty => 0 | .filling => 1 | .ready => 2 | .draining => 3

/-- The 64 bytes of an entry as a number (R133). -/
def Desc.image (d : Desc) : Nat :=
  let b (c : Bool) : Nat := if c then 1 else 0
  stateCode d.state + fmtCode d.fmt * 2 ^ 3 + d.rank.toNat * 2 ^ 7 + spaceCode d.fspace * 2 ^ 9 +
  spaceCode d.bspace * 2 ^ 11 + b d.rd * 2 ^ 13 + b d.wr * 2 ^ 14 + b d.sparse * 2 ^ 15 +
  spaceCode d.sspace * 2 ^ 16 + d.perm.toNat * 2 ^ 140 + d.str1.toNat * 2 ^ 160 + d.str2.toNat * 2 ^ 192 +
  d.str3.toNat * 2 ^ 224 + d.ext0.toNat * 2 ^ 256 + d.ext1.toNat * 2 ^ 272 + d.ext2.toNat * 2 ^ 288 +
  d.ext3.toNat * 2 ^ 304 + d.scale.toNat * 2 ^ 320 + d.back.toNat * 2 ^ 384 + d.front.toNat * 2 ^ 448

/-- The entry that an image names, ready; none for the reserved format code (R134). SSPACE follows FSPACE. -/
def descOf (n : Nat) : Option Desc :=
  (fmtOf (bits n 6 3)).map (fun f =>
    { state := .ready, fmt := f, rank := BitVec.ofNat 2 (bits n 8 7), fspace := spaceOf (bits n 10 9),
      bspace := spaceOf (bits n 12 11), rd := bit n 13, wr := bit n 14, sparse := bit n 15,
      sspace := spaceOf (bits n 10 9), perm := BitVec.ofNat 20 (bits n 159 140),
      str1 := BitVec.ofNat 32 (bits n 191 160), str2 := BitVec.ofNat 32 (bits n 223 192),
      str3 := BitVec.ofNat 32 (bits n 255 224), ext0 := BitVec.ofNat 16 (bits n 271 256),
      ext1 := BitVec.ofNat 16 (bits n 287 272), ext2 := BitVec.ofNat 16 (bits n 303 288),
      ext3 := BitVec.ofNat 16 (bits n 319 304), scale := BitVec.ofNat 64 (bits n 383 320),
      back := BitVec.ofNat 64 (bits n 447 384), front := BitVec.ofNat 64 (bits n 511 448) })

/-- The bytes from a base to the end of the footprint over it (R135, R145). -/
def Desc.hull (d : Desc) (base : Nat) : Nat :=
  if d.sparse then (d.rows base).foldl (fun m r => max m (r.1 + r.2)) base - base
  else (d.ext 1 - 1) * d.stride 1 + (d.ext 2 - 1) * d.stride 2 + (d.ext 3 - 1) * d.stride 3 + d.rowLen base

/-- Bytes of the weight buffer (R144). -/
def wbufBytes : Nat := 0x80000

/-- A failed check of DSET: its cause and st.tval. -/
abbrev Bad := BitVec 16 × Word

/-- The bytes of the warrant's well partition on a die (R401). -/
def State.wellBytes (s : State) : Nat := s.war.wellMib * 2 ^ 20

/-- The permissions that a global base needs (R136). -/
def Desc.needs (d : Desc) : Nat := (if d.rd then pLD else 0) + (if d.wr then pST else 0)

/-- A base of one space checked for the bytes that `len` gives over the converted base, and converted (R136, R299): the address stored. -/
def State.place (s : State) (gc : Reg) (d : Desc) (sp : DSpace) (raw : Word) (len : Nat → Nat) : Bad ⊕ Word :=
  match sp with
  | .loc =>
    let w := 2 ^ (s.cx.wsize.toNat + 12)
    let o := raw.toNat % w
    if o < 0x400 ∨ o + len (s.cx.wbase.toNat + o) > w then .inl (cShape, s.cx.pc) else .inr (BitVec.ofNat 64 (s.cx.wbase.toNat + o))
  | .glob =>
    let ea := s.ea gc raw
    match capCheck (s.g gc) (s.gtag gc) d.needs ea (len ea.toNat) with
    | some c => .inl (c, tvalOf ea)
    | none => .inr (BitVec.ofInt 64 ea)
  | .well => if d.wr || raw.toNat + len raw.toNat > s.wellBytes then .inl (cWellBound, s.cx.pc) else .inr raw
  | .wbuf => if raw.toNat + len raw.toNat > wbufBytes then .inl (cShape, s.cx.pc) else .inr raw

/-- The unit of alignment of an element (R136): a byte below 8 bits. -/
def Desc.unit (d : Desc) : Nat := max 1 (d.w / 8)
/-- Whether strides and a base keep the elements aligned. -/
def Desc.aligned (d : Desc) (base : Word) : Bool :=
  base.toNat % d.unit == 0 && (List.range d.rank.toNat).all (fun k => d.stride (k + 1) % d.unit == 0)

/-- Whether the entry has no back buffer (R136). -/
def Desc.noBack (d : Desc) : Bool := d.bspace == .loc && d.back == 0

/-- The error of a check that fails. -/
def fst? {α β : Type} : α ⊕ β → Option α
  | .inl a => some a
  | .inr _ => none

/-- The value of a successful check. -/
def snd? {β : Type} (d : β) : Bad ⊕ β → β
  | .inl _ => d
  | .inr b => b

/-- The extent rules of the block and compressed forms (R111, R145). -/
def Desc.extBad (d : Desc) : Bool := (fmtBlock d.fmt && d.ext 0 % 32 != 0) || (d.sparse && d.ext 0 % 4 != 0)

/-- Whether SCALE names a scale array (R133). -/
def Desc.hasScale (d : Desc) : Bool :=
  fmtBlock d.fmt || ((d.fmt == .e4m3 || d.fmt == .e5m2 || d.fmt == .bf16) && d.scale != 0)

/-- The checks of R136 in their order; the entry to store. DESIGN CHOICE (log 128): a SCALE that names no scale array is stored as it is
given, unchecked. -/
def State.dsetCheck (s : State) (gc : Reg) (d : Desc) : Bad ⊕ Desc :=
  let f := s.place gc d d.fspace d.front d.hull
  let b := if d.noBack then .inr 0 else s.place gc d d.bspace d.back d.hull
  let on (sp : DSpace) : Option Bad :=
    (if d.fspace == sp then fst? f else none).or (if d.bspace == sp then fst? b else none)
  let al (x : Word) : Option Bad := if d.aligned x then none else some (cAlign, s.cx.pc)
  let ext : Option Bad := if d.extBad then some (cShape, s.cx.pc) else none
  let sc := if d.hasScale then s.place gc d d.fspace d.scale (fun _ => d.blocks) else .inr d.scale
  match (on .loc).or ((on .glob).or ((al (snd? d.front f)).or ((al (snd? d.back b)).or
      ((on .well).or ((on .wbuf).or (ext.or (fst? sc))))))) with
  | some e => .inl e
  | none => .inr { d with
      front := snd? 0 f,
      back := snd? 0 b,
      scale := snd? 0 sc,
      perm := if d.perm = 0 then 0 else BitVec.ofNat 20 (localAddr s.cx.wbase s.cx.wsize (d.perm.setWidth 64) 1) }

/-- The words of a W2 instruction at the focused context's PC, as st.tval holds them (R188). -/
def State.words (s : State) : Word := decTval (s.space.iword s.cx.pc.toNat) (s.space.iword (s.cx.pc.toNat + 4))

/-- DSET (R136, R299). -/
def execDset (f : W2) (s : State) : Res :=
  let e := s.desc f.dd
  if e.state = .filling ∨ e.state = .draining then .next (s.waitRe 6 (.desc f.dd.toNat))
  else
    match descOf (s.localRead (s.int f.ga) 64) with
    | none => .next (s.trap cEncReserved s.words)
    | some d =>
      match s.dsetCheck f.gd d with
      | .inl b => .next (s.trap b.1 b.2)
      | .inr d => .next (({ s with co := s.co.setDesc f.dd.toNat d }).retire 8)

/-- DGET (R300). -/
def execDget (f : W2) (s : State) : Res :=
  .next ((s.setCap f.gd (BitVec.ofNat 128 ((s.desc f.dd).image / 2 ^ (128 * f.x2.toNat))) false).retire 8)

/-- DSTA (R300). -/
def execDsta (f : W2) (s : State) : Res :=
  .next (s.result 8 f.gd (BitVec.ofNat 64 (stateCode (s.desc f.dd).state)))

/-- DCLR (R138, R301). -/
def execDclr (f : W2) (s : State) : Res :=
  match (s.desc f.dd).state with
  | .filling | .draining => .next (s.waitRe 6 (.desc f.dd.toNat))
  | .empty | .ready =>
    .next (({ s with co := s.co.modDesc f.dd.toNat (fun d => { d with state := .empty }) }).retire 8)

/-! ## What an operation moves (R146, R302 to R306) -/

/-- The byte rows that an operation reads. -/
def PumpOp.srcRows (o : PumpOp) : List (Nat × Nat) := o.src.foot

/-- The addresses of the stored bytes of a footprint: of a compressed column its kept values, then its indices
(R145). -/
def Desc.rawAddrs (d : Desc) (base : Nat) : List Nat :=
  (d.rows base).flatMap (fun r =>
    if d.sparse then
      (List.range (ceilDiv (d.ext 0 / 2 * d.w) 8)).map (r.1 + ·) ++
        (List.range (ceilDiv (d.ext 0 / 4) 2)).map (d.sparseIdx r.1 + ·)
    else (List.range r.2).map (r.1 + ·))

/-- Whether stored bytes move unchanged: between compressed tensors, without a permutation table (R129, R303). -/
def PumpOp.raw (o : PumpOp) : Bool := o.src.sparse && o.dst.sparse && o.src.perm == 0

/-- The data of an operation from its source: `store` holds the permutation table (R129, R303). -/
def PumpOp.read (o : PumpOp) (store : Memory) (rd : Nat → Byte) : List Nat :=
  let d := o.src
  if o.raw then (d.rawAddrs d.front.toNat).map (fun a => (rd a).toNat)
  else (List.range o.dst.count).map (fun e =>
    let i := o.dst.idx e
    let p := if o.kind == .tld true then (i.2.1, i.1) else (i.1, i.2.1)
    let j := d.permAt store p.1
    d.elemAt rd d.front.toNat j p.2 i.2.2.1 i.2.2.2)

/-- The bytes that an operation writes, over a destination read by `rd`. -/
def PumpOp.bytes (o : PumpOp) (data : List Nat) (rd : Nat → Byte) : List (Nat × Byte) :=
  if o.raw then (o.dst.rawAddrs o.base).zip (data.map (fun n => BitVec.ofNat 8 n))
  else
    let as := rowBytes o.rows
    let m := o.dst.putAll o.base data 0 (Memory.writeAt [] (as.map (fun a => (a, rd a))))
    as.map (fun a => (a, Memory.read m a))

/-- A memory with the writes of the queued operations that `p` picks in place. -/
def overlaid (q : List PumpOp) (p : PumpOp → Bool) (m : Memory) : Memory :=
  q.foldl (fun m o =>
    match o.data with
    | some d => if p o then Memory.writeAt m (o.bytes d (Memory.read m)) else m
    | none => m) m

/-- The byte rows that an operation reads in a space: of its source, and in the local store also of its permutation table. -/
def PumpOp.reads (o : PumpOp) (sp : DSpace) : List (Nat × Nat) :=
  (if o.src.fspace = sp then o.srcRows else []) ++ (if sp = .loc then o.src.permFoot else [])

/-- The bytes of the local store that an operation reads, and of a peer's addresses those that its context has stored or read there, as it
found them at its issue (R86). -/
def PumpOp.seen (o : PumpOp) : Memory := Memory.writeAt [] o.snap.reverse

/-- An operation that reads at its completion sees bytes that one before it in the queue has written (R86, R147). -/
def PumpOp.sees (l : List (Nat × Byte)) (o : PumpOp) : PumpOp :=
  if o.data.isSome then o
  else { o with snap := l.filter (fun p => (o.reads .loc).any (fun r => decide (r.1 ≤ p.1) && decide (p.1 < r.1 + r.2))) ++ o.snap }

/-- Whether an operation reads what an operation before it in the queue has not yet stored and whose data is not at hand: it reads at
its own completion then (R86, R147, R292). A fill of a global back buffer stores nothing before its PUB (R97). -/
def PumpOp.dependsOn (o q : PumpOp) : Bool :=
  (q.data.isNone || (q.kind == .drain && !q.stored)) && !(q.kind.fills && q.space == .glob) &&
  rowsOverlap (o.reads q.space) q.rows

/-- The local store as the next pump operation reads it, behind the operations in the queue (R86, R147, R288). -/
def State.pumpStore (s : State) : Memory := overlaid s.co.pumpq (fun o => o.space == .loc) s.co.store

/-- The source space of a pump operation that issues now. -/
def State.pumpByte (s : State) (sp : DSpace) : Nat → Byte :=
  match sp with
  | .loc => let m := s.pumpStore; Memory.read m
  | .well =>
    let m := overlaid s.co.pumpq (fun o => o.kind == .wellw) (s.wellOf s.lau.war (dieOf s.co.id))
    Memory.read m
  | .glob | .wbuf => s.spaceByte sp

/-! ## Global rows -/

/-- The first address of a row in each page that it enters. -/
def probes (r : Nat × Nat) : List Nat :=
  if r.2 = 0 then []
  else r.1 :: (List.range ((r.1 + r.2 - 1) / 0x10000 - r.1 / 0x10000)).map (fun i => (r.1 / 0x10000 + i + 1) * 0x10000)

/-- Where the rows of a global footprint lie. -/
inductive Reach where
  | home
  | peer (idx : Nat)
  | unmapped (va : Nat)
  deriving DecidableEq, Repr

/-- The first address of each page of global memory that an operation enters: those of its source, then those of its destination. -/
def PumpOp.pages (o : PumpOp) : List Nat :=
  (if o.src.fspace = .glob then o.srcRows.flatMap probes else []) ++ (if o.space = .glob then o.rows.flatMap probes else [])

/-- Whether an operation moves bytes of global memory. -/
def PumpOp.global (o : PumpOp) : Bool := o.src.fspace == .glob || o.space == .glob

/-- Translation of all pages of a footprint: the first that fails decides (R81, R148). -/
def State.reachOf (s : State) (rows : List (Nat × Nat)) : Reach :=
  let ps := (rows.flatMap probes).filter (fun a => decide (a < 2 ^ 64))
  match ps.find? (fun a => s.translate a == .unmapped) with
  | some a => .unmapped a
  | none =>
    match ps.findSome? (fun a => match s.translate a with | .peer i => some i | _ => none) with
    | some i => .peer i
    | none => .home

/-- Whether a footprint's data can be read: every space but the global one is always at hand. -/
def State.sourceReach (s : State) (d : Desc) : Reach :=
  if d.fspace = .glob then s.reachOf d.foot else .home

/-- The rows as records of a context's view: the copy reads through plain loads (R89, R302). -/
def readRecs (rows : List (Nat × Nat)) (rd : Nat → Byte) : List ViewRec :=
  rows.map (fun r =>
    { addr := r.1 % 2 ^ 48, data := (List.range r.2).map (fun i => rd (r.1 + i)), tag := none, kind := .read })

/-- The pages of global rows of this module get TLB entries (R79). -/
def State.tlbRows (rows : List (Nat × Nat)) (s : State) : State :=
  (rows.flatMap probes).foldl (fun s a => match s.translate a with
    | .home h => s.tlbFill h
    | _ => s) s

/-- Later accesses to the lines of some global rows see no moment before those that a read of them saw, which drew moment `n` (R91). -/
def State.floorRows (n : Nat) (rows : List (Nat × Nat)) (s : State) : Ctx :=
  (rowBytes rows).foldl (fun c a => c.floorAt (a % 2 ^ 48) (s.engineAt n (a % 2 ^ 48))) s.cx

/-- The focused context reads the data of an operation whose source is at hand, through a local store and a source space (R88, R302). -/
def State.pumpRead (o : PumpOp) (store : Memory) (rd : Nat → Byte) (s : State) : State × List Nat :=
  let data := o.read store rd
  if o.src.fspace = .glob then
    let s := s.tlbRows o.srcRows
    let c := if s.lau.det then s.cx else s.floorRows s.engineMoment o.srcRows
    ({ s with picks := s.picks + 1, cx := { c with view := readRecs o.srcRows rd ++ c.view } }, data)
  else (s, data)

/-- The focused context takes the bytes that a peer returned for an operation's source, but for those that it has stored or read there
before (R86, R89, R302). -/
def State.peerRead (o : PumpOp) (bs : List Byte) (s : State) : State × List Nat :=
  let l := ((rowBytes o.srcRows).zip bs).map (fun p =>
    (p.1, (((o.snap.find? (·.1 == p.1)).map (·.2)).or (viewByte s.cx.view p.1)).getD p.2))
  let m := Memory.writeAt [] l
  let recs : List ViewRec := o.srcRows.map (fun r => { addr := r.1, data := Memory.readN m r.1 r.2, tag := none, kind := .read })
  ({ s with cx.view := recs ++ s.cx.view }, o.read o.seen (Memory.read m))

/-- Bytes at rising addresses, in runs that stay within one 64-byte line. -/
def lineRuns : List (Nat × Byte) → List (Nat × List Byte)
  | [] => []
  | (a, b) :: t =>
    match lineRuns t with
    | (c, bs) :: r => if c = a + 1 ∧ c % 64 ≠ 0 then (a, b :: bs) :: r else (a, [b]) :: (c, bs) :: r
    | [] => [(a, [b])]

/-- The bytes that a deterministic launch lets a pump of the focused context write with key `key`: a byte to which a copy of a greater
key was written that no release and acquire order before this one keeps it (R99, R437). -/
def State.keyed (key : Nat) (l : List (Nat × Byte)) (s : State) : List (Nat × Byte) :=
  if s.lau.det then
    l.filter (fun p => !s.space.lineKeys.any (fun k =>
      k.1 == p.1 && decide (key < k.2.1) && decide (s.certainAt (fun b => b == p.1) < k.2.2)))
  else l

/-- The bytes that a pump wrote take the key (R99). -/
def Space.noteKeys (det : Bool) (key : Nat) (l : List (Nat × Byte)) (sp : Space) : Space :=
  if det then
    { sp with lineKeys := l.map (fun p => (p.1, key, sp.seq)) ++ sp.lineKeys.filter (fun k => !l.any (·.1 == k.1)) }
  else sp

/-- DRAIN's stores as plain stores of the focused context (R305): each line of them goes home as a whole (R99). -/
def State.drainStore (key : Nat) (l : List (Nat × Byte)) (s : State) : State :=
  let det := s.lau.det
  let l := s.keyed key l
  let rs := lineRuns l
  let recs : List ViewRec := rs.map (fun r => { addr := r.1, data := r.2, tag := some false, kind := .unreleased })
  let s := { s with cx.view := recs.reverse ++ s.cx.view }
  let lines := rs.foldl (fun t r => insNat t (r.1 / 64)) []
  let s := lines.foldl (fun (s : State) n =>
    let s := { s with picks := s.picks + 1 }
    if det || Config.earlyHome (s.picks - 1) then s.carry n else s) s
  s.modMySpace (Space.noteKeys det key l)

/-- The addresses of bytes as the homes know them. -/
def homeBytes (l : List (Nat × Byte)) : List (Nat × Byte) := l.map (fun p => (p.1 % 2 ^ 48, p.2))

/-- Stores of the focused context to a peer are sent to it, and are the latest values that the context reads there (R86). -/
def State.peerStores (i : Nat) (l : List (Nat × Byte)) (s : State) : State :=
  (lineRuns l).foldl (fun s r => (s.askPeer i 3 (BitVec.ofNat 64 r.1) r.2).peerStore (BitVec.ofNat 64 r.1) r.2 false) s

/-- DRAIN's stores once its data is known and its pages are mapped; a peer's are sent to it. Those of a mirror are
discarded (R450). -/
def State.drainGo (o : PumpOp) (data : List Nat) (s : State) : State × Bool :=
  let l := o.bytes data (s.spaceByte .glob)
  if s.lau.mirror then (s, true) else
  match s.reachOf o.rows with
  | .unmapped _ => (s, false)
  | .home => ((s.tlbRows o.rows).drainStore o.key (homeBytes l), true)
  | .peer i => (s.peerStores i l, true)

/-! ## Issue (R147, R287, R302) -/

/-- What an operation that issues now finds of its source where it does not read it yet (R86). -/
def State.snapshot (o : PumpOp) (s : State) : List (Nat × Byte) :=
  (rowBytes (o.reads .loc)).map (fun a => (a, Memory.read s.co.store a)) ++
  (match s.sourceReach o.src with
    | .peer _ => (rowBytes o.srcRows).filterMap (fun a => (viewByte s.cx.view a).map (fun b => (a, b)))
    | _ => [])

/-- The source of an operation that issues now: its data, if it is at hand. A mirror's global source comes with the primary's reply (R449);
that of a message which was forwarded before a restart is free (R451). -/
def State.pumpSource (o : PumpOp) (s : State) : State × Option (List Nat) :=
  if s.cx.dropped then
    let as := rowBytes o.srcRows
    ({ s with picks := s.picks + as.length }, some (o.read s.pumpStore (Memory.read (freeBytes s.picks as []))))
  else if (s.lau.mirror && o.src.fspace == .glob) || s.co.pumpq.any (o.dependsOn ·) then (s, none)
  else match s.sourceReach o.src with
    | .home => let r := s.pumpRead o s.pumpStore (s.pumpByte o.src.fspace); (r.1, some r.2)
    | .peer i => (o.srcRows.foldl (fun (s : State) (r : Nat × Nat) => s.askPeer i 1 (BitVec.ofNat 64 r.1) (leBytes 4 r.2)) s, none)
    | .unmapped _ => (s, none)

/-- A fill whose back buffer lies at a peer has its pages translated there (R79, R81). DESIGN CHOICE (log 35): before its PUB. -/
def State.askPages (o : PumpOp) (s : State) : State :=
  if !o.kind.fills || o.space != .glob || s.lau.mirror then s
  else match s.reachOf o.rows with
    | .peer i => (o.rows.flatMap probes).foldl (fun (s : State) (a : Nat) => s.askPeer i 41 (BitVec.ofNat 64 a) []) s
    | _ => s

/-- A pump instruction issues into the queue; its fill marks DD filling, DRAIN marks DA draining (R138). -/
def State.pumpIssue (k : PumpKind) (dd da : BitVec 6) (s : State) : State :=
  let o : PumpOp :=
    { kind := k, war := s.lau.war, hid := s.cx.hid, fpc := s.cx.pc, dd := dd.toNat, da := da.toNat,
      dst := s.desc dd, src := s.desc da, data := none, region := s.cx.region, key := s.myKey, stored := false, snap := [],
      load := s.cx.loads }
  let s := if o.global then s.countLoad else s
  let o := { o with snap := s.snapshot o }
  let got := (s.askPages o).pumpSource o
  let s := got.1
  let data := got.2
  let r : State × Bool := match data with
    | some d => if k = .drain then s.drainGo o d else (s, false)
    | none => (s, false)
  let s := r.1
  let st := r.2
  let s := { s with co.pumpq := s.co.pumpq ++ [{ o with data := data, stored := st, snap := if data.isSome then [] else o.snap }] }
  let co := if k.fills then s.co.modDesc dd.toNat (fun d => { d with state := .filling })
    else if k = .drain then s.co.modDesc da.toNat (fun d => { d with state := .draining })
    else s.co
  ({ s with co := co }).retire 8

/-- The checks of a pump instruction and its issue. -/
def State.pump (k : PumpKind) (ops : List Opnd) (bad : Option (BitVec 16)) (dd da : BitVec 6) (s : State) : State :=
  s.checks ops bad (decide (s.co.pumpq.length ≥ 16)) (some (if s.co.pumpq.isEmpty then 300 else 0))
    (State.pumpIssue k dd da)

/-- The formats that WLD accepts are those of its code limits; XCOPY and the others need equal formats (R303). -/
def State.xcopyOps (f : W2) (s : State) : List Opnd :=
  let t := some (s.desc f.da).fmt
  [⟨f.dd.toNat, t, fun e => e.bspace == .loc || e.bspace == .glob, false, true, true, false⟩,
   ⟨f.da.toNat, t, fun e => e.fspace == .loc || e.fspace == .glob, true, false, true, false⟩]

/-- XCOPY (R96, R302, R303). -/
def execXcopy (f : W2) (s : State) : Res :=
  let d := s.desc f.dd
  .next (s.pump .xcopy (s.xcopyOps f) (shapeIf (!d.noBack && d.agrees (s.desc f.da))) f.dd f.da)

/-- TLD (R303). -/
def execTld (f : W2) (s : State) : Res :=
  let t := f.minor.toNat % 2 == 1
  let d := s.desc f.dd
  let a := s.desc f.da
  let want := if t then [a.ext 1, a.ext 0, a.ext 2, a.ext 3] else a.exts
  let m := some (fmtAt f.fmt.toNat)
  .next (s.pump (.tld t)
    [⟨f.dd.toNat, m, fun e => e.bspace == .loc, false, true, true, false⟩,
     ⟨f.da.toNat, m, fun e => e.fspace == .loc || e.fspace == .glob, true, false, true, false⟩]
    (shapeIf (!d.noBack && d.exts == want)) f.dd f.da)

/-- WLD (R144, R303): SPARSE must fit the form. -/
def execWld (f : W2) (s : State) : Res :=
  let x := f.minor.toNat % 2 == 1
  let d := s.desc f.dd
  let a := s.desc f.da
  let m := some (fmtAt f.fmt.toNat)
  .next (s.pump (.wld x)
    [⟨f.dd.toNat, m, fun e => e.bspace == .wbuf, false, true, true, false⟩,
     ⟨f.da.toNat, m, fun e => e.fspace == .loc || e.fspace == .well, true, false, true, false⟩]
    (shapeIf (d.agrees a && (if x then a.sparse && !d.sparse else a.sparse == d.sparse))) f.dd f.da)

/-- DRAIN (R305). -/
def execDrain (f : W2) (s : State) : Res :=
  let t := some (s.desc f.da).fmt
  .next (s.pump .drain
    [⟨f.dd.toNat, t, fun e => e.fspace == .glob, false, true, true, false⟩, ⟨f.da.toNat, t, frontLocal, true, false, true, false⟩]
    (shapeIf ((s.desc f.dd).agrees (s.desc f.da))) f.dd f.da)

/-- Whether another launch of the warrant runs on the focused core's die (R83, R306). -/
def State.wellShared (s : State) : Bool :=
  s.launches.any (fun l => l.war == s.lau.war && l.id != s.lau.id && l.state == .accepted &&
    l.cores.any (fun x => dieOf x == dieOf s.co.id && l.started.contains x && !l.ended.contains x))

/-- WELLW (R306). -/
def execWellw (f : W2) (s : State) : Res :=
  let t := some (s.desc f.da).fmt
  let bad := (shapeIf ((s.desc f.dd).agrees (s.desc f.da))).or (if s.wellShared then some cWellBusy else none)
  .next (s.pump .wellw
    [⟨f.dd.toNat, t, fun e => e.fspace == .well, true, false, true, false⟩,
     ⟨f.da.toNat, t, fun e => e.fspace == .loc || e.fspace == .glob, true, false, true, false⟩] bad f.dd f.da)

/-! ## PUB (R96, R97, R139, R304) -/

/-- Bytes enter their homes together and are released at pkg scope as one event (R97). -/
def Space.publish (w : Agent) (l : List (Nat × Byte)) (sp : Space) : Space :=
  let sp := sp.storeMany w l
  { sp with rels := { by_ := w, scope := 2, lo := sp.seq, hi := sp.seq } :: sp.rels }

/-- The bytes that the completed fill of descriptor `d` brings to a global back buffer. -/
def Core.filled (d : Nat) (c : Core) : List (Nat × Byte) := ((c.fills.find? (·.1 == d)).map (·.2.2)).getD []

/-- The swap of a completed fill by the focused context's PUB, one event for the core; a global back buffer's bytes go home together. They do
not when PUB's message was forwarded before a restart (R451). -/
def State.pubSwap (d : Nat) (s : State) : State :=
  let fill := (s.co.fills.find? (·.1 == d)).map (·.2)
  let det := s.lau.det
  let s := match fill with
    | none => s
    | some (key, l) =>
      if s.lau.mirror || s.cx.dropped then s else
      match l.findSome? (fun (p : Nat × Byte) => match s.translate p.1 with | .peer i => some i | _ => none) with
      | some i => s.peerStores i l
      | none =>
        let l := s.keyed key (homeBytes l)
        if l.isEmpty then s
        else s.modMySpace (fun sp => ((sp.publish s.me l).noteKeys det key l).sync det s.me 2 s.cx.hb)
  let co := s.co
  let s := { s with co := { co.modDesc d Desc.swapped with fills := co.fills.filter (·.1 != d) } }
  s.descReady s.co.id d

/-- Whether PUB of descriptor `d` sends a message in a checked launch (R449). -/
def State.pubSends (d : Nat) (s : State) : Bool := s.lau.checked && (Tab.get Desc.zero s.co.descs d).bspace == .glob

/-- PUB (R139, R304): while it waits, the end of the fill or of the drain retires it; in a checked launch PUB of a global back buffer issues
again then, for the pair to agree on what it publishes (R450). A page that is no longer translated traps (R81). -/
def execPub (f : W2) (s : State) : Res :=
  match (s.desc f.dd).state with
  | .empty => .next (s.trap cDesc s.cx.pc)
  | .ready => .next (s.retire 8)
  | .filling =>
    if s.co.fills.any (·.1 == f.dd.toNat) then
      match (s.co.filled f.dd.toNat).find? (fun p => s.translate p.1 == .unmapped) with
      | some p => .next (s.trap cPage (BitVec.ofNat 64 p.1))
      | none => .next ((s.pubSwap f.dd.toNat).retire 8)
    else if s.pubSends f.dd.toNat then .next (s.waitRe 6 (.pub f.dd.toNat))
    else .next (s.waitOn 6 (.pub f.dd.toNat) 8)
  | .draining => .next (s.waitOn 6 (.pub f.dd.toNat) 8)

/-! ## Completion -/

/-- An EXIT that waits for DRAINs issues again once its context's have ended (R328). -/
def State.drainCheck (id : Nat) (s : State) : State :=
  ((s.coreAt id).ctxs.filter (fun c => c.wait == some .drain && !(s.coreAt id).draining c.hid)).foldl
    (fun s c => s.wake id c.hid (fun c => c)) s

/-- What follows the end of an operation: waits on its descriptors, PHASEs and EXITs. -/
def State.pumpAfter (o : PumpOp) (s : State) : State :=
  let id := s.co.id
  let s := if o.kind.fills then s else s.descReady id o.da
  (s.phaseCheck id).drainCheck id

/-- The descriptor that an operation marked returns to ready (R138). -/
def Core.unmark (o : PumpOp) (c : Core) : Core :=
  if o.kind.fills then c.modDesc o.dd (fun d => if d.state = .filling then { d with state := .ready } else d)
  else if o.kind = .drain then c.modDesc o.da (fun d => if d.state = .draining then { d with state := .ready } else d)
  else c

/-- An abandoned operation leaves free values where it may have written (R59, R148). -/
def State.pumpUndefined (o : PumpOp) (s : State) : State :=
  let as := rowBytes o.rows
  let n := as.length
  match o.space with
  | .loc =>
    let l := as.zipIdx.map (fun a => (a.1, Config.freeByte (s.picks + a.2)))
    { s with co.store := Memory.writeAt s.co.store l, co.pumpq := s.co.pumpq.map (PumpOp.sees l), picks := s.picks + n }
  | .wbuf => { s with co.wbuf := freeBytes s.picks as s.co.wbuf, picks := s.picks + n }
  | .well =>
    let d := dieOf s.co.id
    let s' := s.setWell o.war d (freeBytes s.picks as (s.wellOf o.war d))
    { s' with picks := s.picks + n }
  | .glob =>
    if o.kind.fills then s
    else
      let l := as.zipIdx.filterMap (fun a => match s.translate a.1 with
        | .home h => some (h, Config.freeByte (s.picks + a.2))
        | _ => none)
      let s' := s.modMySpace (fun sp => if l.isEmpty then sp else sp.storeMany s.me l)
      { s' with
        picks := s.picks + n,
        cx.view := s'.cx.view.filter (fun r =>
          r.kind != .released || !o.rows.any (fun q => decide (q.1 ≤ r.addr) && decide (r.addr < q.1 + q.2))) }

/-- The outcome of a primary's operation in global memory is kept for its mirror (R449). -/
def State.pumpReply (o : PumpOp) (f : MirrorReply → MirrorReply) (s : State) : State :=
  if o.global then s.keepReply s.co.id (o.hid % 65536) o.load f else s

/-- The head operation of the focused core is abandoned (R138, R148). -/
def State.pumpDrop (o : PumpOp) (s : State) : State :=
  let id := s.co.id
  let s := s.pumpUndefined o
  let co := s.co.unmark o
  let s := { s with co := { co with pumpq := co.pumpq.tail } }
  (s.descReady id o.dd).descReady id o.da

/-- The head operation of the focused core is abandoned with a fault (R138, R148). -/
def State.pumpFault (o : PumpOp) (cause : BitVec 16) (tval : Word) (s : State) : State :=
  let id := s.co.id
  (((s.pumpDrop o).longFault id o.hid cause tval o.fpc o.region).phaseCheck id).drainCheck id

/-- Whether an operation in flight holds the buffer that a fill would write (R140). -/
def Core.holdsBack (o : PumpOp) (c : Core) : Bool :=
  o.kind.fills && c.holds o.dst.back.toNat none

/-- Whether the head operation is a WLD whose source bank is in refresh (R150). -/
def PumpOp.refreshHeld (o : PumpOp) (t : Nat) : Bool :=
  match o.kind, refreshing t with
  | .wld _, some b => o.src.fspace == .well && (rowBanks o.srcRows).contains b
  | _, _ => false

/-- The head operation of the focused core completes with its data. -/
def State.pumpDone (o : PumpOp) (data : List Nat) (s : State) : State :=
  let id := s.co.id
  let s := s.pumpReply o (fun r => { r with data := data })
  let co := s.co
  let s := { s with co := { co with pumpq := co.pumpq.tail } }
  match o.kind with
  | .drain => ({ s with co := s.co.unmark o }).pumpAfter o
  | .wellw =>
    let d := dieOf id
    let m := s.wellOf o.war d
    let l := o.bytes data (Memory.read m)
    let s := (s.setWell o.war d (Memory.writeAt m l)).modWar o.war (fun w => { w with
      wellUsed := l.foldl (fun u p => if u.contains (d, p.1 / 2 ^ 20) then u else u ++ [(d, p.1 / 2 ^ 20)]) w.wellUsed })
    { s with wellPoison := s.wellPoison.filter (fun n =>
        !(List.range 64).all (fun i => l.any (fun p => wellLine o.war d (p.1 / 64) == n && p.1 % 64 == i))) }.pumpAfter o
  | _ =>
    let s := match o.space with
      | .loc =>
        let l := o.bytes data (Memory.read s.co.store)
        { s with
          co.store := Memory.writeAt s.co.store l, co.poison := unpoison (fun b => l.any (·.1 == b)) s.co.poison,
          co.pumpq := s.co.pumpq.map (PumpOp.sees l) }
      | .wbuf => { s with co.wbuf := Memory.writeAt s.co.wbuf (o.bytes data (Memory.read s.co.wbuf)) }
      | _ => s
    let l := if o.space = .glob then o.bytes data (s.spaceByte .glob) else []
    let s := if o.space = .glob then s.tlbRows o.rows else s
    let s := { s with co.fills := (o.dd, o.key, l) :: s.co.fills.filter (·.1 != o.dd) }
    (match s.packed.ctxs.find? (fun (c : Ctx) => c.wait == some (WaitOp.pub o.dd)) with
      | some c => if s.pubSends o.dd then s.wakePubs id o.dd else (s.focusCtx id c.hid).pubSwap o.dd
      | none => s).pumpAfter o

/-- The focused core with the context of an operation in focus; of an ended one, no context. -/
def State.asOwner (hid : Nat) (s : State) : State :=
  if (s.ctxAt s.co.id hid).isSome then s.focusCtx s.co.id hid
  else { s with cx := { Ctx.zero with hid := hid, snap := Vector.replicate 4 s.space.seq }, co := s.packed }

/-- A poisoned line among the rows that an operation reads, those of its permutation table included (R446, R448). -/
def State.poisoned (o : PumpOp) (s : State) : Option Nat :=
  let rows := rowBytes o.srcRows
  let loc := rowBytes (o.reads .loc)
  (match o.src.fspace with
    | .glob => s.space.poison.find? (fun n => rows.any (fun a => decide (a < 2 ^ 62) && a % 2 ^ 48 / 64 == n))
    | .well => s.wellPoison.find? (fun n => rows.any (fun a => wellLine o.war (dieOf s.co.id) (a / 64) == n))
    | _ => none).or (s.co.poison.find? (fun n => loc.any (fun a => a / 64 == n)))

/-- A page of the head operation fails its translation: the operation is abandoned with PAGE (R81, R148). -/
def State.pumpPage (o : PumpOp) (a : Nat) (s : State) : State :=
  (s.pumpReply o (fun r => { r with unmapped := some (BitVec.ofNat 64 a) })).pumpFault o cPage (BitVec.ofNat 64 a)

/-- What the head operation of the focused core has of its source: an address whose page is not mapped, or the data once it is there. A
mirror's operation in global memory takes the primary's outcome (R449). -/
def State.pumpData (o : PumpOp) (how : ReplyHow) (s : State) : State × (Nat ⊕ Option (List Nat)) :=
  if s.lau.mirror && o.global && !(o.data.isSome && o.src.fspace == .glob) then
    match s.mirrorReply s.co.id (o.hid % 65536) o.load with
    | none => (s, .inr none)
    | some r =>
      let s := s.dropReply s.co.id r
      match r.unmapped with
      | some va => (s, .inl va.toNat)
      | none => (s, .inr (some (if o.src.fspace = .glob then r.data else o.data.getD (o.read o.seen (Memory.read o.seen)))))
  else
    match o.data with
    | some d => (s, .inr (some d))
    | none =>
      match s.sourceReach o.src, how with
      | .unmapped a, _ => (s, .inl a)
      | .peer _, .peer bs => let r := s.peerRead o bs; (r.1, .inr (some r.2))
      | .peer _, .unmapped n => (s, .inl (o.pages.getD n o.src.front.toNat))
      | .peer _, _ => (s, .inr none)
      | .home, _ =>
        let m := o.seen
        let r := s.pumpRead o m (if o.src.fspace = .loc then Memory.read m else s.spaceByte o.src.fspace)
        (r.1, .inr (some r.2))

/-- The head operation of the focused core has its data: it writes its destination. One at a peer is done once that has
answered (R81, R148). -/
def State.pumpWrite (o : PumpOp) (d : List Nat) (how : ReplyHow) (s : State) : State :=
  if o.space ≠ .glob then s.pumpDone o d
  else
    match s.reachOf o.rows with
    | .unmapped a => if o.stored then s.pumpDone o d else s.pumpPage o a
    | .home =>
      if o.kind = .drain ∧ !o.stored then
        let s1 := (s.drainGo o d).1
        (if s1.cx.status = .free then s1.carryAll else s1).pumpDone o d
      else s.pumpDone o d
    | .peer _ =>
      if s.lau.mirror then s.pumpDone o d
      else if o.kind = .drain ∧ !o.stored then
        let s1 := (s.drainGo o d).1
        { s1 with co.pumpq := { o with data := some d, stored := true } :: s1.co.pumpq.tail }
      else match how with
        | .peer _ => s.pumpDone o d
        | .unmapped n => s.pumpPage o (o.pages.getD n o.base)
        | _ => { s with co.pumpq := { o with data := some d } :: s.co.pumpq.tail }

/-- PUMP_OPERATION_COMPLETION (R138, R147, R148, R150, R446): the head of a core's queue completes or faults. `how` brings the source
bytes that a peer returned, its acceptance of the stores, or the number of the page that it refuses. -/
def execPumpOperationCompletion (core : Nat) (how : ReplyHow) (s : State) : Res :=
  let s := s.focusCore core
  match s.co.pumpq with
  | [] => .next s
  | o :: _ =>
    if s.relocking || s.packed.holdsBack o || o.refreshHeld s.tick then .next s
    else
      let s := (if how = .corrected then s.countSensor 0x40 else s).catchUp core |>.asOwner o.hid
      match s.poisoned o with
      | some n => .next (s.pumpFault o cUncorr (BitVec.ofNat 64 n))
      | none =>
        match s.pumpData o how with
        | (s, .inl a) => .next (s.pumpPage o a)
        | (s, .inr none) => .next s
        | (s, .inr (some d)) => .next (s.pumpWrite o d how)

/-! ## The well (R149, R150, R307) -/

/-- WELLQ (R149, R307). -/
def execWellq (d a : Reg) (s : State) : Res :=
  let b := (s.int a).toNat % 16
  let u := s.tick % 6400
  let any := decide (s.tick % 400 < 100)
  let inb := any && u / 400 == b
  let rest := if inb then 400 * b + 100 - u else 0
  let wait := if inb then 0 else (400 * b + 6400 - u) % 6400
  .next (s.result 4 d (BitVec.ofNat 64 (s.war.wellMib % 65536 * 2 ^ 48 + (if any then 2 ^ 36 + u / 400 * 2 ^ 32 else 0) +
    rest * 2 ^ 16 + wait)))

/-! ## Long-operation faults of units (R56, R140, R148, R417) -/

/-- LONG_OPERATION_FAULT (R56, R148, R317, R325, R455): an uncorrectable error in a line of the long operation that a unit holds
abandons it with cause UNCORR. -/
def execLongOperationFault (core : Nat) (u : LongUnit) (line : Word) (s : State) : Res :=
  let s := s.focusCore core
  match u with
  | .pump =>
    match s.co.pumpq with
    | [] => .next s
    | o :: _ => .next ((((s.countSensor 0x41).catchUp core).asOwner o.hid).pumpFault o cUncorr line)
  | .vector =>
    match s.co.vop with
    | none => .next s
    | some v => if v.reads then .next s else .next (((s.countSensor 0x41).catchUp core).vecFault v line)
  | .matrix =>
    match s.co.mop with
    | none => .next s
    | some v => .next (((s.countSensor 0x41).catchUp core).matFault v line)

end Sys2Proof.Machine
end

