-- ==== Sys2Proof/Machine/Helpers.lean ====
section
/-! DEFINITION. Helpers, the fault ring and the return from a trap (R41 to R54, R318 to R331), with the events of the
activation queue. -/

namespace Sys2Proof.Machine

open Sys2Proof

/-- An instruction that only a control context issues (R318). -/
def State.control (go : State → State) (s : State) : State :=
  if s.cx.helper then s.trap cContext s.cx.pc else go s

/-! ## Records (R42, R43) -/

/-- The offset of the shared helper pool in the cistern (R42). -/
def Warrant.poolAt (w : Warrant) : Nat :=
  let n := w.rec_.width * w.rec_.height
  let segs := 0x10000 * (n + 1)
  if w.rec_.cls = 2 then ceilDiv segs 0x200000 * 0x200000 + 0x200000 * n else segs

/-- The address of a context's record (R42): helper records 0 to 58 lie in the core segment, the others in the pool. -/
def Warrant.recAddr (w : Warrant) (l : Launch) (core : Nat) (c : Ctx) : Nat :=
  let seg := 0x10000 * (l.coreIndex w core + 1)
  Config.cisternBase w.id +
    (if !c.helper then seg
     else if c.recNo < 59 then seg + 0x1400 + 1024 * c.recNo
     else w.poolAt + 1024 * (c.recNo - 59))

/-- The helper records of the focused core's warrant in use, with the core index of each: those of its launches on cores, and those of
its evicted launches (R42, R43, R59). -/
def State.recsUsed (s : State) : List (Nat × Nat) :=
  let w := s.war
  let recs (l : Launch) (c : Core) : List (Nat × Nat) :=
    (c.ctxs.filter (·.helper)).map (fun x => (l.coreIndex w c.id, x.recNo))
  (s.allCores.filter (fun c => (s.launchOn c).war == s.lau.war && c.launch.isSome)).flatMap (fun c => recs (s.launchOn c) c) ++
  (s.launches.filter (fun l => l.war == s.lau.war && l.state == .evicted)).flatMap (fun l => l.image.flatMap (recs l))

/-- The record that START takes (R43): records 0 to 58 are those of the core's segment, the others those of the pool. DESIGN CHOICE
(log 103): of several free ones the lowest. -/
def State.freeRec (s : State) : Option Nat :=
  let used := s.recsUsed
  let n := s.lau.coreIndex s.war s.co.id
  match (List.range 59).find? (fun r => !used.contains (n, r)) with
  | some r => some r
  | none => ((List.range 16384).map (· + 59)).find? (fun r => !used.any (·.2 == r))

/-- The lowest identifier from 1 up that is not in use, found within `n + 1` steps. -/
def leastFree (used : List Nat) : Nat → Nat → Nat
  | 0, k => k
  | n + 1, k => if used.contains k then leastFree used n (k + 1) else k

/-! ## START (R327) -/

/-- The registers of a new helper: g2 to g11 of the control context. -/
def Ctx.inherit (p : Ctx) (c : Ctx) : Ctx :=
  ((List.range 10).map (· + 2)).foldl (fun c n =>
    let r : Reg := Fin.ofNat 32 n
    c.put r (p.reg r) (p.tag r)) c

/-- The context that START creates (R327); what its maker has released happens before all that it does (R90). -/
def State.newHelper (e : Word) (arg : Word) (h r : Nat) (s : State) : Ctx :=
  let n0 := if s.lau.checked then s.cx.retired * 2 ^ 64 else 0
  let c := { Ctx.zero with
    pc := e, region := e, wbase := arg.setWidth 20, wsize := (arg >>> 32).setWidth 4, status := .queued,
    helper := true, hid := h, seals := s.cx.seals &&& (arg >>> 48).setWidth 16, ready := BitVec.ofNat 64 s.tick,
    pinned := s.lau.pinned, snap := Vector.replicate 4 s.space.seq, born := s.space.seq, recNo := r,
    loads := n0, loads0 := n0,
    hb := if s.lau.det then noteMoment (s.me, (s.release 0).space.seq) s.cx.hb else [] }
  let c := { Ctx.inherit s.cx c with dirty := 0 }
  { c with saved := c.toRec }

/-- A new helper enters a slot at once, or the started band (R53). -/
def State.enter (c : Ctx) (s : State) : State :=
  let queued : State :=
    ({ s with co.ctxs := s.co.ctxs ++ [c] }).enqueue s.co.id c.hid (fun k => { k with started := k.started ++ [c.hid] })
  match s.packed.freeSlot with
  | some n => if s.co.queueEmpty then { s with co.ctxs := s.co.ctxs ++ [c.activate n s.tick 0] } else queued
  | none => queued

/-- START (R327). -/
def execStart (d a b : Reg) (s : State) : Res :=
  .next (s.control (fun s =>
    let e := s.int a
    let arg := s.int b
    let win := arg.toNat % 2 ^ 48
    if e.toNat % 4 ≠ 0 then s.trap cAlign e
    else if !windowLegal win then s.trap cWindow (BitVec.ofNat 64 win)
    else
      match s.freeRec with
      | none => s.trap cCisternFull s.cx.pc
      | some r =>
        let used := s.co.ctxs.map (·.hid)
        let h := leastFree used used.length 1
        ((s.release 0).enter (s.newHelper e arg h r)).result 4 d (BitVec.ofNat 64 h)))

/-! ## EXIT, JOIN, KILL (R328 to R330) -/

/-- The focused helper retires EXIT: STATUS 6, the stamp, its slot free once its record is written back (R49, R54); its operations in
flight complete without it. -/
def State.helperExit (s : State) : State :=
  let s := (s.release 2).issue
  let hid := s.cx.hid
  let c : Ctx := { s.cx with exitTick := BitVec.ofNat 64 s.tick }
  let s := { s with cx := c.vacate .exited }
  let co := s.co.orphan hid
  ({ s with co := co.writeBacks c.slot hid (lineCount c.dirty + 1) }).wakeAll s.co.id isJoin

/-- EXIT (R33, R328). -/
def execExit (s : State) : Res :=
  if !s.cx.helper && !(s.packed.liveHelpers).isEmpty then .next (s.waitRe 5 .join)
  else if s.co.pumpq.any (fun p => p.hid == s.cx.hid && p.kind == .drain) then .next (s.waitRe 1 .drain)
  else if s.cx.helper then .next s.helperExit
  else .next (((s.release 2).issue).launchEnds s.co.id)

/-- The helpers of the focused core that have exited and were not collected. -/
def State.exited (s : State) : List Ctx := s.co.ctxs.filter (fun x => x.helper && x.status == .exited)

/-- A helper that has exited is collected, and its EXIT's release is observed (R43, R90, R329). -/
def State.collect (hid : Nat) (s : State) : State :=
  (if s.lau.det then s.observe s.co.id s.cx.hid (some (s.co.agent hid, s.space.seq)) else s).removeCtx hid

/-- JOIN (R329). -/
def execJoin (d a : Reg) (s : State) : Res :=
  .next (s.control (fun s =>
    let h := (s.int a).toNat
    if h = 0 then
      if !(s.packed.liveHelpers).isEmpty then s.waitRe 5 .join
      else
        let l := s.exited
        ((l.foldl (fun (s : State) (c : Ctx) => s.collect c.hid) s).acquire 2).result 4 d
          (BitVec.ofNat 64 l.length)
    else
      match s.co.ctxs.find? (fun x => x.helper && x.hid == h) with
      | none => s.trap cHid (s.int a)
      | some c =>
        if c.status = .exited then ((s.collect h).acquire 2).result 4 d ((c.reg 4).setWidth 64)
        else s.waitRe 5 .join))

/-- Messages of a context that ends are no longer answered; its full/empty operations and SENDs that are not yet performed never are
(R247, R263). -/
def State.disown (id hid : Nat) (s : State) : State :=
  let s := s.withdraw id hid
  let f (m : Msg) : Msg :=
    if m.src = id ∧ m.srcHid = hid ∧ m.payload.asks then { m with srcHid := hid + 65536 } else m
  let g (c : Core) : Core := { c with heldMsgs := c.heldMsgs.map f }
  { s with
    net := (s.net.filter (fun m => match m.payload with
      | .reply _ _ _ => !(m.dst == id && m.srcHid == hid)
      | _ => true)).map f,
    co := g s.co,
    cores := s.cores.map g }

/-- A helper of the focused core ends at once without a release (R330). -/
def State.kill (c : Ctx) (s : State) : State :=
  let id := s.co.id
  let s' := s.modMySpace (dropView (s.co.agent c.hid) c.view s.picks)
  let s := { s' with
    picks := s'.picks + (openLines c.view).length,
    co := { s'.co.orphan c.hid with held := s'.co.held.filter (fun (r : FaultRec) => r.hid != c.hid) } }
  (s.disown id c.hid).removeCtx c.hid

/-- KILL (R330). -/
def execKill (a : Reg) (s : State) : Res :=
  .next (s.control (fun s =>
    match s.co.ctxs.find? (fun x => x.helper && x.hid == (s.int a).toNat) with
    | none => s.trap cHid (s.int a)
    | some c => ((s.kill c).wakeAll s.co.id isJoin).retire 4))

/-! ## RESUME (R331) -/

/-- A parked helper of the focused core becomes ready at `pc`: its slot, if it holds one, is released. -/
def State.resume (c : Ctx) (pc : Word) (s : State) : State :=
  let id := s.co.id
  let s := s.modCtx id c.hid (fun c => { c with pc := pc })
  let s := if c.slot.isSome then s.deactivate id c.hid .queued else s
  s.enterStarted id c.hid

/-- RESUME (R331). -/
def execResume (a b : Reg) (s : State) : Res :=
  .next (s.control (fun s =>
    let m := s.int b
    match s.co.ctxs.find? (fun x => x.helper && x.hid == (s.int a).toNat && x.status == .parked && !x.erred) with
    | none => s.trap cHid (s.int a)
    | some c =>
      match m.toNat with
      | 0 => (s.resume c c.pc).retire 4
      | 1 => (s.resume c c.region).retire 4
      | 2 =>
        if !s.space.imapped c.fpc.toNat then s.trap cPage c.fpc
        else
          let n := wordCount (s.space.iword c.fpc.toNat)
          (s.resume c (c.fpc + BitVec.ofNat 64 (if n = 0 then 4 else 4 * n))).retire 4
      | _ => s.trap cScope m))

/-! ## TRAPRET, FAULTQ (R322, R326) -/

/-- TRAPRET (R322): to a misaligned address it traps ALIGN inside the handler. -/
def execTrapret (s : State) : Res :=
  .next (s.control (fun s =>
    if !s.cx.intrap then s.trap cContext s.cx.pc
    else if s.cx.epc.toNat % 4 ≠ 0 then s.trap cAlign s.cx.epc
    else s.trapReturn))

/-- The 64 bytes of a fault record (R324). -/
def FaultRec.image (l : Launch) (core : Nat) (r : FaultRec) : List Byte :=
  leBytes 64 (r.kind.toNat * 2 ^ 88 + r.slot.getD 15 % 16 * 2 ^ 92 + l.xrel core % 65536 * 2 ^ 96 +
    l.yrel core % 65536 * 2 ^ 112 + r.hid % 65536 * 2 ^ 128 + r.cause.toNat * 2 ^ 144 + r.tick.toNat * 2 ^ 192 +
    r.pc.toNat * 2 ^ 256 + r.fpc.toNat * 2 ^ 320 + r.region.toNat * 2 ^ 384 + r.tval.toNat * 2 ^ 448)

/-- The oldest record leaves the ring, and the oldest held fault enters it (R326). -/
def Core.popFault (c : Core) : Core :=
  match c.held with
  | [] => { c with ring := c.ring.tail }
  | h :: t => { c with ring := c.ring.tail ++ [h], held := t, ringNews := true }

/-- FAULTQ (R326). -/
def execFaultq (d a : Reg) (s : State) : Res :=
  .next (s.control (fun s =>
    match s.co.ring with
    | [] => s.result 4 d 0
    | r :: _ =>
      let s := s.localPut (s.int a) 64 (r.image s.lau s.co.id)
      let co := s.co.popFault
      ({ s with co := co }).result 4 d (BitVec.ofNat 64 (1 + co.ring.length))))

/-! ## Events -/

/-- SLOT_RELEASE (R52): a free slot receives the head of the activation queue. -/
def execSlotRelease (core : Nat) (s : State) : Res := .next (s.activateHead core)

/-- HELPER_DEACTIVATION (R48, R49): the visit of a waiting helper while others are ready; it leaves its slot there when its wait has lasted
the threshold. -/
def execHelperDeactivation (core hid : Nat) (s : State) : Res :=
  let c := s.coreAt core
  match c.ctxs.find? (·.hid == hid) with
  | none => .next s
  | some x =>
    match x.slot with
    | some k => if x.helper ∧ x.status = .waiting ∧ !c.queueEmpty then execSlotVisit core k s else .next s
    | none => .next s

/-- A register fault of the focused context, whose request is of a mask of lines (R46). -/
def State.regFault (b : BitVec 4) (s : State) : State :=
  let s := s.count .failact
  let s := { s with cx.lineReq := s.cx.lineReq &&& ~~~b }
  if s.cx.helper then s.park 3 cRegFault (BitVec.ofNat 64 (s.war.recAddr s.lau s.co.id s.cx)) s.cx.pc s.cx.pc
  else s.terminate s.lau.war codeFault

/-- A requested register line of the focused context, of mask `b`, is in the cache (R44, R45). -/
def State.lineArrives (b : BitVec 4) (s : State) : State :=
  let n := s.co.cycle
  let s := s.modCtx s.co.id s.cx.hid (fun c => { c with lines := c.lines ||| b, lineReq := c.lineReq &&& ~~~b }.useLines b n)
  let kept := s.packed.trimLines.lru
  s.modCore s.co.id (fun k => { k with lru := kept })

/-- REGISTER_LINE_FILL (R44, R46, R325, R446, R455): a register line arrives, its record cannot be translated, as when it lies in a poisoned
line, or the line carries an uncorrectable error, which ends the context. -/
def execRegisterLineFill (core hid line : Nat) (how : LineFill) (s : State) : Res :=
  s.inputOf core (.line core hid line how) <|
  match s.ctxAt core hid with
  | none => .next s
  | some c =>
    let b : BitVec 4 := 1 <<< (line % 4)
    if c.lineReq &&& b = 0 then .next s
    else
      let s := s.focusCtx core hid
      let at_ := s.war.recAddr s.lau core s.cx + 128 * (line % 4)
      match how with
      | .arrives | .corrected =>
        if s.space.bad at_ || s.space.bad (at_ + 64) then .next (s.regFault b)
        else .next ((if how = .corrected then s.countSensor 0x40 else s).lineArrives b)
      | .untranslated => .next (s.regFault b)
      | .uncorrectable => .next (({ s.countSensor 0x41 with cx.lineReq := 0 }).uncorrReg (BitVec.ofNat 64 (at_ / 64)))

/-- HELPERFAULT_TRAP (R323): the pending trap of a core's control context is taken at an instruction boundary, or
ends its wait. A context that is to resume at its region entry, or whose held operation now goes, does that first (R56). -/
def execHelperfaultTrap (core : Nat) (s : State) : Res :=
  let s := s.focusCtx core 0
  if !s.at core 0 || s.cx.helper || !s.co.pending || s.cx.intrap || s.cx.afterCtrl || s.cx.rewind || s.cx.pend.isSome || s.cx.agreed then
    .next s
  else if s.cx.status = .resident then .next s.takeHelperFault
  else if s.canAbandon core s.cx then .next s.abandonWait.takeHelperFault
  else .next s

end Sys2Proof.Machine
end

