-- ==== Sys2Proof/Machine/System.lean ====
section
/-! DEFINITION. State registers, counters, time, stops, memory maps and the governor instructions (R315, R316, R333 to
R341). -/

namespace Sys2Proof.Machine

open Sys2Proof

/-! ## Trusted time (R407, R408) -/

/-- Half-width growth ceil(e / 1000) after `e` ticks. -/
def Clock.drift (c : Clock) (t : Nat) : Int := ceilDiv (t - c.t0) 1000
/-- The lower bound of trusted time in ns. -/
def Clock.lo (c : Clock) (t : Nat) : Int := c.lo0 + 10 * ((t - c.t0 : Nat) : Int) - c.drift t
/-- The upper bound. -/
def Clock.hi (c : Clock) (t : Nat) : Int := c.hi0 + 10 * ((t - c.t0 : Nat) : Int) + c.drift t
/-- The lower bound as TIME returns it: 0 while no beacon has been accepted (R337). -/
def State.timeLo (s : State) : Word :=
  match s.clock with
  | none => 0
  | some c => BitVec.ofInt 64 (c.lo s.tick)
/-- The upper bound as TIME returns it: 2^64 − 1 while no beacon has been accepted (R337). -/
def State.timeHi (s : State) : Word :=
  match s.clock with
  | none => BitVec.allOnes 64
  | some c => BitVec.ofInt 64 (c.hi s.tick)
/-- Whether time is trusted (R408). -/
def State.trusted (s : State) : Bool :=
  match s.clock with
  | none => false
  | some c => decide ((c.hi s.tick - c.lo s.tick) ≤ 2 * 1000000000)

/-- TIME (R337). -/
def execTime (d a : Reg) (s : State) : Res :=
  match (s.int a).toNat with
  | 0 => .next (s.result 4 d (BitVec.ofNat 64 s.tick))
  | 1 => .next (s.result 4 d s.timeLo)
  | 2 => .next (s.result 4 d s.timeHi)
  | 3 => .next (s.result 4 d (BitVec.ofNat 64 s.war.rec_.notAfter))
  | _ => .next (s.trap cScope (s.int a))

/-! ## State registers (R333) -/

/-- A warrant handle (R343): OTYPE 0xA, the code 0 in cursor bits [7:0] and the index above; PERM bits 5 to 11 are zero (R216). -/
def handleCap (w : Nat) : W128 :=
  BitVec.ofNat 128 (w % 2 ^ 56 * 256 + (Config.handleBits w).toNat % 2 ^ 53 * 2 ^ 64 + 10 * 2 ^ 124)

/-- The value and tag that MFS reads (R333). -/
def State.sread (s : State) (r : SReg) : W128 × Bool :=
  let i (v : Word) : W128 × Bool := (v.setWidth 128, false)
  let n (v : Nat) : W128 × Bool := (BitVec.ofNat 128 v, false)
  match r with
  | .pc => i s.cx.pc
  | .region => i s.cx.region
  | .cause => n s.cx.cause.toNat
  | .epc => i s.cx.epc
  | .tval => i s.cx.tval
  | .tvec => i s.cx.tvec
  | .slot => n (s.cx.slot.getD 15)
  | .core => i (s.lau.form s.co.id)
  | .window => i (windowWord s.cx.wbase s.cx.wsize)
  | .fault => n s.co.ring.length
  | .ovf => n s.co.held.length
  | .actthr => n s.co.actthr.toNat
  | .recast => n s.co.recast.toNat
  | .lease => n s.cfg.lease
  | .lfsr => n s.co.lfsr.toNat
  | .fflags => n s.co.fflags.toNat
  | .seals => n s.cx.seals.toNat
  | .freq => n s.mult
  | .hid => n s.cx.hid
  | .ctrlatch => n s.cx.ctrlatch.toNat
  | .warrant => (handleCap s.war.hix, true)

/-- MFS (R127, R333): of st.fflags, a lost visit while a long operation of the context is in flight. -/
def execMfs (d : Reg) (r : SReg) (s : State) : Res :=
  if r = .fflags ∧ s.co.longOf s.cx.hid then .next s
  else
    let v := s.sread r
    .next ((s.setCap d v.1 v.2).retire 4)

/-- The write of MTS to a register that the context may write (R48, R64, R124, R223, R333). DESIGN CHOICE (log 106): a value above
65535 sets st.recast to 65535. -/
def State.swrite (s : State) (r : SReg) (v : Word) : State :=
  match r with
  | .region => { s with cx.region := v &&& ~~~3 }
  | .cause => { s with cx.cause := v.setWidth 16 }
  | .epc => { s with cx.epc := v }
  | .tval => { s with cx.tval := v }
  | .tvec => { s with cx.tvec := v &&& ~~~3 }
  | .window => { s with cx.wbase := v.setWidth 20, cx.wsize := (v >>> 32).setWidth 4 }
  | .actthr => { s with co.actthr := BitVec.ofNat 16 (max 256 (min v.toNat 65535)) }
  | .recast => { s with co.recast := BitVec.ofNat 16 (min v.toNat 65535) }
  | .lfsr => { s with co.lfsr := if (v.setWidth 32 : W32) = 0 then 1 else v.setWidth 32 }
  | .fflags => { s with co.fflags := v.setWidth 7 }
  | .seals => { s with cx.seals := s.cx.seals &&& v.setWidth 16 }
  | .pc | .slot | .core | .fault | .ovf | .lease | .freq | .hid | .ctrlatch | .warrant => s

/-- MTS (R333). -/
def execMts (r : SReg) (a : Reg) (s : State) : Res :=
  let v := s.int a
  if !sregWritable r then .next (s.trap cEncMinor (decTval (s.space.iword s.cx.pc.toNat) 0))
  else if sregControl r && s.cx.helper then .next (s.trap cContext s.cx.pc)
  else if r = .window ∧ !windowLegal v.toNat then .next (s.trap cWindow v)
  else .next ((s.swrite r v).retire 4)

/-! ## Counters (R334 to R336) -/

/-- The bit of the allowed-event bitmap for an event: bit 16 stands for ISSUED0 to ISSUED11 together (R334, R429). -/
def eventBit : CtrEvent → Nat
  | .issued _ => 16
  | e => eventCode e

/-- Whether the warrant's bitmap allows an event (R334, R335). -/
def State.allows (s : State) (e : CtrEvent) : Bool := s.war.rec_.events.getLsbD (eventBit e)
/-- Whether a denied event traps (R335). -/
def State.deniesByTrap (s : State) : Bool := s.war.rec_.events.getLsbD 31

/-- The focused core's counter at this visit: the events up to the end of the previous cycle (R431); cycles advance by m a tick (R167). -/
def State.counterNow (s : State) (e : CtrEvent) : Word :=
  match e with
  | .cycles => BitVec.ofNat 64 (s.co.cycle - 1)
  | .actwait => Tab.get 0 s.co.counters (eventCode e) - (if s.co.queueEmpty then 0 else 1)
  | .balcyc => Tab.get 0 s.co.counters (eventCode e) - (if s.co.ballast = 0 then 0 else 1)
  | _ => Tab.get 0 s.co.counters (eventCode e)

/-- A counter instruction: `go` gives its effect when the event is allowed, with the value 0 when it is denied
without a trap (R335). -/
def State.ctrRead (e : CtrEvent) (go : Word → State → State) (s : State) : State :=
  if s.allows e then go (s.counterNow e) s
  else if s.deniesByTrap then s.trap cCtrDeny (BitVec.ofNat 64 (eventCode e))
  else go 0 s

/-- CTR (R335). -/
def execCtr (d : Reg) (e : CtrEvent) (s : State) : Res := .next (s.ctrRead e (fun v s => s.result 4 d v))

/-- The low half of a sample, the high half into the latch (R335). -/
def State.latchLow (d : Reg) (v : Word) (s : State) : State :=
  let s := s.result 4 d (BitVec.ofNat 64 (v.toNat % 2 ^ 32))
  { s with cx.ctrlatch := BitVec.ofNat 32 (v.toNat / 2 ^ 32), cx.afterCtrl := true }

/-- CTRL (R335): no asynchronous trap is taken directly after it (R323). -/
def execCtrl (d : Reg) (e : CtrEvent) (s : State) : Res := .next (s.ctrRead e (State.latchLow d))

/-- CTRH (R335): the latch, or zero for a denied event. -/
def execCtrh (d : Reg) (e : CtrEvent) (s : State) : Res :=
  .next (s.ctrRead e (fun _ s => s.result 4 d (if s.allows e then s.cx.ctrlatch.setWidth 64 else 0)))

/-- CTRSEL (R336): the reply to a denied read is zero. -/
def execCtrsel (d a b : Reg) (s : State) : Res :=
  let v := (s.int b).toNat
  match s.lau.target (s.int a) with
  | none => .next (s.trap cScope (s.int a))
  | some t =>
    match eventOf (v % 4096) with
    | none => .next (s.trap cEncMinor (decTval (s.space.iword s.cx.pc.toNat) 0))
    | some e =>
      if v / 4096 ≥ 3 then .next (s.trap cEncMinor (decTval (s.space.iword s.cx.pc.toNat) 0))
      else if s.allows e then
        .next ((s.post t (.ctrsel e (s.int a))).waitOn 1 (.remote d (BitVec.ofNat 4 (4 + v / 4096)) (s.int a)) 4)
      else if s.deniesByTrap then .next (s.trap cCtrDeny (BitVec.ofNat 64 (eventCode e)))
      else
        let s := if v / 4096 = 1 then { s with cx.ctrlatch := 0 } else s
        .next (s.clean.waitOn 1 (.reply d 0 false false 8 none) 4)

/-! ## Stops (R338) -/

/-- The core, slot and ARM that g[SA] of STOP names. -/
def Launch.stopTarget (l : Launch) (v : Word) : Option (Nat × Nat × Bool) :=
  let n := v.toNat
  let slot := n / 2 ^ 32 % 16
  if n / 2 ^ 37 = 0 ∧ 1 ≤ slot ∧ slot ≤ 10 then
    (l.target (BitVec.ofNat 64 (n % 2 ^ 32))).map (fun c => (c, slot, n / 2 ^ 36 % 2 == 1))
  else none

/-- STOP (R338). -/
def execStop (d a b : Reg) (s : State) : Res :=
  .next (s.control (fun s =>
    if !s.war.rec_.debug then s.trap cDebug s.cx.pc
    else
      match s.lau.stopTarget (s.int a) with
      | none => s.trap cScope (s.int a)
      | some (c, slot, arm) =>
        if (s.int b).toNat % 4 ≠ 0 then s.trap cAlign (s.int b)
        else (s.post c (.stop slot arm (s.int b) (s.int a))).waitOn 1 (.remote d 7 (s.int a)) 4))

/-! ## Memory maps (R80, R339, R340) -/

/-- Pages of `sz` bytes over a range. -/
def pagesOver (lo len sz war : Nat) (kind : PageKind) : List PageMap :=
  (List.range (len / sz)).map (fun i => { base := lo + i * sz, big := decide (sz = 0x200000), kind := kind, war := war })

/-- The first address of a range, in steps of 64 KiB, that a page maps. -/
def Space.firstMapped (sp : Space) (lo len : Nat) : Option Nat :=
  ((List.range (len / 0x10000)).map (fun i => lo + i * 0x10000)).find? sp.mapped

/-- Zero bytes and clear tags over a range that no mapping uses. -/
def Space.clear (lo hi : Nat) (sp : Space) : Space :=
  { sp with
    mem := eraseRange lo hi sp.mem,
    tags := sp.tags.filter (fun a => a < lo || hi ≤ a),
    hist := sp.hist.filter (fun h => h.addr < lo || hi ≤ h.addr),
    lineKeys := sp.lineKeys.filter (fun k => k.1 < lo || hi ≤ k.1) }

/-- Invalidated pages of a range that were not yet returned (R80). -/
def Space.unmapped (sp : Space) (lo hi : Nat) : List PageMap :=
  sp.old.filter (fun p => decide (p.base < hi) && decide (lo < p.base + p.size))

/-- A context's stores to pages that are no longer mapped reach no other mapping (R80). -/
def Ctx.unmapped (lo hi : Nat) (c : Ctx) : Ctx :=
  { c with view := c.view.filter (fun r => decide (r.addr < lo) || decide (hi ≤ r.addr)) }

/-- A range of a space loses what former mappings left there: its bytes become zero with clear tags, and no core reaches the old pages
(R80, R339). -/
def State.dropRange (sid lo hi : Nat) (s : State) : State :=
  let s := s.modSpace sid (Space.clear lo hi)
  let drop (k : Core) : Core :=
    if (s.warById (s.launchOn k).war).space = sid then
      { k with tlb := k.tlb.filter (fun e => e.base < lo || hi ≤ e.base), ctxs := k.ctxs.map (Ctx.unmapped lo hi) }
    else k
  let cx := if (s.warById s.lau.war).space = sid then s.cx.unmapped lo hi else s.cx
  { s with cx := cx, co := drop s.co, cores := s.cores.map drop }

/-- VMAP (R339): a lost visit while the range is being unmapped. -/
def execVmap (d a b : Reg) (s : State) : Res :=
  .next (s.control (fun s =>
    let va := (s.int a).toNat
    let len := (s.int b).toNat % 2 ^ 48
    let sz := if (s.int b).toNat / 2 ^ 63 = 1 then 0x200000 else 0x10000
    if (s.int b).toNat / 2 ^ 48 % 2 ^ 15 ≠ 0 ∨ va / 2 ^ 48 ≠ 0 ∨ va % sz ≠ 0 ∨ len = 0 ∨ len % sz ≠ 0 ∨
        va + len > 2 ^ 48 ∨ csbRange va (va + len) ≠ (va, va + len) then s.trap cShape s.cx.pc
    else
      match s.space.firstMapped va len with
      | some m => s.trap cMapped (BitVec.ofNat 64 m)
      | none =>
        if s.war.memFree < len / 0x10000 then s.trap cGrant (BitVec.ofNat 64 len)
        else if !(s.space.unmapped va (va + len)).isEmpty then s
        else
          let w := s.lau.war
          let s := s.dropRange s.war.space va (va + len)
          let s := s.modMySpace (fun sp => { sp with pages := sp.pages ++ pagesOver va len sz w .data })
          let s := s.modWar w (fun x => { x with memFree := x.memFree - len / 0x10000 })
          s.waitOn 1 (.vmap d (s.int a) (BitVec.ofNat 64 len)) 4))

/-- VMAP_COMPLETION (R40, R339): the mapping is in the page table; the capability is written. -/
def execVmapCompletion (core : Nat) (s : State) : Res :=
  s.inputOf core (.mapped core) <|
  match s.ctxAt core 0 with
  | none => .next s
  | some c =>
    match c.wait with
    | some (.vmap rd va len) =>
      .next (s.wake core 0 (fun c =>
        (c.put rd (csbCap 0 pAll va.toNat (va.toNat + len.toNat) va.toNat) true).done))
    | _ => .next s

/-- The pages that cover a range exactly, or the first failing address (R340). DESIGN CHOICE (log 123): of a page that the range's top
lies inside, that is the page's base. -/
def Space.walk (sp : Space) : Nat → Nat → Nat → Nat ⊕ List PageMap
  | 0, a, hi => if a < hi then .inl a else .inr []
  | n + 1, a, hi =>
    if hi ≤ a then .inr []
    else
      match sp.pages.find? (fun p => p.base == a) with
      | none => .inl a
      | some p =>
        if p.base + p.size > hi then .inl a
        else
          match sp.walk n (a + p.size) hi with
          | .inl e => .inl e
          | .inr l => .inr (p :: l)

/-- Memory goes back to the grants that backed the pages (R340). -/
def State.refund (l : List PageMap) (s : State) : State :=
  l.foldl (fun s p => s.modWar p.war (fun w => { w with memFree := w.memFree + p.size / 0x10000 })) s

/-- VUNMAP (R80, R340): the page-table entries go at once. -/
def execVunmap (a : Reg) (s : State) : Res :=
  .next (s.control (fun s =>
    let c := (s.g a).toNat
    let lo := capBase c
    let hi := capTop c
    if !s.gtag a then s.trap cTag (s.int a)
    else if capOtype c ≠ 0 then s.trap cSeal (s.int a)
    else if capPerm c &&& pST = 0 then s.trap cPerm (s.int a)
    else if lo % 0x10000 ≠ 0 then s.trap cPage (BitVec.ofNat 64 lo)
    else
      match s.space.walk ((hi - lo) / 0x10000 + 1) lo hi with
      | .inl e => s.trap cPage (BitVec.ofNat 64 e)
      | .inr l =>
        (s.modMySpace (fun sp => { sp with pages := sp.pages.filter (fun p => !l.contains p), old := sp.old ++ l })).waitOn 1
          (.vunmap lo hi s.tick (s.tick + s.cfg.lease)) 4))

/-- VUNMAP_COMPLETION (R40, R80, R340): one lease after the invalidation no agent reaches the old pages, and the memory
returns to its grants. -/
def execVunmapCompletion (core : Nat) (s : State) : Res :=
  s.inputOf core (.unmapped core) <|
  match s.ctxAt core 0 with
  | none => .next s
  | some c =>
    match c.wait with
    | some (.vunmap lo hi _ till) =>
      if s.tick < till then .next s
      else
        let sid := (s.warById (s.launchOn (s.coreAt core)).war).space
        let l := (s.spaceById sid).unmapped lo hi
        let s := s.freePages sid l
        let s := (s.dropRange sid lo hi).modSpace sid (fun sp => { sp with old := sp.old.filter (fun p => !l.contains p) })
        .next ((s.refund l).wake core 0 Ctx.done)
    | _ => .next s

/-- IFL (R341). An object holds the addresses of the instruction pages that its section occupies. -/
def execIfl (d a : Reg) (s : State) : Res :=
  let n := (s.int a).toNat
  let v : Nat :=
    if !s.space.imapped n then 0
    else
      match s.space.objs.zipIdx.find? (fun o => decide (o.1.base ≤ n) && decide (n < o.1.base + max 1 (ceilDiv o.1.len 0x200000) * 0x200000)) with
      | some (o, i) => 1 + i % 16 * 2 ^ 8 + (n - o.base) % 2 ^ 32 * 2 ^ 32
      | none => 1
  .next (s.result 4 d (BitVec.ofNat 64 v))

/-! ## Governor instructions (R164, R165, R315, R316) -/

/-- The declaration that GRAMP makes: its ramp boundary and its end (R165, R315). -/
def State.declare (s : State) (x t : Nat) : GrampRec :=
  let n := ceilDiv (x * 2048) (s.gov.lup * 1000)
  let start : Int := (t / 100 * 100 : Nat) - (100 * n : Nat)
  { x := x, start := if start < s.tick then s.gov.next else start.toNat,
    stop := if t < s.tick then s.gov.next + 100 else t / 100 * 100 + 100, base := none, seq := s.gov.decls }

/-- GRAMP (R315). -/
def execGramp (a b : Reg) (s : State) : Res :=
  let x := (clamp (s.int a).toInt 0 3300).toNat
  let r := if x = 0 then none else some (s.declare x (s.int b).toNat)
  .next (({ s with co.gramp := r, gov.decls := s.gov.decls + 1 }).retire 4)

/-- GPIN (R316). -/
def execGpin (a : Reg) (s : State) : Res :=
  .next (({ s with cx.pinned := (s.g a).getLsbD 0 || (s.lau.pinned && s.cx.pinned) }).retire 4)

end Sys2Proof.Machine
end

