-- ==== Sys2Proof/Machine/Collective.lean ====
section
/-! DEFINITION. Collectives (R25, R100, R101, R151 to R158, R308 to R313): scopes, the deadline reduction tree in the
routers, barriers, reductions and corrections. Values travel between nodes as messages of the network. -/

namespace Sys2Proof.Machine

open Sys2Proof

/-! ## Scopes (R25, R151, R308) -/

/-- A scope as one participant sees it: its owner and key, its participants, and the participant's own index. -/
structure Scp where
  owner : Nat
  key   : ScopeKey
  parts : Nat
  idx   : Nat
  hop   : Nat
  cores : List Nat
  me    : Option Nat
  deriving DecidableEq, Repr

/-- The code of the scope at which a collective of this scope releases and acquires: rect, pkg or fab (R84, R100, R101, R308). -/
def Scp.rel (sc : Scp) : Nat := max 1 sc.key.kind.toNat

/-- The cores of a block, in index order (R151). -/
def blockCores (x0 y0 w h : Nat) : List Nat :=
  (List.range (w * h)).map (fun i => x0 + i % w + 64 * (y0 + i / w))

/-- Whether a scope word names an aligned sub-rectangle of the launch that holds relative core (x, y) (R25, R308). -/
def scopeLegal (l : Launch) (v x y : Nat) : Bool :=
  let x0 := v % 65536
  let y0 := v / 65536 % 65536
  let w := 2 ^ (v / 2 ^ 32 % 16)
  let h := 2 ^ (v / 2 ^ 36 % 16)
  v / 2 ^ 40 == 0 && x0 % w == 0 && y0 % h == 0 && decide (x0 + w ≤ l.width) && decide (y0 + h ≤ l.height) &&
    decide (x0 ≤ x) && decide (x < x0 + w) && decide (y0 ≤ y) && decide (y < y0 + h)

/-- Whether a launch's rectangle holds core index `n` of its warrant (R42). -/
def Launch.hasIndex (l : Launch) (w : Warrant) (n : Nat) : Bool :=
  let x := n % max 1 w.rec_.width
  let y := n / max 1 w.rec_.width
  decide (l.ox ≤ x) && decide (x < l.ox + l.width) && decide (l.oy ≤ y) && decide (y < l.oy + l.height)

/-- The mesh core of core index `n` of a launch's warrant (R42). -/
def Launch.ofIndex (l : Launch) (w : Warrant) (n : Nat) : Nat :=
  l.coreAt (n % max 1 w.rec_.width - l.ox) (n / max 1 w.rec_.width - l.oy)

/-- The mesh core of core index `n` of a warrant: where a launch was restored elsewhere, its core there (R42, R60). -/
def State.coreOfIndex (w : Warrant) (n : Nat) (s : State) : Nat :=
  match s.launches.find? (fun l => l.war == w.id && l.state == .accepted && l.hasIndex w n) with
  | some l => l.ofIndex w n
  | none => w.x0 + n % max 1 w.rec_.width + 64 * (w.y0 + n / max 1 w.rec_.width)

/-- The scope of a kind and scope word as core `core` sees it; none where the word traps SCOPE (R308). -/
def State.scopeAt (s : State) (core kind : Nat) (word : Word) : Option Scp :=
  let l := s.launchOn (s.coreAt core)
  let w := s.warById l.war
  let x := l.xrel core
  let y := l.yrel core
  match kind with
  | 0 =>
    let v := word.toNat
    if scopeLegal l v x y then
      let x0 := v % 65536
      let y0 := v / 65536 % 65536
      let ww := 2 ^ (v / 2 ^ 32 % 16)
      let hh := 2 ^ (v / 2 ^ 36 % 16)
      some { owner := 2 * l.id, key := ⟨0, word⟩, parts := ww * hh, idx := (y - y0) * ww + (x - x0), hop := 10,
             cores := blockCores (l.px + x0) (l.py + y0) ww hh, me := none }
    else none
  | 1 => some { owner := 2 * l.id, key := ⟨1, 0⟩, parts := l.width * l.height, idx := y * l.width + x, hop := 10,
                cores := l.cores, me := none }
  | 2 => some { owner := 2 * w.id + 1, key := ⟨2, 0⟩, parts := w.rec_.width * w.rec_.height, idx := l.coreIndex w core,
                hop := 10, cores := (List.range (w.rec_.width * w.rec_.height)).map (fun n => s.coreOfIndex w n), me := none }
  | _ => some { owner := 2 * w.id + 1, key := ⟨3, BitVec.ofNat 64 (l.coreIndex w core)⟩, parts := max 1 w.rec_.fgsize,
                idx := w.peeridx, hop := s.cfg.hopalw, cores := [core], me := some w.peeridx }

/-- What a core keeps for a scope, zero before its first use. -/
def Core.scopeSt (key : ScopeKey) (c : Core) : ScopeSt :=
  (c.coll.find? (·.key == key)).getD
    { key := key, bars := 0, reds := 0, redxs := 0, heldK := none, held := [], corrPos := 0, corrIn := 0 }
/-- Change what a core keeps for a scope. -/
def Core.modScope (key : ScopeKey) (f : ScopeSt → ScopeSt) (c : Core) : Core :=
  { c with coll := f (c.scopeSt key) :: c.coll.filter (·.key != key) }

/-! ## Values (R154) -/

/-- Op(left, right) on one element (R154). -/
def RedOp.apply (o : RedOp) (a b : W32) : W32 :=
  match o with
  | .sumF | .sumB => BitVec.ofNat 32 (round32 ((fp32.decode a.toNat).add (fp32.decode b.toNat))).1
  | .sumI => a + b
  | .max => BitVec.ofNat 32 (minMaxCode fp32 true a.toNat b.toNat).1
  | .min => BitVec.ofNat 32 (minMaxCode fp32 false a.toNat b.toNat).1
  | .or => a ||| b
  | .maxN => if a.toNat ≤ b.toNat then b else a

/-- The identity of an operation (R154). -/
def RedOp.identity : RedOp → W32
  | .max => BitVec.ofNat 32 (fp32.signed true fp32.infc)
  | .min => BitVec.ofNat 32 fp32.infc
  | .sumF | .sumB | .sumI | .or | .maxN => 0

/-- The operations by their rows of R154, REDX's last. -/
def redOpOf : Nat → RedOp
  | 0 => .sumF | 1 => .sumB | 2 => .sumI | 3 => .max | 4 => .min | 5 => .or | _ => .maxN
/-- The row of an operation. -/
def RedOp.row : RedOp → Nat
  | .sumF => 0 | .sumB => 1 | .sumI => 2 | .max => 3 | .min => 4 | .or => 5 | .maxN => 6

/-- The union of two sorted lists of bits. -/
def unionBits (a b : List Nat) : List Nat := b.foldl insNat a

/-- An empty value (R154): no element and no bit. It carries the deadline of its round (R153). -/
def NodeVal.emptied (v : NodeVal) : NodeVal := { v with data := [], bits := [] }

/-- Whether a value is empty (R154, R156). -/
def NodeVal.isEmpty (v : NodeVal) : Bool := v.bits.isEmpty

/-- The elements of a result for `n` elements: an empty root delivers the identity (R154). -/
def NodeVal.result (n : Nat) (v : NodeVal) : List W32 := if v.isEmpty then List.replicate n v.op.identity else v.data

/-- The value that a node forwards (R154, R157): children that disagree leave the lower one alone, an empty child adds nothing. -/
def combine (l r : Option NodeVal) : Option NodeVal :=
  match l, r with
  | some a, some b =>
    if a.isEmpty then some b
    else if b.isEmpty then some a
    else if a.op = b.op ∧ a.deadline = b.deadline ∧ a.data.length = b.data.length then
      some { a with data := List.zipWith a.op.apply a.data b.data, bits := unionBits a.bits b.bits }
    else some a
  | some a, none => some a
  | none, b => b

/-! ## Rounds and nodes (R152, R153) -/

/-- A round that nobody has joined. -/
def Round.zero : Round :=
  { rid := 0, owner := 0, key := ⟨0, 0⟩, kind := .bar, k := 0, parts := 1, hop := 0, cores := [], me := none, nodes := [],
    issued := [], taken := [], result := none }

/-- Whether a round is the k-th of its kind on a scope. -/
def Round.is (owner : Nat) (key : ScopeKey) (kind : RKind) (k : Nat) (r : Round) : Bool :=
  r.owner == owner && r.key == key && r.kind == kind && r.k == k

/-- The core whose router holds the nodes of participant `i`; none on another module. -/
def Round.coreOf (r : Round) (i : Nat) : Option Nat :=
  match r.me with
  | none => r.cores[i]?
  | some m => if i = m then r.cores.head? else none

/-- The depth of the tree (R151). -/
def Round.depth (r : Round) : Nat := clog2 r.parts

/-- A node that nothing has reached; an index at or above the count is a permanently absent child (R152). -/
def Round.newNode (r : Round) (l j : Nat) : RedNode :=
  { level := l, j := j, hop := r.hop, dl := none, left := none, right := none, leftIn := false,
    rightIn := decide (r.parts ≤ (2 * j + 1) * 2 ^ (l - 1)), fwd := false }

/-- Node (l, j). -/
def Round.node (r : Round) (l j : Nat) : RedNode :=
  (r.nodes.find? (fun n => n.level == l && n.j == j)).getD (r.newNode l j)
/-- Replace a node. -/
def Round.setNode (n : RedNode) (r : Round) : Round :=
  { r with nodes := n :: r.nodes.filter (fun x => !(x.level == n.level && x.j == n.j)) }

/-- The cutoff of a node that a value has reached; none is infinite (R153, R158). -/
def RedNode.cutoff (n : RedNode) : Option Nat :=
  match n.dl with
  | some (some d) => some (d + n.level * n.hop)
  | _ => none

/-- A value enters a node that has not forwarded. -/
def RedNode.take (right : Bool) (v : NodeVal) (n : RedNode) : RedNode :=
  let n := { n with dl := some (n.dl.getD v.deadline) }
  if right then { n with right := some v, rightIn := true } else { n with left := some v, leftIn := true }

/-- Change the round at position `i`. -/
def State.modRound (i : Nat) (f : Round → Round) (s : State) : State :=
  { s with rounds := s.rounds.modify i f }

/-- A message of the tree to the module of peer `i` of a fabric group. -/
def State.emitFab (i : Nat) (fab : FabMsg) (s : State) : State :=
  s.emit (i + 2 ^ 32) (64 + fab.part) (BitVec.ofNat 64 fab.k)
    (leBytes 4 fab.level ++ leBytes 4 fab.j ++ leBytes 4 fab.op ++ leBytes 8 (fab.deadline.getD (2 ^ 64 - 1)) ++
      fab.data.flatMap (fun x => leBytes 4 x.toNat) ++ fab.bits.flatMap (leBytes 2))

/-- A message of the tree to the router of participant `i`, on this module or on another. -/
def State.toRouter (r : Round) (src i : Nat) (p : Payload) (fab : FabMsg) (s : State) : State :=
  match r.coreOf i with
  | some c => s.send { launch := 0, src := src, srcHid := 65536, dst := c, payload := p }
  | none => s.emitFab i fab

/-- A value as a message between modules. -/
def fabOf (r : Round) (part l j : Nat) (right : Bool) (v : NodeVal) : FabMsg :=
  { war := r.owner / 2, core := r.key.word.toNat, k := r.k, part := part, level := l, j := j, right := right,
    op := v.op.row, deadline := v.deadline, data := v.data, bits := v.bits }

/-- The root of round `r` has its result: at fab scope it is sent to the other modules (R154, R155). -/
def State.rootResult (i : Nat) (v : NodeVal) (s : State) : State :=
  match s.rounds[i]? with
  | none => s
  | some r =>
    let s := s.modRound i (fun r => { r with result := some v })
    match r.me with
    | none => s
    | some m => ((List.range r.parts).filter (· != m)).foldl
        (fun s p => s.toRouter r (r.cores.headD 0) p (.correction 0 r.key 0 v) (fabOf r 1 0 0 false v)) s

/-- Node (l, j) of round `i` forwards what it has (R153, R154). -/
def State.forward (i l j : Nat) (s : State) : State :=
  match s.rounds[i]? with
  | none => s
  | some r =>
    let n := r.node l j
    if n.fwd then s
    else
      let s := s.modRound i (Round.setNode { n with fwd := true })
      match combine n.left n.right with
      | none => s
      | some v =>
        if l ≥ r.depth then s.rootResult i v
        else
          let up := j / 2
          s.toRouter r ((r.coreOf (j * 2 ^ l)).getD 0) (up * 2 ^ (l + 1))
            (.node r.owner r.rid (l + 1) up (decide (j % 2 = 1)) v)
            (fabOf r 0 (l + 1) up (decide (j % 2 = 1)) v)

/-- DLMISS counts on each core of this module whose contribution became a correction (R334). -/
def State.countMiss (r : Round) (v : NodeVal) (s : State) : State :=
  v.bits.foldl (fun s b =>
    match r.coreOf b with
    | some c => s.modCore c (fun k => { k with counters := Tab.set 0 k.counters 7 (Tab.get 0 k.counters 7 + 1) })
    | none => s) s

/-- A value that comes after its node has forwarded passes straight to the root, unless it is empty (R156). -/
def State.late (r : Round) (l j : Nat) (v : NodeVal) (s : State) : State :=
  if v.isEmpty then s
  else
    (s.countMiss r v).toRouter r ((r.coreOf (j * 2 ^ l)).getD 0) 0 (.correction r.owner r.key r.k v) (fabOf r 2 0 0 false v)

/-- Whether the tick of a node's cutoff has ended (R153). -/
def RedNode.past (tick : Nat) (n : RedNode) : Bool := !n.fwd && n.cutoff.any (fun t => decide (t < tick))

/-- A value reaches node (l, j) of the round at position `i` (R153, R156): a node whose cutoff has passed forwards
first what arrived before, nothing if this value is its first. -/
def State.arriveNode (i l j : Nat) (right : Bool) (v : NodeVal) (s : State) : State :=
  match s.rounds[i]? with
  | none => s
  | some r =>
    let n := r.node l j
    if n.fwd then s.late r l j v
    else
      let n := if r.me.isSome && !n.begun then { n with hop := s.cfg.hopalw, begun := true } else n
      let n := { n with dl := some (n.dl.getD v.deadline) }
      if n.past s.tick then
        let n := if n.left.isNone && n.right.isNone then { n with left := some v.emptied } else n
        ((s.modRound i (Round.setNode n)).forward i l j).late r l j v
      else
        let n := n.take right v
        let s := s.modRound i (Round.setNode n)
        if n.leftIn && n.rightIn then s.forward i l j else s

/-- The oldest round of an identity for which `p` holds. -/
def State.findRound (owner : Nat) (key : ScopeKey) (kind : RKind) (k : Nat) (p : Round → Bool) (s : State) : Option Nat :=
  s.rounds.findIdx? (fun r => r.is owner key kind k && p r)

/-- The round in which the participant contributes next, made when it is the first (R157). -/
def State.joinRound (kind : RKind) (sc : Scp) (k : Nat) (s : State) : State × Nat :=
  let mark (r : Round) : Round := { r with issued := insNat r.issued sc.idx }
  match s.findRound sc.owner sc.key kind k (fun r => !r.issued.contains sc.idx) with
  | some i => (s.modRound i mark, i)
  | none =>
    let r : Round :=
      { rid := (s.rounds.map (·.rid)).foldl max 0 + 1, owner := sc.owner, key := sc.key, kind := kind, k := k, parts := sc.parts, hop := sc.hop, cores := sc.cores,
        me := sc.me, nodes := [], issued := [sc.idx], taken := [], result := none }
    ({ s with rounds := s.rounds ++ [r] }, s.rounds.length)

/-- The pairing of the nodes above participant `idx` whose routers this module holds begins with the contribution that it issues: their hop
allowance is fixed (R424). DEDUCED (log 124): that of a node which hears of another module's contribution first, when that arrives. -/
def Round.begin_ (hop idx : Nat) (r : Round) : Round :=
  if r.me.isNone then r
  else (List.range r.depth).foldl (fun r i =>
    let j := idx / 2 ^ (i + 1)
    let n := r.node (i + 1) j
    if (r.coreOf (j * 2 ^ (i + 1))).isSome && !n.begun then r.setNode { n with hop := hop, begun := true } else r) r

/-- The focused context of a deterministic launch takes part in the round at position `i` (R90, R100, R101). -/
def State.takesPart (i idx : Nat) (s : State) : State :=
  if s.lau.det then s.modRound i (fun r => { r with arrived := r.arrived ++ [(idx, s.me, s.space.seq)] }) else s

/-- What the participants of the round at position `i` that `p` names did at their arrival, in a deterministic launch (R90). -/
def State.roundEffects (i : Nat) (p : Nat → Bool) (s : State) : List (Agent × Nat) :=
  ((s.rounds.getD i Round.zero).arrived.filter (fun a => p a.1)).map (·.2)

/-- Context `hid` of core `core` has observed some effects (R90). -/
def State.observeAll (core hid : Nat) (l : List (Agent × Nat)) (s : State) : State :=
  l.foldl (fun s p => s.observe core hid (some p)) s

/-- A participant's contribution leaves for its node; the only participant is its own root (R152). -/
def State.contribute (kind : RKind) (sc : Scp) (k : Nat) (v : NodeVal) (core : Nat) (s : State) : State :=
  let r := s.joinRound kind sc k
  let r := ((r.1.modRound r.2 (Round.begin_ s.cfg.hopalw sc.idx)).takesPart r.2 sc.idx, r.2)
  match r.1.rounds[r.2]? with
  | none => r.1
  | some x =>
    if x.depth = 0 then r.1.rootResult r.2 v
    else
      let j := sc.idx / 2
      let right := decide (sc.idx % 2 = 1)
      r.1.toRouter x core (2 * j) (.node x.owner x.rid 1 j right v) (fabOf x 0 1 j right v)

/-! ## Results and corrections (R155, R156, R312) -/

/-- A result or correction written into DD in iteration order, up to DD's element count (R310, R312). -/
def Desc.putWords (dd : Desc) (ws : List W32) (m : Memory) : Memory :=
  dd.putAll dd.front.toNat ((ws.take dd.count).map (·.toNat)) 0 m

/-- A router writes a result or correction into the local front of a descriptor; a store of a whole line clears its poison (R448). -/
def Core.putFront (dd : Desc) (ws : List W32) (c : Core) : Core :=
  let c := { c with store := dd.putWords ws c.store }
  if dd.count ≤ ws.length then c.coverPoison dd.foot else c

/-- Whether a message carries a value of the tree of round `rid`. -/
def Payload.ofRound (rid : Nat) : Payload → Bool
  | .node _ r _ _ _ _ => r == rid
  | _ => false

/-- Whether a round is over: every participant has taken its result, and no value is on its way. A round of a fabric group
stays, since late values of other modules may still come. -/
def Round.over (net : List Msg) (r : Round) : Bool :=
  r.me.isNone && decide (r.cores.length ≤ r.taken.length) && !net.any (fun m => m.payload.ofRound r.rid)

/-- Rounds that are over are forgotten. -/
def State.retireRounds (s : State) : State := { s with rounds := s.rounds.filter (fun r => !r.over s.net) }

/-- The participant has taken the result of the round at position `i`. -/
def State.takeRound (i idx : Nat) (s : State) : State :=
  (s.modRound i (fun r => { r with taken := insNat r.taken idx })).retireRounds

/-- The round of result `k` that a participant has issued and not taken, and the result. -/
def State.resultFor (kind : RKind) (sc : Scp) (k : Nat) (s : State) : Option (Nat × NodeVal) :=
  match s.findRound sc.owner sc.key kind k (fun r => r.issued.contains sc.idx && !r.taken.contains sc.idx) with
  | none => none
  | some i =>
    match s.rounds[i]? with
    | none => none
    | some r => r.result.map (fun v => (i, v))

/-- Whether result `k` is the one that a router holds: every earlier one was taken (R155). -/
def ScopeSt.holds (k : Nat) (x : ScopeSt) : Bool := k == 0 || x.heldK == some (k - 1)

/-- Result `k` of RED is delivered on a core: written into DD, its bitmap held. -/
def State.deliverRed (core k : Nat) (sc : Scp) (dd : Desc) (s : State) : Option State :=
  if !((s.coreAt core).scopeSt sc.key).holds k then none
  else
    (s.resultFor .red sc k).map (fun r =>
      let s := s.modCore core (fun c =>
        (c.modScope sc.key (fun x => { x with heldK := some k, held := r.2.bits })).putFront dd (r.2.result dd.count))
      s.takeRound r.1 sc.idx)

/-- The arrivals of the contributors to result `k` of RED, in a deterministic launch (R90, R101). -/
def State.redEffects (k : Nat) (sc : Scp) (s : State) : List (Agent × Nat) :=
  match s.resultFor .red sc k with
  | none => []
  | some r => s.roundEffects r.1 r.2.bits.contains

/-- The corrections of a scope that the root has sent since the launch started on a core. -/
def State.sentCorrs (c : Core) (sc : Scp) (s : State) : List CorrRec :=
  (s.corrLog.drop c.corrBase).filter (fun r => r.owner == sc.owner && r.key == sc.key)

/-- The corrections of a scope that have reached a core and that it has not taken (R156). -/
def State.undelivered (core : Nat) (sc : Scp) (s : State) : List CorrRec :=
  let c := s.coreAt core
  let x := c.scopeSt sc.key
  ((s.sentCorrs c sc).take x.corrIn).drop x.corrPos

/-- The routers down the tree from the root to participant `i` of a tree of depth `n` (R152, R155). -/
def downTree (i : Nat) : Nat → List Nat
  | 0 => [i]
  | n + 1 => i / 2 ^ (n + 1) * 2 ^ (n + 1) :: downTree i n

/-- A message from the root of a scope to a core, down the tree, waits for a relock on its path (R155, R166). -/
def State.rootHeld (core : Nat) (sc : Scp) (s : State) : Bool :=
  let at_ (i : Nat) : Nat := sc.cores.getD i core
  let hops := if sc.me.isSome then [core] else (downTree sc.idx (clog2 sc.parts)).map at_
  (hops.zip (hops.tail ++ [core])).any (fun h => s.pathHeld h.1 h.2)

/-- The corrections of the scope of a key that are among the first `m` of all reach a core. -/
def State.corrsReach (m core : Nat) (key : ScopeKey) (s : State) : State :=
  match s.scopeAt core key.kind.toNat key.word with
  | none => s
  | some sc =>
    if s.rootHeld core sc then s
    else
      let n := (({ s with corrLog := s.corrLog.take m } : State).sentCorrs (s.coreAt core) sc).length
      if n = 0 then s else s.modCore core (fun c => c.modScope key (fun x => { x with corrIn := max x.corrIn n }))

/-- The status of CORR for a correction (R312). -/
def corrStatus (r : CorrRec) : Word :=
  BitVec.ofNat 64 (1 + r.val.bits.length % 65536 * 2 ^ 16 + r.k % 65536 * 2 ^ 32 + r.val.bits.headD 0 % 65536 * 2 ^ 48)

/-- A correction is taken on a core: its elements into DD, its bits into the held bitmap. -/
def State.takeCorr (core : Nat) (sc : Scp) (dd : Desc) (r : CorrRec) (s : State) : State :=
  s.modCore core (fun c =>
    (c.modScope sc.key (fun x => { x with held := unionBits x.held r.val.bits, corrPos := x.corrPos + 1 })).putFront dd r.val.data)

/-- A waiting CORR of a context is served when a correction is held for it. -/
def State.serveCorr (core hid : Nat) (s : State) : State :=
  match s.ctxAt core hid with
  | none => s
  | some c =>
    match c.wait with
    | some (.corr key dd gd _ _) =>
      match s.scopeAt core key.kind.toNat key.word with
      | none => s
      | some sc =>
        match s.undelivered core sc with
        | [] => s
        | r :: _ =>
          ((s.takeCorr core sc dd r).acquireAt sc.rel core hid).wake core hid (fun c => (c.putInt gd (corrStatus r)).done)
    | _ => s

/-- Insert a waiting CORR in the order of the cycles in which they issued. -/
def insCorr (w : Nat × Nat) : List (Nat × Nat) → List (Nat × Nat)
  | [] => [w]
  | x :: t => if w.1 < x.1 then w :: x :: t else x :: insCorr w t

/-- The contexts of a core that wait in CORR, the longest-waiting first. -/
def Core.corrWaiters (c : Core) : List Nat :=
  ((c.ctxs.filterMap (fun x => match x.wait with
    | some (.corr _ _ _ _ since) => some (since, x.hid)
    | _ => none)).foldl (fun l w => insCorr w l) []).map (·.2)

/-- The first `m` corrections reach every core that no relock cuts off, and the waiting CORRs are served. -/
def State.serveFirst (m : Nat) (s : State) : State :=
  let keys := (s.corrLog.take m).foldl (fun (l : List ScopeKey) r => if l.contains r.key then l else l ++ [r.key]) []
  let s := s.allCores.foldl (fun s c => if c.launch.isSome then keys.foldl (fun s k => s.corrsReach m c.id k) s else s) s
  s.allCores.foldl (fun s c => c.corrWaiters.foldl (fun s h => s.serveCorr c.id h) s) s

/-- Corrections reach every core that no relock cuts off. -/
def State.serveCorrs (s : State) : State := s.serveFirst s.corrLog.length

/-! ## Instructions -/

/-- The checks of a collective instruction: those of its descriptors, the extents, the scope word, the unit, the
grant (R287, R308). -/
def State.collective (f : W2) (ops : List Opnd) (ok busy : Bool) (mw : Option Nat) (go : Scp → State → State)
    (s : State) : State :=
  s.checks ops (shapeIf ok) false none (fun s =>
    match s.scopeAt s.co.id f.x2.toNat (if f.x2.toNat = 0 then s.int f.ga else 0) with
    | none => s.trap cScope (s.int f.ga)
    | some sc =>
      let go (s : State) : State := match s.badOperand ops with
        | some n => s.uncorrReg (BitVec.ofNat 64 n)
        | none => go sc s
      if busy then s.accRetry
      else
        match mw with
        | some w => s.underGrant w go
        | none => go s)

/-- BAR (R309): a release at arrival, then a wait for every participant. -/
def execBar (f : W2) (s : State) : Res :=
  .next (s.collective f [] true false none (fun sc s =>
    let k := (s.co.scopeSt sc.key).bars
    let s := s.release sc.rel
    let s := { s with co := s.co.modScope sc.key (fun x => { x with bars := k + 1 }) }
    let r := s.joinRound .bar sc k
    (r.1.takesPart r.2 sc.idx).waitOn 4 (.bar sc.key k) 8))

/-- The operation of RED and the format of DD (R310). -/
def redForm (f : W2) : RedOp × Fmt :=
  match f.cnd.toNat, fmtAt f.fmt.toNat with
  | 0, .bf16 => (.sumB, .f32)
  | 0, .i32 => (.sumI, .i32)
  | 1, _ => (.max, .f32)
  | 2, _ => (.min, .f32)
  | 3, _ => (.or, .n32)
  | _, _ => (.sumF, .f32)

/-- RED and REDX keep the vector unit busy while they read their contribution, whose buffer they have captured (R96, R140, R287). -/
def State.readUnit (t : Fmt) (da : Desc) (s : State) : State :=
  let n := da.count
  { s with co.vop := some { hid := s.cx.hid, fpc := s.cx.pc, flags := 0, pred := none, dest := [],
                            cycles := s.co.cycle + ceilDiv n (lanes (occBits t)), caps := [da.front.toNat],
                            region := s.cx.region, bad := none, reads := true } }

/-- A RED or REDX whose contribution was forwarded before a restart contributes nothing, and its result is free (R451). -/
def State.redDropped (t : Fmt) (dd da : Desc) (s : State) : State :=
  let as := rowBytes dd.foot
  let s := s.readUnit t da
  ({ s with co.store := freeBytes s.picks as s.co.store, picks := s.picks + as.length }).retire 8

/-- The words of a contribution: bf16 is widened to f32 (R310). -/
def contribution (t : Fmt) (d : Desc) (m : Memory) : List W32 :=
  (List.range d.count).map (fun e => BitVec.ofNat 32 (if t = .bf16 then d.at m e * 65536 else d.at m e))

/-- RED (R310): in deterministic mode its deadline is infinite (R158). -/
def execRed (f : W2) (s : State) : Res :=
  let t := fmtAt f.fmt.toNat
  let form := redForm f
  let dd := s.desc f.dd
  let da := s.desc f.da
  let ops := [vdst f.dd form.2, vsrc f.da t]
  .next (s.collective f ops (dd.agrees da && decide (da.count ≤ 4096)) s.co.vop.isSome (some 500) (fun sc s =>
    if s.cx.dropped then s.redDropped t dd da
    else
    let k := (s.co.scopeSt sc.key).reds
    let v : NodeVal :=
      { op := form.1, deadline := if s.lau.det then none else some (s.int f.gd).toNat,
        data := contribution t da s.co.store, bits := [sc.idx] }
    let s := (s.readUnit t da).release sc.rel
    let s := { s with co := s.co.modScope sc.key (fun x => { x with reds := k + 1 }) }
    let s := s.contribute .red sc k v s.co.id
    match if s.rootHeld s.co.id sc then none else s.deliverRed s.co.id k sc dd with
    | some s' => ((s'.observeAll s.co.id s.cx.hid (s.redEffects k sc)).acquire sc.rel).retire 8
    | none => s.waitOn 4 (.red sc.key k dd) 8))

/-- REDX (R158, R311). -/
def execRedx (f : W2) (s : State) : Res :=
  let t := fmtAt f.fmt.toNat
  let dd := s.desc f.dd
  let da := s.desc f.da
  let ops := [vdst f.dd t, vsrc f.da t]
  .next (s.collective f ops (dd.agrees da && decide (da.count ≤ 4096)) s.co.vop.isSome (some 500) (fun sc s =>
    if s.cx.dropped then s.redDropped t dd da
    else
    let k := (s.co.scopeSt sc.key).redxs
    let v : NodeVal := { op := .maxN, deadline := none, data := contribution t da s.co.store, bits := [sc.idx] }
    let s := (s.readUnit t da).release sc.rel
    let s := { s with co := s.co.modScope sc.key (fun x => { x with redxs := k + 1 }) }
    (s.contribute .redx sc k v s.co.id).waitOn 4 (.redx sc.key k dd) 8))

/-- The bitmap words of RSTAT.bm (R313). -/
def bitmapWords (kind c : Nat) (bs : List Nat) : List W32 :=
  let word (q : Nat) : W32 :=
    (List.range 32).foldl (fun w i => if bs.contains (32 * q + i) then w ||| ((1 : W32) <<< i) else w) (0 : W32)
  if kind < 3 then (List.range (ceilDiv c 32)).map word
  else
    let full (j : Nat) : Bool := (List.range (min 128 (c - 128 * j))).all (fun i => bs.contains (128 * j + i))
    let top (q : Nat) : W32 :=
      (List.range 32).foldl (fun w i => if full (32 * q + i) then w ||| ((1 : W32) <<< i) else w) (0 : W32)
    (List.range 4).map top ++
      ((List.range 128).filter (fun j => !full j)).flatMap (fun j => (List.range 4).map (fun q => word (4 * j + q)))

/-- RSTAT (R313). -/
def execRstat (f : W2) (s : State) : Res :=
  let bm := f.minor.toNat % 2 == 1
  let dd := s.desc f.dd
  let ops := if bm then [vdst f.dd .n32] else []
  .next (s.collective f ops true false none (fun sc s =>
    let x := s.co.scopeSt sc.key
    let ws := bitmapWords f.x2.toNat sc.parts x.held
    if bm && decide (dd.count < ws.length) then s.trap cShape s.cx.pc
    else
      let v := match x.heldK with
        | none => 0
        | some k => x.held.length % 2 ^ 31 + 2 ^ 31 + min 16 (s.undelivered s.co.id sc).length * 2 ^ 32 + k % 65536 * 2 ^ 48
      let s := if bm then { s with co := s.co.putFront dd ws } else s
      s.result 8 f.gd (BitVec.ofNat 64 v)))

/-- CORR (R158, R312). -/
def execCorr (f : W2) (s : State) : Res :=
  let dd := s.desc f.dd
  let want : Option Fmt := if dd.fmt = .f32 ∨ dd.fmt = .i32 ∨ dd.fmt = .n32 then none else some .f32
  .next (s.collective f [⟨f.dd.toNat, want, frontLocal, false, true, true, false⟩] true s.co.vop.isSome none (fun sc s =>
    if s.lau.det then s.result 8 f.gd 0
    else
      match s.undelivered s.co.id sc with
      | r :: _ => ((s.takeCorr s.co.id sc dd r).acquire sc.rel).result 8 f.gd (corrStatus r)
      | [] =>
        if s.int f.gd = 0 then s.result 8 f.gd 0
        else s.waitOn 4 (.corr sc.key dd f.gd (s.tick + (s.int f.gd).toNat) s.co.cycle) 8))

/-! ## Events -/

/-- A correction from the root reaches the participants on this module. -/
def State.logCorr (r : CorrRec) (s : State) : State :=
  ({ s with corrLog := s.corrLog ++ [r] }).serveCorrs

/-- A correction reaches the root, which sends it to every participant (R156). -/
def State.rootCorr (r : CorrRec) (s : State) : State :=
  let s := s.logCorr r
  if r.key.kind = 3 then
    let w := s.warById (r.owner / 2)
    let f : FabMsg := { war := w.id, core := r.key.word.toNat, k := r.k, part := 3, level := 0, j := 0, right := false, op := r.val.op.row,
                        deadline := r.val.deadline, data := r.val.data, bits := r.val.bits }
    ((List.range (max 1 w.rec_.fgsize)).filter (· != w.peeridx)).foldl (fun s p => s.emitFab p f) s
  else s

/-- Whether the router of participant `i` of a round belongs to a launch that stands evicted: what it holds is in the launch's image and
is replayed at the restore (R314). -/
def State.asleep (owner : Nat) (key : ScopeKey) (i : Nat) (s : State) : Bool :=
  s.launches.any (fun l => l.state == .evicted && (owner == 2 * l.id || (owner == 2 * l.war + 1 &&
    l.hasIndex (s.warById l.war) (if key.kind = 3 then key.word.toNat else i))))

/-- Whether a message of a tree waits: its path holds a relocking die, or its router's launch stands evicted (R166, R314). -/
def State.treeHeld (m : Msg) (s : State) : Bool :=
  s.pathHeld m.src m.dst || (match m.payload with
    | .node owner rid l j _ _ => s.asleep owner (((s.rounds.find? (·.rid == rid)).map (·.key)).getD ⟨0, 0⟩) (j * 2 ^ l)
    | .correction owner key _ _ => s.asleep owner key 0
    | _ => false)

/-- A message of the tree is taken from the network at its router (R152, R156). -/
def State.treeMessage (m : Msg) (s : State) : State :=
  match m.payload with
  | .node _ rid l j right v =>
    match s.rounds.findIdx? (·.rid == rid) with
    | some i => (s.arriveNode i l j right v).retireRounds
    | none => s
  | .correction owner key k v => s.rootCorr { owner := owner, key := key, k := k, val := v }
  | _ => s

/-- A message of the tree from another module of the fabric group; a value or correction for a router whose launch stands evicted waits
(R314). -/
def State.fabMessage (f : FabMsg) (s : State) : State :=
  let w := s.warById f.war
  let core := s.coreOfIndex w f.core
  let key : ScopeKey := ⟨3, BitVec.ofNat 64 f.core⟩
  let owner := 2 * f.war + 1
  let v : NodeVal := { op := redOpOf f.op, deadline := f.deadline, data := f.data, bits := f.bits }
  let sc : Scp := { owner := owner, key := key, parts := max 1 w.rec_.fgsize, idx := w.peeridx, hop := s.cfg.hopalw,
                    cores := [core], me := some w.peeridx }
  let c : CorrRec := { owner := owner, key := key, k := f.k, val := v }
  let wants (r : Round) : Bool :=
    let n := r.node f.level f.j
    if f.part = 0 then !n.fwd && !(if f.right then n.rightIn else n.leftIn) else r.result.isNone
  let pick (s : State) : Option Nat :=
    (s.findRound owner key .red f.k wants).or (s.findRound owner key .red f.k (fun _ => true))
  let s := match f.part, pick s with
    | 0, none | 1, none =>
      let r := s.joinRound .red sc f.k
      r.1.modRound r.2 (fun r => { r with issued := [] })
    | _, _ => s
  let held (p : Payload) : State := s.send { launch := 0, src := core, srcHid := 65536, dst := core, payload := p }
  let waits := s.asleep owner key w.peeridx
  match f.part, pick s with
  | 0, some i =>
    if waits then held (.node owner ((s.rounds.map (·.rid)).getD i 0) f.level f.j f.right v) else s.arriveNode i f.level f.j f.right v
  | 1, some i => s.modRound i (fun r => { r with result := some v })
  | 2, _ => if waits then held (.correction owner key f.k v) else s.rootCorr c
  | 3, _ => s.logCorr c
  | _, _ => s

/-- RED_NODE_ARRIVAL (R152 to R157): the n-th message, a value or correction of a tree, reaches its router; `ext` is a
message from another module. -/
def execRedNodeArrival (n : Nat) (ext : Option FabMsg) (s : State) : Res :=
  match ext with
  | some f =>
    let w := s.warById f.war
    s.inputOf (s.coreOfIndex w f.core) (.fabric f) (.next (s.fabMessage f))
  | none =>
    match s.net[n]? with
    | none => .next s
    | some m =>
      match m.payload with
      | .node _ _ _ _ _ _ | .correction _ _ _ _ =>
        if s.treeHeld m then .next s
        else .next ((s.forwarded n m).treeMessage m)
      | _ => .next s

/-- RED_NODE_CUTOFF (R153, R314): at the end of the tick of its cutoff a node forwards the children that have arrived; one that cannot,
as its die relocks or its launch stands evicted, forwards after that. -/
def execRedNodeCutoff (round level j : Nat) (s : State) : Res :=
  match s.rounds[round]? with
  | none => .next s
  | some r =>
    let n := r.node level j
    match r.coreOf (j * 2 ^ level) with
    | some c =>
      if n.past s.tick && !s.relocks c && !s.asleep r.owner r.key (j * 2 ^ level) then .next (s.forward round level j) else .next s
    | none => .next s

/-- RED_RESULT_DELIVERY (R101, R155, R310): the held result completes a waiting RED. -/
def execRedResultDelivery (core hid : Nat) (s : State) : Res :=
  match s.ctxAt core hid with
  | none => .next s
  | some c =>
    match c.wait with
    | some (.red key k dd) =>
      match s.scopeAt core key.kind.toNat key.word with
      | none => .next s
      | some sc =>
        if s.rootHeld core sc then .next s
        else
          match s.deliverRed core k sc dd with
          | none => .next s
          | some s' => .next (((s'.observeAll core hid (s.redEffects k sc)).acquireAt sc.rel core hid).wake core hid Ctx.done)
    | _ => .next s

/-- CORR_TIMEOUT (R312, R356). -/
def execCorrTimeout (core hid : Nat) (s : State) : Res :=
  match s.ctxAt core hid with
  | none => .next s
  | some c =>
    match c.wait with
    | some (.corr _ _ gd till _) =>
      if till ≤ s.tick then .next (s.wake core hid (fun c => (c.putInt gd 0).done)) else .next s
    | _ => .next s

/-- BAR_RELEASE (R100, R309): every participant has arrived; one waiting participant goes on. -/
def execBarRelease (core hid : Nat) (s : State) : Res :=
  match s.ctxAt core hid with
  | none => .next s
  | some c =>
    match c.wait with
    | some (.bar key k) =>
      match s.scopeAt core key.kind.toNat key.word with
      | none => .next s
      | some sc =>
        match s.findRound sc.owner sc.key .bar k (fun r => !r.taken.contains sc.idx) with
        | none => .next s
        | some i =>
          if s.rootHeld core sc || decide ((s.rounds.getD i Round.zero).issued.length < sc.parts) then .next s
          else
            let es := s.roundEffects i (fun _ => true)
            .next ((((s.takeRound i sc.idx).observeAll core hid es).acquireAt sc.rel core hid).wake core hid Ctx.done)
    | _ => .next s

/-- REDX_RELEASE (R100, R158, R311): the agreed maximum reaches a waiting participant. -/
def execRedxRelease (core hid : Nat) (s : State) : Res :=
  match s.ctxAt core hid with
  | none => .next s
  | some c =>
    match c.wait with
    | some (.redx key k dd) =>
      match s.scopeAt core key.kind.toNat key.word with
      | none => .next s
      | some sc =>
        match s.resultFor .redx sc k with
        | none => .next s
        | some r =>
          if s.rootHeld core sc then .next s
          else
            let es := s.roundEffects r.1 (fun _ => true)
            let s := s.modCore core (Core.putFront dd r.2.data)
            .next ((((s.takeRound r.1 sc.idx).observeAll core hid es).acquireAt sc.rel core hid).wake core hid Ctx.done)
    | _ => .next s

end Sys2Proof.Machine
end

