-- ==== Sys2Proof/Machine/Launching.lean ====
section
/-! DEFINITION. Launches: the launch block and its checks, placement and acceptance, the start on each core (R23 to
R33, R164, R332, R395), and the agreement of the two copies of a checked launch (R449 to R452). -/

namespace Sys2Proof.Machine

open Sys2Proof

/-! ## Handles (R345) -/

/-- The handle index that a handle's cursor holds (R343). -/
def handleIx (v : W128) : Nat := v.toNat % 2 ^ 64 / 256

/-- The warrant that a handle index names to warrant `by_`: its own, or one that it presented or split (R345). -/
def State.handleWar (by_ ix : Nat) (s : State) : Option Warrant :=
  s.wars.find? (fun w => w.hix == ix && (w.id == by_ || w.holder == some by_))

/-- The checks of R345 on the handle in g[a]; `live` adds the check of LAUNCH and WDELEG. -/
def State.withHandle (a : Reg) (live : Bool) (go : Nat → State → State) (s : State) : State :=
  if !s.gtag a then s.trap cTag (s.int a)
  else if capOtype (s.g a).toNat ≠ 10 then s.trap cSeal (s.int a)
  else
    match s.handleWar s.lau.war (handleIx (s.g a)) with
    | none => s.trap cWarrant (s.int a)
    | some w => if live && (w.code.isSome || w.consumed) then s.trap cWarrant (s.int a) else go w.id s

/-! ## The launch block (R332) -/

/-- A launch block. -/
structure LBlock where
  x0 : Nat
  y0 : Nat
  width : Nat
  height : Nat
  rect : Word
  entry : Word
  ctrl : Nat
  depcore : Word
  depoff : Nat
  fetch : Word
  work : Word
  stow : Word
  kwords : List W32
  deriving DecidableEq, Repr

/-- The n-th 64-bit field of a byte string. -/
def le64 (bs : List Byte) (n : Nat) : Nat := leNat ((bs.drop (8 * n)).take 8)

/-- The block that 1024 bytes hold. -/
def LBlock.ofBytes (bs : List Byte) : LBlock :=
  let r := le64 bs 0
  { x0 := r % 65536, y0 := r / 2 ^ 16 % 65536, width := r / 2 ^ 32 % 65536, height := r / 2 ^ 48 % 65536,
    rect := BitVec.ofNat 64 r, entry := BitVec.ofNat 64 (le64 bs 1), ctrl := le64 bs 2,
    depcore := BitVec.ofNat 64 (le64 bs 3), depoff := le64 bs 4, fetch := BitVec.ofNat 64 (le64 bs 5),
    work := BitVec.ofNat 64 (le64 bs 6), stow := BitVec.ofNat 64 (le64 bs 7),
    kwords := (List.range 240).map (fun i => BitVec.ofNat 32 (leNat ((bs.drop (64 + 4 * i)).take 4))) }

/-- The window word of a block. -/
def LBlock.window (b : LBlock) : Nat := b.ctrl / 2 ^ 16
/-- Whether a reserved bit of a block is nonzero. -/
def LBlock.reserved (b : LBlock) : Bool := b.ctrl / 8 % 2 != 0 || b.ctrl / 64 % 2 ^ 10 != 0 || b.depoff / 2 ^ 20 % 2 ^ 43 != 0
/-- CHECKED of a block. -/
def LBlock.checked (b : LBlock) : Bool := bit b.ctrl 2
/-- The first misaligned entry of a block. -/
def LBlock.misaligned (b : LBlock) : Option Word := [b.entry, b.fetch, b.work, b.stow].find? (fun e => e.toNat % 4 != 0)
/-- Whether a rectangle fits a warrant's rectangle (R24). -/
def Warrant.fits (w : Warrant) (x y wd h : Nat) : Bool :=
  decide (1 ≤ wd) && decide (1 ≤ h) && decide (x + wd ≤ w.rec_.width) && decide (y + h ≤ w.rec_.height)

/-- Whether two dies are distinct and share no edge (4 × 2 dies, R2). -/
def diesApart (a b : Nat) : Bool :=
  a != b && !(a / 4 == b / 4 && (a % 4 + 1 == b % 4 || b % 4 + 1 == a % 4)) && !(a % 4 == b % 4 && a / 4 != b / 4)

/-- The dies of a rectangle given by its mesh origin. -/
def rectDies (x y wd h : Nat) : List Nat :=
  (List.range 8).filter (fun d =>
    decide (d % 4 * 16 < x + wd) && decide (x < d % 4 * 16 + 16) && decide (d / 4 * 16 < y + h) && decide (y < d / 4 * 16 + 16))

/-- The origins, in the warrant's coordinates, at which the mirror of a checked launch fits (R27). -/
def mirrorOrigins (w : Warrant) (b : LBlock) : List (Nat × Nat) :=
  let own := rectDies (w.x0 + b.x0) (w.y0 + b.y0) b.width b.height
  ((List.range (w.rec_.width * w.rec_.height)).map (fun i => (i % w.rec_.width, i / w.rec_.width))).filter (fun p =>
    w.fits p.1 p.2 b.width b.height &&
    (rectDies (w.x0 + p.1) (w.y0 + p.2) b.width b.height).all (fun d => own.all (diesApart d)))

/-- Whether a core lies in a warrant's rectangle. -/
def Warrant.has (w : Warrant) (core : Nat) : Bool :=
  decide (w.x0 ≤ core % 64) && decide (core % 64 < w.x0 + w.rec_.width) &&
    decide (w.y0 ≤ core / 64) && decide (core / 64 < w.y0 + w.rec_.height)

/-- Whether a rectangle of a warrant's coordinates holds a core that has passed to a child of it, which its launches no longer have
(R24, R346). -/
def State.givenAway (w : Warrant) (x y wd h : Nat) (s : State) : Bool :=
  s.wars.any (fun k => k.child && k.parentW == some w.id && (k.code.isNone || k.consumed) &&
    (blockCores (w.x0 + x) (w.y0 + y) wd h).any k.has)

/-- The origins of the mirror of a checked launch that hold no core of a child (R27, R346). -/
def State.mirrorsOf (w : Warrant) (b : LBlock) (s : State) : List (Nat × Nat) :=
  (mirrorOrigins w b).filter (fun p => !s.givenAway w p.1 p.2 b.width b.height)

/-- The checks of LAUNCH on its block in the order of R332: the cause and st.tval of the first that fails. `enc` is the tval
of an encoding trap, `cursor` the handle's cursor. -/
def State.blockErr (wid : Nat) (b : LBlock) (enc cursor : Word) (s : State) : Option (BitVec 16 × Word) :=
  let w := s.warById wid
  if b.reserved then some (cEncReserved, enc)
  else
    match b.misaligned with
    | some e => some (cAlign, e)
    | none =>
      if !w.fits b.x0 b.y0 b.width b.height || s.givenAway w b.x0 b.y0 b.width b.height ||
          (b.checked && (s.mirrorsOf w b).isEmpty) then some (cScope, b.rect)
      else if bit b.depoff 63 && !(decide (b.depcore.toNat / 2 ^ 32 = 0) && decide (b.depcore.toNat % 65536 < w.rec_.width) &&
          decide (b.depcore.toNat / 65536 < w.rec_.height)) then some (cScope, b.depcore)
      else
        let g := groupOf (s.spaceById w.space) b.entry
        if bits b.ctrl 5 4 ≠ w.rec_.cls || (g.any (fun g => g.cls.any (· != bits b.ctrl 5 4))) then some (cWarrant, cursor)
        else if !windowLegal b.window then some (cWindow, BitVec.ofNat 64 b.window)
        else none

/-! ## Placement -/

/-- The launch that a block describes, of warrant `wid` at origin (x, y) of its rectangle. -/
def State.launchOf (wid : Nat) (b : LBlock) (id x y : Nat) (s : State) : Launch :=
  let w := s.warById wid
  { Launch.zero with
    id := id, war := wid, lseq := w.lseqNext, ox := x, oy := y, px := w.x0 + x, py := w.y0 + y, width := b.width,
    height := b.height, entry := b.entry, det := bit b.ctrl 0, pinned := bit b.ctrl 1, checked := b.checked,
    cls := bits b.ctrl 5 4, wbase := BitVec.ofNat 20 b.window, wsize := BitVec.ofNat 4 (b.window / 2 ^ 32),
    dep := if bit b.depoff 63 then
        some ((w.x0 + b.depcore.toNat % 65536) + 64 * (w.y0 + b.depcore.toNat / 65536), b.depoff % 2 ^ 20 / 4 * 4)
      else none,
    fetch := b.fetch, work := b.work, stow := b.stow, kwords := b.kwords, state := .waiting,
    tick := BitVec.ofNat 64 s.tick }

/-- A launch enters the module: its identifier; a checked launch brings its mirror (R27, R28). -/
def State.addLaunch (wid : Nat) (b : LBlock) (conn : Option (Nat × Word)) (s : State) : State × Nat :=
  let id := s.nextId
  let l : Launch := { s.launchOf wid b id b.x0 b.y0 with conn := conn }
  let ms := s.mirrorsOf (s.warById wid) b
  let m := ms.getD (Config.placePick s.picks % max 1 ms.length) (0, 0)
  let l2 : List Launch :=
    if b.checked then [{ s.launchOf wid b (id + 1) m.1 m.2 with mirror := true, mirrorOf := some id }] else []
  let s' := s.modWar wid (fun w => { w with lseqNext := w.lseqNext + 1 })
  (({ s' with
    launches := s'.launches ++ (l :: l2), nextId := id + 2,
    picks := if b.checked then s'.picks + 1 else s'.picks }).noteEvicted wid, id)

/-- The 1024 bytes of the context's window from `o` on, each address wrapping (R73). -/
def State.windowBytes (s : State) (o : Word) (n : Nat) : List Byte :=
  (List.range n).map (fun i => Memory.read s.co.store (localAddr s.cx.wbase s.cx.wsize (o + BitVec.ofNat 64 i) 1))

/-- LAUNCH (R332). -/
def execLaunch (d a b : Reg) (s : State) : Res :=
  .next (s.control (fun s => s.withHandle a true (fun wid s =>
    let blk := LBlock.ofBytes (s.windowBytes (s.int b &&& ~~~63) 1024)
    match s.blockErr wid blk (decTval (s.space.iword s.cx.pc.toNat) 0) (s.int a) with
    | some (c, t) => s.trap c t
    | none =>
      let (s, id) := (s.release 2).addLaunch wid blk none
      s.waitOn 1 (.launch d id) 4)))

/-! ## Acceptance (R28, R29, R164, R332, R395) -/

/-- The launch and its mirror. -/
def State.pair (lid : Nat) (s : State) : List Launch := s.launches.filter (fun l => l.id == lid || l.mirrorOf == some lid)

/-- The full-core weight of a core at its die's multiplier (R159, R444). -/
def State.fullOf (core : Nat) (s : State) : Nat := weightAt (s.multOf core) fullMw

/-- What a core start charges: the full-core weight less the present grant (R444). -/
def State.startCost (core : Nat) (s : State) : Nat := s.fullOf core - (s.coreAt core).grant

/-- Whether the dependence word of a launch is full, or it names none (R29); a core that holds nothing of the space has no full
word for it (R72). -/
def State.depFull (l : Launch) (s : State) : Bool :=
  match l.dep with
  | none => true
  | some (c, off) => (s.coreAt c).owner == (s.warById l.war).space && (s.coreAt c).full.contains off

/-- Whether an earlier launch of the same warrant has not yet reached the governor (R28): it is not yet accepted, or its dependence word
is not full. -/
def State.blockedBy (l : Launch) (s : State) : Bool :=
  s.launches.any (fun x => x.war == l.war && decide (x.id < l.id) && x.mirrorOf.isNone && x.state != .done &&
    some x.id != l.mirrorOf && (x.state == .waiting || (x.dep.isSome && !s.depFull x)))

/-- Whether a launch may reach the governor now. -/
def State.atGovernor (l : Launch) (s : State) : Bool := s.depFull l && !s.blockedBy l

/-- LAUNCHED (R393, R395). -/
def launchedBody (code : BitVec 8) (detail : BitVec 16) (lseq : Nat) : List Byte :=
  [code, 0] ++ leBytes 2 detail.toNat ++ leBytes 4 lseq

/-- The destination of a LAUNCH in which a context waits for launch `lid`. -/
def Ctx.launches (lid : Nat) (c : Ctx) : Option Reg :=
  match c.wait with
  | some (.launch rd l) => if l = lid then some rd else none
  | _ => none

/-- The context that waits in LAUNCH for a launch. -/
def State.launchWaiter (lid : Nat) (s : State) : Option (Nat × Reg) :=
  s.allCores.findSome? (fun c => c.ctxs.findSome? (fun x => (x.launches lid).map (fun rd => (c.id, rd))))

/-- The answer to LAUNCH reaches a context of an image, whose launch stands evicted: LSEQ, or the trap RAMP at its instruction; none where the
trap has no handler. -/
def Ctx.launched (lid lseq : Nat) (ok : Bool) (tick : Nat) (c : Ctx) : Option Ctx :=
  match c.launches lid with
  | none => some c
  | some rd =>
    if ok then some ((c.putInt rd (BitVec.ofNat 64 lseq)).done.wakeUp tick)
    else (c.wakeUp tick).trapped cRamp c.pc c.pc

/-- The answer to LAUNCH finds its context in the image of an evicted launch. -/
def State.answerImage (lid lseq : Nat) (ok : Bool) (s : State) : State :=
  match s.launches.find? (fun x => x.state == .evicted && x.image.any (fun c => c.ctxs.any (fun y => (y.launches lid).isSome))) with
  | none => s
  | some x =>
    if x.image.all (fun c => c.ctxs.all (fun y => (y.launched lid lseq ok s.tick).isSome)) then
      s.modLaunch x.id (fun x => { x with
        image := x.image.map (fun c => { c with ctxs := c.ctxs.filterMap (Ctx.launched lid lseq ok s.tick) }) })
    else s.terminate x.war (trapCode cRamp)

/-- The answer to LAUNCH reaches the context that waits: LSEQ, or the trap RAMP at its instruction. -/
def State.answerWaiter (lid lseq : Nat) (ok : Bool) (s : State) : State :=
  match s.launchWaiter lid with
  | none => s.answerImage lid lseq ok
  | some (core, rd) =>
    if s.relocks core then s.atInput (dieOf core) (.launched lid lseq ok)
    else if ok then s.wake core 0 (fun c => (c.putInt rd (BitVec.ofNat 64 lseq)).done)
    else
      let s := (s.wake core 0 (fun c => c)).focusCtx core 0
      s.trap cRamp s.cx.pc

/-- The answer to LAUNCH or to a LAUNCH message: LSEQ, or the refusal with RAMP. -/
def State.answerLaunch (l : Launch) (ok : Bool) (s : State) : State :=
  match l.conn with
  | some (conn, tag) =>
    s.emit conn 0x83 tag (if ok then launchedBody 0 0 l.lseq else launchedBody codeRamp 0 0)
  | none => s.answerWaiter l.id l.lseq ok

/-- A launch that was refused leaves no trace; its number is given again when no later launch holds the next. -/
def State.dropLaunch (l : Launch) (s : State) : State :=
  let s := { s with launches := s.launches.filter (fun x => x.id != l.id && x.mirrorOf != some l.id) }
  s.modWar l.war (fun w => if w.lseqNext = l.lseq + 1 then { w with lseqNext := l.lseq } else w)

/-- The cores of a launch and its mirror. -/
def State.pairCores (lid : Nat) (s : State) : List Nat := (s.pair lid).flatMap Launch.cores

/-- The starts of a pinned launch are claimed at once. -/
def State.claimStarts (lid need : Nat) (s : State) : State :=
  let cs := s.pairCores lid
  let s := cs.foldl (fun s c => let f := s.fullOf c; s.modCore c (fun k => { k with grant := max k.grant f })) s
  { s with
    gov.upLeft := s.gov.upLeft - need,
    launches := s.launches.map (fun (l : Launch) => if l.id == lid || l.mirrorOf == some lid then { l with granted := l.cores, dep := none } else l) }

/-- The leaf controllers hold a launch and its mirror as accepted. -/
def State.setAccepted (lid : Nat) (s : State) : State :=
  { s with launches := s.launches.map (fun (l : Launch) => if l.id == lid || l.mirrorOf == some lid then { l with state := .accepted } else l) }

/-- Whether a switch quiesces a controller: leaf 0 to 7 or hub 8 (R421). -/
def State.quiesced (c : Nat) (s : State) : Bool := (s.ctrls.getD c Ctrl.reset).quiet.any (fun t => decide (s.tick < t))

/-- Whether a leaf of a core of a list is quiesced: launches and evictions that touch its die wait (R422). -/
def State.leafQuiet (cs : List Nat) (s : State) : Bool := cs.any (fun c => s.quiesced (dieOf c))

/-- LAUNCH_ACCEPTANCE (R332, R395): the leaf controllers accept a launch; the starts of a pinned launch are claimed first,
once its dependence word is full, or refused. -/
def execLaunchAcceptance (lid : Nat) (s : State) : Res :=
  let l := s.launchById lid
  if l.id ≠ lid ∨ l.state ≠ .waiting ∨ l.mirrorOf.isSome ∨ s.leafQuiet (s.pairCores lid) then .next s
  else if !l.pinned then .next ((s.setAccepted lid).answerLaunch l true)
  else if !s.atGovernor l then .next s
  else
    let need := ((s.pairCores lid).map (fun c => s.startCost c)).sum
    if need ≤ s.gov.upLeft then .next (((s.claimStarts lid need).setAccepted lid).answerLaunch l true)
    else .next ((s.dropLaunch l).answerLaunch l false)

/-! ## Start (R28, R30, R31, R58, R61) -/

/-- Whether a warrant of class RESERVED or SHARED holds a core (R58); a child that WDELEG consumed has left its cores. -/
def State.heldCore (core : Nat) (s : State) : Bool :=
  s.wars.any (fun w => w.code.isNone && !w.child && decide (w.rec_.cls ≠ 2) && w.has core &&
    !s.wars.any (fun c => c.consumed && c.parentW == some w.id && c.has core))

/-- Whether the cores of a STANDBY launch are free for it: no RESERVED or SHARED warrant holds one, and no other STANDBY launch
that came first stands on one (R58, R61). Every other launch holds its cores. -/
def State.clearFor (l : Launch) (s : State) : Bool :=
  l.cls != 2 || l.cores.all (fun c => !s.heldCore c &&
    s.launches.all (fun x => x.war == l.war || x.state != .accepted || !x.has c || x.ended.contains c ||
      decide (l.id < x.id) && x.granted.isEmpty))

/-- Whether no earlier launch runs on a core, and no operation of one is in flight there (R30, R288, R294). -/
def Core.idleFor (c : Core) : Bool := c.launch.isNone && c.vop.isNone && c.mop.isNone && c.pumpq.isEmpty && c.mmr.isEmpty

/-- CORE_START (R28, R31, R58): a core whose start the governor has granted runs the start steps, then the messages that its
router held are performed (R234). A STANDBY launch does not start on cores that a claim has taken since. -/
def execCoreStart (lid core : Nat) (s : State) : Res :=
  let l := s.launchById lid
  if l.id = lid ∧ l.state = .accepted ∧ !l.halted ∧ s.gov.resetTill.isNone ∧ l.granted.contains core ∧ !l.started.contains core ∧ (s.coreAt core).idleFor ∧
      (l.cls ≠ 2 ∨ l.cores.all (fun c => !s.heldCore c)) ∧ !s.leafQuiet l.cores then
    let s := if l.started.isEmpty then s.modLaunch lid (fun l => { l with tick := BitVec.ofNat 64 s.tick }) else s
    .next ((s.startCore lid core).performHeld core)
  else .next s

/-! ## Checked dispatch (R450 to R452) -/

/-- The other core of a checked pair, for a core of one of the two rectangles. -/
def State.partner (core : Nat) (s : State) : Option Nat :=
  let l := s.launchOn (s.coreAt core)
  let o := if l.mirror then l.mirrorOf else (s.launches.find? (fun x => x.mirrorOf == some l.id)).map (·.id)
  o.map (fun i => (s.launchById i).coreAt (l.xrel core) (l.yrel core))

/-- The hash that a context's held message carries. -/
def Ctx.heldHash (c : Ctx) : Option (Word × Nat) :=
  match c.wait with
  | some (.check h t) => some (h, t)
  | _ => none

/-- Both copies agree on the message: it is forwarded. -/
def Ctx.agree (h : Word) (c : Ctx) : Ctx := { c with agreed := true, sent := c.sent + 1, hashes := c.hashes ++ [h] }

/-- An MMR's descriptors return to ready (R138, R296). -/
def Core.mmrReady (o : MmrOp) (c : Core) : Core :=
  let rdy (d : Desc) : Desc := if d.state = .filling then { d with state := .ready } else d
  (c.modDesc o.da rdy).modDesc o.db rdy

/-- The vector operation of a context that `p` names is abandoned: its destination is undefined. -/
def State.abandonVop (p : Nat → Bool) (s : State) : State :=
  match s.co.vop with
  | some v => if p v.hid then
      { s with co.store := freeBytes s.picks v.dest s.co.store, picks := s.picks + v.dest.length, co.vop := none } else s
  | none => s

/-- The matrix operation of a context that `p` names is abandoned: what it would have written is undefined. -/
def State.abandonMop (p : Nat → Bool) (s : State) : State :=
  match s.co.mop with
  | some m => if p m.hid then
      { s with
        co.acc := freeTile s.picks (m.writes.map (fun (x : Nat × W32) => x.1)) s.co.acc,
        picks := s.picks + m.writes.length + m.dest.length,
        co.store := freeBytes (s.picks + m.writes.length) m.dest s.co.store, co.mop := none } else s
  | none => s

/-- The MMRs of contexts that `p` names are abandoned; the MMRs that issue next take their numbers (R295, R296). -/
def State.abandonMmrs (p : Nat → Bool) (s : State) : State :=
  let l := s.co.mmr.filter (fun (o : MmrOp) => p o.hid)
  let co := l.foldl (fun (c : Core) (o : MmrOp) => c.mmrReady o) s.co
  let s := { s with co := { co with mmr := co.mmr.filter (fun (o : MmrOp) => !p o.hid), mmrs := co.mmrs - l.length } }
  l.foldl (fun (s : State) (o : MmrOp) => s.sendAgain s.co.id o.hid o.msg) s

/-- The pump operations of contexts that `p` names are abandoned. -/
def State.abandonPump (p : Nat → Bool) (s : State) : State :=
  let s := (s.co.pumpq.filter (fun (o : PumpOp) => p o.hid)).foldl (fun (s : State) (o : PumpOp) =>
    let s := s.pumpUndefined o
    let co := s.co.unmark o
    { s with co := co }) s
  { s with co.pumpq := s.co.pumpq.filter (fun (o : PumpOp) => !p o.hid) }

/-- The long operations of the contexts of core `id` that `p` names are abandoned (R59, step 2): what they would have written is
undefined, a descriptor left filling or draining returns to the state it held at issue. -/
def State.abandonOps (id : Nat) (p : Nat → Bool) (s : State) : State :=
  let s := ((((s.focusCore id).abandonVop p).abandonMop p).abandonMmrs p).abandonPump p
  (List.range 64).foldl (fun s d => s.descReady id d) s

/-- The wait of context `hid` of core `id` ends without effect, and the context is ready again, in the queue if it has no slot (R49, R56,
R451). -/
def State.dropWait (id hid : Nat) (s : State) : State :=
  let s := s.withdraw id hid
  (s.modCore id (fun k => { k with waiters := k.waiters.filter (fun w => !(w.own && w.hid == hid)) })).wake id hid (fun c => c)

/-- Whether a context waits for a reply that its primary copy is to give (R449). -/
def Ctx.awaitsPrimary (c : Ctx) : Bool :=
  match c.wait with
  | some (.mirror _ _) => true
  | _ => false

/-- A mismatch at one copy (R56, R451, R452): the copy restarts at its region entry, or traps CHECK when it has not passed a REGION
since its last restart. The wait on its held message, and a wait that can be abandoned, ends; every other wait completes first. DEDUCED (log
47): a mirror's wait for the primary's reply, which may not come, ends as well. -/
def State.mismatchAt (id hid : Nat) (again : Bool) (s : State) : State :=
  let s := s.abandonOps id (· == hid)
  match s.ctxAt id hid with
  | none => s
  | some c =>
    let again' (c : Ctx) : Ctx := { c with pend := some { cause := cCheck, tval := c.pc, fpc := c.pc } }
    let restart (c : Ctx) : Ctx := { c.restart with rewind := true }
    let ends := c.heldHash.isSome || c.awaitsPrimary || s.canAbandon id c
    let s := if ends then s.dropWait id hid else s
    if !again then s.modCtx id hid restart
    else if c.wait.isSome && !ends then s.modCtx id hid again'
    else
      let s := s.focusCtx id hid
      (s.trap cCheck s.cx.pc).modCore id (fun k => { k with
        promoted := delNat k.promoted hid, woken := delNat k.woken hid, started := delNat k.started hid })

/-- A mismatch of a pair is counted and both copies restart or trap; what the primary has loaded since its region entry is loaded again (R449, R451,
R452, R455). -/
def State.mismatch (p m hid : Nat) (s : State) : State :=
  let again := ((s.ctxAt p hid).any (·.restarted)) || ((s.ctxAt m hid).any (·.restarted))
  let l := s.launchOn (s.coreAt p)
  let n := ((s.ctxAt p hid).map (·.loads0)).getD 0
  let s := (s.countSensor 0x42).modLaunch l.id (fun x => { x with
    replies := x.replies.filter (fun q => !(q.isOf (l.xrel p) (l.yrel p) hid && decide (n ≤ q.n))) })
  (s.mismatchAt p hid again).mismatchAt m hid again

/-- Whether a context's held message is one that was forwarded before a restart, whose kept hash it does not match (R451). -/
def State.resentWrong (core hid : Nat) (s : State) : Bool := (s.ctxAt core hid).any (fun c => decide (c.sent < c.hashes.length))

/-- CHECKED_HASH_ARRIVAL (R450, R451): the mirror's hash reaches the router of the primary core, where the primary's message is
held; `differs` says that an error changed what a copy sends. -/
def execCheckedHashArrival (core hid : Nat) (differs : Bool) (s : State) : Res :=
  s.inputOf core (.hash core hid differs) <|
  match s.partner core with
  | none => .next s
  | some m =>
    match (s.ctxAt core hid).bind Ctx.heldHash, (s.ctxAt m hid).bind Ctx.heldHash with
    | some (h, _), some (k, _) =>
      if h = k && !differs && !s.resentWrong core hid && !s.resentWrong m hid then .next ((s.wake core hid (Ctx.agree h)).wake m hid (Ctx.agree h))
      else .next (s.mismatch core m hid)
    | _, _ => .next s

/-- CHECKED_HASH_TIMEOUT (R450): a mirror hash that has not arrived within 10,000 ticks counts as a mismatch. -/
def execCheckedHashTimeout (core hid : Nat) (s : State) : Res :=
  match s.partner core, (s.ctxAt core hid).bind Ctx.heldHash with
  | some m, some (_, till) => if till ≤ s.tick then .next (s.mismatch core m hid) else .next s
  | _, _ => .next s

end Sys2Proof.Machine
end

