-- ==== Sys2Proof/Machine/Governor.lean ====
section
/-! DEFINITION. The surge governor at its window boundaries (R159 to R166, R315, R440 to R445). Power is counted in 1/2048 mW. -/

namespace Sys2Proof.Machine

open Sys2Proof

/-! ## Registers (R443) -/

/-- A field limited to its range. -/
def within (lo hi v : Nat) : Nat := max lo (min hi v)

/-- Change one die. -/
def State.modDie (d : Nat) (f : DieSt → DieSt) (s : State) : State := { s with dies := s.dies.modify d f }

/-- A governor register takes a written value (R443): a field outside its range takes the nearest bound. -/
def State.govWrite (off : Nat) (v : W32) (s : State) : State :=
  let n := v.toNat
  if off = 0 then { s with gov.ldown := within 50 1000 (bits n 25 16), gov.lup := within 50 1000 (bits n 9 0) }
  else if off = 4 then { s with gov.tthr := within 70 105 (bits n 31 24), gov.ecap := within 1000 8448 (bits n 13 0) }
  else if 0x10 ≤ off ∧ off < 0x30 ∧ off % 4 = 0 then s.modDie ((off - 0x10) / 4) (fun d => { d with tgt := within 10 20 (bits n 4 0) })
  else s

/-- The writes of the last window take effect in order (R443). -/
def State.govWrites (s : State) : State :=
  let l := s.gov.writes
  l.foldl (fun s p => s.govWrite p.1 p.2) { s with gov.writes := [] }

/-! ## The window that ends (R159) -/

/-- Every core's counts reach the boundary at tick `b` (R34, R167). -/
def State.reachAll (b : Nat) (s : State) : State :=
  (s.allCores.map (fun c => c.id)).foldl (fun s id =>
    let s := s.focusCore id
    if s.relocks id then s
    else
      let n := s.co.cycBase + s.mult * (b - s.co.cycTick)
      if n ≤ s.co.cycle then s else s.reach n) s

/-- The estimate of the window that ends, times 25: the mean weight of every core, ballast and routers included. -/
def State.estimate25 (s : State) : Nat := 32 * ((s.allCores.map (fun c => c.weightSum + c.balSum)).sum + 200 * s.gov.routed)

/-- EST and OVER of GVSTAT (R443). -/
def State.govEstimate (s : State) : State :=
  let e := s.estimate25
  { s with
    gov.est := min 0x3FFF (e / (25 * 2048 * 1000)),
    gov.overCnt := if e > s.gov.ecap * 1000 * 2048 * 25 then min 255 (s.gov.overCnt + 1) else 0 }

/-- The numeric sensors that are updated at tick `b` (R455): the estimate and the supply power each 1 ms, the HBM temperatures each 10 ms, the
scrub progress each 1 s. DESIGN CHOICE (log 84): what a sensor measures is a free value. -/
def State.sampleSensors (b : Nat) (s : State) : State :=
  let due (n : Nat) (l : List (Nat × Nat)) : List (Nat × Nat) := if b % n = 0 then l else []
  let l := due 100000 [(0x30, s.gov.est), (0x31, Config.sensorReading 0x31 b)] ++
    due 1000000 ((List.range 24).map (fun i => (0x10 + i, Config.sensorReading (0x10 + i) b))) ++
    due 100000000 [(0x44, Config.sensorReading 0x44 b % 10001)]
  { s with sensors := l.foldl (fun t p => Tab.set 0 t p.1 p.2) s.sensors }

/-- Whether the declaration of a core has begun by tick `b` (R165). -/
def Core.begun (b : Nat) (c : Core) : Bool := c.gramp.any (fun g => decide (g.start ≤ b))

/-- The gap of a core times 25 (R163): its grant less its mean weight without ballast. -/
def Core.gap25 (b : Nat) (c : Core) : Nat := if c.begun b then 0 else c.grant * 25 - c.weightSum * 32

/-- Every gapped core's grant falls by its share (R163). -/
def State.decay (b : Nat) (s : State) : State × Nat :=
  let g := (s.allCores.map (Core.gap25 b)).sum
  let down := s.gov.ldown * 1000 * 2048
  let p := min (down * 25) g
  let fall (c : Core) : Nat := if g = 0 then 0 else p * c.gap25 b / (g * 25 * 2048) * 2048
  let total := (s.allCores.map fall).sum
  let f (c : Core) : Core := { c with grant := c.grant - fall c }
  ({ s with co := f s.co, cores := s.cores.map f }, down - total)

/-! ## The headroom of the boundary (R162) -/

/-- Insert a declaration's core in the order declared. -/
def insDecl (c : Nat × Nat) : List (Nat × Nat) → List (Nat × Nat)
  | [] => [c]
  | x :: t => if c.2 < x.2 then c :: x :: t else x :: insDecl c t

/-- The cores whose declarations have begun, in the order declared. -/
def State.declared (b : Nat) (s : State) : List Nat :=
  ((s.allCores.filterMap (fun c => match c.gramp with
    | some g => if g.start ≤ b then some (c.id, g.seq) else none
    | none => none)).foldl (fun l c => insDecl c l) []).map (·.1)

/-- A core's rise under its declaration (R165): by Lup' until it stands x above its first value or is full. -/
def State.rise (core : Nat) (s : State) : Nat :=
  let c := s.coreAt core
  match c.gramp with
  | none => 0
  | some g => min (s.gov.lup * 1000) (min (s.fullOf core) (g.base.getD c.grant + g.x * 2048) - c.grant)

/-- Step 1 of R162: none when too little headroom remains. -/
def State.spendDecls (b : Nat) (s : State) (up : Nat) : State × Option Nat :=
  (s.declared b).foldl (fun (p : State × Option Nat) c =>
    match p.2 with
    | none => p
    | some up =>
      let s := p.1.modCore c (fun k => { k with gramp := k.gramp.map (fun g => { g with base := some (g.base.getD k.grant) }) })
      let r := s.rise c
      if r ≤ up then (s.modCore c (fun k => { k with grant := k.grant + r }), some (up - r)) else (s, none)) (s, some up)

/-- Launches whose dependence word is full reach the governor (R28, R29). -/
def State.openLaunches (s : State) : State :=
  s.launches.foldl (fun (s : State) (l : Launch) =>
    if l.state = .accepted ∧ s.atGovernor (s.launchById l.id) then s.modLaunch l.id (fun l => { l with dep := none }) else s) s

/-- Whether an earlier launch still runs on a core, or will before this one, as one that stands evicted will (R30). -/
def State.earlierOn (l : Launch) (core : Nat) (s : State) : Bool :=
  s.launches.any (fun x => decide (x.id < l.id) && (x.state == .accepted || x.state == .evicted) && x.has core && !x.ended.contains core)

/-- The starts that wait for ramp slots, in launch order (R162). -/
def State.waitingStarts (s : State) : List (Nat × Nat) :=
  (s.launches.filter (fun l => l.state == .accepted && !l.halted && l.dep.isNone && s.atGovernor l && s.clearFor l)).flatMap (fun l =>
    (l.cores.filter (fun c => !l.granted.contains c && !l.started.contains c && !s.earlierOn l c)).map (fun c => (l.id, c)))

/-- Step 2 of R162: each start raises a grant to the full-core weight. -/
def State.spendStarts (s : State) (up : Nat) : State × Option Nat :=
  s.waitingStarts.foldl (fun (p : State × Option Nat) q =>
    match p.2 with
    | none => p
    | some up =>
      let s := p.1
      let r := s.startCost q.2
      if r ≤ up then
        let s := s.modCore q.2 (fun k => { k with grant := k.grant + r })
        (s.modLaunch q.1 (fun l => { l with granted := insNat l.granted q.2 }), some (up - r))
      else (s, none)) (s, some up)

/-- The cores with a request, in the order of the round: those after the last core served first (R162). -/
def State.requesters (s : State) : List Nat :=
  let l := ((s.allCores.filter (fun c => c.request.isSome)).map (fun c => c.id)).foldl insNat []
  l.filter (fun c => s.gov.served ≤ c) ++ l.filter (fun c => c < s.gov.served)

/-- Step 3 of R162: each request raises the grant by exactly the unmet need that it records, up to the full-core weight (R160). -/
def State.spendRequests (s : State) (up : Nat) : State × Option Nat :=
  s.requesters.foldl (fun (p : State × Option Nat) c =>
    match p.2 with
    | none => p
    | some up =>
      let s := p.1
      let k := s.coreAt c
      let r := min (k.request.getD 0) (s.fullOf c - k.grant)
      if r ≤ up then
        let s := s.modCore c (fun k => { k with grant := k.grant + r })
        ({ s with gov.served := c + 1 }, some (up - r))
      else (s, none)) (s, some up)

/-- The weights that come back at boundary `b` with the ends of relocks (R166). -/
def State.comeBack (b : Nat) (s : State) : Nat :=
  ((s.dies.filter (fun d => d.relock.all (fun t => decide (t ≤ b)))).map (fun d => d.back)).sum

/-- The raises of the boundary in the order of R162; the headroom that is left, less what ends of relocks take (R166). -/
def State.spend (b : Nat) (s : State) : State :=
  let up := s.gov.lup * 1000 * 2048 - s.comeBack b
  let stop (p : State × Option Nat) (f : State → Nat → State × Option Nat) : State × Option Nat :=
    match p.2 with
    | none => p
    | some u => f p.1 u
  let left (p : State × Option Nat) (old : State) : State :=
    let spent := (p.1.allCores.map (fun c => c.grant)).sum - (old.allCores.map (fun c => c.grant)).sum
    { p.1 with gov.upLeft := up - spent }
  left (stop (stop (s.spendDecls b up) State.spendStarts) State.spendRequests) s

/-! ## Ceilings and steps (R166, R445) -/

/-- The least die number for which `better` prefers no other. -/
def bestDie (better : Nat → Nat → Bool) : List Nat → Option Nat
  | [] => none
  | d :: t => match bestDie better t with
    | none => some d
    | some e => if better e d then some e else some d

/-- A CEIL falls by 1, not below 10; every change restarts the count for raising (R445). -/
def State.lowerCeil (d : Nat) (s : State) : State × Bool :=
  if (s.dies.getD d DieSt.reset).ceil ≤ 10 then (s, false)
  else
    let s := s.modDie d (fun x => { x with ceil := x.ceil - 1, hot := 0 })
    ({ s with gov.low := 0 }, true)

/-- Rules 1 and 2 of R445 after the window with an estimate of `e` (times 25). -/
def State.adjustCeil (e : Nat) (s : State) : State :=
  let at_ (d : Nat) : DieSt := s.dies.getD d DieSt.reset
  let s := { s with dies := s.dies.map (fun (d : DieSt) => { d with hot := if d.temp > s.gov.tthr then d.hot + 1 else 0 }) }
  let cool := decide (e * 10 ≤ 9 * (s.gov.ecap * 1000 * 2048 * 25)) && s.dies.all (fun d => decide (d.temp + 5 ≤ s.gov.tthr))
  let s := { s with gov.low := if cool then s.gov.low + 1 else 0 }
  let (s, fell) :=
    if s.gov.overCnt ≥ 4 then
      let s := { s with gov.overCnt := 0 }
      s.lowerCeil ((bestDie (fun a b => decide ((at_ a).cur > (at_ b).cur)) (List.range 8)).getD 0)
    else (s, false)
  let (s, fell) :=
    if fell then (s, true)
    else
      let hots := (List.range 8).filter (fun d =>
        let x := s.dies.getD d DieSt.reset
        decide (x.hot ≥ 64) && decide (x.ceil > 10))
      match bestDie (fun a b => decide ((at_ a).temp > (at_ b).temp)) hots with
      | none => (s, false)
      | some d => s.lowerCeil d
  if fell ∨ s.gov.low < 64 then s
  else
    match bestDie (fun a b => decide ((at_ a).ceil < (at_ b).ceil)) ((List.range 8).filter (fun d => decide ((at_ d).ceil < 20))) with
    | none => s
    | some d =>
      let s := s.modDie d (fun x => { x with ceil := x.ceil + 1, hot := 0 })
      { s with gov.low := 0 }

/-- The mean weight of a die's cores in the window that ends (R159), which its relock takes away (R166). -/
def State.dieWeight (d : Nat) (s : State) : Nat :=
  ceilDiv (32 * ((s.allCores.filter (fun c => dieOf c.id == d)).map (fun c => c.weightSum + c.balSum)).sum) 25

/-- What the grants of a die's cores lose when its full-core weight falls to that of multiplier `m` (R160). -/
def State.grantFall (d m : Nat) (s : State) : Nat :=
  ((s.allCores.filter (fun c => dieOf c.id == d)).map (fun c => c.grant - weightAt m fullMw)).sum

/-- The weight of a die's cores when the relock of a step to `m` has ended: that of the same work (R166). -/
def State.weightAfter (d m : Nat) (s : State) : Nat := ceilDiv (s.dieWeight d * m) (max 1 (s.dies.getD d DieSt.reset).cur)

/-- Whether a step of a die to `m` fits the headroom of the windows concerned (R166): as the relock begins, its weights and its grants fall
within what is left of the down headroom; as it ends, its weights rise within an up headroom. DEDUCED (log 59). -/
def State.stepFits (d m down : Nat) (s : State) : Bool :=
  decide (max (s.dieWeight d) (s.grantFall d m) ≤ down) && decide (s.weightAfter d m ≤ s.gov.lup * 1000 * 2048)

/-- A die begins a step to multiplier `m` at tick `b` (R166): its cores stop for a relock of 200 ticks. -/
def State.beginStep (d m b : Nat) (s : State) : State :=
  let old := (s.dies.getD d DieSt.reset).cur
  let after := s.weightAfter d m
  let f (c : Core) : Core :=
    if dieOf c.id = d then
      { c with
        cycBase := max c.cycle (c.cycBase + old * (b - c.cycTick)), cycTick := b + 200,
        grant := min c.grant (weightAt m fullMw) }
    else c
  { s with
    co := f s.co, cores := s.cores.map f,
    dies := s.dies.modify d (fun x => { x with cur := m, relock := some (b + 200), back := after }) }

/-- At most one step begins (R445, rule 3): on the lowest-numbered die whose step fits the headroom. -/
def State.stepOne (b down : Nat) (s : State) : State :=
  let want (d : Nat) : Bool :=
    let x := s.dies.getD d DieSt.reset
    let m := min x.tgt x.ceil
    x.relock.isNone && x.cur != m && s.stepFits d m down
  match (List.range 8).find? want with
  | none => s
  | some d =>
    let x := s.dies.getD d DieSt.reset
    s.beginStep d (min x.tgt x.ceil) b

/-- The sums of the window that ends start again, and requests go. -/
def Core.newWindow (c : Core) : Core := { c with weightSum := 0, balSum := 0, request := none }

/-- Declarations that end at tick `b` go (R315). -/
def Core.endDecl (b : Nat) (c : Core) : Core := if c.gramp.any (fun g => decide (g.stop ≤ b)) then { c with gramp := none } else c

/-- GOVERNOR_WINDOW_BOUNDARY (R159 to R166, R315, R442 to R445). -/
def execGovernorWindowBoundary (s : State) : Res :=
  let b := s.gov.next
  let s := { s with tick := max s.tick b }
  let s := (s.reachAll b).govWrites
  let s := { s with co := s.co.endDecl b, cores := s.cores.map (Core.endDecl b) }
  let e := s.estimate25
  let (s, down) := ((s.govEstimate).sampleSensors b).decay b
  let s := s.openLaunches.spend b
  let s := { s with dies := s.dies.map (fun (d : DieSt) => if d.relock.all (fun t => decide (t ≤ b)) then { d with back := 0 } else d) }
  let s := (s.adjustCeil e).stepOne b down
  .next { s with
    co := s.co.newWindow, cores := s.cores.map Core.newWindow, gov.next := b + 100, gov.resetTill := none, gov.routed := 0 }

end Sys2Proof.Machine
end

