-- ==== Sys2Proof/Machine/Linker.lean ====
section
/-! DEFINITION. Ecastore objects: their format, digests and linking at admission (R373 to R382). -/

namespace Sys2Proof.Machine

open Sys2Proof

/-- Bytes `lo` up to `lo + n` of a byte string. -/
def slice (bs : List Byte) (lo n : Nat) : List Byte := (bs.drop lo).take n
/-- The little-endian number in `n` bytes at `lo`. -/
def leAt (bs : List Byte) (lo n : Nat) : Nat := leNat (slice bs lo n)
/-- Whether `n` bytes at `lo` are all zero. -/
def zeroAt (bs : List Byte) (lo n : Nat) : Bool := (slice bs lo n).all (· == 0)

/-- A section of an object (R373, R374): its table entry and its content. -/
structure Sect where
  kind : Nat
  off  : Nat
  size : Nat
  ent  : List Byte
  data : List Byte
  deriving DecidableEq, Repr

/-- A symbol entry (R376). -/
structure Sym where
  name  : List Byte
  sect  : Nat
  bind  : Nat
  value : Nat
  size  : Nat
  deriving DecidableEq, Repr

/-- A relocation entry (R377) with its 24 bytes. -/
structure Rel where
  off    : Nat
  type   : Nat
  sect   : Nat
  sym    : Nat
  addend : Int
  raw    : List Byte
  deriving DecidableEq, Repr

/-- An object (R373). -/
structure Obj where
  text   : List Byte
  gdata  : List Byte
  launch : List Byte
  semdig : BitVec 256
  syms   : List Sym
  rels   : List Rel
  deriving DecidableEq, Repr

/-- Whether a section entry keeps the rules of R373 and R374 in a file of `n` bytes. -/
def sectOk (bs e : List Byte) : Bool :=
  let k := leAt e 0 1
  let al := leAt e 24 8
  decide (1 ≤ k) && decide (k ≤ 7) && zeroAt e 1 7 && decide (leAt e 8 8 + leAt e 16 8 ≤ bs.length) &&
    (List.range 17).any (fun i => al == 2 ^ i)

/-- The sections of an object, none when its header or table breaks a rule (R373, R374). -/
def sections (bs : List Byte) : Option (List Sect) :=
  let n := leAt bs 6 2
  let so := leAt bs 8 8
  if bs.length < 128 || leAt bs 0 4 != 0x314F4345 || leAt bs 4 2 != 1 || n == 0 || decide (64 < n) ||
      decide (so < 128) || so % 32 != 0 || leAt bs 16 8 != bs.length || !zeroAt bs 24 8 || !zeroAt bs 64 64 || decide (bs.length < so + 32 * n)
    then none
  else
    let es := (List.range n).map (fun i => slice bs (so + 32 * i) 32)
    if !es.all (sectOk bs) then none
    else
      let ss := es.map (fun e =>
        { kind := leAt e 0 1, off := leAt e 8 8, size := leAt e 16 8, ent := e, data := slice bs (leAt e 8 8) (leAt e 16 8) : Sect })
      let apart := decide (ss.Pairwise (fun a b => a.off + a.size ≤ b.off ∨ b.off + b.size ≤ a.off))
      let once := (List.range 6).all (fun k => decide ((ss.filter (·.kind == k + 1)).length ≤ 1))
      if apart && once then some ss else none

/-- The content of the section of a kind. -/
def contentOf (ss : List Sect) (k : Nat) : List Byte := ((ss.find? (·.kind == k)).map (·.data)).getD []

/-- The bytes of a name at an offset of STRTAB, none when no zero byte ends it. -/
def nameAt (st : List Byte) (o : Nat) : Option (List Byte) :=
  let r := st.drop o
  if r.contains 0 then some (r.takeWhile (· != 0)) else none

/-- A symbol entry, none when it breaks a rule (R376). -/
def symOf (text gdata : Nat) (st e : List Byte) : Option Sym :=
  let sc := leAt e 4 1
  let lim := if sc = 1 then text else gdata
  if 2 < sc ∨ 2 < leAt e 5 1 ∨ !zeroAt e 6 2 ∨ !zeroAt e 24 8 ∨ (sc ≠ 0 ∧ lim < leAt e 8 8 + leAt e 16 8) then none
  else (nameAt st (leAt e 0 4)).map (fun n => { name := n, sect := sc, bind := leAt e 5 1, value := leAt e 8 8, size := leAt e 16 8 })

/-- A relocation entry, none when it breaks a rule (R377). DESIGN CHOICE (log 129): a site need not hold the instruction that the table
names; its word is patched whatever it is. -/
def relOf (text gdata nsym : Nat) (e : List Byte) : Option Rel :=
  let o := leAt e 0 8
  let ty := leAt e 8 1
  let sc := leAt e 9 1
  let site := match ty with
    | 1 => sc == 1 && o % 4 == 0 && decide (o + 4 ≤ text)
    | 2 | 3 | 4 => sc == 1 && o % 4 == 0 && decide (8 ≤ o) && decide (o + 4 ≤ text)
    | 5 => sc == 2 && decide (o + 8 ≤ gdata)
    | _ => false
  if !site ∨ !zeroAt e 10 2 ∨ nsym ≤ leAt e 12 4 then none
  else some { off := o, type := ty, sect := sc, sym := leAt e 12 4, addend := (BitVec.ofNat 64 (leAt e 16 8)).toInt, raw := e }

/-- The entries of `n` bytes of a table; none when its size is no multiple of `n` or an entry breaks a rule. -/
def entries {α : Type} (n : Nat) (f : List Byte → Option α) (t : List Byte) : Option (List α) :=
  if t.length % n ≠ 0 then none else ((List.range (t.length / n)).map (fun i => f (slice t (n * i) n))).mapM id

/-- The bytes of a digest. -/
def digBytes (d : BitVec 256) : List Byte := leBytes 32 d.toNat

/-- SEMDIG (R375): SM3 over the entries and bytes of the semantic sections in table order. -/
def semdigOf (ss : List Sect) : BitVec 256 := Config.sm3 ((ss.filter (·.kind ≤ 6)).flatMap (fun x => x.ent ++ x.data))

/-- An object read from its bytes; none when it breaks a rule of R373 to R377. -/
def Obj.parse (bs : List Byte) : Option Obj :=
  match sections bs with
  | none => none
  | some ss =>
    let text := contentOf ss 1
    let gdata := contentOf ss 2
    let st := contentOf ss 6
    if text.length % 4 ≠ 0 ∨ (st ≠ [] ∧ st.getLastD 1 ≠ 0) then none
    else
      match entries 32 (symOf text.length gdata.length st) (contentOf ss 4) with
      | none => none
      | some syms =>
        (entries 24 (relOf text.length gdata.length syms.length) (contentOf ss 5)).map (fun rels =>
          { text := text, gdata := gdata, launch := contentOf ss 3, semdig := semdigOf ss, syms := syms, rels := rels })

/-- The code digest (R375). -/
def codeDigest (os : List Obj) : BitVec 256 := Config.sm3 (os.flatMap (fun o => digBytes o.semdig))

/-! ## Symbols (R376, R379) -/

/-- A definition of a symbol in object `obj`. -/
structure Def where
  obj : Nat
  sym : Sym
  deriving DecidableEq, Repr

/-- The body digest of a defined symbol (R376). -/
def bodyDigest (o : Obj) (y : Sym) : BitVec 256 :=
  let body := slice (if y.sect = 1 then o.text else o.gdata) y.value y.size
  let rs := o.rels.filter (fun r => r.sect == y.sect && decide (y.value ≤ r.off) && decide (r.off < y.value + y.size))
  Config.sm3 (body ++ rs.flatMap (fun r => leBytes 8 (r.off - y.value) ++ r.raw.drop 8))

/-- The definitions of a name with a binding, in object order (R379). -/
def defsOf (os : List Obj) (bind : Nat) (name : List Byte) : List Def :=
  os.zipIdx.flatMap (fun p => (p.1.syms.filter (fun y => y.sect != 0 && y.bind == bind && y.name == name)).map (fun y => ⟨p.2, y⟩))

/-- The object of an index. -/
def objAt (os : List Obj) (i : Nat) : Obj := os.getD i { text := [], gdata := [], launch := [], semdig := 0, syms := [], rels := [] }

/-- Whether two strong definitions of a name have different bodies (R379, rule 3). -/
def dupsym (os : List Obj) : Bool :=
  (os.flatMap (fun o => (o.syms.filter (·.bind == 1)).map (·.name))).any (fun n =>
    match defsOf os 1 n with
    | [] => false
    | d :: t => t.any (fun e => bodyDigest (objAt os e.obj) e.sym != bodyDigest (objAt os d.obj) d.sym))

/-- The definition that a symbol of object `i` resolves to (R379). -/
def resolve (os : List Obj) (i : Nat) (y : Sym) : Option Def :=
  if y.bind = 0 then (if y.sect = 0 then none else some ⟨i, y⟩)
  else ((defsOf os 1 y.name).head?).or (defsOf os 2 y.name).head?

/-- Whether every symbol resolves (R375, R379). -/
def resolved (os : List Obj) : Bool :=
  os.zipIdx.all (fun p => p.1.syms.all (fun y => (resolve os p.2 y).isSome) &&
    p.1.rels.all (fun r => ((p.1.syms[r.sym]?).bind (resolve os p.2)).isSome))

/-! ## Placement and relocation (R377, R380, R381) -/

/-- The bases of the TEXT sections from `a` up (R380). -/
def textBases (a : Nat) : List Obj → List Nat
  | [] => []
  | o :: t => a :: textBases (a + max 1 (ceilDiv o.text.length 0x200000) * 0x200000) t

/-- The offsets of the GDATA sections from `a` up (R381). -/
def gdataOffs (a : Nat) : List Obj → List Nat
  | [] => []
  | o :: t => ceilDiv a 0x10000 * 0x10000 :: gdataOffs (ceilDiv a 0x10000 * 0x10000 + o.gdata.length) t

/-- The length of the global-data segment before rounding (R381). -/
def gdataLen (os : List Obj) : Nat :=
  if os.all (fun o => o.gdata.isEmpty) then 0
  else ((gdataOffs 0 os).zip os).foldl (fun m p => if p.2.gdata.isEmpty then m else max m (p.1 + p.2.gdata.length)) 0

/-- Replace bytes of a section. -/
def patch (bs : List Byte) (o : Nat) (v : List Byte) : List Byte := bs.take o ++ v ++ bs.drop (o + v.length)

/-- The bytes that a relocation writes at its site in `bs`; none when the value is out of its range (R377). `t` is the final
address or offset, `p` the address of the site's instruction. -/
def relValue (type : Nat) (t p : Int) (old : List Byte) : Option (List Byte) :=
  let d := (t - p) / 4
  match type with
  | 1 => if (t - p) % 4 = 0 ∧ -8192 ≤ d ∧ d ≤ 8191 then some (leBytes 4 (leNat old % 2 ^ 18 + (d % 2 ^ 14).toNat * 2 ^ 18)) else none
  | 2 => if (t - p) % 4 = 0 ∧ -(2 ^ 31) ≤ d ∧ d < 2 ^ 31 then some (leBytes 4 (d % 2 ^ 32).toNat) else none
  | 3 => if 0 ≤ t ∧ t < 2 ^ 32 then some (leBytes 4 t.toNat) else none
  | 4 => if 0 ≤ t ∧ t < 2 ^ 31 then some (leBytes 4 t.toNat) else none
  | _ => if 0 ≤ t ∧ t < 2 ^ 64 then some (leBytes 8 t.toNat) else none

/-- One relocation of object `i` applied to its TEXT and GDATA. -/
def applyRel (os : List Obj) (i : Nat) (r : Rel) (o : Obj) : Option Obj :=
  let bases := textBases 0x200000 os
  let offs := gdataOffs 0 os
  match ((objAt os i).syms[r.sym]?).bind (resolve os i) with
  | none => none
  | some d =>
    if (d.sym.sect = 2) ≠ (r.type = 4) then none
    else
      let t : Int := ((if d.sym.sect = 1 then bases.getD d.obj 0 else offs.getD d.obj 0) + d.sym.value : Nat) + r.addend
      let p : Int := (bases.getD i 0 + r.off - (if r.type = 1 then 0 else 8) : Nat)
      if r.type = 5 then (relValue 5 t p []).map (fun v => { o with gdata := patch o.gdata r.off v })
      else (relValue r.type t p (slice o.text r.off 4)).map (fun v => { o with text := patch o.text r.off v })

/-- Every relocation of every object applied; none when one is out of reach. -/
def relocate (os : List Obj) : Option (List Obj) :=
  (os.zipIdx.map (fun p => p.1.rels.foldl (fun (o : Option Obj) r => o.bind (applyRel os p.2 r)) (some p.1))).mapM id

/-- The descriptor that a .tensor line sets (R20): ready, local, readable and writable, dense; its bases are offsets in the window. -/
def Desc.tensor (d : Desc) : Desc :=
  let row := ceilDiv (d.ext 0 * d.w) 8
  { d with
    state := .ready, fspace := .loc, bspace := .loc, sspace := .loc, rd := true, wr := true, sparse := false,
    str1 := BitVec.ofNat 32 row, str2 := BitVec.ofNat 32 (row * d.ext 1), str3 := BitVec.ofNat 32 (row * d.ext 1 * d.ext 2) }

/-- The launch groups of an object at its base (R382). -/
def groupsAt (o : Obj) (base : Nat) : Option (List Group) :=
  if o.launch = [] then some []
  else
    match Config.launchGroups o.launch base with
    | none => none
    | some l => (l.map (fun g =>
        ((g.2.2.2.2.map (fun d => (descOf d.2).map (fun e => (d.1 % 64, e.tensor)))).mapM id).map (fun ds =>
          { entry := g.1, cls := g.2.1, consts := g.2.2.1, images := g.2.2.2.1, descs := ds : Group }))).mapM id

/-- The linked image: instruction bytes by base, objects, global data, launch groups. -/
structure Image where
  texts  : List (Nat × List Byte)
  gdatas : List (Nat × List Byte)
  glen   : Nat
  groups : List Group
  deriving DecidableEq, Repr

/-- Linking (R377, R379 to R382); none when an object breaks a rule of the chapter. -/
def link (os : List Obj) : Option Image :=
  let bases := textBases 0x200000 os
  let top := ((bases.zip os).map (fun p => p.1 + p.2.text.length)).foldl max 0
  if 2 ^ 32 < top then none
  else
    match relocate os, ((os.zip bases).map (fun p => groupsAt p.1 p.2)).mapM id with
    | some rs, some gs =>
      let g := gs.flatten
      if decide ((g.map (·.entry)).Nodup) then
        some { texts := bases.zip (rs.map (·.text)), gdatas := (gdataOffs 0 os).zip (rs.map (·.gdata)), glen := gdataLen os, groups := g }
      else none
    | _, _ => none

end Sys2Proof.Machine
end

