-- ==== Sys2Proof/Machine/Admission.lean ====
section
/-! DEFINITION. Warrant records, the checks of admission, the reservation and the building of an admitted warrant (R397 to
R403, R429, R457). -/

namespace Sys2Proof.Machine

open Sys2Proof

/-! ## The warrant record (R397) -/

/-- The record that 384 bytes hold. A digest is the little-endian number of its 32 bytes. -/
def WarRec.ofBytes (bs : List Byte) : WarRec :=
  { version := leAt bs 0 2, mode := leAt bs 2 1, cls := leAt bs 3 1, debug := bit (leAt bs 4 1) 0,
    notBefore := leAt bs 8 8, notAfter := leAt bs 16 8, serial := BitVec.ofNat 128 (leAt bs 24 16),
    parent := BitVec.ofNat 128 (leAt bs 40 16), issuer := BitVec.ofNat 256 (leAt bs 56 32),
    binding := BitVec.ofNat 256 (leAt bs 88 32), digest := BitVec.ofNat 256 (leAt bs 120 32), width := leAt bs 152 2,
    height := leAt bs 154 2, memGib := leAt bs 156 4, wellGib := leAt bs 160 4, share := leAt bs 164 4,
    events := BitVec.ofNat 32 (leAt bs 168 4), deleg := BitVec.ofNat 32 (leAt bs 172 4),
    fgroup := BitVec.ofNat 128 (leAt bs 176 16), fgsize := leAt bs 192 2,
    rsvZero := leAt bs 4 1 / 2 == 0 && zeroAt bs 5 3 && zeroAt bs 194 126 }

/-- Bytes 0x000 to 0x13F of a record. -/
def WarRec.body (r : WarRec) : List Byte :=
  leBytes 2 r.version ++ leBytes 1 r.mode ++ leBytes 1 r.cls ++ leBytes 4 (if r.debug then 1 else 0) ++
  leBytes 8 r.notBefore ++ leBytes 8 r.notAfter ++ leBytes 16 r.serial.toNat ++ leBytes 16 r.parent.toNat ++
  digBytes r.issuer ++ digBytes r.binding ++ digBytes r.digest ++ leBytes 2 r.width ++ leBytes 2 r.height ++
  leBytes 4 r.memGib ++ leBytes 4 r.wellGib ++ leBytes 4 r.share ++ leBytes 4 r.events.toNat ++ leBytes 4 r.deleg.toNat ++
  leBytes 16 r.fgroup.toNat ++ leBytes 2 r.fgsize ++ List.replicate 126 0

/-- A record signed with the module's identity key: 384 bytes (R346, R397). -/
def WarRec.signed (r : WarRec) : List Byte := r.body ++ (Config.sm2Sign r.body ++ List.replicate 64 0).take 64

/-! ## Codes (R342) -/

/-- A refusal: its code and DETAIL. -/
abbrev Refused := BitVec 8 × Nat

/-- Whether a module is in the redemption directory (R406, R423). -/
def State.inDirectory (s : State) (h : BitVec 256) : Bool :=
  (List.range 4096).any (fun e =>
    let w (i : Nat) : Nat := (Tab.get (0 : W32) s.cfg.rdir (16 * e + i)).toNat
    bit (w 12) 0 && h == BitVec.ofNat 256 ((List.range 8).foldr (fun i a => w i + 2 ^ 32 * a) 0))

/-- Whether a record's ISSUER names a key of R398: one of the key store, or the module's identity key for a record that is bound to this
module alone. -/
def State.knownIssuer (r : WarRec) (s : State) : Bool :=
  s.keys.any (·.hash == r.issuer) || (r.issuer == s.idHash && s.idHash != 0 && r.mode == 0 && r.binding == s.idHash)

/-- Checks 1 to 7 of R399 and the check on reserved EVENTS (R429). -/
def State.check1 (r : WarRec) (raw : List Byte) (peeridx : Nat) (s : State) : Option Refused :=
  let rsv := r.events &&& 0x7FFEFE00 != 0 || r.deleg &&& 0xFFFFFF0C != 0 || !r.rsvZero
  if r.version ≠ 1 ∨ 1 < r.mode ∨ 2 < r.cls ∨ r.width < 1 ∨ 64 < r.width ∨ r.height < 1 ∨ 32 < r.height ∨ r.memGib < 1 ∨
      r.fgsize < 1 ∨ 16384 < r.fgsize ∨ r.fgsize ≤ peeridx ∨ rsv then some (0x01, 1)
  else if !s.knownIssuer r then some (0x02, 0)
  else if !Config.sm2Verify r.issuer (raw.take 320) (slice raw 320 64) then some (0x01, 2)
  else
    match s.clock with
    | none => some (0x05, 0)
    | some c =>
      if !s.trusted then some (0x05, 0)
      else if c.lo s.tick < r.notBefore then some (0x03, 0)
      else if (r.notAfter : Int) ≤ c.hi s.tick then some (0x04, 0)
      else if r.binding = s.idHash then none
      else if r.mode = 0 then some (0x06, 1)
      else if s.inDirectory r.binding then none
      else some (0x06, 2)

/-- The role mask of the key that issued a record (R398). -/
def State.roleMask (r : WarRec) (s : State) : Nat :=
  if r.issuer = s.idHash ∧ s.idHash ≠ 0 then
    match s.redeem.find? (fun e => e.serial == r.parent) with
    | some e => 2 ^ e.cls
    | none => 0
  else ((s.keys.find? (·.hash == r.issuer)).map (·.mask.toNat)).getD 0

/-- Checks 9 to 11 (R399): the linked image of a presentation over Ethernet, none under WPRES, whose presenter's class and
digest count. -/
def State.check9 (r : WarRec) (objs : List (List Byte)) (pres : Option Nat) (s : State) : Refused ⊕ Option Image :=
  if !bit (s.roleMask r) r.cls then .inl (0x0B, 1)
  else
    match pres with
    | some p =>
      let q := (s.warById p).rec_
      if r.cls < q.cls then .inl (0x0B, 2) else if r.digest ≠ q.digest then .inl (0x0A, 0) else .inr none
    | none =>
      match (objs.map Obj.parse).mapM id with
      | none => .inl (0x0A, 0)
      | some os =>
        if os = [] ∨ 16 < os.length ∨ codeDigest os ≠ r.digest ∨ !resolved os then .inl (0x0A, 0)
        else if dupsym os then .inl (0x0C, 0)
        else
          match link os with
          | none => .inl (0x0A, 0)
          | some im => .inr (some im)

/-! ## Resources (R401, R402) -/

/-- Warrants that hold resources: those that run, claims in progress (R394), and those that ended with EVICTED_STANDBY, which hold them
until the next module reset (R410). -/
def State.holders (s : State) : List Warrant :=
  s.wars.filter (fun w => (w.code.isNone && !w.consumed) || w.code == some 0x42)

/-- The memory that the module can grant, in 64 KiB units: 1520 GiB, and never a failed die's three stacks of 64 GiB (R2, R401, R414). -/
def State.hbmUnits (s : State) : Nat :=
  16384 * min 1520 (192 * (s.dies.filter (fun d => !d.failed)).length)

/-- The origins at which a rectangle fits for a class (R402): never on a failed die, and for RESERVED and SHARED on no core
that such a warrant holds. -/
def State.origins (w h cls : Nat) (s : State) : List (Nat × Nat) :=
  let offered (d : Nat) : Bool := let x := s.dies.getD d DieSt.reset; !x.failed && !x.inReset
  ((List.range 2048).map (fun i => (i % 64, i / 64))).filter (fun p =>
    decide (p.1 + w ≤ 64) && decide (p.2 + h ≤ 32) && (rectDies p.1 p.2 w h).all offered &&
    (cls == 2 || (blockCores p.1 p.2 w h).all (fun c => !s.heldCore c)))

/-- The fixed parts of a grant in 64 KiB units (R401): cistern and stack segments, and for the one whose objects they are the
instruction pages and the global data. -/
def fixedUnits (n cls : Nat) (im : Option Image) : Nat :=
  let segs := n + 1
  let images := if cls = 2 then ceilDiv segs 32 * 32 - segs + 32 * n else 0
  segs + images + 256 + 16 * n +
    (match im with
     | none => 0
     | some im => (im.texts.map (fun t => ceilDiv t.2.length 0x200000 * 32)).sum + ceilDiv im.glen 0x10000)

/-- The well partition on each die in MiB (R401). -/
def wellPart (r : WarRec) (x y : Nat) : Nat := 1024 * r.wellGib / max 1 (rectDies x y r.width r.height).length

/-- The dies that a warrant's rectangle touches. -/
def Warrant.dies (w : Warrant) : List Nat := rectDies w.x0 w.y0 w.rec_.width w.rec_.height

/-- Where a warrant that migrated from an address has gone, until its NOTAFTER (R412): its new address and JOB. -/
def State.movedOf (vi : W128) (s : State) : Option (W128 × Nat) :=
  (s.movedVi.find? (fun m => m.1 == vi && (match s.clock with
    | some c => decide (c.hi s.tick < (m.2.2.2 : Int))
    | none => true))).map (fun m => (m.2.1, m.2.2.1))

/-- The addresses of the pool that no warrant holds (R403, R423): entry 0 is the wellhead's own, and a migrated warrant's old
one answers for it (R412). -/
def State.freeVis (s : State) : List W128 :=
  (s.cfg.vipool.filter (fun e => e.1 != 0)).map (·.2) |>.filter (fun v =>
    (s.movedOf v).isNone && !s.wars.any (fun w => w.vi == v && (w.code.isNone || w.code == some 0x42)))

/-- The handles that a warrant holds (R344). -/
def State.handles (p : Nat) (s : State) : Nat := (s.wars.filter (fun w => w.holder == some p)).length

/-- Checks 12 and 13 (R399): the origin, one that `ok` allows, and the VI address, at the wellhead's choice. -/
def State.check12 (r : WarRec) (pres : Option Nat) (im : Option Image) (s : State) (ok : Nat × Nat → Bool := fun _ => true) :
    Refused ⊕ (Nat × Nat × W128) :=
  let os := (s.origins r.width r.height r.cls).filter ok
  let o := os.getD (Config.placePick s.picks % max 1 os.length) (0, 0)
  let live := s.holders
  let part := wellPart r o.1 o.2
  let dies := rectDies o.1 o.2 r.width r.height
  let shares := ((live.filter (fun w => !w.child && w.rec_.cls == 0)).map (·.rec_.share)).sum
  let now (e : Redeem) : Bool := match s.clock with | some c => decide (c.lo s.tick ≤ (e.notAfter : Int)) | none => true
  if os = [] then .inl (0x08, 1)
  else if r.cls = 0 ∧ 65536 < shares + r.share then .inl (0x08, 2)
  else if pres.any (fun p => decide (64 ≤ s.handles p)) then .inl (0x09, 0)
  else if s.hbmUnits < s.memUsed + s.retired + r.memGib * 16384 then .inl (0x09, 1)
  else if r.memGib * 16384 < fixedUnits (r.width * r.height) r.cls im then .inl (0x09, 2)
  else if dies.any (fun d => decide (1024 < part + ((live.filter (fun w => w.dies.contains d)).map (·.wellMib)).sum)) then .inl (0x09, 3)
  else if 1048576 ≤ (s.redeem.filter now).length then .inl (0x09, 4)
  else
    match s.freeVis with
    | [] => .inl (0x09, 5)
    | v :: _ => .inr (o.1, o.2, v)

/-! ## Reservation and building (R394, R403) -/

/-- The first 1 MiB step from `k` on at which `n` MiB of addresses are free of mappings and of pages that a VUNMAP has not returned yet. -/
def Space.freeFrom (sp : Space) (n : Nat) : Nat → Nat → Nat
  | 0, k => k
  | f + 1, k =>
    let lo := 0x200000 + k * 0x100000
    match (sp.pages ++ sp.old).find? (fun p => decide (p.base < lo + n * 0x100000) && decide (lo < p.base + p.size)) with
    | none => k
    | some p => sp.freeFrom n f ((p.base + p.size) / 0x100000)

/-- The stack segments of a warrant mapped in its space (R361). -/
def State.mapStacks (wid : Nat) (s : State) : State :=
  let w := s.warById wid
  let n := w.rec_.width * w.rec_.height
  let sp := s.spaceById w.space
  let k := sp.freeFrom n (sp.pages.length + sp.old.length + 1) (Config.stackPick s.picks % 2 ^ 27)
  let lo := 0x200000 + k * 0x100000
  let s := s.modSpace w.space (fun sp =>
    { sp.clear lo (lo + n * 0x100000) with pages := sp.pages ++ pagesOver lo (n * 0x100000) 0x10000 wid .stack })
  { s.modWar wid (fun w => { w with stackAt := lo }) with picks := s.picks + 1 }

/-- A JOB that no running warrant of the module has (R403). DESIGN CHOICE (log 116): the lowest from 1 up. -/
def State.freshJob (s : State) : Nat :=
  let used := (s.wars.filter (fun w => w.code.isNone)).map (·.job)
  leastFree used used.length 1

/-- Resources are reserved for a warrant; it is admitted when nothing is left to decide (R394). -/
def State.reserve (r : WarRec) (pres : Option Nat) (conn peeridx : Nat) (im : Option Image) (p : Nat × Nat × W128) (s : State) :
    State × Nat :=
  let id := s.nextId
  let q := s.warById (pres.getD 0)
  let w : Warrant := { Warrant.zero with
    id := id, hix := id, rec_ := r, x0 := p.1, y0 := p.2.1, space := if pres.isSome then q.space else id, parentW := pres, holder := pres,
    nested := pres.isSome, conn := conn, job := s.freshJob, key := Config.viKey id, vi := p.2.2,
    peeridx := if pres.isSome then q.peeridx else peeridx, peers := if pres.isSome then q.peers else [],
    memFree := r.memGib * 16384 - fixedUnits (r.width * r.height) r.cls im, memHeld := r.memGib * 16384,
    wellMib := wellPart r p.1 p.2.1 }
  let now (e : Redeem) : Bool := match s.clock with | some c => decide (c.lo s.tick ≤ (e.notAfter : Int)) | none => true
  let old := if 1048576 ≤ s.redeem.length then s.redeem.filter now else s.redeem
  ({ s with
    wars := s.wars ++ [w], nextId := id + 1, picks := s.picks + 1, memUsed := s.memUsed + r.memGib * 16384,
    redeem := { serial := r.serial, notAfter := r.notAfter, pending := true, moved := false, cls := r.cls } :: old }, id)

/-- The address of the global-data segment of a space, in the upper half of the address space (R381). -/
def gdataBase (id : Nat) : Nat := 2 ^ 47 + id % 32 * 2 ^ 42

/-- The space of an image: instruction pages, objects, the global-data segment and the launch groups (R380 to R382). -/
def imageSpace (id : Nat) (im : Image) : Space :=
  let g := gdataBase id
  let len := if im.glen = 0 then 0 else (csbRange g (g + im.glen)).2 - g
  { Space.zero with
    id := id,
    imem := im.texts.foldl (fun m t => Memory.writeN m t.1 t.2) [],
    ipages := im.texts.foldl (fun l t => (List.range (ceilDiv t.2.length 0x200000)).foldl (fun l i => insNat l (t.1 / 0x200000 + i)) l) [],
    objs := im.texts.map (fun t => { base := t.1, len := t.2.length }),
    groups := im.groups, gbase := g, glen := len,
    pages := pagesOver g (ceilDiv im.glen 0x10000 * 0x10000) 0x10000 id .gdata,
    mem := im.gdatas.foldl (fun m t => Memory.writeN m (g + t.1) t.2) [] }

/-- A reserved warrant is admitted (R400, R403): its serial is held, its segments are built. -/
def State.admitWarrant (wid : Nat) (im : Option Image) (s : State) : State :=
  let w := s.warById wid
  let s := match im with
    | some im => { s with spaces := imageSpace wid im :: s.spaces }
    | none => s
  let s := { s with redeem := s.redeem.map (fun (e : Redeem) => if e.serial = w.rec_.serial then { e with pending := false } else e) }
  s.mapStacks wid

/-- A reservation is freed at a refusal (R394, R400). -/
def State.unreserve (wid : Nat) (s : State) : State :=
  let w := s.warById wid
  { s with
    wars := s.wars.filter (·.id != wid), memUsed := s.memUsed - w.memHeld,
    redeem := s.redeem.filter (fun e => !(e.pending && e.serial == w.rec_.serial)) }

/-- What the checks of R399 come to. -/
inductive Judged where
  | refused (r : Refused)
  /-- Another presentation of the serial is pending (R400). -/
  | later
  /-- Checks 1 to 13 hold: the warrant is reserved; a claim goes to another module when one is named. -/
  | reserved (id : Nat) (home : Option (BitVec 256))
  deriving DecidableEq, Repr

/-- Checks 1 to 13 of R399, and check 14 where this module is the home (R406); `past` says that checks 1 to 7 were passed before the
presentation waited for another of its serial (R400). -/
def State.judge (past : Bool) (r : WarRec) (raw : List Byte) (objs : List (List Byte)) (pres : Option Nat) (conn peeridx : Nat) (s : State) :
    State × Judged × Option Image :=
  match if past then none else s.check1 r raw peeridx with
  | some e => (s, .refused e, none)
  | none =>
    match s.redeem.find? (fun e => e.serial == r.serial) with
    | some e => (s, if e.pending then .later else if e.moved then .refused (0x06, 5) else .refused (0x07, 0), none)
    | none =>
      match s.check9 r objs pres with
      | .inl e => (s, .refused e, none)
      | .inr im =>
        match s.check12 r pres im with
        | .inl e => (s, .refused e, none)
        | .inr p =>
          let own := s.homeTab.find? (fun h => h.serial == r.serial)
          if r.mode = 1 ∧ r.binding = s.idHash ∧ own.any (·.claimant != s.idHash) then (s, .refused (0x06, 4), none)
          else
            let s := if r.mode = 1 ∧ r.binding = s.idHash ∧ own.isNone then
                { s with homeTab := { serial := r.serial, claimant := s.idHash, notAfter := r.notAfter } :: s.homeTab } else s
            let q := s.reserve r pres conn peeridx im p
            (q.1, .reserved q.2 (if r.mode = 1 ∧ r.binding ≠ s.idHash then some r.binding else none), im)

end Sys2Proof.Machine
end

