-- ==== Sys2Proof/Machine/Warrants.lean ====
section
/-! DEFINITION. Warrant instructions and the expiry of warrants (R342 to R350, R398, R409, R457, R458). -/

namespace Sys2Proof.Machine

open Sys2Proof

/-- What a warrant instruction that yields a handle writes (R343). -/
def handleResult (code : BitVec 8) (id : Nat) : W128 × Bool :=
  if code = 0 then (handleCap id, true) else (code.setWidth 128, false)

/-- The focused context waits with WAITK 1 until the wellhead writes this result. -/
def State.warrantWait (d : Reg) (v : W128 × Bool) (s : State) : State := s.waitOn 1 (.warrant d v.1 v.2) 4

/-! ## Claims (R406) -/

/-- CLAIM's body, MODE 0 or 1 (R393). -/
def State.claimBody (serial : W128) (notAfter : Nat) (mode : Nat) (newer : BitVec 256) (s : State) : List Byte :=
  let b := leBytes 16 serial.toNat ++ leBytes 8 notAfter ++ digBytes s.idHash ++ leBytes 8 mode ++ digBytes newer
  b ++ (Config.sm2Sign b ++ List.replicate 64 0).take 64

/-- The fabric address of a module in the redemption directory (R406). -/
def State.directoryAddr (h : BitVec 256) (s : State) : Nat :=
  let w (e i : Nat) : Nat := (Tab.get (0 : W32) s.cfg.rdir (16 * e + i)).toNat
  match (List.range 4096).find? (fun e =>
    bit (w e 12) 0 && h == BitVec.ofNat 256 ((List.range 8).foldr (fun i a => w e i + 2 ^ 32 * a) 0)) with
  | none => 0
  | some e => (List.range 4).foldr (fun i a => w e (8 + i) + 2 ^ 32 * a) 0

/-- A message to another module's wellhead endpoint: destinations from 2^128 up are fabric addresses. -/
def State.sendModule (h : BitVec 256) (opc : Nat) (body : List Byte) (s : State) : State :=
  s.emit (2 ^ 128 + s.directoryAddr h) opc 0 body

/-- A claim begins (R406, R424). -/
def State.beginClaim (r : WarRec) (home : BitVec 256) (conn core : Option Nat) (s : State) : State :=
  let c : ClaimSt :=
    { serial := r.serial, home := home, addr := s.directoryAddr home, began := s.tick, last := s.tick, limit := s.cfg.claimto, conn := conn, core := core }
  ({ s with claims := s.claims ++ [c] }).sendModule home 0x11 (s.claimBody r.serial r.notAfter 0 0)

/-! ## WPRES (R344) -/

/-- The 384 bytes that WPRES reads; those of a peer's memory are free values. -/
def State.recordBytes (a : Nat) (peer : Bool) (s : State) : List Byte :=
  if peer then (List.range 384).map (fun i => Config.freeByte (s.picks + i)) else s.viewLoad (a % 2 ^ 48) 384

/-- WPRES reads its record and the wellhead decides it (R344, R399); one whose serial another presentation holds pending waits (R400). -/
def State.present (d : Reg) (raw : List Byte) (s : State) : State :=
  let r := WarRec.ofBytes raw
  let own := s.lau.war
  match s.judge false r raw [] (some own) 0 0 with
  | (s, .refused e, _) => s.warrantWait d (handleResult e.1 0)
  | (s, .later, _) => s.waitOn 1 (.second d raw) 4
  | (s, .reserved id none, _) => (s.admitWarrant id none).warrantWait d (handleResult 0 id)
  | (s, .reserved _ (some h), _) => (s.beginClaim r h none (some s.co.id)).waitOn 1 (.claim d r.serial) 4

/-- WPRES (R344). -/
def execWpres (d a b : Reg) (s : State) : Res :=
  .next (s.control (fun s =>
    let ea := s.int a
    if s.int b ≠ 0 then s.trap cScope (s.int b)
    else
      match capCheck (s.g a) (s.gtag a) pLD (s.ea a 0) 384 with
      | some c => s.trap c ea
      | none =>
        match s.reachOf [(ea.toNat, 384)] with
        | .unmapped x => s.trap cPage (BitVec.ofNat 64 x)
        | .peer _ =>
          let raw := s.recordBytes ea.toNat true
          ({ s with picks := s.picks + 384 }).present d raw
        | .home =>
          match s.space.poison.find? (fun n => decide (ea.toNat % 2 ^ 48 / 64 ≤ n) && decide (n ≤ (ea.toNat % 2 ^ 48 + 383) / 64)) with
          | some n => s.uncorrReg (BitVec.ofNat 64 n)
          | none =>
            let raw := s.recordBytes ea.toNat false
            (s.noteRead (ea.toNat % 2 ^ 48) raw none).present d raw))

/-! ## WSPLIT, WDELEG (R346, R347, R398) -/

/-- Write bytes into the context's window from `o` on, each address wrapping (R73). -/
def State.windowPut (o : Word) (bs : List Byte) (s : State) : State :=
  let at_ (i : Nat) : Nat := localAddr s.cx.wbase s.cx.wsize (o + BitVec.ofNat 64 i) 1
  let l := bs.zipIdx.map (fun p => (at_ p.2, p.1))
  { s with co.store := Memory.writeAt s.co.store l, co.poison := unpoison (fun b => l.any (·.1 == b)) s.co.poison }

/-- Whether warrant `w` can give a rectangle of its own coordinates away: inside it, on cores that run no launch of it and
that no other child holds (R346). DESIGN CHOICE (log 125): a warrant that has ended, or that WDELEG consumed, has no such cores. -/
def State.splittable (w : Warrant) (x y wd h : Nat) (s : State) : Bool :=
  w.code.isNone && !w.consumed && w.fits x y wd h &&
  (blockCores (w.x0 + x) (w.y0 + y) wd h).all (fun c =>
    !s.launches.any (fun l => l.war == w.id && l.state != .done && l.has c && !l.ended.contains c) &&
    !s.wars.any (fun k => k.child && k.parentW == some w.id && (k.code.isNone || k.consumed) && k.has c))

/-- The record of a child (R346, R398). -/
def State.childRec (p : Warrant) (wd h mem well share : Nat) (s : State) : WarRec :=
  { p.rec_ with
    mode := 0, serial := (Config.sm3 (leBytes 16 p.rec_.serial.toNat ++ leBytes 8 p.children)).setWidth 128,
    parent := p.rec_.serial, issuer := s.idHash, binding := s.idHash, width := wd, height := h, memGib := mem, wellGib := well,
    share := share, deleg := p.rec_.deleg - 0x10 }

/-- The code of a split (R346); 0 when it is made. -/
def State.splitCode (p : Warrant) (x y wd h mem well share : Nat) (s : State) : BitVec 8 :=
  let kids := s.wars.filter (fun k => k.child && k.parentW == some p.id && k.code.isNone)
  let units := mem * 16384
  let part := 1024 * well / max 1 (rectDies (p.x0 + x) (p.y0 + y) wd h).length
  if !s.splittable p x y wd h then 0x08
  else if p.rec_.share < (kids.map (·.rec_.share)).sum + share then 0x08
  else if mem = 0 ∨ p.memFree < units ∨ units < fixedUnits (wd * h) p.rec_.cls none ∨ p.wellMib < part ∨ 64 ≤ s.handles s.lau.war
    then 0x09
  else if !p.rec_.deleg.getLsbD 0 ∨ p.rec_.deleg.toNat / 16 % 16 = 0 then 0x0B
  else 0

/-- A child takes its resources from its parent (R346). -/
def State.split (p : Warrant) (x y : Nat) (r : WarRec) (s : State) : State × Nat :=
  let id := s.nextId
  let part := 1024 * r.wellGib / max 1 (rectDies (p.x0 + x) (p.y0 + y) r.width r.height).length
  let w : Warrant := { Warrant.zero with
    id := id, hix := id, rec_ := r, x0 := p.x0 + x, y0 := p.y0 + y, space := p.space, parentW := some p.id, holder := some s.lau.war,
    child := true, peeridx := p.peeridx, peers := p.peers,
    memFree := r.memGib * 16384 - fixedUnits (r.width * r.height) r.cls none, memHeld := r.memGib * 16384, wellMib := part }
  let s := s.modWar p.id (fun q => { q with
    memFree := q.memFree - r.memGib * 16384, memHeld := q.memHeld - r.memGib * 16384, wellMib := q.wellMib - part,
    children := q.children + 1 })
  (({ s with wars := s.wars ++ [w], nextId := id + 1 }).mapStacks id, id)

/-- WSPLIT (R346). -/
def execWsplit (d a b : Reg) (s : State) : Res :=
  .next (s.control (fun s => s.withHandle a false (fun wid s =>
    let o := s.int b &&& ~~~63
    let q := s.windowBytes o 64
    let p := s.warById wid
    let x := leAt q 0 2
    let y := leAt q 2 2
    let code := s.splitCode p x y (leAt q 4 2) (leAt q 6 2) (leAt q 8 4) (leAt q 12 4) (leAt q 16 4)
    if code ≠ 0 then s.warrantWait d (handleResult code 0)
    else
      let r := s.childRec p (leAt q 4 2) (leAt q 6 2) (leAt q 8 4) (leAt q 12 4) (leAt q 16 4)
      let (s, id) := s.split p x y r
      (s.windowPut (o + 0x40) r.signed).warrantWait d (handleResult 0 id))))

/-- The memory that a consumed child holds itself passes to the module, from which its record may claim it again (R347). -/
def State.consume (w : Warrant) (s : State) : State :=
  let sp := s.spaceById w.space
  let s := s.freePages w.space ((sp.pages ++ sp.old).filter (·.war == w.id))
  let s := s.modWar w.id (fun w => { w with consumed := true })
  let s := s.modSpace w.space (fun sp => { sp with pages := sp.pages.filter (·.war != w.id), old := sp.old.filter (·.war != w.id) })
  { s with memUsed := s.memUsed - w.memHeld }

/-- WDELEG (R347). -/
def execWdeleg (d a b : Reg) (s : State) : Res :=
  .next (s.control (fun s => s.withHandle a true (fun wid s =>
    let w := s.warById wid
    let o := s.int b &&& ~~~511
    if !w.child ∨ w.launched ∨ w.lseqNext ≠ 0 ∨ !w.rec_.deleg.getLsbD 1 then s.result 4 d 0x0B
    else
      let r : WarRec := { w.rec_ with digest := BitVec.ofNat 256 (leNat (s.windowBytes o 32)) }
      ((s.consume w).windowPut (o + 0x80) r.signed).result 4 d 0)))

/-! ## WSURR, WQRY (R348, R349) -/

/-- The focused context of a deterministic launch learns that a warrant has ended: what that released is an effect that it has
observed (R90, R458). -/
def State.learnsEnd (wid : Nat) (s : State) : State :=
  if !s.lau.det || (s.warById wid).code.isNone then s
  else
    let ls := s.launchesOf wid
    let seen := (s.space.rels.filter (fun r => ls.contains r.by_.launch)).foldl (fun l r => noteMoment (r.by_, r.hi) l) s.cx.seen
    let seen := (s.space.syncs.filter (fun r => ls.contains r.by_.launch)).foldl (fun l r => noteMoment (r.by_, r.at_) l) seen
    { s with cx.seen := seen }

/-- WSURR (R348, R458). -/
def execWsurr (d a : Reg) (s : State) : Res :=
  .next (s.control (fun s => s.withHandle a false (fun wid s =>
    if wid = s.lau.war then s.terminate wid 0x41
    else
      let s := (s.terminate wid 0x41).learnsEnd wid
      s.warrantWait d (((s.warById wid).code.getD 0x41).setWidth 128, false))))

/-- MiB of the well partition that WELLW has not written, on the die where it has written most (R349). -/
def Warrant.wellFree (w : Warrant) : Nat :=
  w.wellMib - ((List.range 8).map (fun d => (w.wellUsed.filter (·.1 == d)).length)).foldl max 0

/-- LEFT of a report (R349). -/
def State.leftTicks (w : Warrant) (s : State) : Nat :=
  match w.code, s.clock with
  | none, some c => ((w.rec_.notAfter - c.hi s.tick) / 10).toNat
  | _, _ => 0

/-- The WQRY report (R349). -/
def State.report (w : Warrant) (s : State) : List Byte :=
  let idle := ((blockCores w.x0 w.y0 w.rec_.width w.rec_.height).filter (fun c => (s.coreAt c).launch.isNone)).length
  leBytes 8 0 ++ leBytes 16 w.rec_.serial.toNat ++ leBytes 1 (w.code.getD 0).toNat ++ leBytes 1 w.rec_.cls ++ leBytes 2 idle ++
  leBytes 2 w.rec_.height ++ leBytes 2 w.rec_.width ++ leBytes 4 w.wellFree ++ leBytes 4 (w.memFree / 16) ++
  leBytes 8 (s.leftTicks w) ++ leBytes 8 w.endTick.toNat ++ leBytes 8 w.rec_.notAfter

/-- WQRY (R349, R458). -/
def execWqry (d a b : Reg) (s : State) : Res :=
  .next (s.withHandle a false (fun wid s =>
    let w := s.warById wid
    ((s.localPut (s.int b) 64 (s.report w)).learnsEnd wid).warrantWait d ((w.code.getD 0).setWidth 128, false)))

/-- The context of a core that waits for a result of the wellhead. -/
def State.warrantWaiter (core : Nat) (s : State) : Option (Nat × Reg × W128 × Bool) :=
  (s.coreAt core).ctxs.findSome? (fun c => match c.wait with
    | some (.warrant rd v t) => some (c.hid, rd, v, t)
    | _ => none)

/-- WARRANT_INSTRUCTION_COMPLETION (R40, R343 to R349): the wellhead's result reaches the context of a core that waits for it; a helper
waits only in WQRY (R318). -/
def execWarrantInstructionCompletion (core : Nat) (s : State) : Res :=
  s.inputOf core (.warrant core) <|
  match s.warrantWaiter core with
  | some (hid, rd, v, t) => .next (s.wake core hid (fun c => (c.put rd v t).done))
  | none => .next s

/-! ## Expiry (R409) -/

/-- Whether the serial of a warrant still waits for a claim: it is not admitted yet (R394). -/
def State.pending (w : Warrant) (s : State) : Bool := s.redeem.any (fun e => e.pending && e.serial == w.rec_.serial)

/-- WARRANT_EXPIRY (R350, R409): a warrant whose NOTAFTER is at most hi ends with EXPIRED_RUNNING. -/
def execWarrantExpiry (war : Nat) (s : State) : Res :=
  let w := s.warById war
  match s.clock with
  | none => .next s
  | some c =>
    if w.id = war ∧ w.code.isNone ∧ !s.pending w ∧ (w.rec_.notAfter : Int) ≤ c.hi s.tick then .next (s.terminate war 0x40)
    else .next s

end Sys2Proof.Machine
end

