-- ==== Sys2Proof/Machine/Relock.lean ====
section
/-! DEFINITION. The end of a relock (R40, R166, R355): what waited at the FIFOs of the die is delivered in its order of arrival. -/

namespace Sys2Proof.Machine

open Sys2Proof

/-- The state of a step that goes on. -/
def Res.state (d : State) : Res → State
  | .next s => s
  | _ => d

/-- A message of the network is delivered, if it can be. -/
def State.deliverMsg (m : Msg) (s : State) : State :=
  match s.net.findIdx? (· == m) with
  | none => s
  | some n =>
    match m.payload with
    | .reply _ false true => Res.state s (execSendCompletion m.dst m.srcHid s)
    | .reply _ _ _ => Res.state s (execRemoteReplyArrival n s)
    | .node _ _ _ _ _ _ | .correction _ _ _ _ => Res.state s (execRedNodeArrival n none s)
    | _ => Res.state s (execRemoteMessageArrival n s)

/-- A release of a tree reaches the context of core `id` that waits for it. -/
def State.deliverRoot (id : Nat) (c : Ctx) (s : State) : State :=
  match c.wait with
  | some (.red _ _ _) => Res.state s (execRedResultDelivery id c.hid s)
  | some (.bar _ _) => Res.state s (execBarRelease id c.hid s)
  | some (.redx _ _ _) => Res.state s (execRedxRelease id c.hid s)
  | _ => s

/-- The operand posts and releases of a core's MMRs go on. -/
def State.deliverMmr (c : Core) (s : State) : State :=
  if c.mmr.isEmpty then s
  else [execMmrTransfer c.id false, execMmrTransfer c.id true, execMmrRelease c.id].foldl (fun s f => Res.state s (f s)) s

/-- What waited at an input of a die's FIFOs enters and has its effect (R355). -/
def State.deliverInput (s : State) (e : DieInput) : State :=
  match e with
  | .reply core hid how bad => Res.state s (execGlobalReply core hid how bad s)
  | .waitwWake core hid spurious => Res.state s (execWaitwWake core hid spurious s)
  | .fetch core hid bad => Res.state s (execInstructionFetchArrival core hid bad s)
  | .line core hid line how => Res.state s (execRegisterLineFill core hid line how s)
  | .fabric f => Res.state s (execRedNodeArrival 0 (some f) s)
  | .mapped core => Res.state s (execVmapCompletion core s)
  | .unmapped core => Res.state s (execVunmapCompletion core s)
  | .warrant core => Res.state s (execWarrantInstructionCompletion core s)
  | .hash core hid differs => Res.state s (execCheckedHashArrival core hid differs s)
  | .launched lid lseq ok => s.answerWaiter lid lseq ok
  | .message m => s.deliverMsg m
  | .corrections n => s.serveFirst n

/-- RELOCK_END (R166, R355): what waited for the relock is delivered in its order of arrival, before any core of the die issues. DEDUCED
(log 94): the results and releases of the trees and what MMRs send, whose moments of arrival are not held, come last. -/
def execRelockEnd (die : Nat) (s : State) : Res :=
  match (s.dies.getD die DieSt.reset).relock with
  | none => .next s
  | some t =>
    let s := { s with tick := max s.tick t }
    let ins := (s.dies.getD die DieSt.reset).inputs ++ s.waitingAt die
    let s := ins.foldl State.deliverInput (s.modDie die (fun d => { d with relock := none, inputs := [] }))
    let s := s.allCores.foldl (fun s c => c.ctxs.foldl (fun s x => s.deliverRoot c.id x) s) s
    .next (s.allCores.foldl (fun s c => s.deliverMmr c) s)

end Sys2Proof.Machine
end

