-- ==== Sys2Proof/Machine/Telemetry.lean ====
section
/-! DEFINITION. Telemetry (R418, R455, R456), scrub (R446 to R448) and the crash records of the sump. -/

namespace Sys2Proof.Machine

open Sys2Proof

/-- A PLDM PlatformEventMessage (R456): the sensor or record number with its value; 256 are queued, the oldest is dropped. -/
def State.platformEvent (id value : Nat) (s : State) : State :=
  let l := s.events ++ [(id, value)]
  { s with events := l.drop (l.length - 256) }

/-- A state sensor takes a value; a change is an event (R455, R456). -/
def State.stateSensor (id value : Nat) (s : State) : State :=
  if Tab.get 0 s.sensors id = value then s
  else ({ s with sensors := Tab.set 0 s.sensors id value }).platformEvent id value

/-- The version of the image that a controller runs. -/
def Ctrl.version (c : Ctrl) : Word := if c.bank then c.bankB.version else c.bankA.version

/-- A crash record (R418); its event carries its SEQ (R456). -/
def State.crash (ctrl : Nat) (kind : BitVec 8) (cause : W32) (pc addr : Word) (s : State) : State :=
  let c := s.ctrls.getD ctrl Ctrl.reset
  let r : Crash :=
    { seq := s.sumpSeq, fwver := c.version, addr := addr, pc := pc, tick := BitVec.ofNat 64 s.tick, boot := s.bootcount,
      cause := cause, kind := kind, bank := c.bank, ctrl := ctrl }
  let l := s.sump ++ [r]
  ({ s with sump := l.drop (l.length - 2048), sumpSeq := s.sumpSeq + 1 }).platformEvent 0x10000 s.sumpSeq

/-- PLATFORM_EVENT_ACKNOWLEDGE (R456): the requester has taken the oldest event. -/
def execPlatformEventAcknowledge (s : State) : Res := .next { s with events := s.events.tail }

/-- DIE_TEMPERATURE_SAMPLE (R445, R455, R456): a crossing of TTHR is an event. -/
def execDieTemperatureSample (die : Fin 8) (degrees : Nat) (s : State) : Res :=
  let old := (s.dies.getD die.val DieSt.reset).temp
  let s' := s.modDie die.val (fun d => { d with temp := degrees })
  let s' := { s' with sensors := Tab.set 0 s'.sensors (1 + die.val) degrees }
  if decide (s.gov.tthr < old) = decide (s.gov.tthr < degrees) then .next s' else .next (s'.platformEvent (1 + die.val) degrees)

/-- The die of a line that scrub reads. -/
def scrubDie (l : ScrubLine) : Nat :=
  match l with
  | .hbm die _ _ => die % 8
  | .well die _ => die % 8
  | .localStore core _ => dieOf core % 8
  | .instruction die _ _ => die % 8

/-- Scrub marks a line poisoned (R448). -/
def State.poisonLine (l : ScrubLine) (s : State) : State :=
  match l with
  | .hbm _ sp line => s.modSpace sp (fun x => { x with poison := insNat x.poison line })
  | .well die line => { s with wellPoison := insNat s.wellPoison (wellLine (line / 2 ^ 24) (die % 8) (line % 2 ^ 24)) }
  | .instruction _ sp line => s.modSpace sp (fun x => { x with ipoison := insNat x.ipoison line })
  | .localStore core line => s.modCore core (fun c => { c with poison := insNat c.poison (line % 16384) })

/-- SCRUB_LINE (R446 to R448, R455): scrub reads and rewrites one line; a corrected one is counted, an uncorrectable one is
poisoned and counted. `behind` is how the pass of the line's die then stands, which its state sensor shows. -/
def execScrubLine (l : ScrubLine) (found : ScrubFinding) (behind : Bool) (s : State) : Res :=
  let s := s.stateSensor (0x59 + scrubDie l) (if behind then 1 else 0)
  match found with
  | .clean => .next s
  | .corrected => .next (s.countSensor 0x40)
  | .uncorrectable => .next ((s.countSensor 0x41).poisonLine l)

/-- SCRUB_PASS_LATE (R447): the scrub-late state sensor of the die is set and the next pass begins, behind nothing yet. The event says that
the deadline has been missed (log 84). -/
def execScrubPassLate (die : Nat) (s : State) : Res :=
  .next (s.stateSensor (0x59 + die % 8) 2)

end Sys2Proof.Machine
end

