-- ==== Sys2Proof/Machine/Standby.lean ====
section
/-! DEFINITION. Eviction, restore and rotation of STANDBY launches (R58 to R61, R104, R128, R240, R247, R252, R296, R314,
R410, R434). -/

namespace Sys2Proof.Machine

open Sys2Proof

/-! ## Eviction (R59) -/

/-- Whether a context of core `id` waits for a peer's reply to a global access, which an eviction lets come in first (R240). -/
def State.peerWait (id : Nat) (s : State) : Bool :=
  (s.coreAt id).ctxs.any (fun c => match c.wait with
    | some (.reply _ _ _ _ _ (some _)) | some (.peerAtomic _ _ _ _ _ _) | some (.accept (some _)) | some (.pref _ _ true) => true
    | _ => false)

/-- Outstanding global accesses of core `id` complete, and PHASEs retire (R240, R252). -/
def State.settle (id : Nat) (s : State) : State :=
  (s.coreAt id).ctxs.foldl (fun s c => match c.wait with
    | some (.reply _ _ _ _ _ none) | some (.accept none) | some (.pref _ _ false) | some (.mirror _ _) => s.globalReplied id c .home
    | some (.phase _) => s.wake id c.hid Ctx.done
    | _ => s) s

/-- The global stores and atomics that a deterministic launch holds for their keys (R437). -/
def heldOp : Instr → Option (State → Res)
  | .stI8 d a o => some (execStI8 d a o)
  | .stI16 d a o => some (execStI16 d a o)
  | .stI32 d a o => some (execStI32 d a o)
  | .st d a o => some (execSt d a o)
  | .stc d a o => some (execStc d a o)
  | .stW3 z d a o => some (execStW3 z d a o)
  | .stcW3 d a o => some (execStcW3 d a o)
  | .amoAdd w d a b => some (execAmoAdd w d a b)
  | .amoAnd w d a b => some (execAmoAnd w d a b)
  | .amoOr w d a b => some (execAmoOr w d a b)
  | .amoXor w d a b => some (execAmoXor w d a b)
  | .amoMin w d a b => some (execAmoMin w d a b)
  | .amoMax w d a b => some (execAmoMax w d a b)
  | .amoMinn w d a b => some (execAmoMinn w d a b)
  | .amoMaxn w d a b => some (execAmoMaxn w d a b)
  | .amoSwap w d a b => some (execAmoSwap w d a b)
  | .cas w d a b => some (execCas w d a b)
  | _ => none

/-- The held operation of context `hid` of core `id`, if it is a global store or atomic, is performed (R240). -/
def State.finishHeld (id hid : Nat) (s : State) : State :=
  let s := s.focusCtx id hid
  match s.space.fetch s.cx.pc.toNat with
  | .ok i _ =>
    match heldOp i with
    | some go =>
      Res.state s (go { s with cx := { s.cx with wait := none, waitk := 0, status := .resident, agreed := true } })
    | none => s
  | _ => s

/-- Insert a held operation in the order of keys. -/
def insOp (x : Nat × Nat × Nat) : List (Nat × Nat × Nat) → List (Nat × Nat × Nat)
  | [] => [x]
  | y :: t => if x.1 < y.1 then x :: y :: t else y :: insOp x t

/-- The held operations of cores: key, core and context, in the order of keys (R437). -/
def State.heldOps (cs : List Nat) (s : State) : List (Nat × Nat × Nat) :=
  let l := cs.flatMap (fun id =>
    let k := s.coreAt id
    let l := s.launchOn k
    (k.ctxs.filter (fun c => c.wait == some .detHold)).map (fun c => (c.key (l.coreIndex (s.warById l.war) id), id, c.hid)))
  l.foldl (fun q x => insOp x q) []

/-- Outstanding global accesses of cores complete, then in the order of their keys those that their homes hold (R240). DEDUCED (log
115). -/
def State.settleAll (cs : List Nat) (s : State) : State :=
  let s := cs.foldl (fun s c => s.settle c) s
  (s.heldOps cs).foldl (fun s x => (s.finishHeld x.2.1 x.2.2).settle x.2.1) s

/-- The releases of MMRs of launch `lid` that have left the root are delivered at core `id` (R296). -/
def State.finishMmrs (lid id : Nat) (s : State) : State :=
  iterate (fun _ s =>
    let c := s.coreAt id
    match c.mmr with
    | [] => s
    | o :: rest =>
      if o.launch != lid || !s.mmrArrived o then s
      else (s.mmrSent o).modCore id (fun k =>
        { ((k.modDesc o.da Desc.swapped).modDesc o.db Desc.swapped) with mmr := rest, mmrOuts := k.mmrOuts + 1 }))
    (s.coreAt id).mmr.length s

/-- The MMRs of launch `lid` in flight on core `id`, on which it has ended, are abandoned (R296). -/
def State.dropMmrs (lid id : Nat) (s : State) : State :=
  let l := (s.coreAt id).mmr.filter (·.launch == lid)
  let s := s.modCore id (fun k =>
    let k := l.foldl (fun (c : Core) (o : MmrOp) => c.mmrReady o) k
    { k with mmr := k.mmr.filter (·.launch != lid), mmrs := k.mmrs - l.length })
  l.foldl (fun s o => (s.descReady id o.da).descReady id o.db) s

/-- The contexts of a core with an operation in flight (R55, R317). -/
def Core.busyHids (c : Core) : List Nat :=
  (c.vop.map (fun v => if v.reads then [] else [v.hid])).getD [] ++ (c.mop.map (fun v => [v.hid])).getD [] ++ c.pumpq.map (·.hid) ++ c.mmr.map (·.hid)

/-- A context whose operation was abandoned: it resumes at its region entry; a wait of it stays (R56, R59). -/
def Ctx.toRegion (c : Ctx) : Ctx := { c.restart with pc := c.region, npc := c.region }

/-- A context goes to its record (R49, R59): its wait stays in WAITK. -/
def Ctx.evict (c : Ctx) : Ctx :=
  let st : Status := match c.status with
    | .resident => .queued
    | .waiting => .waitingOut
    | x => x
  { c.vacate st with lines := 0, lineReq := 0, awaitFetch := true }

/-- Insert a waiter in the order of core index and slot (R247). -/
def insWaiter (key : FeWaiter → Nat) (w : FeWaiter) : List FeWaiter → List FeWaiter
  | [] => [w]
  | x :: t => if key w < key x then w :: x :: t else x :: insWaiter key w t

/-- The 21 counter events in the order of their numbers (R334). -/
def allEvents : List CtrEvent :=
  [.cycles, .regmiss, .actwait, .balcyc, .dryrecv, .accretry, .rampwait, .dlmiss, .failact] ++
  (List.range 12).map (fun n => .issued (Fin.ofNat 12 n))

/-- The eviction image of a core from offset 0x192000 on: st.fflags and st.lfsr as 32-bit words, then from 0x192008 the counters
(R128, R334). -/
def State.imageTail (c : Core) (s : State) : List Byte :=
  leBytes 4 c.fflags.toNat ++ leBytes 4 c.lfsr.toNat ++ allEvents.flatMap (fun e => leBytes 8 (s.counterOf c e).toNat)

/-- What a core reads back from its image's tail (R128, R334). -/
def Core.readTail (bs : List Byte) (c : Core) : Core :=
  let at_ (o n : Nat) : Nat := leNat ((bs.drop o).take n)
  let cyc := at_ 8 8
  { c with
    fflags := BitVec.ofNat 7 (at_ 0 4), lfsr := BitVec.ofNat 32 (at_ 4 4), cycBase := cyc, cycle := cyc,
    counters := (allEvents.zipIdx.drop 1).foldl (fun t e =>
      Tab.set 0 t (eventCode e.1) (BitVec.ofNat 64 (at_ (8 + 8 * e.2) 8))) [] }

/-- The image of a core whose operations have been abandoned (R59, R434); st.fflags, st.lfsr and the counters are in its tail. The waiters
of a deterministic launch stand in the order of their keys (R247, R437). -/
def State.imageOf (l : Launch) (id : Nat) (s : State) : Core :=
  let c := s.coreAt id
  let w := s.warById l.war
  let key (x : FeWaiter) : Nat :=
    let src := if x.own then id else x.src
    l.coreIndex w src * 16 + (((s.ctxAt src x.hid).bind (·.slot)).getD 15)
  { c with
    ctxs := c.ctxs.map Ctx.evict, waiters := if l.det then c.waiters else c.waiters.foldl (fun q x => insWaiter key x q) [],
    promoted := [], woken := [], started := [], lru := [], wbq := [], tlb := [], fflags := 0, lfsr := 0, counters := [], cycBase := 0,
    cycle := 0, ballast := 0, heldMsgs := [], gramp := none, request := none }

/-- The core is released to the claim: nothing runs on it. -/
def State.clearCore (id : Nat) (s : State) : State :=
  let s := s.modCore id Core.halt
  if s.co.id = id then { s with cx := Ctx.zero } else s

/-- The cores on which a launch runs. -/
def Launch.live (l : Launch) : List Nat := l.started.filter (fun c => !l.ended.contains c)

/-- A core's contexts are moved off it, with a release and an acquire at a scope (R59, R104). -/
def State.evictCore (scope id : Nat) (s : State) : State :=
  let hs := (s.coreAt id).busyHids
  let s := s.abandonOps id (fun _ => true)
  let s := hs.foldl (fun s h => s.modCtx id h Ctx.toRegion) s
  (s.coreAt id).ctxs.foldl (fun s c => (s.releaseAt scope id c.hid).acquireAt scope id c.hid) s

/-- One launch is evicted from every core on which it runs, and loses the starts that it was granted (R58, R59, R296, R314). -/
def State.evictOne (scope lid : Nat) (s : State) : State :=
  let l := s.launchById lid
  if l.state ≠ .accepted then s
  else
    let s := l.started.foldl (fun s c => s.finishMmrs lid c) s
    let s := l.live.foldl (fun s c => s.evictCore scope c) s
    let s := l.ended.foldl (fun s c => s.dropMmrs lid c) s
    let held := s.allCores.flatMap (fun c => c.heldMsgs.filter (fun m => m.launch == lid))
    let img := l.live.map (fun c => s.imageOf l c)
    let tails := l.live.map (fun c => (c, s.imageTail (s.coreAt c)))
    let s := l.live.foldl (fun s c => s.clearCore c) s
    let drop (c : Core) : Core := { c with heldMsgs := c.heldMsgs.filter (fun m => m.launch != lid) }
    let s := { s with net := held ++ s.net, co := drop s.co, cores := s.cores.map drop }
    (s.modLaunch lid (fun l => { l with state := .evicted, image := img, tails := tails, granted := l.started })).noteEvicted l.war

/-- A launch and its mirror, by the identifier of either. -/
def State.pairOf (lid : Nat) (s : State) : List Launch := s.pair ((s.launchById lid).mirrorOf.getD lid)

/-- Whether a launch or its mirror has been granted a start. -/
def State.underWay (lid : Nat) (s : State) : Bool := (s.pairOf lid).any (fun l => !l.granted.isEmpty)

/-- No slot of a launch and its mirror issues again, and their outstanding global accesses complete (R59, step 1, R240). -/
def State.stopIssue (lid : Nat) (s : State) : State :=
  let ls := s.pairOf lid
  let s := ls.foldl (fun s l => s.modLaunch l.id (fun l => { l with halted := true })) s
  s.settleAll (ls.flatMap Launch.live)

/-- Whether a context of a launch or its mirror waits for a peer's reply. -/
def State.awaitsPeer (lid : Nat) (s : State) : Bool := (s.pairOf lid).any (fun l => l.live.any (fun c => s.peerWait c))

/-- A launch is evicted with its mirror once its accesses are complete, with the release and acquire of R104 at a scope; until its peers
have replied it only issues no more (R59, R240). -/
def State.evictAt (scope lid : Nat) (s : State) : State :=
  if !s.underWay lid then s
  else
    let s := s.stopIssue lid
    if s.awaitsPeer lid then s else (s.pairOf lid).foldl (fun (s : State) (x : Launch) => s.evictOne scope x.id) s

/-- A launch is evicted by a claim or a rotation: at pkg scope (R104). -/
def State.evict (lid : Nat) (s : State) : State := s.evictAt 2 lid

/-- STANDBY_EVICTION (R58, R59): a claim of a RESERVED or SHARED warrant evicts a STANDBY launch that it touches; an eviction that waited for
a peer goes on. -/
def execStandbyEviction (lid : Nat) (s : State) : Res :=
  let l := s.launchById lid
  if l.id = lid ∧ l.cls = 2 ∧ l.state = .accepted ∧ (l.halted ∨ l.cores.any (fun c => s.heldCore c)) ∧
      !s.leafQuiet (s.pairCores ((l.mirrorOf).getD lid)) then .next (s.evict lid)
  else .next s

/-! ## Restore (R60) -/

/-- A launch at another place. -/
def Launch.movedTo (x y : Nat) (l : Launch) : Launch :=
  let mv (c : Nat) : Nat := (x + l.xrel c) + 64 * (y + l.yrel c)
  { l with px := x, py := y, granted := l.granted.map mv, started := l.started.map mv, ended := l.ended.map mv }

/-- Where a core of a launch stands after its move. -/
def Launch.mapCore (l : Launch) (x y : Nat) (c : Nat) : Nat :=
  if l.has c then (x + l.xrel c) + 64 * (y + l.yrel c) else c

/-- A restored context: the control context holds slot 0, every other one waits for a slot (R60); a WAITW may wake spuriously
(R257). -/
def Ctx.restore (tick : Nat) (mv : Nat → Nat) (c : Ctx) : Ctx :=
  let c : Ctx := { c with
    spur := match c.wait with
      | some (.waitw _ _ _ _ _ _) => true
      | _ => c.spur,
    wait := match c.wait with
      | some (.send t ch e) => some (.send (mv t) ch e)
      | w => w }
  if c.helper then (if c.status = .queued then { c with ready := BitVec.ofNat 64 tick, age := 0 } else c)
  else { c with slot := some 0, status := if c.status = .queued then .resident else if c.status = .waitingOut then .waiting else c.status }

/-- A core's image on its new core (R60, R128, R434). DESIGN CHOICE (log 105): the ready helpers are requeued in the started band, in the
order of the core's context list. -/
def State.restoreImage (mv : Nat → Nat) (img : Core) (tail : List Byte) (s : State) : State :=
  let id := mv img.id
  let now := s.coreAt id
  let q := (img.ctxs.filter (fun c => c.helper && c.status == .queued)).map (·.hid)
  let k : Core := { img.readTail tail with
    id := id, ctxs := img.ctxs.map (Ctx.restore s.tick mv),
    waiters := img.waiters.map (fun (w : FeWaiter) => if w.own then w else { w with src := mv w.src }),
    started := q, readySeq := q.length, cycTick := ((s.dies.getD (dieOf id) DieSt.reset).relock).getD s.tick, grant := now.grant,
    gramp := now.gramp, weightSum := now.weightSum, balSum := now.balSum, poison := now.poison, heldMsgs := now.heldMsgs }
  let k := { k with ctxs := k.ctxs.map (fun (c : Ctx) => { c with readyNo := q.idxOf c.hid }) }
  if s.co.id = id then
    match k.ctxs with
    | [] => { s with cx := Ctx.zero, co := k }
    | x :: xs => { s with cx := x, co := { k with ctxs := xs } }
  else { s with cores := s.cores.filter (·.id != id) ++ [k] }

/-- A restored core's contexts release and acquire at a scope (R104): from now on they count as agents of their new core, after all that
they did on the old one. -/
def State.joinAgain (scope old id : Nat) (s : State) : State :=
  (s.coreAt id).ctxs.foldl (fun s c =>
    let k := s.coreAt id
    let l := s.launchOn k
    let sq := (s.spaceById (s.warById l.war).space).seq
    let was : Agent := { k.agent c.hid with core := old }
    ((s.releaseAt scope id c.hid).acquireAt scope id c.hid).modCtx id c.hid (fun c => { c with
      born := sq, hb := if l.det then noteMoment (was, sq) c.hb else c.hb })) s

/-- The WAITWs of core `id` on words of peers are armed there again (R257). -/
def State.rearm (id : Nat) (s : State) : State :=
  (s.coreAt id).ctxs.foldl (fun s c => match c.wait with
    | some (.waitw _ va _ _ _ _) => if va.toNat / 2 ^ 62 = 1 then s.askPeer (va.toNat / 2 ^ 48 % 2 ^ 14) 40 va [] else s
    | _ => s) s

/-- Whether a tree message belongs to a launch. -/
def Payload.ofLaunch (lid : Nat) : Payload → Bool
  | .node o _ _ _ _ _ | .correction o _ _ _ => o == 2 * lid
  | _ => false

/-- The core index of the router for which a message of a tree of warrant `w` is meant: at fab scope that of the scope's core, else the
participant's (R152, R308). -/
def State.treeIndex (w : Nat) (p : Payload) (s : State) : Option Nat :=
  let at_ (key : ScopeKey) (i : Nat) : Nat := if key.kind = 3 then key.word.toNat else i
  match p with
  | .node o rid l j _ _ =>
    if o = 2 * w + 1 then (s.rounds.find? (·.rid == rid)).map (fun r => at_ r.key (j * 2 ^ l)) else none
  | .correction o key _ _ => if o = 2 * w + 1 then some (at_ key 0) else none
  | _ => none

/-- A message of a launch that is restored elsewhere (R60, R314). -/
def State.movedMsg (l : Launch) (x y : Nat) (m : Msg) (s : State) : Msg :=
  let w := s.warById l.war
  let mv := l.mapCore x y
  if m.launch = l.id ∨ m.payload.ofLaunch l.id then { m with src := mv m.src, dst := mv m.dst }
  else
    match s.treeIndex l.war m.payload with
    | some n => { m with src := mv m.src, dst := if l.hasIndex w n then (l.movedTo x y).ofIndex w n else m.dst }
    | none => m

/-- A round with cores of a launch that is restored elsewhere: of the launch, or of its warrant (R314). -/
def Round.moved (l : Launch) (w : Warrant) (x y : Nat) (r : Round) : Round :=
  let at_ (n c : Nat) : Nat := if l.hasIndex w n then (l.movedTo x y).ofIndex w n else c
  if r.owner = 2 * l.id then { r with cores := r.cores.map (l.mapCore x y) }
  else if r.owner = 2 * l.war + 1 then
    { r with cores := r.cores.zipIdx.map (fun c => at_ (if r.key.kind = 3 then r.key.word.toNat else c.2) c.1) }
  else r

/-- The launch is restored at mesh origin (x, y) (R60, R314), with the release and acquire of R104 at a scope. -/
def State.restoreAt (scope lid x y : Nat) (s : State) : State :=
  let l := s.launchById lid
  let mv := l.mapCore x y
  let dep (k : Launch) : Launch := if k.war = l.war then { k with dep := k.dep.map (fun d => (mv d.1, d.2)) } else k
  let tail (c : Core) : List Byte := ((l.tails.find? (·.1 == c.id)).map (·.2)).getD []
  let s := { s with
    net := s.net.map (fun m => s.movedMsg l x y m), rounds := s.rounds.map (Round.moved l (s.warById l.war) x y),
    launches := s.launches.map dep }
  let s := l.image.foldl (fun s c => ((s.restoreImage mv c (tail c)).joinAgain scope c.id (mv c.id)).rearm (mv c.id)) s
  (s.modLaunch lid (fun l =>
    { (l.movedTo x y) with state := .accepted, halted := false, image := [], tails := [], tick := BitVec.ofNat 64 s.tick })).noteEvicted l.war

/-- The launch is restored on this module (R60, R104). -/
def State.restore (lid x y : Nat) (s : State) : State := s.restoreAt 2 lid x y

/-- Whether a rectangle of the module is free for a STANDBY launch to stand on (R58, R60). -/
def State.freeRect (l : Launch) (x y : Nat) (s : State) : Bool :=
  let cs := blockCores x y l.width l.height
  decide (x + l.width ≤ 64) && decide (y + l.height ≤ 32) &&
  (rectDies x y l.width l.height).all (fun d => let k := s.dies.getD d DieSt.reset; !k.failed && !k.inReset) &&
  cs.all (fun c => !s.heldCore c && (s.coreAt c).idleFor &&
    !s.launches.any (fun k => k.id != l.id && k.state == .accepted && k.has c && !k.ended.contains c && (!k.granted.isEmpty || s.atGovernor k)))

/-- Whether two places of a rectangle share neither a die nor the edge of one (R27). -/
def placesApart (wd h : Nat) (p q : Nat × Nat) : Bool :=
  (rectDies p.1 p.2 wd h).all (fun a => (rectDies q.1 q.2 wd h).all (fun b => diesApart a b))

/-- The mirror of a launch that stands evicted with it. -/
def State.mirrorAway (lid : Nat) (s : State) : Option Launch :=
  s.launches.find? (fun m => m.mirrorOf == some lid && m.state == .evicted)

/-- The places where an evicted mirror may stand when its primary stands at (x, y) (R27, R60). -/
def State.mirrorPlaces (m : Launch) (x y : Nat) (s : State) : List (Nat × Nat) :=
  ((List.range 2048).map (fun i => (i % 64, i / 64))).filter (fun p => placesApart m.width m.height (x, y) p &&
    !s.leafQuiet (blockCores p.1 p.2 m.width m.height) && s.freeRect m p.1 p.2)

/-- An evicted launch is restored on a free rectangle of its shape, a checked one with its mirror, whose place the leaf controllers choose
(R27, R60). -/
def State.restorePair (lid x y : Nat) (s : State) : State :=
  let l := s.launchById lid
  if l.state ≠ .evicted ∨ s.leafQuiet (blockCores x y l.width l.height) ∨ (l.mirrorOf.any (fun p => (s.launchById p).state != .done)) ∨ !s.freeRect l x y then s
  else
    match s.mirrorAway lid with
    | none => (s.restore lid x y).serveCorrs
    | some m =>
      match s.mirrorPlaces m x y with
      | [] => s
      | p :: ps =>
        let q := (p :: ps).getD (Config.placePick s.picks % (ps.length + 1)) p
        ((({ s with picks := s.picks + 1 }).restore lid x y).restore m.id q.1 q.2).serveCorrs

/-- STANDBY_RESTORE (R60): an evicted launch is restored on a free rectangle of its shape. -/
def execStandbyRestore (lid x y : Nat) (s : State) : Res :=
  if (s.launchById lid).id = lid then .next (s.restorePair lid x y) else .next s

/-- The STANDBY launches placed on cores of launch `a` that could run there now, in placement order (R61): no earlier launch of its own
warrant is still to end there (R30). -/
def State.sharers (a : Launch) (s : State) : List Nat :=
  (s.launches.filter (fun b => b.cls == 2 && b.id != a.id && b.mirrorOf != some a.id && b.cores.any a.has && !b.cores.any (fun c => s.heldCore c) &&
    !s.launches.any (fun x => x.war == b.war && decide (x.id < b.id) && some x.id != b.mirrorOf && x.state != .done &&
      b.cores.any (fun c => x.has c && !x.ended.contains c)) &&
    (b.state == .evicted || (b.state == .accepted && b.granted == [])))).map (·.id)

/-- The launch in whose favour launch `a` is evicted: the next after it in placement order, after the last the first (R61). -/
def State.nextSharer (a : Launch) (s : State) : Option Nat :=
  let l := s.sharers a
  ((l.filter (fun b => decide (a.id < b))).head?).or l.head?

/-- STANDBY_ROTATION (R61): of STANDBY launches placed on the same free cores, the one that has run for 1,000,000 ticks is
evicted in favour of the next. -/
def execStandbyRotation (out into : Nat) (s : State) : Res :=
  let a := s.launchById out
  let b := s.launchById into
  if a.id = out ∧ a.cls = 2 ∧ a.state = .accepted ∧ a.live ≠ [] ∧ s.nextSharer a = some into ∧ a.tick.toNat + 1000000 ≤ s.tick ∧
      !s.leafQuiet (s.pairCores (a.mirrorOf.getD out)) then
    .next ((s.evict out).restorePair into b.px b.py)
  else .next s

/-! ## The hold limit (R410) -/

/-- Ticks of an hour. -/
def hourTicks : Nat := 360000000000

/-- STANDBY_HOLD_EXPIRY (R410): a STANDBY warrant that has stood wholly evicted for the hold limit ends. -/
def execStandbyHoldExpiry (war : Nat) (s : State) : Res :=
  let w := s.warById war
  match w.evicted with
  | some t =>
    if w.id = war ∧ w.rec_.cls = 2 ∧ w.code.isNone ∧ t + s.cfg.stbyhold * hourTicks ≤ s.tick then .next (s.terminate war 0x42)
    else .next s
  | none => .next s

end Sys2Proof.Machine
end

