-- ==== Sys2Proof/Machine/Wellhead.lean ====
section
/-! DEFINITION. The wellhead endpoint: admission messages, presentations, redemption across modules, trusted time, migration and
ANNOUNCE (R390 to R412, R415). -/

namespace Sys2Proof

/-- A field of a message's body; a byte that the body does not hold reads as zero. -/
def AdmMsg.at (m : AdmMsg) (off n : Nat) : Nat := Machine.leAt m.body off n
/-- `n` bytes of a message's body from `off`. -/
def AdmMsg.bytes (m : AdmMsg) (off n : Nat) : List Byte := ((m.body.drop off).take n ++ List.replicate n 0).take n
/-- Whether bytes of the body are zero. -/
def AdmMsg.zero (m : AdmMsg) (off n : Nat) : Bool := m.at off n == 0

end Sys2Proof

namespace Sys2Proof.Machine

open Sys2Proof

/-! ## The header and NAK (R392) -/

/-- Bytes of zero. -/
def zeros (n : Nat) : List Byte := List.replicate n 0

/-- NAK: its code is 1 UNSUP, 2 RESV, 3 NOJOB or 4 ORDER. Each kind is counted (R392, R455). -/
def State.nak (code opc : Nat) (m : AdmMsg) (s : State) : State :=
  let s := { s with naks := Tab.set 0 s.naks code ((Tab.get 0 s.naks code + 1) % 2 ^ 64) }
  (s.countSensor 0x43).emit m.conn 0xFF m.tag (leBytes 1 code ++ leBytes 1 opc ++ zeros 6)

/-- Whether the wellhead endpoint answers (R391, R414): not before boot step 7 and not in recovery mode. -/
def State.answers (s : State) : Bool := s.booted && !s.recovery

/-! ## Presentations (R394, R399, R400) -/

/-- VERDICT (R393). -/
def State.verdict (p : Presn) (code : BitVec 8) (detail : Nat) (w : Warrant) (s : State) : State :=
  s.emit p.conn 0x81 p.tag ([code] ++ leBytes 1 detail ++ zeros 2 ++ leBytes 4 w.job ++ leBytes 8 w.key.toNat ++ leBytes 16 w.vi.toNat)

/-- Whether every object of a presentation has come. -/
def Presn.complete (p : Presn) : Bool := p.objs.length == p.nobj
/-- The objects in INDEX order (R394). -/
def Presn.objects (p : Presn) : List (List Byte) := p.objs.map (·.2)
/-- Insert an object in INDEX order. -/
def insObj (i : Nat) (b : List Byte) : List (Nat × List Byte) → List (Nat × List Byte)
  | [] => [(i, b)]
  | x :: t => if i < x.1 then (i, b) :: x :: t else x :: insObj i b t

/-- The presentation of a connection leaves the wellhead. -/
def State.dropPresn (conn : Nat) (s : State) : State := { s with presns := s.presns.filter (·.conn != conn) }
/-- The open presentation of a connection. -/
def State.presnOf (conn : Nat) (s : State) : Option Presn := s.presns.find? (·.conn == conn)

/-- The decision on a presentation (R399), none while it waits for another of its serial, after which it goes on from check 8 (R400). -/
def State.decidePresn (p : Presn) (s : State) : Option State :=
  match s.judge p.past p.rec_ p.raw p.objects none p.conn p.peeridx with
  | (s, .later, _) =>
    if p.past then none
    else some { s with presns := s.presns.map (fun (q : Presn) => if q.conn = p.conn then { q with past := true } else q) }
  | (s, .refused e, _) => some ((s.dropPresn p.conn).verdict p e.1 e.2 Warrant.zero)
  | (s, .reserved id none, im) =>
    let s := (s.dropPresn p.conn).admitWarrant id im
    some (s.verdict p 0 0 (s.warById id))
  | (s, .reserved id (some h), _) =>
    let s := { s with presns := s.presns.map (fun (q : Presn) => if q.conn = p.conn then { q with claimed := some id } else q) }
    some (s.beginClaim p.rec_ h (some p.conn) none)

/-- Whether NOBJ of a presentation lies outside 1 to 16 (R394). -/
def Presn.miscounted (p : Presn) : Bool := decide (p.nobj < 1) || decide (16 < p.nobj)

/-- The first presentation that can be decided, of the 16 that the wellhead works on (R394), is decided; while a switch quiesces the hub,
they are held (R422). -/
def State.settleOne (s : State) : State :=
  if s.quiesced 8 then s
  else
    ((s.presns.take 16).findSome? (fun p =>
      if p.miscounted then some ((s.dropPresn p.conn).verdict p 0x0A 0 Warrant.zero)
      else if p.complete && p.claimed.isNone then s.decidePresn p else none)).getD s

/-- A WPRES that waited for another presentation of its serial goes on from check 8 (R400). -/
def State.decideSecond (core : Nat) (c : Ctx) (s : State) : State :=
  match c.wait with
  | some (.second rd raw) =>
    let r := WarRec.ofBytes raw
    let end_ (v : W128 × Bool) (s : State) : State := s.wake core c.hid (fun c => (c.put rd v.1 v.2).done)
    match s.judge true r raw [] (some (s.launchOn (s.coreAt core)).war) 0 0 with
    | (_, .later, _) => s
    | (s, .refused e, _) => end_ (handleResult e.1 0) s
    | (s, .reserved id none, _) => end_ (handleResult 0 id) (s.admitWarrant id none)
    | (s, .reserved _ (some h), _) =>
      (s.beginClaim r h none (some core)).modCtx core c.hid (fun c => { c with wait := some (.claim rd r.serial) })
  | _ => s

/-- Every presentation that can be decided is, those of WPRES included. -/
def State.settlePresns (s : State) : State :=
  let s := iterate (fun _ s => s.settleOne) (2 * s.presns.length) s
  s.allCores.foldl (fun s c => c.ctxs.foldl (fun s x => s.decideSecond c.id x) s) s

/-- The end of the hub's switch has come: the presentations that it held are decided (R422). -/
def State.hubBack (s : State) : State :=
  ({ s with ctrls := s.ctrls.modify 8 (fun c => { c with quiet := none }) }).settlePresns

/-- Whether the end of the hub's switch has come. -/
def State.hubDue (s : State) : Bool := (s.ctrls.getD 8 Ctrl.reset).quiet.any (fun t => decide (t ≤ s.tick))

/-- A WPRES that waits on a serial: the claimant's takes its result, one whose claim an engine reset has dropped is issued again (R344,
R417). -/
def Ctx.claimEnd (serial : W128) (tick : Nat) (v : W128 × Bool) (c : Ctx) : Ctx :=
  match c.wait with
  | some (.claim rd x) =>
    if x ≠ serial then c else if c.npc = c.pc then c.wakeUp tick else ((c.put rd v.1 v.2).done).wakeUp tick
  | _ => c

/-- A core's contexts after the decision on a serial. -/
def Core.claimEnd (serial : W128) (tick : Nat) (v : W128 × Bool) (c : Core) : Core :=
  { c with ctxs := c.ctxs.map (Ctx.claimEnd serial tick v) }

/-- The decision on a serial reaches every context that waits on it, evicted ones included. -/
def State.serialDecided (serial : W128) (v : W128 × Bool) (s : State) : State :=
  { s with
    cx := s.cx.claimEnd serial s.tick v, co := s.co.claimEnd serial s.tick v,
    cores := s.cores.map (Core.claimEnd serial s.tick v),
    launches := s.launches.map (fun (l : Launch) => { l with image := l.image.map (Core.claimEnd serial s.tick v) }) }

/-- The warrant reserved for a serial that is still pending. -/
def State.reservedFor (serial : W128) (s : State) : Option Warrant :=
  s.wars.find? (fun w => w.rec_.serial == serial && w.code.isNone && s.pending w && !w.child)

/-- Check 14 is decided (R399, R406): no refusal admits. A claim whose presenter has ended admits nothing. -/
def State.resolveClaim (c : ClaimSt) (r : Option Refused) (s : State) : State :=
  let s := { s with claims := s.claims.filter (·.serial != c.serial) }
  match s.reservedFor c.serial with
  | none => s
  | some w =>
    let s :=
      match c.conn with
      | some conn =>
        match s.presnOf conn with
        | none => s.unreserve w.id
        | some p =>
          let s := s.dropPresn conn
          match r with
          | some e => (s.unreserve w.id).verdict p e.1 e.2 Warrant.zero
          | none =>
            let s := s.admitWarrant w.id ((p.objects.map Obj.parse).mapM id |>.bind link)
            s.verdict p 0 0 (s.warById w.id)
      | none =>
        match r with
        | some e => (s.unreserve w.id).serialDecided c.serial (handleResult e.1 0)
        | none =>
          if (s.warById (w.parentW.getD 0)).code.isSome then s.unreserve w.id
          else (s.admitWarrant w.id none).serialDecided c.serial (handleResult 0 w.id)
    (s.serialDecided c.serial (0, false)).settlePresns

/-- A presentation is abandoned without consuming its serial (R394). -/
def State.abandonPresn (p : Presn) (s : State) : State :=
  let s := s.dropPresn p.conn
  let s :=
    match p.claimed with
    | none => s
    | some id =>
      let s := { s with claims := s.claims.filter (·.serial != p.rec_.serial) }
      (s.unreserve id).serialDecided p.rec_.serial (0, false)
  s.settlePresns

/-- The checks that every admission message meets first (R392, R394): `rsv` says that a reserved bit of its body is nonzero. -/
def State.receive (opc : Nat) (m : AdmMsg) (rsv : Bool) (go : State → State) (s : State) : Res :=
  if !s.answers then .next s
  else if m.ver ≠ 1 then .next (s.nak 1 opc m)
  else if m.rsv || rsv then .next (s.nak 2 opc m)
  else
    match s.presnOf m.conn with
    | some p => .next ((s.abandonPresn p).nak 4 opc m)
    | none => .next (go s)

/-- PRESENT (R393, R394): a presentation opens. -/
def execPresent (m : AdmMsg) (s : State) : Res :=
  s.receive 0x01 m (!m.zero 388 4) (fun s =>
    let raw := m.bytes 0 384
    let p : Presn :=
      { conn := m.conn, tag := m.tag, rec_ := WarRec.ofBytes raw, raw := raw, nobj := m.at 384 2, peeridx := m.at 386 2,
        objs := [], claimed := none, past := false }
    if p.miscounted && !s.quiesced 8 then s.verdict p 0x0A 0 Warrant.zero
    else { s with presns := s.presns ++ [p] })

/-- OBJECT (R394): one object of the connection's presentation; the last one brings the decision (R399). -/
def execObject (m : AdmMsg) (s : State) : Res :=
  if !s.answers then .next s
  else if m.ver ≠ 1 then .next (s.nak 1 0x02 m)
  else if m.rsv || !m.zero 2 6 then .next (s.nak 2 0x02 m)
  else
    match s.presnOf m.conn with
    | none => .next (s.nak 4 0x02 m)
    | some p =>
      let i := m.at 0 2
      if p.nobj ≤ i ∨ p.objs.any (·.1 == i) ∨ p.complete then .next ((s.abandonPresn p).nak 4 0x02 m)
      else
        let s := { s with presns := s.presns.map (fun (q : Presn) =>
          if q.conn = p.conn then { q with objs := insObj i (m.body.drop 8) q.objs } else q) }
        .next s.settlePresns

/-! ## Messages to a running warrant (R393 to R396, R405) -/

/-- The running warrant that a message's JOB and KEY name (R393). -/
def State.jobOf (m : AdmMsg) (s : State) : Option Warrant :=
  s.wars.find? (fun w => w.code.isNone && !w.child && !s.pending w && w.job == m.at 0 4 && w.key.toNat == m.at 8 8)

/-- A message that names a JOB: NOJOB when no running warrant matches. -/
def State.forJob (opc : Nat) (m : AdmMsg) (rsv : Bool) (go : Warrant → State → State) (s : State) : Res :=
  s.receive opc m (rsv || !m.zero 4 4) (fun s =>
    match s.jobOf m with
    | none => s.nak 3 opc m
    | some w => go w s)

/-- LAUNCH (R332, R395): refused at once with the cause that LAUNCH would trap with, else answered at its acceptance. -/
def execLaunchMessage (m : AdmMsg) (s : State) : Res :=
  s.forJob 0x03 m false (fun w s =>
    let b := LBlock.ofBytes (m.bytes 16 1024)
    match s.blockErr w.id b 0 0 with
    | some (c, _) => s.emit m.conn 0x83 m.tag (launchedBody 0xE0 c 0)
    | none => (s.addLaunch w.id b (some (m.conn, m.tag))).1)

/-- QUERY (R349, R393). -/
def execQuery (m : AdmMsg) (s : State) : Res :=
  s.forJob 0x04 m false (fun w s => s.emit m.conn 0x84 m.tag (s.report w))

/-- SURRENDER (R350, R396): ENDED answers it, and goes to the admitting connection. -/
def execSurrender (m : AdmMsg) (s : State) : Res :=
  s.forJob 0x05 m false (fun w s => (s.terminate w.id 0x41).emit m.conn 0x85 m.tag (endedBody w 0x41 s.tick))

/-- The entries that GROUP writes. -/
def groupEntries (m : AdmMsg) (n : Nat) : List PeerEnt :=
  (List.range n).map (fun i => { vi := BitVec.ofNat 128 (m.at (24 + 20 * i) 16), job := m.at (40 + 20 * i) 4, used := true })

/-- GROUP (R393, R405). -/
def execGroup (m : AdmMsg) (s : State) : Res :=
  s.forJob 0x06 m (!m.zero 20 4) (fun w s =>
    let first := m.at 16 2
    let n := m.at 18 2
    if n < 1 ∨ 1024 < n ∨ w.rec_.fgsize < first + n then s.emit m.conn 0x86 m.tag ([1] ++ zeros 7)
    else
      let put (t : Tab PeerEnt) : Tab PeerEnt :=
        (groupEntries m n).zipIdx.foldl (fun t e => Tab.set PeerEnt.none t (first + e.2) e.1) t
      let s := { s with wars := s.wars.map (fun (x : Warrant) => if x.space = w.space then { x with peers := put x.peers } else x) }
      s.emit m.conn 0x86 m.tag ([0] ++ zeros 7))

/-! ## Trusted time (R407, R408) -/

/-- Whether an issuer key holds a role bit (R398). -/
def State.hasRole (issuer : BitVec 256) (b : Nat) (s : State) : Bool := s.keys.any (fun k => k.hash == issuer && k.mask.getLsbD b)

/-- The clock after a beacon, none when it is not accepted. -/
def State.nextClock (m : AdmMsg) (s : State) : Option Clock :=
  let issuer := BitVec.ofNat 256 (m.at 32 32)
  let seq := m.at 8 8
  let a : Int := (m.at 16 8 : Int) - m.at 24 8
  let b : Int := (m.at 16 8 : Int) + m.at 24 8
  if m.at 0 2 ≠ 1 ∨ !s.hasRole issuer 3 ∨ !Config.sm2Verify issuer (m.bytes 0 64) (m.bytes 64 64) then none
  else
    match s.clock with
    | none => some { seq := seq, t0 := s.tick, lo0 := a, hi0 := b }
    | some c =>
      let lo := c.lo s.tick
      let hi := c.hi s.tick
      if seq ≤ c.seq ∨ b < lo ∨ hi < a then none else some { seq := seq, t0 := s.tick, lo0 := max lo a, hi0 := min hi b }

/-- BEACON (R407): accepted, or dropped and counted. -/
def execBeacon (m : AdmMsg) (s : State) : Res :=
  s.receive 0x10 m (!m.zero 2 6) (fun s =>
    match s.nextClock m with
    | none => { s with beaconDrops := s.beaconDrops + 1 }
    | some c => { s with clock := some c, annDone := true })

/-! ## Redemption across modules (R406) -/

/-- CLAIMED (R393, R406), signed by the home. -/
def claimedBody (result : Nat) (serial : W128) (claimant : BitVec 256) : List Byte :=
  let b := leBytes 1 result ++ zeros 7 ++ leBytes 16 serial.toNat ++ digBytes claimant
  b ++ (Config.sm2Sign b ++ zeros 64).take 64

/-- The home's answer to a claim: its table after it, and RESULT. -/
def claimAt (t : List HomeEnt) (serial : W128) (claimant newer : BitVec 256) (notAfter : Nat) (transfer : Bool) : List HomeEnt × Nat :=
  let who := if transfer then newer else claimant
  match t.find? (·.serial == serial) with
  | none => ({ serial := serial, claimant := who, notAfter := notAfter } :: t, 0)
  | some e =>
    if e.claimant = claimant then (t.map (fun (x : HomeEnt) => if x.serial = serial then { x with claimant := who } else x), 0)
    else (t, 1)

/-- CLAIM at a home (R406): one that the directory or its signature does not bear out is dropped. -/
def execClaim (m : AdmMsg) (s : State) : Res :=
  s.receive 0x11 m (!m.zero 57 7) (fun s =>
    let serial := BitVec.ofNat 128 (m.at 0 16)
    let claimant := BitVec.ofNat 256 (m.at 24 32)
    if !s.inDirectory claimant ∨ 1 < m.at 56 1 ∨ !Config.sm2Verify claimant (m.bytes 0 96) (m.bytes 96 64) then s
    else
      let r := claimAt s.homeTab serial claimant (BitVec.ofNat 256 (m.at 64 32)) (m.at 16 8) (m.at 56 1 == 1)
      ({ s with homeTab := r.1 }).emit m.conn 0x91 m.tag (claimedBody r.2 serial claimant))

/-- CLAIMED (R399, R406): the home's answer decides check 14; one whose signature fails is ignored. -/
def execClaimed (m : AdmMsg) (s : State) : Res :=
  s.receive 0x91 m (!m.zero 1 7) (fun s =>
    let serial := BitVec.ofNat 128 (m.at 8 16)
    match s.claims.find? (·.serial == serial) with
    | none => s
    | some c =>
      if BitVec.ofNat 256 (m.at 24 32) ≠ s.idHash ∨ 1 < m.at 0 1 ∨ !Config.sm2Verify c.home (m.bytes 0 56) (m.bytes 56 64) then s
      else s.resolveClaim c (if m.at 0 1 = 0 then none else some (0x06, 4)))

/-- CLAIM_RESEND (R406): every 1,000,000 ticks until a reply arrives or the timeout passes. -/
def execClaimResend (serial : W128) (s : State) : Res :=
  match s.claims.find? (·.serial == serial), s.reservedFor serial with
  | some c, some w =>
    if s.tick < c.last + 1000000 then .next s
    else
      let s := { s with claims := s.claims.map (fun (x : ClaimSt) => if x.serial = serial then { x with last := s.tick } else x) }
      .next (s.emit (2 ^ 128 + c.addr) 0x11 0 (s.claimBody serial w.rec_.notAfter 0 0))
  | _, _ => .next s

/-- CLAIM_TIMEOUT (R406, R424): refused with REDEEMED_ELSEWHERE, DETAIL 0x03. -/
def execClaimTimeout (serial : W128) (s : State) : Res :=
  match s.claims.find? (·.serial == serial) with
  | none => .next s
  | some c => if s.tick < c.began + c.limit then .next s else .next (s.resolveClaim c (some (0x06, 3)))

/-- REDEMPTION_ENTRY_EXPIRY (R400): an entry leaves once the trusted lower bound exceeds its NOTAFTER. -/
def execRedemptionEntryExpiry (serial : W128) (s : State) : Res :=
  match s.clock with
  | none => .next s
  | some c => .next { s with
      redeem := s.redeem.filter (fun e => !(e.serial == serial && !e.pending && decide ((e.notAfter : Int) < c.lo s.tick))) }

/-! ## Live migration (R411, R412) -/

/-- The warrants that move with a warrant: those that share its address space. -/
def State.family (w : Warrant) (s : State) : List Warrant := s.wars.filter (fun x => x.space == w.space && x.code.isNone)

/-- Whether a key that holds MIGRATE signed an order (R398, R411). -/
def State.validOrder (m : AdmMsg) (s : State) : Bool :=
  let issuer := BitVec.ofNat 256 (m.at 64 32)
  s.hasRole issuer 4 && Config.sm2Verify issuer (m.bytes 0 96) (m.bytes 96 64)

/-- The running warrant that a valid MIGRATE order names. -/
def State.orderOf (m : AdmMsg) (s : State) : Option Warrant :=
  if !s.validOrder m then none
  else s.wars.find? (fun w =>
    w.rec_.serial == BitVec.ofNat 128 (m.at 0 16) && w.code.isNone && !w.child && !w.nested && !s.pending w)

/-- The launches that a migration evicts. -/
def State.movable (w : Warrant) (s : State) : List Launch :=
  s.launches.filter (fun l => (s.family w).any (·.id == l.war) && l.state == .accepted && l.granted != [])

/-- Whether a collective's owner is a launch or a warrant that moves. -/
def State.movesOwner (w : Warrant) (s : State) (o : Nat) : Bool :=
  (s.family w).any (fun x => o == 2 * x.id + 1 || s.launches.any (fun l => l.war == x.id && o == 2 * l.id))

/-- What goes to the destination over UE RMA once every launch is evicted (R411, step 2). -/
def State.moving (w : Warrant) (m : AdmMsg) (s : State) : Moving :=
  let ids := (s.family w).map (·.id)
  let ls := s.launches.filter (fun l => ids.contains l.war && l.state != .done)
  let base (n : Nat) : Nat := ((s.corrLog.take n).filter (fun r => s.movesOwner w r.owner)).length
  { dest := BitVec.ofNat 256 (m.at 16 32), conn := m.conn, tag := m.tag, wars := s.family w, space := s.spaceById w.space,
    launches := ls.map (fun l => { l with image := l.image.map (fun (c : Core) => { c with corrBase := base c.corrBase }) }),
    wells := s.wells.filter (fun x => ids.contains x.1), rounds := s.rounds.filter (fun r => s.movesOwner w r.owner),
    corrs := s.corrLog.filter (fun r => s.movesOwner w r.owner),
    net := s.net.filter (fun x => ls.any (fun l => l.id == x.launch) || (match x.payload with
      | .node o _ _ _ _ _ | .correction o _ _ _ => s.movesOwner w o
      | _ => false)) }

/-- Whether a context that would move waits for a peer's reply (R240). -/
def State.peersOut (w : Warrant) (s : State) : Bool := (s.movable w).any (fun l => l.live.any (fun c => s.peerWait c))

/-- A warrant that moved away leaves nothing at the source (R411, step 6); its serial stays marked. -/
def State.leave (w : Warrant) (s : State) : State :=
  let fam := s.family w
  let ids := fam.map (·.id)
  let s := s.haltLaunches ((s.launches.filter (fun l => ids.contains l.war)).map (·.id))
  let s := (fam.filter (·.child) ++ fam.filter (fun x => !x.child)).foldl (fun s x =>
    (s.modWar x.id (fun y => { y with code := some 0x41 })).giveBack (s.warById x.id) 0x41) s
  { s with
    wars := s.wars.filter (fun x => !ids.contains x.id), launches := s.launches.filter (fun l => !ids.contains l.war),
    spaces := s.spaces.filter (·.id != w.space), wells := s.wells.filter (fun x => !ids.contains x.1),
    redeem := s.redeem.map (fun (e : Redeem) => if fam.any (·.rec_.serial == e.serial) then { e with moved := true } else e) }

/-- MOVED (R393). -/
def movedBody (vi : W128) (job : Nat) : List Byte := leBytes 16 vi.toNat ++ leBytes 4 job ++ zeros 4

/-- MOVED goes unprompted to the admitting connection and to every address of the peer table (R412). -/
def State.tellMoved (w : Warrant) (vi : W128) (job : Nat) (s : State) : State :=
  w.peers.foldl (fun s e => s.emit (2 ^ 128 + e.2.vi.toNat) 0x93 0 (movedBody vi job)) (s.emit w.conn 0x93 0 (movedBody vi job))

/-- A homed warrant's serial passes to the destination at its home (R411, step 5). -/
def State.transfer (w : Warrant) (dest : BitVec 256) (s : State) : State :=
  if w.rec_.mode ≠ 1 then s
  else if w.rec_.binding = s.idHash then
    { s with homeTab := (claimAt s.homeTab w.rec_.serial s.idHash dest w.rec_.notAfter true).1 }
  else s.sendModule w.rec_.binding 0x11 (s.claimBody w.rec_.serial w.rec_.notAfter 1 dest)

/-- The warrant in whose rectangle a warrant lies: itself, or the one that a chain of splits begins with. -/
def rootOf (ws : List Warrant) : Nat → Warrant → Warrant
  | 0, w => w
  | n + 1, w => if w.child then rootOf ws n ((ws.find? (fun x => some x.id == w.parentW)).getD w) else w

/-- The origin of a launch of a transfer when the rectangle of warrant `w`, in which it lies, has its origin at `p`. -/
def Moving.originOf (v : Moving) (w : Warrant) (p : Nat × Nat) (l : Launch) : Nat × Nat :=
  let k := (v.wars.find? (·.id == l.war)).getD w
  (p.1 + (k.x0 - w.x0) + l.ox, p.2 + (k.y0 - w.y0) + l.oy)

/-- Whether the two rectangles of every checked launch within a warrant that migrates stay apart when the warrant's rectangle has its
origin at `p` (R27). -/
def Moving.apart (v : Moving) (w : Warrant) (p : Nat × Nat) : Bool :=
  v.launches.all (fun l =>
    (rootOf v.wars v.wars.length ((v.wars.find? (·.id == l.war)).getD Warrant.zero)).id != w.id ||
    v.launches.all (fun m => m.mirrorOf != some l.id || placesApart l.width l.height (v.originOf w p l) (v.originOf w p m)))

/-- The warrants that migrate find their places, those that hold resources of the module one after another: checks 12 and 13 of R399
without checks 1 to 11 (R411, step 3). A child's memory lies in its parent's grant. -/
def State.settleIn (v : Moving) (s : State) : Refused ⊕ (State × List (Nat × Warrant)) :=
  v.wars.foldl (fun (p : Refused ⊕ (State × List (Nat × Warrant))) w =>
    match p with
    | .inl e => .inl e
    | .inr (s, done) =>
      if w.child then .inr ({ s with memUsed := s.memUsed + w.memHeld }, done)
      else
        match s.check12 w.rec_ none none (v.apart w) with
        | .inl e => .inl e
        | .inr (x, y, vi) =>
          let w' := { w with x0 := x, y0 := y, vi := vi, job := s.freshJob, key := Config.viKey s.picks }
          let s := { s with
            wars := s.wars ++ [w'], picks := s.picks + 1, memUsed := s.memUsed + w.memHeld,
            redeem := { serial := w.rec_.serial, notAfter := w.rec_.notAfter, pending := false, moved := false, cls := w.rec_.cls } ::
              s.redeem.filter (fun e => e.serial != w.rec_.serial) }
          .inr (s, done ++ [(w.id, w')])) (.inr (s, []))

/-- Where core `c` of warrant `w` of a transfer stands on this module. -/
def Moving.core (v : Moving) (placed : List (Nat × Warrant)) (w : Nat) (c : Nat) : Nat :=
  let root := rootOf v.wars v.wars.length ((v.wars.find? (·.id == w)).getD Warrant.zero)
  match placed.find? (·.1 == root.id) with
  | none => c
  | some p => (p.2.x0 + (c % 64 - root.x0)) + 64 * (p.2.y0 + (c / 64 - root.y0))

/-- A launch of a transfer on this module, before its restore: an evicted one keeps its place at the source, from which the restore moves
it. -/
def Moving.launch (v : Moving) (placed : List (Nat × Warrant)) (corrs : Nat) (l : Launch) : Launch :=
  let l := { l with
    dep := l.dep.map (fun d => (v.core placed l.war d.1, d.2)),
    image := l.image.map (fun (c : Core) => { c with corrBase := c.corrBase + corrs }) }
  if l.state = .evicted then l
  else
    let o := v.core placed l.war (l.px + 64 * l.py)
    { l with px := o % 64, py := o / 64 }

/-- A transfer whose warrant has found its place arrives (R411, steps 3 and 4): its space, wells, launches and collective state. DEDUCED
(log 117). -/
def State.arrive (v : Moving) (placed : List (Nat × Warrant)) (s : State) : State :=
  let rids := (s.rounds.map (·.rid)).foldl max 0
  let at_ (w c : Nat) : Nat := v.core placed w c
  let kids := (v.wars.filter (·.child)).map (fun w =>
    let o := at_ w.id (w.x0 + 64 * w.y0)
    { w with x0 := o % 64, y0 := o / 64 })
  let well (x : Nat × Nat × List Host.Cell) : Option (Nat × Nat × List Host.Cell) :=
    let old := ((v.wars.find? (·.id == x.1)).getD Warrant.zero).dies
    let new := (((s.wars ++ kids).find? (·.id == x.1)).getD Warrant.zero).dies
    (new[old.idxOf x.2.1]?).map (fun d => (x.1, d, x.2.2))
  let round (r : Round) : Round :=
    { r with rid := r.rid + rids, cores := if r.owner % 2 = 1 then r.cores.map (at_ (r.owner / 2)) else r.cores }
  let msg (m : Msg) : Msg := match m.payload with
    | .node o rid l j right x => { m with payload := .node o (rid + rids) l j right x }
    | _ => m
  let ids := v.space.id :: (v.wars.map (·.id) ++ v.wars.map (·.hix) ++ v.launches.map (fun l => l.id + 1))
  { s with
    spaces := v.space :: s.spaces, wars := s.wars ++ kids, wells := v.wells.filterMap well ++ s.wells,
    launches := s.launches ++ v.launches.map (v.launch placed s.corrLog.length),
    rounds := s.rounds ++ v.rounds.map round, net := s.net ++ v.net.map msg,
    corrLog := s.corrLog ++ v.corrs, nextId := max s.nextId (ids.foldl max 0 + 1) }

/-- The launches of a transfer are restored as R60 states, with the release and acquire of R104 at fab scope; those of a STANDBY warrant
whose cores are not free, or whose mirror would not stand apart, stay evicted (R27, R411, step 4). -/
def State.restoreMoved (v : Moving) (placed : List (Nat × Warrant)) (s : State) : State :=
  let at_ (l : Launch) : Nat × Nat := let o := v.core placed l.war (l.px + 64 * l.py); (o % 64, o / 64)
  v.launches.foldl (fun s l =>
    if l.mirrorOf.any (fun p => v.launches.any (·.id == p)) then s
    else
      let ls := v.launches.filter (fun x => x.id == l.id || x.mirrorOf == some l.id)
      let fits := ls.all (fun x => s.freeRect (s.launchById x.id) (at_ x).1 (at_ x).2) &&
        ls.all (fun x => x.id == l.id || placesApart l.width l.height (at_ l) (at_ x))
      if l.cls = 2 ∧ !fits then s
      else ls.foldl (fun s x =>
        if (s.launchById x.id).state = .evicted then s.restoreAt 3 x.id (at_ x).1 (at_ x).2 else s) s) s

/-! The identifiers of a transfer are this model's names for its warrants, launches and space; they take new ones here. The indexes that
handles hold are the program's and stay (R343). -/

/-- A name of a launch or warrant under a shift; 0 names none. -/
def shiftId (k n : Nat) : Nat := if n = 0 then 0 else n + k
/-- An agent whose launch takes a new name. -/
def Agent.shift (k : Nat) (a : Agent) : Agent := { a with launch := shiftId k a.launch }
/-- Moments of agents whose launches take new names. -/
def shiftMoments (k : Nat) (l : List (Agent × Nat)) : List (Agent × Nat) := l.map (fun p => (p.1.shift k, p.2))
/-- The mapped pages of a warrant that takes a new name. -/
def PageMap.shift (k : Nat) (p : PageMap) : PageMap := { p with war := shiftId k p.war }

/-- A space under new names. -/
def Space.shift (k : Nat) (sp : Space) : Space :=
  { sp with
    id := shiftId k sp.id, pages := sp.pages.map (PageMap.shift k), old := sp.old.map (PageMap.shift k),
    hist := sp.hist.map (fun (h : HistRec) => { h with by_ := h.by_.shift k }),
    rels := sp.rels.map (fun (r : RelRec) => { r with by_ := r.by_.shift k }),
    syncs := sp.syncs.map (fun (r : SyncRec) => { r with by_ := r.by_.shift k, hb := shiftMoments k r.hb }) }

/-- A context under new names. -/
def Ctx.shift (k : Nat) (c : Ctx) : Ctx :=
  { c with
    seen := shiftMoments k c.seen, hb := shiftMoments k c.hb,
    wait := match c.wait with
      | some (.launch rd l) => some (.launch rd (shiftId k l))
      | w => w }

/-- A core's image under new names. -/
def Core.shift (k : Nat) (c : Core) : Core :=
  { c with
    launch := c.launch.map (shiftId k), primary := c.primary.map (shiftId k), owner := shiftId k c.owner,
    ctxs := c.ctxs.map (Ctx.shift k),
    waiters := c.waiters.map (fun (w : FeWaiter) => { w with by_ := w.by_.map (fun p => (p.1.shift k, p.2)) }),
    chanBy := c.chanBy.map (shiftMoments k), fillers := c.fillers.map (fun f => (f.1, f.2.1.shift k, f.2.2)) }

/-- A launch under new names. -/
def Launch.shift (k : Nat) (l : Launch) : Launch :=
  { l with id := shiftId k l.id, war := shiftId k l.war, mirrorOf := l.mirrorOf.map (shiftId k), image := l.image.map (Core.shift k) }

/-- A warrant under new names. -/
def Warrant.shift (k : Nat) (w : Warrant) : Warrant :=
  { w with
    id := shiftId k w.id, space := shiftId k w.space, parentW := w.parentW.map (shiftId k), holder := w.holder.map (shiftId k) }

/-- A round under new names of its owner. -/
def Round.shift (k : Nat) (r : Round) : Round :=
  { r with owner := r.owner + 2 * k, arrived := r.arrived.map (fun a => (a.1, a.2.1.shift k, a.2.2)) }

/-- A message under new names. -/
def Msg.shift (k : Nat) (m : Msg) : Msg :=
  { m with
    launch := shiftId k m.launch, by_ := m.by_.map (fun p => (p.1.shift k, p.2)),
    payload := match m.payload with
      | .node o r l j right v => .node (o + 2 * k) r l j right v
      | .correction o key n v => .correction (o + 2 * k) key n v
      | p => p }

/-- A transfer under new names. -/
def Moving.shift (k : Nat) (v : Moving) : Moving :=
  { v with
    wars := v.wars.map (Warrant.shift k), space := v.space.shift k, launches := v.launches.map (Launch.shift k),
    wells := v.wells.map (fun x => (shiftId k x.1, x.2)), rounds := v.rounds.map (Round.shift k),
    corrs := v.corrs.map (fun (c : CorrRec) => { c with owner := c.owner + 2 * k }), net := v.net.map (Msg.shift k) }

/-- This module is the destination of an order whose transfer has come (R411, steps 3 and 4): the warrant is admitted and restored, or
refused with the code that the source is told. -/
def State.takeArrival (m : AdmMsg) (s : State) : State :=
  let serial := BitVec.ofNat 128 (m.at 0 16)
  match s.arrivals.find? (fun v => v.dest == s.idHash && v.wars.any (fun w => w.rec_.serial == serial && !w.child && !w.nested)) with
  | none => s
  | some v =>
    let s := { s with arrivals := s.arrivals.erase v }
    let v := v.shift s.nextId
    let answer (code : BitVec 8) (job : Nat) (s : State) : State := s.emit m.conn 0x92 m.tag ([code] ++ zeros 3 ++ leBytes 4 job)
    if !s.trusted then answer 0x05 0 s
    else
      match s.settleIn v with
      | .inl e => answer e.1 0 s
      | .inr (s, placed) =>
        let job := ((placed.find? (fun p => p.2.rec_.serial == serial)).map (·.2.job)).getD 0
        answer 0 job ((s.arrive v placed).restoreMoved v placed).serveCorrs

/-- MIGRATE (R411): `accepted` is the destination's answer, 0 or a code of R342, `newJob` the JOB that it gives. An order that
no key bears out is dropped; while a context waits for a peer's reply the order waits, and the launches issue no more. An order that names this module as DEST is that of
a transfer that has come to it. -/
def execMigrate (m : AdmMsg) (accepted : Nat) (newJob : Nat) (s : State) : Res :=
  s.receive 0x12 m false (fun s =>
    match s.orderOf m with
    | none =>
      if BitVec.ofNat 256 (m.at 16 32) = s.idHash ∧ s.validOrder m then s.takeArrival m else s
    | some w =>
      let ls := s.launches.filter (fun l => (s.family w).any (·.id == l.war) && l.state == .accepted)
      let s := (s.movable w).foldl (fun s l => if s.leafQuiet (s.pairCores (l.mirrorOf.getD l.id)) then s else s.evictAt 3 l.id) s
      if s.peersOut w || s.leafQuiet ((s.movable w).flatMap (fun l => s.pairCores (l.mirrorOf.getD l.id))) then { s with later := s.later ++ [(m, accepted, newJob)] }
      else
        let s := { s with departures := s.departures ++ [s.moving w m] }
        if accepted ≠ 0 then
          let s := ls.foldl (fun s l => if (s.launchById l.id).state = .evicted then s.restoreAt 3 l.id l.px l.py else s) s
          s.emit m.conn 0x92 m.tag (leBytes 1 accepted ++ zeros 3 ++ leBytes 4 0)
        else
          let vi := Config.migratedVi s.picks
          let s := (({ s with picks := s.picks + 1 }).transfer w (BitVec.ofNat 256 (m.at 16 32))).leave w
          let s := { s with movedVi := (w.vi, vi, newJob, w.rec_.notAfter) :: s.movedVi }
          (s.emit m.conn 0x92 m.tag (leBytes 1 0 ++ zeros 3 ++ leBytes 4 newJob)).tellMoved w vi newJob)

/-- A WAITW on a word of a module that migrates may wake spuriously (R257): `peers` lists the indexes at which the module is known. -/
def Ctx.peerMoved (peers : List Nat) (c : Ctx) : Ctx :=
  match c.wait with
  | some (.waitw _ va _ _ _ _) =>
    if va.toNat / 2 ^ 62 = 1 ∧ peers.contains (va.toNat / 2 ^ 48 % 2 ^ 14) then { c with spur := true } else c
  | _ => c

/-- MOVED from another module (R412): peer-table entries that hold the old address and JOB take the new ones. The TAG of one that answers
a refused request is 1 more than the request's place in the module's output, and the request is sent again; that of an unprompted one
is 0. -/
def execMoved (m : AdmMsg) (was : ViJob) (s : State) : Res :=
  s.receive 0x93 m (!m.zero 20 4) (fun s =>
    let e : PeerEnt := { vi := BitVec.ofNat 128 (m.at 0 16), job := m.at 16 4, used := true }
    let old (x : PeerEnt) : Bool := x.used && x.vi == was.vi && x.job == was.job
    let put (t : Tab PeerEnt) : Tab PeerEnt := t.foldl (fun t x => if old x.2 then Tab.set PeerEnt.none t x.1 e else t) t
    let which (c : Core) : List Nat := ((s.warById (s.launchOn c).war).peers.filter (fun x => old x.2)).map (·.1)
    let f (c : Core) : Core := { c with ctxs := c.ctxs.map (Ctx.peerMoved (which c)) }
    let s := { s with
      cx := s.cx.peerMoved (which s.co), co := f s.co, cores := s.cores.map f,
      wars := s.wars.map (fun (w : Warrant) => { w with peers := put w.peers }) }
    match m.tag.toNat with
    | 0 => s
    | n + 1 =>
      match s.out[n]? with
      | none => s
      | some o => if 2 ^ 32 ≤ o.dest ∧ o.dest < 2 ^ 32 + 2 ^ 14 then s.emit o.dest o.opc o.tag o.body else s)

/-- OLD_VI_PACKET (R412): every packet to a migrated warrant's old address is answered with MOVED. -/
def execOldViPacket (vi : W128) (sender : Nat) (s : State) : Res :=
  match s.movedOf vi with
  | none => .next s
  | some q => .next (s.emit sender 0x93 0 (movedBody q.1 q.2))

/-! ## ANNOUNCE (R415) -/

/-- DIEMASK of ANNOUNCE. -/
def State.dieMask (s : State) : Nat :=
  (List.range 8).foldl (fun a d => if (s.dies.getD d DieSt.reset).failed then a + 2 ^ d else a) 0

/-- ANNOUNCE's body. -/
def State.announceBody (s : State) : List Byte :=
  digBytes s.idHash ++ leBytes 4 s.bootcount.toNat ++ leBytes 1 s.lastReset ++ leBytes 1 s.dieMask ++
  leBytes 1 (if s.trusted then 1 else 0) ++ zeros 5 ++ leBytes 8 (s.ctrls.getD 8 Ctrl.reset).version.toNat

/-- ANNOUNCE on every trained port; none is sent while the announce address is zero (R423). -/
def State.announce (s : State) : State :=
  let s := { s with annAt := s.tick }
  if s.cfg.annaddr = 0 ∨ s.ports = 0 then s
  else
    let b := s.announceBody
    { ((List.range 16).foldl (fun s p =>
        if s.ports.getLsbD p then s.emit (2 ^ 128 + s.cfg.annaddr.toNat) 0x20 0 b else s) s) with announced := true }

/-- ANNOUNCE_REPEAT (R415): every 100,000,000 ticks until a beacon is accepted. -/
def execAnnounceRepeat (s : State) : Res :=
  if s.answers && !s.annDone && decide (s.annAt + 100000000 ≤ s.tick) then .next s.announce else .next s

end Sys2Proof.Machine
end

