-- ==== Sys2Proof/Machine/Remote.lean ====
section
/-! DEFINITION. Traffic on a warrant's virtual interface: RMA writes and reads, peer atomics, and packets that the module does not
serve (R76, R78, R102, R103, R253, R254, R390, R391, R404, R405). -/

namespace Sys2Proof.Machine

open Sys2Proof

/-! ## Translation by the network interface (R79, R404) -/

/-- The running warrant that serves a packet: its virtual interface has the address and the packet carries its JOB (R404, R405). -/
def State.viOf (vi : W128) (job : Nat) (s : State) : Option Warrant :=
  s.wars.find? (fun w => w.vi == vi && w.job == job && w.code.isNone && !w.child && !s.pending w)

/-- The page that RMA may reach: one that VMAP mapped, or the global-data segment (R404). -/
def Space.rmaPage (sp : Space) (a : Nat) : Option PageMap :=
  sp.pages.find? (fun p => (p.kind == .data || p.kind == .gdata) && p.has a)

/-- Whether a TLB entry of the network interface still translates an address. -/
def Space.nicHit (sp : Space) (tick a : Nat) : Bool :=
  sp.nic.any (fun e => decide (e.base ≤ a) && decide (a < e.base + e.size) && decide (tick < e.till))

/-- The 64 KiB pages that `n` bytes at `a` touch. -/
def pagesTouched (a n : Nat) : List Nat :=
  if n = 0 then [] else (List.range ((a + n - 1) / 0x10000 - a / 0x10000 + 1)).map (fun i => (a / 0x10000 + i) * 0x10000)

/-- Whether every byte of an access is reached; the address has KIND 0b00 and no peer (R404). -/
def State.rmaReach (w : Warrant) (va n : Nat) (s : State) : Bool :=
  let sp := s.spaceById w.space
  decide (va + n ≤ 2 ^ 48) && (pagesTouched va n).all (fun a => sp.nicHit s.tick a || (sp.rmaPage a).isSome)

/-- The network interface fills its TLB for the pages of an access (R79, R424). -/
def State.nicFill (w : Warrant) (va n : Nat) (s : State) : State :=
  (pagesTouched va n).foldl (fun s a =>
    let sp := s.spaceById w.space
    if sp.nicHit s.tick a then s
    else
      match sp.rmaPage a with
      | none => s
      | some p =>
        s.modSpace w.space (fun sp => { sp with
          nic := { base := p.base, size := p.size, till := s.tick + s.cfg.lease } :: sp.nic.filter (·.base != p.base) })) s

/-- Whether a poisoned line holds a byte of an access. -/
def Space.badRange (sp : Space) (a n : Nat) : Bool :=
  sp.poison.any (fun l => decide (l * 64 < a + n) && decide (a < l * 64 + 64))

/-- A completion of a virtual interface: code 0 served, 1 error. Its destination stands for the requester at that address. -/
def State.complete (vi : W128) (code : Nat) (va : Word) (data : List Byte) (s : State) : State :=
  s.emit (2 ^ 129 + vi.toNat) code va data

/-- A packet that no running warrant takes (R404, R405, R412): MOVED where its warrant has moved away, else an error completion. -/
def State.strayPacket (vi : W128) (va : Word) (s : State) : State :=
  match s.movedOf vi with
  | none => s.complete vi 1 va []
  | some q => s.emit (2 ^ 129 + vi.toNat) 0x93 0 (movedBody q.1 q.2)

/-! ## RMA (R102, R103, R404) -/

/-- RMA_WRITE (R78, R102, R404): the bytes take their places at the homes as one event, tags clear, released at fab scope with the
completion; an address that it may not reach gives an error completion and changes nothing. -/
def execRmaWrite (vi : W128) (job : Nat) (va : Word) (data : List Byte) (s : State) : Res :=
  match s.viOf vi job with
  | none => .next (s.strayPacket vi va)
  | some w =>
    if !s.rmaReach w va.toNat data.length then .next (s.complete vi 1 va [])
    else
      let s := s.nicFill w va.toNat data.length
      .next ((s.modSpace w.space (fun sp => (sp.store Agent.outside va.toNat data false).released Agent.outside 0 3)).complete vi 0 va [])

/-- RMA_READ (R103, R404): the home values at the moment it is served. -/
def execRmaRead (vi : W128) (job : Nat) (va : Word) (len : Nat) (s : State) : Res :=
  match s.viOf vi job with
  | none => .next (s.strayPacket vi va)
  | some w =>
    let sp := s.spaceById w.space
    if !s.rmaReach w va.toNat len || sp.badRange va.toNat len then .next (s.complete vi 1 va [])
    else .next ((s.nicFill w va.toNat len).complete vi 0 va (Memory.readN sp.mem va.toNat len))

/-- INBOUND_PEER_ATOMIC (R253, R254, R405): a peer's AMO (operations 0 to 8 of R185) or CAS is performed at this home,
indivisibly; the old value answers it. -/
def execInboundPeerAtomic (vi : W128) (job : Nat) (va : Word) (op : Fin 12) (w : Bool) (operand expect : Word) (s : State) : Res :=
  let sz := if w then 8 else 4
  match s.viOf vi job with
  | none => .next (s.strayPacket vi va)
  | some wr =>
    let sp := s.spaceById wr.space
    if va.toNat % sz ≠ 0 ∨ !s.rmaReach wr va.toNat sz ∨ sp.badRange va.toNat sz then .next (s.complete vi 1 va [])
    else
      let s := s.nicFill wr va.toNat sz
      let old := leNat (Memory.readN sp.mem va.toNat sz)
      let x := operand.toNat % 2 ^ (8 * sz)
      let new : Option Nat :=
        atomicF (if op.val ≤ 8 then op.val else 32) (8 * sz) x (expect.toNat % 2 ^ (8 * sz)) old
      let s := match new with
        | none => s
        | some v => s.modSpace wr.space (Space.storeBy Agent.outside true va.toNat (leBytes sz v) false)
      .next (s.complete vi 0 va (leBytes sz old))

/-! ## Packets that are not served (R390, R391) -/

/-- UE_UNSUPPORTED_PACKET (R390 to R392): dropped, answered with a UE NACK and counted. A semantic send to a virtual interface, or one to
the wellhead's endpoint whose OPC is not in the message table, is answered with NAK UNSUP, which names its OPC and carries its TAG. -/
def execUeUnsupportedPacket (sender : Nat) (dest : StrayTo) (s : State) : Res :=
  if !s.answers then .next s
  else match dest with
    | .vi opc tag => .next (s.nak 1 (opc % 256) { conn := sender, tag := tag, ver := 1, rsv := false, body := [] })
    | .module => .next (({ s with ueDrops := s.ueDrops + 1 }).emit sender 0x100 0 [])

end Sys2Proof.Machine
end

