-- ==== Sys2Proof/Machine/Resets.lean ====
section
/-! DEFINITION. Boot, the resets and their levels, the controllers' watchdogs and exceptions, and the security alarm (R413 to R419,
R425, R426, R455). -/

namespace Sys2Proof.Machine

open Sys2Proof

/-! ## Configuration registers (R423, R424) -/

/-- The n-th 32-bit word of a 128-bit value. -/
def word128 (v : W128) (i : Nat) : W32 := (v >>> (32 * i)).setWidth 32
/-- A 128-bit value with its n-th word replaced. -/
def setWord128 (v : W128) (i : Nat) (x : W32) : W128 :=
  BitVec.ofNat 128 (v.toNat - (word128 v i).toNat * 2 ^ (32 * i) + x.toNat * 2 ^ (32 * i))

/-- The value of a configuration register; a reserved offset reads as 0 (R6, R423). -/
def State.cfgWord (off : Nat) (s : State) : W32 :=
  if off % 4 ≠ 0 then 0
  else if off = 0 then BitVec.ofNat 32 s.cfg.lease
  else if off = 4 then BitVec.ofNat 32 s.cfg.hopalw
  else if off = 8 then BitVec.ofNat 32 s.cfg.claimto
  else if off = 0xC then BitVec.ofNat 32 s.cfg.stbyhold
  else if off < 0x20 then word128 s.cfg.annaddr ((off - 0x10) / 4)
  else if 0x1000 ≤ off ∧ off < 0x2000 then word128 (Tab.get 0 s.cfg.vipool ((off - 0x1000) / 16)) (off / 4 % 4)
  else if 0x2000 ≤ off ∧ off < 0x42000 then Tab.get 0 s.cfg.rdir ((off - 0x2000) / 4)
  else 0

/-- A waiting VUNMAP completes by the longer of the old and the new lease (R424). -/
def Ctx.release (lease : Nat) (c : Ctx) : Ctx :=
  match c.wait with
  | some (.vunmap lo hi at_ till) => { c with wait := some (.vunmap lo hi at_ (max till (at_ + lease))) }
  | _ => c

/-- The waiting VUNMAPs of a core under a new lease. -/
def Core.newLease (lease : Nat) (c : Core) : Core := { c with ctxs := c.ctxs.map (Ctx.release lease) }

/-- LEASE takes a value. -/
def State.setLease (v : Nat) (s : State) : State :=
  { s with
    cfg.lease := v, cx := s.cx.release v, co := s.co.newLease v, cores := s.cores.map (Core.newLease v),
    launches := s.launches.map (fun (l : Launch) => { l with image := l.image.map (Core.newLease v) }) }

/-- Whether writes of a pool entry are ignored (R424): an admitted warrant's virtual interface holds it, or it is the
wellhead's own once ANNOUNCE has been sent. -/
def State.poolHeld (v : Nat) (s : State) : Bool :=
  let a := Tab.get 0 s.cfg.vipool v
  (v == 0 && s.announced) || (a != 0 && s.wars.any (fun w => w.vi == a && w.code.isNone))

/-- A write of a configuration register (R423, R424): a value outside the range takes the nearest bound; a reserved word or bit
ignores it. -/
def State.cfgPut (off : Nat) (v : W32) (s : State) : State :=
  let n := v.toNat
  if off % 4 ≠ 0 then s
  else if off = 0 then s.setLease (within 1000 1000000 n)
  else if off = 4 then { s with cfg.hopalw := within 100 100000 n }
  else if off = 8 then { s with cfg.claimto := within 10000000 1000000000 n }
  else if off = 0xC then { s with cfg.stbyhold := within 1 24 n }
  else if off < 0x20 then { s with cfg.annaddr := setWord128 s.cfg.annaddr ((off - 0x10) / 4) v }
  else if 0x1000 ≤ off ∧ off < 0x2000 then
    let e := (off - 0x1000) / 16
    if s.poolHeld e then s
    else { s with cfg.vipool := Tab.set 0 s.cfg.vipool e (setWord128 (Tab.get 0 s.cfg.vipool e) (off / 4 % 4) v) }
  else if 0x2000 ≤ off ∧ off < 0x42000 then
    let i := (off - 0x2000) / 4
    let valid := (Tab.get (0 : W32) s.cfg.rdir (i / 16 * 16 + 12)).getLsbD 0
    if i % 16 = 12 then { s with cfg.rdir := Tab.set 0 s.cfg.rdir i (v &&& 1) }
    else if 12 < i % 16 ∨ valid then s
    else { s with cfg.rdir := Tab.set 0 s.cfg.rdir i v }
  else s

/-! ## Boot (R414, R415) -/

/-- A controller starts from its active bank; when that image is not valid and the other is, from the other (R414). -/
def Ctrl.start (c : Ctrl) : Ctrl :=
  let act := if c.active then c.bankB else c.bankA
  let oth := if c.active then c.bankA else c.bankB
  { c with running := true, quiet := none, bank := if !act.valid && oth.valid then !c.active else c.active }

/-- The active bank of a controller. -/
def Ctrl.image (c : Ctrl) : Bank := if c.active then c.bankB else c.bankA

/-- The hub writes the stored configuration of its active bank after boot step 6 (R423, R442); the governor takes its part at the next window
boundary (R443). A module warm reset keeps the values written since. -/
def State.storedConfig (s : State) : State :=
  if s.configured then s
  else
    let b := (s.ctrls.getD 8 Ctrl.reset).image
    let s := b.cfg.foldl (fun s p => s.cfgPut p.1 p.2) s
    { s with configured := true, gov.writes := s.gov.writes ++ b.gv }

/-- Boot steps 5 to 7: without a trained port the module holds; the wellhead's own check sends it to recovery mode or lets it
announce itself (R414). -/
def State.bootOn (s : State) : State :=
  if s.booted || s.recovery || s.ports == 0 then s
  else if !s.wellheadOk then { s with recovery := true }
  else ({ s.storedConfig with booted := true }).announce

/-- What no reset clears (R416), on a module whose volatile state is that after power good. -/
def State.nonVolatile (s : State) : State :=
  { State.reset with
    ctrls := s.ctrls.map (fun (c : Ctrl) => { Ctrl.reset with active := c.active, bankA := c.bankA, bankB := c.bankB }),
    keys := s.keys, idHash := s.idHash, bootcount := s.bootcount, homeTab := s.homeTab, fuses := s.fuses, fwKey := s.fwKey, fwMin := s.fwMin,
    picks := s.picks, nextId := s.nextId, out := s.out, arrivals := s.arrivals, departures := s.departures, agenda := s.agenda, ir := s.ir }

/-- A die fails (R414, R455). -/
def State.failDies (m : BitVec 8) (s : State) : State :=
  (List.range 8).foldl (fun s d =>
    if m.getLsbD d then (s.modDie d (fun x => { x with failed := true })).stateSensor (0x51 + d) 1 else s) s

/-- Whether one of a controller's banks holds a valid image (R414). -/
def Ctrl.bootable (c : Ctrl) : Bool := c.bankA.valid || c.bankB.valid

/-- The dies whose leaf has no valid bank (R414, step 3). -/
def State.noLeaf (s : State) : BitVec 8 :=
  (List.range 8).foldl (fun m d =>
    if (s.ctrls.getD d Ctrl.reset).bootable then m else m ||| ((1 : BitVec 8) <<< d)) 0

/-- How many ports stay down (R414, step 5). -/
def downPorts (ports : BitVec 16) : Nat := ((List.range 16).filter (fun p => !ports.getLsbD p)).length

/-- Boot steps 2 to 7 (R414): a hub with no valid bank enters recovery mode, and a leaf with none fails its die. `failedDies` are the
further dies that steps 3 and 4 mark failed, `ports` those that step 5 trains. -/
def State.boot (failedDies : BitVec 8) (ports : BitVec 16) (s : State) : State :=
  if !(s.ctrls.getD 8 Ctrl.reset).bootable then { s with recovery := true }
  else
    let m := failedDies ||| s.noLeaf
    let s := { s with
      recovery := false, ports := ports, portsDown := downPorts ports,
      ctrls := s.ctrls.zipIdx.map (fun (p : Ctrl × Nat) => if p.2 = 8 ∨ !m.getLsbD p.2 then p.1.start else p.1) }
    (s.failDies m).bootOn

/-- POWER_ON (R414, R416 level 1). `okHub` says whether the hub's ROM runs steps 1 and 2 to their end, `okWellhead` is the outcome of
step 6. -/
def execPowerOn (okHub okWellhead : Bool) (failedDies : BitVec 8) (ports : BitVec 16) (s : State) : Res :=
  let s := { s.nonVolatile with bootcount := s.bootcount + 1, lastReset := 1, wellheadOk := okWellhead }
  .next (if okHub then s.boot failedDies ports else { s with recovery := true })

/-- POWER_LOSS (R416): everything volatile is lost, the sump included. -/
def execPowerLoss (s : State) : Res := .next { s.nonVolatile with powered := false }

/-- PORT_LINK_TRAINING (R414): a port has trained; a module that held at step 5 goes on. -/
def execPortLinkTraining (port : Fin 16) (s : State) : Res :=
  if s.recovery || !(s.ctrls.getD 8 Ctrl.reset).running then .next s
  else
    let p := s.ports ||| ((1 : BitVec 16) <<< port.val)
    .next ({ s with ports := p, portsDown := downPorts p }).bootOn

/-! ## Resets of the module (R416) -/

/-- A crash record of KIND 5 (R418): a controller requests a reset of a level. -/
def State.resetRequest (ctrl level : Nat) (s : State) : State := s.crash ctrl 5 (BitVec.ofNat 32 level) 0 0

/-- Cores, HBM and well are cleared and every warrant ends with no code and no ENDED (R416); retired pages stay retired (R448). -/
def State.clearModule (level : Nat) (s : State) : State :=
  { s with
    cx := Ctx.zero, co := Core.zero 0, cores := [], spaces := [], wars := [], launches := [], net := [], rounds := [],
    corrLog := [], wells := [], wellPoison := [], presns := [], claims := [], memUsed := 0,
    redeem := s.redeem.filter (fun e => !e.pending), announced := false, annDone := false, booted := false,
    bootcount := s.bootcount + 1, lastReset := level,
    later := [], dies := s.dies.map (fun (d : DieSt) => { d with relock := none, inReset := false, inputs := [], back := 0 }),
    gov := { s.gov with est := 0, overCnt := 0, low := 0, resetTill := none, served := 0, upLeft := s.gov.lup * 1000 * 2048 },
    ctrls := s.ctrls.zipIdx.map (fun (p : Ctrl × Nat) => if p.2 = 8 ∨ !(s.dies.getD p.2 DieSt.reset).failed then { p.1.start with events := [] } else p.1) }

/-- The state sensors of the dies that come back from a reset or a failure, `m` being those that have failed (R455). -/
def State.diesBack (m : BitVec 8) (s : State) : State :=
  (List.range 8).foldl (fun s d =>
    let k := s.dies.getD d DieSt.reset
    if m.getLsbD d then s else if k.inReset || k.failed then s.stateSensor (0x51 + d) 0 else s) s

/-- MODULE_COLD_RESET (R416 level 2, R423, R442), in recovery mode too: the links, the HBM and the ports train again, and which dies
fail and which ports train is free; the hub, where it runs, writes the request to the sump. DEDUCED (log 86). -/
def execModuleColdReset (s : State) : Res :=
  if !s.powered then .next s
  else
    let failedDies := (Config.coldTraining s.picks).1
    let ports := (Config.coldTraining s.picks).2
    let s := { s with picks := s.picks + 1 }
    let s := if (s.ctrls.getD 8 Ctrl.reset).running then s.resetRequest 8 2 else s
    let s := (s.diesBack (failedDies ||| s.noLeaf)).clearModule 2
    .next (({ s with
      redeem := [], movedVi := [], clock := none, configured := false, cfg := Cfg.reset,
      gov := { Gov.reset with next := s.gov.next, writes := [] },
      dies := s.dies.map (fun (d : DieSt) => { DieSt.reset with temp := d.temp }) }).boot failedDies ports)

/-- A module warm reset (R416 level 3): a failed die stays failed. -/
def State.warmReset (s : State) : State :=
  let m := BitVec.ofNat 8 s.dieMask
  ((((s.resetRequest 8 3).diesBack m).clearModule 3).failDies m).bootOn

/-- MODULE_WARM_RESET (R416 level 3). -/
def execModuleWarmReset (s : State) : Res := if s.recovery || !s.powered then .next s else .next s.warmReset

/-! ## Resets of a die, a core, an engine, a port (R416, R417) -/

/-- Whether a warrant holds a core, well partition or page on a die (R416 level 4); no page stands on a failed die (R414). -/
def State.onDie (d : Nat) (w : Warrant) (s : State) : Bool :=
  w.dies.contains d ||
  !(s.dies.getD d DieSt.reset).failed && s.spaces.any (fun sp => sp.pages.any (fun p => p.war == w.id &&
    (List.range (p.size / 0x10000)).any (fun i => Config.pageOnDie sp.id (p.base / 0x10000 + i) d)))

/-- A core with nothing in it; the governor's account of it stays. -/
def Core.wiped (c : Core) : Core :=
  { Core.zero c.id with
    grant := c.grant, weightSum := c.weightSum, ballast := c.ballast, balAcct := c.balAcct, balSum := c.balSum,
    cycBase := c.cycBase, cycTick := c.cycTick, cycle := c.cycle }

/-- Clear the cores that `p` names. -/
def State.wipeCores (p : Nat → Bool) (s : State) : State :=
  let s := { s with cores := s.cores.map (fun (c : Core) => if p c.id then c.wiped else c) }
  if p s.co.id then { s with cx := Ctx.zero, co := s.co.wiped } else s

/-- The running warrants that `p` names end with FAULT_UNHANDLED and ENDED; one that is not yet admitted has none. -/
def State.failWarrants (p : State → Warrant → Bool) (s : State) : State :=
  (s.wars.filter (fun w => w.code.isNone && !s.pending w && p s w)).foldl (fun s w => s.terminate w.id codeFault) s

/-- A die reset (R416 level 4). -/
def State.resetDie (d : Nat) (s : State) : State :=
  let s := (s.resetRequest 8 4).failWarrants (fun s w => s.onDie d w)
  let s := s.wipeCores (fun c => dieOf c == d)
  let s := { s with
    wells := s.wells.filter (fun x => x.2.1 != d), wellPoison := s.wellPoison.filter (fun n => n / 2 ^ 24 % 8 != d),
    ctrls := s.ctrls.modify d (fun c => { c with events := [] }.start) }
  (s.modDie d (fun x => { x with inReset := true })).stateSensor (0x51 + d) 2

/-- DIE_RESET (R416 level 4). -/
def execDieReset (die : Fin 8) (s : State) : Res := .next (s.resetDie die.val)

/-- DIE_RESET_COMPLETION (R455): the die operates again, unless it has failed. -/
def execDieResetCompletion (die : Fin 8) (s : State) : Res :=
  let d := s.dies.getD die.val DieSt.reset
  if d.inReset then
    .next ((s.modDie die.val (fun x => { x with inReset := false })).stateSensor (0x51 + die.val) (if d.failed then 1 else 0))
  else .next s

/-- CORE_RESET (R416 level 5): the warrant with a launch on the core ends with FAULT_UNHANDLED. -/
def execCoreReset (core : Nat) (s : State) : Res :=
  let s := s.resetRequest (dieOf core % 8) 5
  let s := match (s.coreAt core).launch with
    | none => s
    | some l => s.terminate (s.launchById l).war codeFault
  .next (s.wipeCores (· == core))

/-- The st.tval of an engine reset (R417). -/
def resetTval : Word := BitVec.allOnes 64

/-- The first operation that a core's pump holds is abandoned with cause UNCORR. Each issuing context takes one fault: `told` lists those
that have; of an exited helper every operation leaves its record (R148, R417). -/
def State.resetPumpOp (core : Nat) (p : State × List Nat) : State × List Nat :=
  let s := p.1.focusCore core
  match s.co.pumpq with
  | [] => (s, p.2)
  | o :: _ =>
    let s := s.asOwner o.hid
    if p.2.contains o.hid then ((((s.pumpDrop o).phaseCheck core).drainCheck core), p.2)
    else (s.pumpFault o cUncorr resetTval, if o.hid < 65536 then o.hid :: p.2 else p.2)

/-- Every operation that a core's pump holds is abandoned (R148, R417). -/
def State.resetPump (core : Nat) (s : State) : State :=
  ((s.coreAt core).pumpq.foldl (fun p _ => State.resetPumpOp core p) (s, [])).1

/-- The operation that a core's matrix unit holds is abandoned with cause UNCORR; the tile that it owned is undefined (R417). -/
def State.resetMatrix (core : Nat) (s : State) : State :=
  let s := s.focusCore core
  match s.co.mop with
  | none => s
  | some v =>
    let s := { s with
      co.acc := freeTile s.picks ((List.range 4096).map (fun i => v.tile * 4096 + i)) s.co.acc, picks := s.picks + 4096 }
    s.matFault v resetTval

/-- The governor's estimate is lost; until the next window boundary no grant changes (R417). -/
def State.resetGovernor (s : State) : State :=
  let f (c : Core) : Core := { c with weightSum := 0, balSum := 0 }
  { s with gov.resetTill := some s.gov.next, gov.est := 0, co := f s.co, cores := s.cores.map f }

/-- A WPRES whose claim is dropped, or that waits for another presentation of its serial, issues again. -/
def Ctx.reclaim (tick : Nat) (c : Ctx) : Ctx :=
  match c.wait with
  | some (.claim _ _) => { c with npc := c.pc }
  | some (.second _ _) => c.wakeUp tick
  | _ => c

/-- Presentations in progress restart from check 1 with no serial consumed (R417). -/
def State.resetCrypto (s : State) : State :=
  let f (c : Core) : Core := { c with ctxs := c.ctxs.map (Ctx.reclaim s.tick) }
  let s := { s with
    cx := s.cx.reclaim s.tick, co := f s.co, cores := s.cores.map f,
    launches := s.launches.map (fun (l : Launch) => { l with image := l.image.map f }),
    presns := s.presns.map (fun (p : Presn) => { p with claimed := none, past := false }) }
  let s := s.claims.foldl (fun s c =>
    match s.reservedFor c.serial with
    | none => s
    | some w => (s.unreserve w.id).serialDecided c.serial (0, false)) s
  ({ s with claims := [] }).settlePresns

/-- ENGINE_RESET (R416 level 7, R417). -/
def execEngineReset (e : EngineKind) (s : State) : Res :=
  match e with
  | .pump core => .next ((s.resetRequest (dieOf core % 8) 7).resetPump core)
  | .matrix core => .next ((s.resetRequest (dieOf core % 8) 7).resetMatrix core)
  | .governor => .next ((s.resetRequest 8 7).resetGovernor)
  | .crypto => .next ((s.resetRequest 8 7).resetCrypto)

/-- PORT_RESET (R416 level 8): the port's PHY is cleared and trains again. -/
def execPortReset (port : Fin 16) (s : State) : Res :=
  let s := s.resetRequest 8 8
  let p := s.ports &&& ~~~((1 : BitVec 16) <<< port.val)
  .next { s with ports := p, portsDown := downPorts p }

/-! ## Watchdogs and exceptions (R418, R419) -/

/-- Ticks of 10 s. -/
def tenSeconds : Nat := 1000000000

/-- A controller restarts after an event (R419): from its active bank, at a second event within 10 s from its other bank; at a third
a leaf takes a die reset and the hub a module warm reset. -/
def State.ctrlEvent (c : Nat) (s : State) : State :=
  let k := s.ctrls.getD c Ctrl.reset
  let evs := k.events.filter (fun t => decide (s.tick < t + tenSeconds))
  if 2 ≤ evs.length then
    if c = 8 then s.warmReset else s.resetDie c
  else
    { s with ctrls := s.ctrls.modify c (fun k => { k with
        events := evs ++ [s.tick], running := true, quiet := none, bank := if evs.isEmpty then k.active else !k.active }) }

/-- WATCHDOG_EXPIRY (R418, R419). -/
def execWatchdogExpiry (ctrl : Fin 9) (pc : Word) (s : State) : Res :=
  if !(s.ctrls.getD ctrl.val Ctrl.reset).running then .next s
  else .next ((s.crash ctrl.val 2 0 pc 0).ctrlEvent ctrl.val)

/-- CONTROLLER_EXCEPTION (R418, R419). -/
def execControllerException (ctrl : Fin 9) (cause : W32) (pc addr : Word) (s : State) : Res :=
  if !(s.ctrls.getD ctrl.val Ctrl.reset).running then .next s
  else .next ((s.crash ctrl.val 1 cause pc addr).ctrlEvent ctrl.val)

/-! ## The security alarm (R425, R426) -/

/-- The keys are erased (R425): every presentation that is not yet decided refuses with UNKNOWN_ISSUER. -/
def State.eraseKeys (s : State) : State :=
  let s := { s with keys := [], idHash := 0, presns := s.presns.map (fun (p : Presn) => { p with past := false }) }
  (s.claims.foldl (fun s c => s.resolveClaim c (some (0x02, 0))) s).settlePresns

/-- SECURITY_ALARM (R425): a sensor raises the level that the operator fused for it. -/
def execSecurityAlarm (sensor : Nat) (s : State) : Res :=
  let level := within 1 3 (Tab.get 0 s.fuses sensor)
  let s := (s.crash 8 4 (BitVec.ofNat 32 sensor) 0 0).stateSensor 0x50 (max (Tab.get 0 s.sensors 0x50) level)
  let s := { s with alarm := max s.alarm level }
  if level < 2 then .next s
  else
    let s := (s.wars.filter (fun w => w.code.isNone && !s.pending w)).foldl (fun s w => s.terminate w.id 0x45) s
    .next (if level < 3 then s else s.eraseKeys)

end Sys2Proof.Machine
end

