-- ==== Sys2Proof/Machine/Management.lean ====
section
/-! DEFINITION. Command links, the management port and firmware update (R413, R418, R420 to R424, R432, R435, R442, R443). -/

namespace Sys2Proof.Machine

open Sys2Proof

/-! ## Command links (R413) -/

/-- A command is sent when a permit is held, and waits at its sender otherwise. -/
def Link.send (cmd : List Byte) (l : Link) : Link :=
  if l.permits = 0 then { l with blocked := l.blocked ++ [cmd] }
  else { l with permits := l.permits - 1, queue := l.queue ++ [cmd] }

/-- The receiver consumes the oldest command and returns its permit, which the oldest waiting command takes. -/
def Link.consume (l : Link) : Link :=
  match l.queue with
  | [] => l
  | _ :: q =>
    match l.blocked with
    | [] => { l with permits := l.permits + 1, queue := q }
    | c :: b => { l with queue := q ++ [c], blocked := b }

/-- CONTROLLER_COMMAND (R413, R422): the hub or a leaf sends a 64-byte command, or the receiver consumes one, which it does only while
it runs and no switch quiesces it. -/
def execControllerCommand (die : Fin 8) (toLeaf : Bool) (consume : Bool) (cmd : List Byte) (s : State) : Res :=
  let run (c : Nat) : Bool := (s.ctrls.getD c Ctrl.reset).running && !s.quiesced c
  let f (l : Link) : Link := if consume then l.consume else l.send ((cmd ++ zeros 64).take 64)
  let who := if toLeaf == consume then die.val else 8
  if !run who then .next s
  else .next { s with ctrls := s.ctrls.modify die.val (fun c => if toLeaf then { c with down := f c.down } else { c with up := f c.up }) }

/-! ## The management port -/

/-- Destinations 2^130 and up stand for the management port's requester. -/
def mgmtPort : Nat := 2 ^ 130

/-- A reply on the management port. -/
def State.reply (opc : Nat) (tag : Word) (body : List Byte) (s : State) : State := s.emit mgmtPort opc tag body

/-- Whether the hub's firmware serves the management port; in recovery mode it accepts firmware update alone (R414). -/
def State.managed (s : State) : Bool := !s.recovery && (s.ctrls.getD 8 Ctrl.reset).running

/-- The 128 bytes of a crash record (R418). -/
def Crash.bytes (c : Crash) : List Byte :=
  leBytes 4 0x504D5553 ++ leBytes 2 1 ++ leBytes 1 (c.ctrl % 16 + if c.bank then 16 else 0) ++ [c.kind] ++
  leBytes 4 c.cause.toNat ++ leBytes 4 c.boot.toNat ++ leBytes 8 c.tick.toNat ++ leBytes 8 c.pc.toNat ++ leBytes 8 c.addr.toNat ++
  leBytes 8 c.fwver.toNat ++ leBytes 8 c.seq ++ (Config.crashState c.seq ++ zeros 72).take 72

/-- SUMPREAD (R418): the record at an index of the ring of 2048. -/
def execSumpread (idx : Nat) (s : State) : Res :=
  if !s.managed then .next s
  else .next (s.reply 1 (BitVec.ofNat 64 idx) (((s.sump.find? (fun c => c.seq % 2048 == idx % 2048)).map Crash.bytes).getD (zeros 128)))

/-- CFGREAD (R423). -/
def execCfgread (off : W32) (s : State) : Res :=
  if !s.managed then .next s else .next (s.reply 2 (off.setWidth 64) (leBytes 4 (s.cfgWord off.toNat).toNat))

/-- CFGWRITE (R423, R424). -/
def execCfgwrite (off val : W32) (s : State) : Res := if !s.managed then .next s else .next (s.cfgPut off.toNat val)

/-- RDIR_ENTRY_WRITE (R424): the VALID word of a directory entry is written. -/
def execRdirEntryWrite (e : Nat) (val : W32) (s : State) : Res :=
  if !s.managed then .next s else .next (s.cfgPut (0x2000 + 64 * (e % 4096) + 0x30) val)

/-- The value of a governor register (R443). -/
def State.govWord (off : Nat) (s : State) : W32 :=
  BitVec.ofNat 32
    (if off = 0 then s.gov.ldown * 2 ^ 16 + s.gov.lup
     else if off = 4 then s.gov.tthr * 2 ^ 24 + s.gov.ecap
     else if off = 8 then 1000 * s.gov.lup / 3300
     else if off = 0xC then s.gov.overCnt * 2 ^ 16 + s.gov.est
     else if 0x10 ≤ off ∧ off < 0x30 ∧ off % 4 = 0 then
       let d := s.dies.getD ((off - 0x10) / 4) DieSt.reset
       d.cur * 2 ^ 16 + d.ceil * 2 ^ 8 + d.tgt
     else 0)

/-- GVREAD (R442, R443). -/
def execGvread (off : W32) (s : State) : Res :=
  if !s.managed then .next s else .next (s.reply 3 (off.setWidth 64) (leBytes 4 (s.govWord off.toNat).toNat))

/-- GVWRITE (R442, R443): it takes effect at the next window boundary. -/
def execGvwrite (off val : W32) (s : State) : Res :=
  if !s.managed then .next s else .next { s with gov.writes := s.gov.writes ++ [(off.toNat, val)] }

/-! ## Debug messages (R432, R435) -/

/-- The running warrant that a debug request names. -/
def State.debugged (serial : W128) (s : State) : Option Warrant :=
  s.wars.find? (fun w => w.rec_.serial == serial && w.code.isNone && !w.consumed && !s.pending w)

/-- The core index (R42) of a core that a request names in the form of R233, from the origin of the warrant's rectangle. -/
def Warrant.coreNamed (w : Warrant) (v : Word) : Option Nat :=
  let n := v.toNat
  if n / 2 ^ 32 = 0 ∧ n % 65536 < w.rec_.width ∧ n / 65536 < w.rec_.height then some (n % 65536 + w.rec_.width * (n / 65536)) else none

/-- The launch of warrant `w` that stands evicted and holds core index `n`. -/
def State.evictedAt (w : Warrant) (n : Nat) (s : State) : Option Launch :=
  s.launches.find? (fun l => l.war == w.id && l.state == .evicted && l.hasIndex w n)

/-- The 21 counters of core index `n` of a warrant, on its core or in the eviction image (R334, R434). DESIGN CHOICE (log 126): a core index
of an evicted launch that has no image is no core. -/
def State.countersOf (w : Warrant) (n : Nat) (s : State) : Option (List Byte) :=
  match s.evictedAt w n with
  | some l => (l.tails.find? (·.1 == l.ofIndex w n)).map (fun t => t.2.drop 8)
  | none => some (allEvents.flatMap (fun e => leBytes 8 (s.counterOf (s.coreAt (s.coreOfIndex w n)) e).toNat))

/-- DBGREAD of counters (R432, R435): for every running warrant, whatever its EVENTS. -/
def execDbgreadCounters (serial : W128) (core : Word) (s : State) : Res :=
  if !s.managed then .next s
  else
    match (s.debugged serial).bind (fun w => (w.coreNamed core).bind (fun n => s.countersOf w n)) with
    | none => .next (s.reply 4 0 [1])
    | some bs => .next (s.reply 4 0 ([0] ++ bs))

/-- The code of a context's STATUS (R41). -/
def statusCode : Status → Nat
  | .free => 0 | .queued => 1 | .resident => 2 | .waiting => 3 | .waitingOut => 4 | .parked => 5 | .exited => 6

/-- The 1 KiB of a context record (R41). -/
def Rec.bytes (r : Rec) : List Byte :=
  let b2n (b : Bool) : Nat := if b then 1 else 0
  let mid := r.cause.toNat + r.tags.toNat * 2 ^ 16 + r.ctrlatch.toNat * 2 ^ 48 + r.wbase.toNat * 2 ^ 80 + r.wsize.toNat * 2 ^ 100 +
    statusCode r.status * 2 ^ 104 + r.slot.getD 15 % 16 * 2 ^ 108 + r.waitk.toNat * 2 ^ 112 + b2n r.helper * 2 ^ 116 +
    b2n r.pinned * 2 ^ 117 + b2n r.intrap * 2 ^ 118
  (r.regs.toList.flatMap (fun v => leBytes 16 v.toNat)) ++
  leBytes 8 r.pc.toNat ++ leBytes 8 r.region.toNat ++ leBytes 8 r.epc.toNat ++ leBytes 8 r.tval.toNat ++ leBytes 16 mid ++
  leBytes 2 r.hid ++ leBytes 2 r.seals.toNat ++ zeros 4 ++ leBytes 8 r.tvec.toNat ++ leBytes 8 r.ready.toNat ++
  leBytes 8 r.act.toNat ++ leBytes 8 r.run.toNat ++ leBytes 8 r.exitTick.toNat ++ zeros 32 ++ zeros 384

/-- A context's record as its memory holds it: that of one without a slot is current, replies included (R41, R49). -/
def Ctx.record (c : Ctx) : Rec := if c.slot.isNone then c.toRec else c.saved

/-- The record of context `hid` of core index `n` of a warrant, on its core or in the image of a launch that is evicted; that of a control
context stays as its EXIT wrote it until the next launch begins on the core (R33, R41). -/
def State.recordOf (w : Warrant) (n hid : Nat) (s : State) : Option Rec :=
  match s.evictedAt w n with
  | some l => ((l.image.find? (·.id == l.ofIndex w n)).bind (fun c => c.ctxs.find? (·.hid == hid))).map (·.toRec)
  | none =>
    let c := s.coreAt (s.coreOfIndex w n)
    ((c.ctxs.find? (·.hid == hid)).map (·.record)).or (if hid = 0 ∧ c.owner = w.space then c.last else none)

/-- STOP on core index `n` of a warrant, on its core or in the image of a launch that is evicted (R338, R434): the value that STOP would
write. -/
def State.stopAt (w : Warrant) (n slot : Nat) (arm : Bool) (pc : Word) (s : State) : Option (State × Word) :=
  match s.evictedAt w n with
  | some l =>
    (l.image.find? (·.id == l.ofIndex w n)).map (fun c =>
      let r := c.armStop slot arm pc
      (s.modLaunch l.id (fun x => { x with image := x.image.map (fun k => if k.id == c.id then r.1 else k) }), r.2))
  | none =>
    let c := s.coreOfIndex w n
    let r := (s.coreAt c).armStop slot arm pc
    some (s.modCore c (fun k => { k with stops := r.1.stops }), r.2)

/-- DBGREAD of a record (R435): as last written back. -/
def execDbgreadRecord (serial : W128) (core : Word) (hid : Nat) (s : State) : Res :=
  if !s.managed then .next s
  else
    match s.debugged serial with
    | none => .next (s.reply 5 0 [1])
    | some w =>
      if !w.rec_.debug then .next (s.reply 5 0 [2])
      else
        match (w.coreNamed core).bind (fun n => s.recordOf w n hid) with
        | none => .next (s.reply 5 0 [1])
        | some r => .next (s.reply 5 0 ([0] ++ r.bytes))

/-- DBGSTOP (R338, R435): as STOP's operands, with the core from the origin of the warrant's rectangle. -/
def execDbgstop (serial : W128) (core pc : Word) (s : State) : Res :=
  if !s.managed then .next s
  else
    match s.debugged serial with
    | none => .next (s.reply 6 0 [1])
    | some w =>
      if !w.rec_.debug then .next (s.reply 6 0 [2])
      else
        let n := core.toNat
        let slot := n / 2 ^ 32 % 16
        if n / 2 ^ 37 ≠ 0 ∨ slot < 1 ∨ 10 < slot ∨ pc.toNat % 4 ≠ 0 then .next (s.reply 6 0 [1])
        else
          match (w.coreNamed (BitVec.ofNat 64 (n % 2 ^ 32))).bind (fun n' => s.stopAt w n' slot (n / 2 ^ 36 % 2 == 1) pc) with
          | none => .next (s.reply 6 0 [1])
          | some r => .next (r.1.reply 6 0 ([0] ++ leBytes 8 r.2.toNat))

/-! ## Firmware (R420 to R422) -/

/-- SPDM_MEASUREMENTS (R420): the active selector and the measurements of both banks. -/
def execSpdmMeasurements (ctrl : Fin 9) (s : State) : Res :=
  if !s.managed then .next s
  else
    let c := s.ctrls.getD ctrl.val Ctrl.reset
    .next (s.reply 7 (BitVec.ofNat 64 ctrl.val) (leBytes 1 (if c.active then 1 else 0) ++ digBytes c.bankA.measure ++ digBytes c.bankB.measure))

/-- Whether an image is valid under the fused firmware key and minimum security version (R420): its SM3 digest matches, its SM2 signature
verifies and its security version is high enough. -/
def validImage (key : BitVec 256) (min : Nat) (image : List Byte) : Bool :=
  let (covered, digest, sig, version) := Config.imageParts image
  Config.sm3 covered == digest && Config.sm2Verify key covered sig && decide (min ≤ version)

/-- The bank that an image makes (R420, R423). -/
def State.bankOf (image : List Byte) (s : State) : Bank :=
  { version := Config.imageVersion image, measure := Config.sm3 image, valid := validImage s.fwKey s.fwMin image,
    cfg := (Config.imageCfg image).1, gv := (Config.imageCfg image).2 }

/-- PLDM_FIRMWARE_UPDATE (R420, R423): the inactive bank is written. -/
def execPldmFirmwareUpdate (ctrl : Fin 9) (image : List Byte) (s : State) : Res :=
  .next { s with ctrls := s.ctrls.modify ctrl.val (fun c =>
    if c.active then { c with bankA := s.bankOf image } else { c with bankB := s.bankOf image }) }

/-- Whether an eviction claim is pending on a die (R422). -/
def State.claimOn (d : Nat) (s : State) : Bool :=
  s.launches.any (fun l => l.cls == 2 && l.state == .accepted && l.live.any (fun c => dieOf c == d) && l.cores.any (fun c => s.heldCore c))

/-- FIRMWARE_ACTIVATION (R421, R422): the boot selector is written, and the new image starts when the switch ends, until when the controller
is quiesced. No leaf's switch starts while an eviction claim is pending on its die, nor a second one while the first goes on; an image that
is not valid is not started. -/
def execFirmwareActivation (ctrl : Fin 9) (s : State) : Res :=
  let c := s.ctrls.getD ctrl.val Ctrl.reset
  let new := if c.active then c.bankA else c.bankB
  if !new.valid || s.quiesced ctrl.val || (decide (ctrl.val < 8) && s.claimOn ctrl.val) then .next s
  else
    let till := s.tick + Config.switchTicks s.picks % 500001
    .next { s with
      picks := s.picks + 1,
      ctrls := s.ctrls.modify ctrl.val (fun c =>
        { c with active := !c.active, bank := !c.active, switchedAt := some till, quiet := some till }) }

/-- FIRMWARE_SELF_TEST_FAILURE (R421): within 1 s of its start a new image fails its self-test; the old bank runs again. -/
def execFirmwareSelfTestFailure (ctrl : Fin 9) (s : State) : Res :=
  match (s.ctrls.getD ctrl.val Ctrl.reset).switchedAt with
  | none => .next s
  | some t =>
    if s.tick < t ∨ t + 100000000 < s.tick then .next s
    else
      let s := s.crash ctrl.val 3 0 0 0
      .next { s with ctrls := s.ctrls.modify ctrl.val (fun c => { c with active := !c.active, bank := !c.active, switchedAt := none, quiet := none }) }

end Sys2Proof.Machine
end

