-- ==== Sys2Proof/Machine/Dispatch.lean ====
section
/-! DEFINITION. The one dispatch: each instruction and each step of the module to its meaning. -/

namespace Sys2Proof.Machine

open Sys2Proof

def exec (i : Instr) (s : State) : Host.Outcome State Fault Refusal :=
  match i with
  | .add d a b => Sys2Proof.Machine.execAdd d a b s
  | .sub d a b => Sys2Proof.Machine.execSub d a b s
  | .mul d a b => Sys2Proof.Machine.execMul d a b s
  | .mulh d a b => Sys2Proof.Machine.execMulh d a b s
  | .mulhn d a b => Sys2Proof.Machine.execMulhn d a b s
  | .div d a b => Sys2Proof.Machine.execDiv d a b s
  | .divn d a b => Sys2Proof.Machine.execDivn d a b s
  | .rem d a b => Sys2Proof.Machine.execRem d a b s
  | .remn d a b => Sys2Proof.Machine.execRemn d a b s
  | .and d a b => Sys2Proof.Machine.execAnd d a b s
  | .or d a b => Sys2Proof.Machine.execOr d a b s
  | .xor d a b => Sys2Proof.Machine.execXor d a b s
  | .andn d a b => Sys2Proof.Machine.execAndn d a b s
  | .shl d a b => Sys2Proof.Machine.execShl d a b s
  | .shr d a b => Sys2Proof.Machine.execShr d a b s
  | .sar d a b => Sys2Proof.Machine.execSar d a b s
  | .rol d a b => Sys2Proof.Machine.execRol d a b s
  | .min d a b => Sys2Proof.Machine.execMin d a b s
  | .max d a b => Sys2Proof.Machine.execMax d a b s
  | .minn d a b => Sys2Proof.Machine.execMinn d a b s
  | .maxn d a b => Sys2Proof.Machine.execMaxn d a b s
  | .clz d a => Sys2Proof.Machine.execClz d a s
  | .ctz d a => Sys2Proof.Machine.execCtz d a s
  | .popc d a => Sys2Proof.Machine.execPopc d a s
  | .abs d a => Sys2Proof.Machine.execAbs d a s
  | .mov d a => Sys2Proof.Machine.execMov d a s
  | .cmp c bit d a b => Sys2Proof.Machine.execCmp c bit d a b s
  | .sel p bit d a b => Sys2Proof.Machine.execSel p bit d a b s
  | .addi d a imm => Sys2Proof.Machine.execAddi d a imm s
  | .andi d a imm => Sys2Proof.Machine.execAndi d a imm s
  | .ori d a imm => Sys2Proof.Machine.execOri d a imm s
  | .xori d a imm => Sys2Proof.Machine.execXori d a imm s
  | .addiW3 d a lit => Sys2Proof.Machine.execAddiW3 d a lit s
  | .andiW3 d a lit => Sys2Proof.Machine.execAndiW3 d a lit s
  | .oriW3 d a lit => Sys2Proof.Machine.execOriW3 d a lit s
  | .xoriW3 d a lit => Sys2Proof.Machine.execXoriW3 d a lit s
  | .li d imm => Sys2Proof.Machine.execLi d imm s
  | .liW3 zext d lit => Sys2Proof.Machine.execLiW3 zext d lit s
  | .lk d k => Sys2Proof.Machine.execLk d k s
  | .sext d a w => Sys2Proof.Machine.execSext d a w s
  | .zext d a w => Sys2Proof.Machine.execZext d a w s
  | .bfx d a pos wm1 => Sys2Proof.Machine.execBfx d a pos wm1 s
  | .bfi d a pos wm1 => Sys2Proof.Machine.execBfi d a pos wm1 s
  | .fadd r p d a b => Sys2Proof.Machine.execFadd r p d a b s
  | .fsub r p d a b => Sys2Proof.Machine.execFsub r p d a b s
  | .fmul r p d a b => Sys2Proof.Machine.execFmul r p d a b s
  | .fma r p d a b => Sys2Proof.Machine.execFma r p d a b s
  | .fmin p d a b => Sys2Proof.Machine.execFmin p d a b s
  | .fmax p d a b => Sys2Proof.Machine.execFmax p d a b s
  | .fabs p d a => Sys2Proof.Machine.execFabs p d a s
  | .fneg p d a => Sys2Proof.Machine.execFneg p d a s
  | .fcls p d a => Sys2Proof.Machine.execFcls p d a s
  | .frcp p d a => Sys2Proof.Machine.execFrcp p d a s
  | .frsq p d a => Sys2Proof.Machine.execFrsq p d a s
  | .fnr r p d a => Sys2Proof.Machine.execFnr r p d a s
  | .fnrs r p d a => Sys2Proof.Machine.execFnrs r p d a s
  | .fcvtToInt r p t d a => Sys2Proof.Machine.execFcvtToInt r p t d a s
  | .fcvtFromInt r p t d a => Sys2Proof.Machine.execFcvtFromInt r p t d a s
  | .fcvtSTod d a => Sys2Proof.Machine.execFcvtSTod d a s
  | .fcvtDTos r d a => Sys2Proof.Machine.execFcvtDTos r d a s
  | .fcvtWrapToInt r p t d a => Sys2Proof.Machine.execFcvtWrapToInt r p t d a s
  | .fcmp p c bit d a b => Sys2Proof.Machine.execFcmp p c bit d a b s
  | .cgb d a => Sys2Proof.Machine.execCgb d a s
  | .cgl d a => Sys2Proof.Machine.execCgl d a s
  | .cgp d a => Sys2Proof.Machine.execCgp d a s
  | .cga d a => Sys2Proof.Machine.execCga d a s
  | .csa d a b => Sys2Proof.Machine.execCsa d a b s
  | .cinc d a b => Sys2Proof.Machine.execCinc d a b s
  | .csb d a b => Sys2Proof.Machine.execCsb d a b s
  | .cap d a b => Sys2Proof.Machine.execCap d a b s
  | .ctag d a => Sys2Proof.Machine.execCtag d a s
  | .cct d a => Sys2Proof.Machine.execCct d a s
  | .cseal d a b => Sys2Proof.Machine.execCseal d a b s
  | .cunseal d a b => Sys2Proof.Machine.execCunseal d a b s
  | .cincImm d a imm => Sys2Proof.Machine.execCincImm d a imm s
  | .cincW3 d a lit => Sys2Proof.Machine.execCincW3 d a lit s
  | .b disp => Sys2Proof.Machine.execB disp s
  | .bt r bit disp => Sys2Proof.Machine.execBt r bit disp s
  | .bf r bit disp => Sys2Proof.Machine.execBf r bit disp s
  | .bz r disp => Sys2Proof.Machine.execBz r disp s
  | .bnz r disp => Sys2Proof.Machine.execBnz r disp s
  | .loop r disp => Sys2Proof.Machine.execLoop r disp s
  | .call disp => Sys2Proof.Machine.execCall disp s
  | .callW3 lit => Sys2Proof.Machine.execCallW3 lit s
  | .j lit => Sys2Proof.Machine.execJ lit s
  | .nop => Sys2Proof.Machine.execNop s
  | .region => Sys2Proof.Machine.execRegion s
  | .ret a => Sys2Proof.Machine.execRet a s
  | .yield => Sys2Proof.Machine.execYield s
  | .callc a => Sys2Proof.Machine.execCallc a s
  | .trap code => Sys2Proof.Machine.execTrap code s
  | .ldI8 d a imm => Sys2Proof.Machine.execLdI8 d a imm s
  | .ldN8 d a imm => Sys2Proof.Machine.execLdN8 d a imm s
  | .ldI16 d a imm => Sys2Proof.Machine.execLdI16 d a imm s
  | .ldN16 d a imm => Sys2Proof.Machine.execLdN16 d a imm s
  | .ldI32 d a imm => Sys2Proof.Machine.execLdI32 d a imm s
  | .ldN32 d a imm => Sys2Proof.Machine.execLdN32 d a imm s
  | .ld d a imm => Sys2Proof.Machine.execLd d a imm s
  | .stI8 d a imm => Sys2Proof.Machine.execStI8 d a imm s
  | .stI16 d a imm => Sys2Proof.Machine.execStI16 d a imm s
  | .stI32 d a imm => Sys2Proof.Machine.execStI32 d a imm s
  | .st d a imm => Sys2Proof.Machine.execSt d a imm s
  | .ldc d a imm => Sys2Proof.Machine.execLdc d a imm s
  | .stc d a imm => Sys2Proof.Machine.execStc d a imm s
  | .ldW3 sz d a lit => Sys2Proof.Machine.execLdW3 sz d a lit s
  | .stW3 sz d a lit => Sys2Proof.Machine.execStW3 sz d a lit s
  | .ldcW3 d a lit => Sys2Proof.Machine.execLdcW3 d a lit s
  | .stcW3 d a lit => Sys2Proof.Machine.execStcW3 d a lit s
  | .ll d a imm => Sys2Proof.Machine.execLl d a imm s
  | .sl d a imm => Sys2Proof.Machine.execSl d a imm s
  | .llW3 d a lit => Sys2Proof.Machine.execLlW3 d a lit s
  | .slW3 d a lit => Sys2Proof.Machine.execSlW3 d a lit s
  | .llf d a imm => Sys2Proof.Machine.execLlf d a imm s
  | .slf d a imm => Sys2Proof.Machine.execSlf d a imm s
  | .sle d a imm => Sys2Proof.Machine.execSle d a imm s
  | .feq d a imm => Sys2Proof.Machine.execFeq d a imm s
  | .post d a b => Sys2Proof.Machine.execPost d a b s
  | .postf d a b => Sys2Proof.Machine.execPostf d a b s
  | .llfRemote d a b => Sys2Proof.Machine.execLlfRemote d a b s
  | .slfRemote d a b => Sys2Proof.Machine.execSlfRemote d a b s
  | .sleRemote d a b => Sys2Proof.Machine.execSleRemote d a b s
  | .feqRemote d a b => Sys2Proof.Machine.execFeqRemote d a b s
  | .phase s1 => Sys2Proof.Machine.execPhase s1 s
  | .amoAdd w d a b => Sys2Proof.Machine.execAmoAdd w d a b s
  | .amoAnd w d a b => Sys2Proof.Machine.execAmoAnd w d a b s
  | .amoOr w d a b => Sys2Proof.Machine.execAmoOr w d a b s
  | .amoXor w d a b => Sys2Proof.Machine.execAmoXor w d a b s
  | .amoMin w d a b => Sys2Proof.Machine.execAmoMin w d a b s
  | .amoMax w d a b => Sys2Proof.Machine.execAmoMax w d a b s
  | .amoMinn w d a b => Sys2Proof.Machine.execAmoMinn w d a b s
  | .amoMaxn w d a b => Sys2Proof.Machine.execAmoMaxn w d a b s
  | .amoSwap w d a b => Sys2Proof.Machine.execAmoSwap w d a b s
  | .cas w d a b => Sys2Proof.Machine.execCas w d a b s
  | .lamoAdd d a b => Sys2Proof.Machine.execLamoAdd d a b s
  | .lamoAnd d a b => Sys2Proof.Machine.execLamoAnd d a b s
  | .lamoOr d a b => Sys2Proof.Machine.execLamoOr d a b s
  | .lamoXor d a b => Sys2Proof.Machine.execLamoXor d a b s
  | .lamoMin d a b => Sys2Proof.Machine.execLamoMin d a b s
  | .lamoMax d a b => Sys2Proof.Machine.execLamoMax d a b s
  | .lamoMinn d a b => Sys2Proof.Machine.execLamoMinn d a b s
  | .lamoMaxn d a b => Sys2Proof.Machine.execLamoMaxn d a b s
  | .lamoSwap d a b => Sys2Proof.Machine.execLamoSwap d a b s
  | .waitw w d a b => Sys2Proof.Machine.execWaitw w d a b s
  | .pref d a => Sys2Proof.Machine.execPref d a s
  | .send ch a b => Sys2Proof.Machine.execSend ch a b s
  | .recv ch d a => Sys2Proof.Machine.execRecv ch d a s
  | .chq ch d => Sys2Proof.Machine.execChq ch d s
  | .role d a => Sys2Proof.Machine.execRole d a s
  | .start d a b => Sys2Proof.Machine.execStart d a b s
  | .exit => Sys2Proof.Machine.execExit s
  | .join d a => Sys2Proof.Machine.execJoin d a s
  | .kill a => Sys2Proof.Machine.execKill a s
  | .resume a b => Sys2Proof.Machine.execResume a b s
  | .launch d a b => Sys2Proof.Machine.execLaunch d a b s
  | .trapret => Sys2Proof.Machine.execTrapret s
  | .faultq d a => Sys2Proof.Machine.execFaultq d a s
  | .ctrsel d a b => Sys2Proof.Machine.execCtrsel d a b s
  | .time d a => Sys2Proof.Machine.execTime d a s
  | .stop d a b => Sys2Proof.Machine.execStop d a b s
  | .vmap d a b => Sys2Proof.Machine.execVmap d a b s
  | .vunmap a => Sys2Proof.Machine.execVunmap a s
  | .ifl d a => Sys2Proof.Machine.execIfl d a s
  | .mfs d r => Sys2Proof.Machine.execMfs d r s
  | .mts r a => Sys2Proof.Machine.execMts r a s
  | .ctr d e1 => Sys2Proof.Machine.execCtr d e1 s
  | .ctrl d e1 => Sys2Proof.Machine.execCtrl d e1 s
  | .ctrh d e1 => Sys2Proof.Machine.execCtrh d e1 s
  | .wpres d a b => Sys2Proof.Machine.execWpres d a b s
  | .wsplit d a b => Sys2Proof.Machine.execWsplit d a b s
  | .wdeleg d a b => Sys2Proof.Machine.execWdeleg d a b s
  | .wsurr d a => Sys2Proof.Machine.execWsurr d a s
  | .wqry d a b => Sys2Proof.Machine.execWqry d a b s
  | .gramp a b => Sys2Proof.Machine.execGramp a b s
  | .gpin a => Sys2Proof.Machine.execGpin a s
  | .wellq d a => Sys2Proof.Machine.execWellq d a s
  | .vadd f => Sys2Proof.Machine.execVadd f s
  | .vsub f => Sys2Proof.Machine.execVsub f s
  | .vmul f => Sys2Proof.Machine.execVmul f s
  | .vfma f => Sys2Proof.Machine.execVfma f s
  | .vmin f => Sys2Proof.Machine.execVmin f s
  | .vmax f => Sys2Proof.Machine.execVmax f s
  | .vabs f => Sys2Proof.Machine.execVabs f s
  | .vneg f => Sys2Proof.Machine.execVneg f s
  | .vand f => Sys2Proof.Machine.execVand f s
  | .vor f => Sys2Proof.Machine.execVor f s
  | .vxor f => Sys2Proof.Machine.execVxor f s
  | .vshl f => Sys2Proof.Machine.execVshl f s
  | .vshr f => Sys2Proof.Machine.execVshr f s
  | .vsar f => Sys2Proof.Machine.execVsar f s
  | .vcmp f => Sys2Proof.Machine.execVcmp f s
  | .vsel f => Sys2Proof.Machine.execVsel f s
  | .vcvt f => Sys2Proof.Machine.execVcvt f s
  | .vqnt f => Sys2Proof.Machine.execVqnt f s
  | .vdqnt f => Sys2Proof.Machine.execVdqnt f s
  | .vrcp f => Sys2Proof.Machine.execVrcp f s
  | .vrsq f => Sys2Proof.Machine.execVrsq f s
  | .vnr f => Sys2Proof.Machine.execVnr f s
  | .vexp2 f => Sys2Proof.Machine.execVexp2 f s
  | .vlog2 f => Sys2Proof.Machine.execVlog2 f s
  | .vscan f => Sys2Proof.Machine.execVscan f s
  | .vred f => Sys2Proof.Machine.execVred f s
  | .vbcast f => Sys2Proof.Machine.execVbcast f s
  | .vfill f => Sys2Proof.Machine.execVfill f s
  | .vcopy f => Sys2Proof.Machine.execVcopy f s
  | .vtran f => Sys2Proof.Machine.execVtran f s
  | .vgath f => Sys2Proof.Machine.execVgath f s
  | .vscat f => Sys2Proof.Machine.execVscat f s
  | .vlut f => Sys2Proof.Machine.execVlut f s
  | .mma f => Sys2Proof.Machine.execMma f s
  | .mmag f => Sys2Proof.Machine.execMmag f s
  | .mmr f => Sys2Proof.Machine.execMmr f s
  | .mzero f => Sys2Proof.Machine.execMzero f s
  | .mrd f => Sys2Proof.Machine.execMrd f s
  | .mwr f => Sys2Proof.Machine.execMwr f s
  | .wld f => Sys2Proof.Machine.execWld f s
  | .tld f => Sys2Proof.Machine.execTld f s
  | .dset f => Sys2Proof.Machine.execDset f s
  | .dget f => Sys2Proof.Machine.execDget f s
  | .dsta f => Sys2Proof.Machine.execDsta f s
  | .xcopy f => Sys2Proof.Machine.execXcopy f s
  | .pub f => Sys2Proof.Machine.execPub f s
  | .drain f => Sys2Proof.Machine.execDrain f s
  | .dclr f => Sys2Proof.Machine.execDclr f s
  | .wellw f => Sys2Proof.Machine.execWellw f s
  | .bar f => Sys2Proof.Machine.execBar f s
  | .red f => Sys2Proof.Machine.execRed f s
  | .redx f => Sys2Proof.Machine.execRedx f s
  | .rstat f => Sys2Proof.Machine.execRstat f s
  | .corr f => Sys2Proof.Machine.execCorr f s
  | .slotVisit core slot => Sys2Proof.Machine.execSlotVisit core slot s
  | .instructionFetchArrival core hid uncorrectable => Sys2Proof.Machine.execInstructionFetchArrival core hid uncorrectable s
  | .globalReply core hid how uncorrectable => Sys2Proof.Machine.execGlobalReply core hid how uncorrectable s
  | .remoteMessageArrival n => Sys2Proof.Machine.execRemoteMessageArrival n s
  | .remoteReplyArrival n => Sys2Proof.Machine.execRemoteReplyArrival n s
  | .vectorCompletion core => Sys2Proof.Machine.execVectorCompletion core s
  | .matrixCompletion core => Sys2Proof.Machine.execMatrixCompletion core s
  | .pumpOperationCompletion core how => Sys2Proof.Machine.execPumpOperationCompletion core how s
  | .redNodeArrival n ext => Sys2Proof.Machine.execRedNodeArrival n ext s
  | .launchAcceptance lid => Sys2Proof.Machine.execLaunchAcceptance lid s
  | .registerLineFill core hid line how => Sys2Proof.Machine.execRegisterLineFill core hid line how s
  | .slotRelease core => Sys2Proof.Machine.execSlotRelease core s
  | .sendCompletion core hid => Sys2Proof.Machine.execSendCompletion core hid s
  | .recvCompletion core hid => Sys2Proof.Machine.execRecvCompletion core hid s
  | .waitwWake core hid spurious => Sys2Proof.Machine.execWaitwWake core hid spurious s
  | .governorWindowBoundary => Sys2Proof.Machine.execGovernorWindowBoundary s
  | .helperfaultTrap core => Sys2Proof.Machine.execHelperfaultTrap core s
  | .helperDeactivation core hid => Sys2Proof.Machine.execHelperDeactivation core hid s
  | .longOperationFault core u line => Sys2Proof.Machine.execLongOperationFault core u line s
  | .recvDry core hid => Sys2Proof.Machine.execRecvDry core hid s
  | .waitwTimeout core hid => Sys2Proof.Machine.execWaitwTimeout core hid s
  | .tlbLeaseExpiry core page => Sys2Proof.Machine.execTlbLeaseExpiry core page s
  | .vunmapCompletion core => Sys2Proof.Machine.execVunmapCompletion core s
  | .wellRefresh bank => Sys2Proof.Machine.execWellRefresh bank s
  | .coreStart lid core => Sys2Proof.Machine.execCoreStart lid core s
  | .redNodeCutoff round level j => Sys2Proof.Machine.execRedNodeCutoff round level j s
  | .redResultDelivery core hid => Sys2Proof.Machine.execRedResultDelivery core hid s
  | .corrTimeout core hid => Sys2Proof.Machine.execCorrTimeout core hid s
  | .barRelease core hid => Sys2Proof.Machine.execBarRelease core hid s
  | .redxRelease core hid => Sys2Proof.Machine.execRedxRelease core hid s
  | .mmrTransfer core north => Sys2Proof.Machine.execMmrTransfer core north s
  | .mmrRelease core => Sys2Proof.Machine.execMmrRelease core s
  | .relockEnd die => Sys2Proof.Machine.execRelockEnd die s
  | .standbyEviction lid => Sys2Proof.Machine.execStandbyEviction lid s
  | .standbyRestore lid x y => Sys2Proof.Machine.execStandbyRestore lid x y s
  | .standbyRotation out into1 => Sys2Proof.Machine.execStandbyRotation out into1 s
  | .standbyHoldExpiry war => Sys2Proof.Machine.execStandbyHoldExpiry war s
  | .warrantExpiry war => Sys2Proof.Machine.execWarrantExpiry war s
  | .checkedHashArrival core hid differs => Sys2Proof.Machine.execCheckedHashArrival core hid differs s
  | .checkedHashTimeout core hid => Sys2Proof.Machine.execCheckedHashTimeout core hid s
  | .scrubLine l found behind => Sys2Proof.Machine.execScrubLine l found behind s
  | .scrubPassLate die => Sys2Proof.Machine.execScrubPassLate die s
  | .present m => Sys2Proof.Machine.execPresent m s
  | .object m => Sys2Proof.Machine.execObject m s
  | .launchMessage m => Sys2Proof.Machine.execLaunchMessage m s
  | .query m => Sys2Proof.Machine.execQuery m s
  | .surrender m => Sys2Proof.Machine.execSurrender m s
  | .group m => Sys2Proof.Machine.execGroup m s
  | .beacon m => Sys2Proof.Machine.execBeacon m s
  | .claim m => Sys2Proof.Machine.execClaim m s
  | .claimed m => Sys2Proof.Machine.execClaimed m s
  | .claimResend serial => Sys2Proof.Machine.execClaimResend serial s
  | .claimTimeout serial => Sys2Proof.Machine.execClaimTimeout serial s
  | .migrate m accepted newJob => Sys2Proof.Machine.execMigrate m accepted newJob s
  | .moved m old => Sys2Proof.Machine.execMoved m old s
  | .oldViPacket vi sender => Sys2Proof.Machine.execOldViPacket vi sender s
  | .announceRepeat => Sys2Proof.Machine.execAnnounceRepeat s
  | .rmaWrite vi job va data => Sys2Proof.Machine.execRmaWrite vi job va data s
  | .rmaRead vi job va len => Sys2Proof.Machine.execRmaRead vi job va len s
  | .ueUnsupportedPacket sender dest => Sys2Proof.Machine.execUeUnsupportedPacket sender dest s
  | .controllerCommand die toLeaf consume cmd => Sys2Proof.Machine.execControllerCommand die toLeaf consume cmd s
  | .powerOn okHub okWellhead failedDies ports => Sys2Proof.Machine.execPowerOn okHub okWellhead failedDies ports s
  | .moduleColdReset => Sys2Proof.Machine.execModuleColdReset s
  | .moduleWarmReset => Sys2Proof.Machine.execModuleWarmReset s
  | .dieReset die => Sys2Proof.Machine.execDieReset die s
  | .coreReset core => Sys2Proof.Machine.execCoreReset core s
  | .engineReset e1 => Sys2Proof.Machine.execEngineReset e1 s
  | .portReset port => Sys2Proof.Machine.execPortReset port s
  | .watchdogExpiry ctrl pc => Sys2Proof.Machine.execWatchdogExpiry ctrl pc s
  | .controllerException ctrl cause pc addr => Sys2Proof.Machine.execControllerException ctrl cause pc addr s
  | .securityAlarm sensor => Sys2Proof.Machine.execSecurityAlarm sensor s
  | .sumpread idx => Sys2Proof.Machine.execSumpread idx s
  | .cfgread off => Sys2Proof.Machine.execCfgread off s
  | .cfgwrite off val => Sys2Proof.Machine.execCfgwrite off val s
  | .rdirEntryWrite e1 val => Sys2Proof.Machine.execRdirEntryWrite e1 val s
  | .gvread off => Sys2Proof.Machine.execGvread off s
  | .gvwrite off val => Sys2Proof.Machine.execGvwrite off val s
  | .dbgreadCounters serial core => Sys2Proof.Machine.execDbgreadCounters serial core s
  | .dbgreadRecord serial core hid => Sys2Proof.Machine.execDbgreadRecord serial core hid s
  | .dbgstop serial core pc => Sys2Proof.Machine.execDbgstop serial core pc s
  | .spdmMeasurements ctrl => Sys2Proof.Machine.execSpdmMeasurements ctrl s
  | .pldmFirmwareUpdate ctrl image => Sys2Proof.Machine.execPldmFirmwareUpdate ctrl image s
  | .firmwareActivation ctrl => Sys2Proof.Machine.execFirmwareActivation ctrl s
  | .firmwareSelfTestFailure ctrl => Sys2Proof.Machine.execFirmwareSelfTestFailure ctrl s
  | .powerLoss => Sys2Proof.Machine.execPowerLoss s
  | .vmapCompletion core => Sys2Proof.Machine.execVmapCompletion core s
  | .warrantInstructionCompletion core => Sys2Proof.Machine.execWarrantInstructionCompletion core s
  | .inboundPeerAtomic vi job va op w operand expect => Sys2Proof.Machine.execInboundPeerAtomic vi job va op w operand expect s
  | .portLinkTraining port => Sys2Proof.Machine.execPortLinkTraining port s
  | .dieTemperatureSample die degrees => Sys2Proof.Machine.execDieTemperatureSample die degrees s
  | .platformEventAcknowledge => Sys2Proof.Machine.execPlatformEventAcknowledge s
  | .redemptionEntryExpiry serial => Sys2Proof.Machine.execRedemptionEntryExpiry serial s
  | .dieResetCompletion die => Sys2Proof.Machine.execDieResetCompletion die s

end Sys2Proof.Machine
end

