-- ==== Sys2Proof/Machine/Schedule.lean ====
section
/-! DEFINITION. Which step the module takes by itself when the agenda is empty: an event whose cause has come about, else the
earliest of the completions, timers, window boundaries and slot visits that lie ahead. Also the loading of one instruction where
the next step fetches it. -/

namespace Sys2Proof.Machine

open Sys2Proof

/-! ## Events whose cause has come about -/

/-- An event that changes the state. -/
def State.progress (s : State) (f : State → Res) : Option State :=
  match f s with
  | .next t => if t = s then none else some t
  | _ => none

/-- Arrivals at a context of core `id`, none while its die relocks (R40). -/
def arrivalSteps (s : State) (id : Nat) (c : Ctx) : List (State → Res) :=
  if s.relocks id then []
  else
    (if c.awaitFetch && c.status == .resident then [execInstructionFetchArrival id c.hid false] else []) ++
    (if c.lineReq = 0 then [] else (List.range 4).map (fun l => execRegisterLineFill id c.hid l .arrives)) ++
    (match c.wait with
     | some (.reply _ _ _ _ _ _) | some (.accept _) | some .detHold | some (.mirror _ _) | some (.pref _ _ _) => [execGlobalReply id c.hid .home false]
     | some (.waitw _ _ _ _ _ _) => [execWaitwWake id c.hid false]
     | some (.check _ _) => [execCheckedHashArrival id c.hid false]
     | some (.vmap _ _ _) => [execVmapCompletion id]
     | some (.vunmap _ _ _ _) => [execVunmapCompletion id]
     | some (.warrant _ _ _) => [execWarrantInstructionCompletion id]
     | _ => [])

/-- Events of a context of core `id`: what it waits for may have come. -/
def ctxSteps (s : State) (id : Nat) (c : Ctx) : List (State → Res) :=
  arrivalSteps s id c ++
  (match c.wait with
   | some (.waitw _ _ _ _ _ _) => [execWaitwTimeout id c.hid]
   | some (.send _ _ _) | some (.remote _ _ _) => [execSendCompletion id c.hid]
   | some (.recv _ _ _) => [execRecvCompletion id c.hid, execRecvDry id c.hid]
   | some (.bar _ _) => [execBarRelease id c.hid]
   | some (.red _ _ _) => [execRedResultDelivery id c.hid]
   | some (.redx _ _ _) => [execRedxRelease id c.hid]
   | some (.corr _ _ _ _ _) => [execCorrTimeout id c.hid]
   | some (.check _ _) => [execCheckedHashTimeout id c.hid]
   | _ => [])

/-- Whether the trap of the fault ring ends a wait of a core's control context (R323). -/
def State.trapEndsWait (c : Core) (s : State) : Bool :=
  c.pending && c.ctxs.any (fun x => x.hid == 0 && !x.helper && x.status == .waiting && s.canAbandon c.id x && !x.intrap && !x.afterCtrl)

/-- Events of a core. -/
def coreSteps (s : State) (c : Core) : List (State → Res) :=
  c.ctxs.flatMap (ctxSteps s c.id) ++ (if c.queueEmpty then [] else [execSlotRelease c.id]) ++
  (if s.trapEndsWait c then [execHelperfaultTrap c.id] else []) ++
  (if c.mmr.isEmpty then [] else [execMmrTransfer c.id false, execMmrTransfer c.id true, execMmrRelease c.id])

/-- Arrivals of the messages in the network. -/
def netSteps (s : State) : List (State → Res) :=
  s.net.zipIdx.flatMap (fun (p : Msg × Nat) =>
    if s.pathHeld p.1.src p.1.dst || s.relocks p.1.dst then []
    else [execRemoteMessageArrival p.2, execRemoteReplyArrival p.2, execRedNodeArrival p.2 none])

/-- Nodes of the reduction trees that may meet their cutoffs. -/
def treeSteps (s : State) : List (State → Res) :=
  s.rounds.zipIdx.flatMap (fun (p : Round × Nat) => p.1.nodes.map (fun n => execRedNodeCutoff p.2 n.level n.j))

/-- Acceptance, start, eviction and restore of a launch. -/
def launchSteps (l : Launch) : List (State → Res) :=
  match l.state with
  | .waiting => [execLaunchAcceptance l.id]
  | .accepted =>
    (l.granted.filter (fun c => !l.started.contains c)).map (fun c => execCoreStart l.id c) ++
    (if l.cls = 2 then [execStandbyEviction l.id] else [])
  | .evicted =>
    execStandbyRestore l.id l.px l.py :: (List.range 2048).map (fun i => execStandbyRestore l.id (i % 64) (i / 64))
  | .done => []

/-- Rotation of STANDBY launches (R61). -/
def rotationSteps (s : State) : List (State → Res) :=
  (s.launches.filter (fun a => a.cls == 2 && a.state == .accepted)).filterMap (fun a =>
    (s.nextSharer a).map (fun b => execStandbyRotation a.id b))

/-- Expiries and timers of the wellhead. -/
def tableSteps (s : State) : List (State → Res) :=
  s.wars.flatMap (fun w => [execWarrantExpiry w.id, execStandbyHoldExpiry w.id]) ++
  s.redeem.map (fun e => execRedemptionEntryExpiry e.serial) ++
  s.claims.flatMap (fun c => [execClaimTimeout c.serial, execClaimResend c.serial]) ++ [execAnnounceRepeat]

/-- Completions at the heads of the pump queues. -/
def pumpStep (s : State) (c : Core) : Option State :=
  if c.pumpq.isEmpty then none
  else
    match execPumpOperationCompletion c.id .home s with
    | .next t => if (t.coreAt c.id).pumpq = c.pumpq then none else some t
    | _ => none

/-- A migration order that waited goes on once no peer's reply is outstanding (R411). -/
def laterStep (s : State) : Option State :=
  match s.later with
  | (m, a, j) :: rest =>
    match s.orderOf m with
    | some _ => (s.progress (fun s => execMigrate m a j { s with later := rest })).filter (fun t => t.later.length ≤ rest.length)
    | none => some { s with later := rest }
  | [] => none

/-- The first event whose cause has come about. -/
def State.dueStep (s : State) : Option State :=
  if s.hubDue then some s.hubBack
  else
  match (s.allCores.flatMap (coreSteps s) ++ netSteps s ++ treeSteps s ++ s.launches.flatMap launchSteps ++ rotationSteps s ++
      tableSteps s).findSome? s.progress with
  | some t => some t
  | none =>
    match laterStep s with
    | some t => some t
    | none => s.allCores.findSome? (pumpStep s)

/-! ## What lies ahead -/

/-- The model's unit of time within a tick: every multiplier from 10 to 20 divides it. -/
def timeUnit : Nat := 232792560
/-- The begin of a tick. -/
def tickKey (t : Nat) : Nat := t * timeUnit
/-- The begin of cycle `n` of a core at multiplier `m` (R34, R167). -/
def Core.cycleKey (m n : Nat) (c : Core) : Nat := c.cycTick * timeUnit + (n - c.cycBase) * (timeUnit / max 1 m)

/-- The ticks at which the waits of a context end (R356). -/
def ctxTicks (c : Core) (x : Ctx) : List Nat :=
  match x.wait with
  | some (.waitw _ _ _ _ t _) | some (.corr _ _ _ t _) | some (.check _ t) | some (.vunmap _ _ _ t) => [t]
  | some (.recv ch _ _) => [c.emptyAt.get ch + c.recast.toNat]
  | _ => []

/-- The tick at which the upper bound of trusted time reaches a moment (R408, R409). -/
def Clock.reaches (c : Clock) (na : Nat) : Nat :=
  let e := (((na : Int) - c.hi0) * 1000 / 10001).toNat - 2
  c.t0 + (((List.range 8).map (e + ·)).find? (fun e => decide ((na : Int) ≤ c.hi (c.t0 + e)))).getD (e + 8)

/-- The ticks at which something other than a cycle may come about. -/
def State.ticksAhead (s : State) : List Nat :=
  let l : List Nat :=
    s.allCores.flatMap (fun (c : Core) => c.ctxs.flatMap (ctxTicks c)) ++
    s.rounds.flatMap (fun (r : Round) => r.nodes.filterMap (fun (n : RedNode) => if n.fwd then none else n.cutoff.map (· + 1))) ++
    (if s.allCores.any (fun (c : Core) => c.pumpq.head?.any (·.refreshHeld s.tick)) then [s.tick / 400 * 400 + 100] else []) ++
    s.claims.flatMap (fun (c : ClaimSt) => [c.began + c.limit, c.last + 1000000]) ++
    s.wars.flatMap (fun (w : Warrant) => if w.code.isSome then [] else
      (s.clock.map (fun (c : Clock) => c.reaches w.rec_.notAfter)).toList ++
      (w.evicted.map (fun (t : Nat) => t + s.cfg.stbyhold * hourTicks)).toList) ++
    s.ctrls.filterMap (·.quiet) ++
    (s.launches.filter (fun (l : Launch) => l.cls == 2 && l.state == .accepted)).map (fun (l : Launch) => l.tick.toNat + 1000000) ++
    (if s.annDone then [] else [s.annAt + 100000000])
  l.filter (fun t => decide (s.tick < t))

/-- The next refresh, now or later, that the matrix operation of a core waits out and has not counted (R149, R150). -/
def nextRefresh (s : State) (v : MatOp) : Option Nat :=
  let i := max v.since (s.tick / 400 + (if s.tick % 400 < 100 then 0 else 1))
  ((List.range 16).map (i + ·)).find? (fun i => v.banks.contains (i % 16))

/-- The visits and completions of a core (R34, R37). -/
def coreAhead (s : State) (c : Core) : List (Nat × (State → Res)) :=
  if s.relocks c.id then []
  else
    let m := s.multOf c.id
    let now := max c.cycle (c.cycBase + m * (s.tick - c.cycTick))
    (c.vop.map (fun v => (c.cycleKey m v.cycles, execVectorCompletion c.id))).toList ++
    (c.mop.bind (fun v => (nextRefresh s v).map (fun i =>
      (tickKey (400 * i), fun s => execWellRefresh (Fin.ofNat 16 i) { s with tick := max s.tick (400 * i) })))).toList ++
    (c.mop.map (fun v => (c.cycleKey m (v.ending m c), execMatrixCompletion c.id))).toList ++
    (s.dueSlots c).map (fun k => (c.cycleKey m (now + (k + 12 - now % 12) % 12), execSlotVisit c.id k))

/-- What lies ahead, each at its time; of two at one time the first in the list comes first (R355, R356). -/
def State.ahead (s : State) : List (Nat × (State → Res)) :=
  s.ticksAhead.map (fun t => (tickKey t, fun s => .next { s with tick := max s.tick t })) ++
  (List.range 8).filterMap (fun d => (s.dies.getD d DieSt.reset).relock.map (fun t => (tickKey t, execRelockEnd d))) ++
  [(tickKey s.gov.next, execGovernorWindowBoundary)] ++ s.allCores.flatMap (coreAhead s)

/-- The earliest of a list, the first of equals. -/
def earliest : List (Nat × (State → Res)) → Option (Nat × (State → Res))
  | [] => none
  | x :: t =>
    match earliest t with
    | none => some x
    | some y => if y.1 < x.1 then some y else some x

/-- The step that the module takes by itself: the interleavings that the agenda does not name. -/
def autoStep (s : State) : Res :=
  match s.dueStep with
  | some t => .next t
  | none =>
    match earliest s.ahead with
    | some x => x.2 s
    | none => .next s

/-! ## What comes before the agenda's next event -/

/-- The time of an event: of one that moves the time its end, of every other the present tick. -/
def State.eventKey (e : Instr) (s : State) : Nat :=
  match e with
  | .slotVisit core slot =>
    let c := s.coreAt core
    let now := s.cyclesOf c
    c.cycleKey (s.multOf core) (now + (slot + 12 - now % 12) % 12)
  | .vectorCompletion core =>
    let c := s.coreAt core
    (c.vop.map (fun v => c.cycleKey (s.multOf core) v.cycles)).getD (tickKey s.tick)
  | .matrixCompletion core =>
    let c := s.coreAt core
    (c.mop.map (fun v => c.cycleKey (s.multOf core) (v.ending (s.multOf core) c))).getD (tickKey s.tick)
  | .governorWindowBoundary => tickKey (max s.tick s.gov.next)
  | .relockEnd die => tickKey (max s.tick ((s.dies.getD die DieSt.reset).relock.getD s.tick))
  | _ => tickKey s.tick

/-- The visits that come before the event `e` (R34, R66). -/
def State.visitsBefore (e : Instr) (s : State) : List (Nat × (State → Res)) :=
  (s.allCores.filter (fun c => !s.relocks c.id)).flatMap (fun c =>
    let now := s.cyclesOf c
    ((s.dueSlots c).map (fun k => (c.cycleKey (s.multOf c.id) (now + (k + 12 - now % 12) % 12), execSlotVisit c.id k))).filter
      (fun x => decide (x.1 < s.eventKey e)))

/-- Whether an event requests a reset, or may (R416, R419). -/
def resets : Instr → Bool
  | .moduleColdReset | .moduleWarmReset | .dieReset _ | .coreReset _ | .engineReset _ | .portReset _ | .watchdogExpiry _ _
  | .controllerException _ _ _ _ => true
  | _ => false

/-- Whether an event is an alarm (R425). -/
def isAlarm : Instr → Bool
  | .securityAlarm _ => true
  | _ => false

/-- Whether an event may move the time. -/
def movesTime : Instr → Bool
  | .slotVisit _ _ | .vectorCompletion _ | .matrixCompletion _ | .governorWindowBoundary | .relockEnd _ => true
  | _ => false

/-- The alarm that the agenda holds in the same tick as the reset request at its head, whose response completes first (R426). -/
def alarmFirst (e : Instr) (rest : List Instr) : Option Instr :=
  if resets e then (rest.takeWhile (fun x => !movesTime x)).find? isAlarm else none

/-- What the module does before the event `e` at the head of its agenda, if anything: the end of the hub's switch (R422), or the earliest
visit that comes before it (R34, R66). -/
def State.comesFirst (e : Instr) (s : State) : Option (State → Res) :=
  if s.hubDue then some (fun s => .next s.hubBack) else (earliest (s.visitsBefore e)).map (·.2)

/-! ## Loading -/

/-- One space with a mapped instruction page at 0x200000 and a mapped stack segment. -/
def loadSpace (n : Nat) : Space :=
  { Space.zero with
    id := n, ipages := [1],
    pages := (List.range 16).map (fun i => { base := 0x200000 + i * 0x10000, big := false, kind := .stack, war := n }) }

/-- The warrant of the loaded program: one core, class RESERVED. -/
def loadWar (n : Nat) : Warrant :=
  { Warrant.zero with
    id := n, hix := n, space := n, stackAt := 0x200000, memFree := 16384,
    rec_ := { WarRec.zero with
      version := 1, width := 1, height := 1, memGib := 1, fgsize := 1, notAfter := 2 ^ 64 - 1,
      events := 0x101FF } }

/-- The launch of the loaded program on core 0. -/
def loadLaunch (n : Nat) : Launch :=
  { Launch.zero with id := n, war := n, width := 1, height := 1, entry := 0x200000, state := .accepted }

/-- A launch of a fresh warrant on core 0, its start steps done (R31). -/
def State.load (s : State) : State :=
  let n := s.nextId
  let s := { s with
    spaces := loadSpace n :: s.spaces, wars := loadWar n :: s.wars, launches := loadLaunch n :: s.launches,
    nextId := n + 1 }
  let s := (s.focusCore 0).startCore n 0
  { s with co.grant := fullMw * 2048 }

/-- The focused context can be visited now: resident in a slot, its registers present, nothing before it. -/
def State.readied (s : State) : State :=
  let n := s.slotCycle (s.cx.slot.getD 0)
  { s with
    cx.status := .resident, cx.slot := some (s.cx.slot.getD 0), cx.wait := none, cx.waitk := 0,
    cx.lines := 15, cx.awaitFetch := false, co.stops := [], co.cycle := n, co.cycBase := n, co.cycTick := s.tick,
    co.ringNews := s.co.ringNews && (s.cx.helper || s.cx.intrap),
    powered := true, ir := none, ctrls := s.ctrls.modify 8 (fun c => { c with quiet := none }),
    launches := s.launches.map (fun (l : Launch) => if l.id == s.lau.id then { l with halted := false } else l), dies := s.dies.map (fun (d : DieSt) => { d with relock := none }),
    agenda := [.slotVisit s.co.id (s.cx.slot.getD 0)] }

/-- Store 12 bytes of instruction words at the focused context's PC. -/
def State.pokeWord (w : Nat) (s : State) : State :=
  s.modMySpace (fun sp =>
    let a := s.cx.pc.toNat
    { sp with
      imem := Memory.writeN sp.imem a (leBytes 12 w),
      ipages := insNat (insNat sp.ipages (a / 2 ^ 21)) ((a + 8) / 2 ^ 21) })

/-- The instruction whose bits are `w` at the focused context's PC, its visit next. -/
def placeWord (s : State) (w : Nat) : State :=
  let s := if s.cx.status = .free ∨ !s.spaces.any (·.id == s.war.space) then s.load else s
  (s.readied).pokeWord w

end Sys2Proof.Machine
end

