-- ==== Sys2Proof/Machine/Step.lean ====
section
/-! DEFINITION. One step of the machine, and the placing of an instruction where the next step fetches it. -/

namespace Sys2Proof.Machine

open Sys2Proof

/-- A visit that decides to issue leaves its instruction in `ir`; the instruction runs in the same step. -/
def issueIr (r : Host.Outcome State Fault Refusal) : Host.Outcome State Fault Refusal :=
  match r with
  | .next s' =>
    match s'.ir with
    | none => .next s'
    | some i => exec i { s' with ir := none }
  | .fault r => .fault r
  | .refused r => .refused r

/-- Whether a step may happen while the supply is off. -/
def isPowerOn : Instr → Bool
  | .powerOn _ _ _ _ => true
  | _ => false

/-- One step: the head of the agenda, unless an alarm of the same tick or a visit that is due comes before it (R66, R426), or with an empty
agenda the step that the module takes by itself next. -/
def step (s : State) : Host.Outcome State Fault Refusal :=
  match s.agenda with
  | e :: rest =>
    if !s.powered then (if isPowerOn e then issueIr (exec e { s with agenda := rest }) else .fault .noPower)
    else
      match alarmFirst e rest with
      | some a => issueIr (exec a { s with agenda := e :: rest.erase a })
      | none =>
        match s.comesFirst e with
        | some f => issueIr (f s)
        | none => issueIr (exec e { s with agenda := rest })
  | [] => if s.powered then issueIr (autoStep s) else .fault .noPower

/-- `s` with the instruction whose bits are `w` stored at the PC of the focused context, whose visit is the
next step. Where no context exists, one launch on core 0 stands for the loading of a program. -/
def State.withFetchWord (s : State) (nbits w : Nat) : State := placeWord s (w % 2 ^ nbits)

end Sys2Proof.Machine
end

