-- ==== Sys2Proof/Safety.lean ====
section
/-! DEFINITION. Safe runs: every step answers a next state, and the state keeps its canonical form. -/

namespace Sys2Proof

open Sys2Proof.Machine

/-- The memories of a space are in canonical form. -/
def spaceWf (sp : Space) : Bool := Memory.wf sp.mem && Memory.wf sp.imem

/-- The memories of a core are in canonical form. -/
def coreWf (c : Machine.Core) : Bool := Memory.wf c.store && Memory.wf c.wbuf

/-- The memories of a transfer that comes from another module are in canonical form. -/
def movingWf (v : Moving) : Bool :=
  spaceWf v.space && v.wells.all (fun w => Memory.wf w.2.2) && v.launches.all (fun l => l.image.all coreWf)

/-- Every memory of the module is in canonical form: HBM, instruction store, the stores of cores, those of evicted launches, the well, and
those of transfers that have come. -/
def State.memWf (s : Machine.State) : Bool :=
  s.spaces.all spaceWf && coreWf s.co && s.cores.all coreWf && s.wells.all (fun w => Memory.wf w.2.2) &&
  s.launches.all (fun l => l.image.all coreWf) && s.arrivals.all movingWf

/-- A step that stops neither by a fault nor by a refusal. -/
def SafeStep (s : Machine.State) : Prop := ∃ t, Machine.step s = .next t

end Sys2Proof
end

