-- ==== Sys2Proof/Certificates/Slice0/Obligations.lean ====
section
/-! DEFINITION. The statements for the provers: what instructions, steps and the machine do, rule by rule. -/

namespace Sys2Proof.Claim

open Sys2Proof Sys2Proof.Machine

/-! ## Words for frames

`s` is the state before and `t` the state after. The focused context `cx` of the core `co` runs the instruction. -/

/-- A meaning's answer is a next state with the property. -/
def Next (r : Res) (p : State → Prop) : Prop := ∃ t, r = .next t ∧ p t

/-- Every register keeps its bits and its tag. -/
def regsKept (s t : State) : Prop := ∀ n : Reg, t.g n = s.g n ∧ t.gtag n = s.gtag n

/-- Register `d` holds `v` with the tag, every other register is as before. g0 discards the write and reads
as zero with a clear tag (R12). -/
def regWritten (s t : State) (d : Reg) (v : W128) (tag : Bool) : Prop :=
  ∀ n : Reg, t.g n = (if n = d then (if n = 0 then 0 else v) else s.g n) ∧
    t.gtag n = (if n = d then (if n = 0 then false else tag) else s.gtag n)

/-- Nothing outside the focused context and its core has changed: no other core, no space (and so no byte of
global memory), no launch, warrant, message, clock or register of the module. -/
def elsewhereKept (s t : State) : Prop := ({ t with cx := s.cx, co := s.co } : State) = s

/-- Every byte of memory reads as before: the store of the focused core and of every other core, the weight
buffer, the accumulators, and global memory of every space with its granule tags. -/
def memoryKept (s t : State) : Prop :=
  (∀ a, Memory.read t.co.store a = Memory.read s.co.store a) ∧
  (∀ a, Memory.read t.co.wbuf a = Memory.read s.co.wbuf a) ∧
  (∀ a, Tab.get 0 t.co.acc a = Tab.get 0 s.co.acc a) ∧ t.cores = s.cores ∧
  ∀ n a, Memory.read (t.spaceById n).mem a = Memory.read (s.spaceById n).mem a ∧
    (t.spaceById n).tagAt a = (s.spaceById n).tagAt a

/-- Every field of the context is as before, but for the registers, the PC and the notes of an issue. -/
def contextKept (s t : State) : Prop :=
  ({ t.cx with
      regs := s.cx.regs, tags := s.cx.tags, dirty := s.cx.dirty, pc := s.cx.pc, run := s.cx.run, fresh := s.cx.fresh, retired := s.cx.retired, afterCtrl := s.cx.afterCtrl, agreed := s.cx.agreed, dropped := s.cx.dropped } : Ctx) = s.cx

/-- Every field of the core is as before, but for its counters, its power account, st.fflags and its store, of
which a statement says what they hold. -/
def coreKept (s t : State) : Prop :=
  ({ t.co with
      counters := s.co.counters, weightSum := s.co.weightSum, fflags := s.co.fflags, store := s.co.store } : Core) = s.co

/-- What an issue leaves: ISSUEDn of the slot counts one more and no other counter moves (R334), the issue
unit's weight is added (R159), RUN is noted at the first issue after an activation (R52), one more instruction
of the context has retired (R437). -/
def issued (s t : State) : Prop :=
  (∀ e, Tab.get 0 t.co.counters e =
    if e = eventCode (issuedEvent s.cx.slot) then Tab.get 0 s.co.counters e + 1 else Tab.get 0 s.co.counters e) ∧
  t.co.weightSum = s.co.weightSum + 300 ∧
  t.cx.run = (if s.cx.fresh then BitVec.ofNat 64 s.tick else s.cx.run) ∧ t.cx.fresh = false ∧
  t.cx.retired = s.cx.retired + 1

/-- The instruction completes with the PC at `pc`, having ORed `fl` into st.fflags (R126), and changes nothing but
registers and local memory, of which the statement says more. -/
def completes (s t : State) (pc : Word) (fl : FlagSet) : Prop :=
  t.cx.pc = pc ∧ t.co.fflags = s.co.fflags ||| fl ∧ issued s t ∧ contextKept s t ∧ coreKept s t ∧ elsewhereKept s t

/-- The instruction of `len` bytes completes and writes one register only. -/
def writesReg (s t : State) (len : Nat) (d : Reg) (v : W128) (tag : Bool) (fl : FlagSet) : Prop :=
  completes s t (s.cx.pc + BitVec.ofNat 64 len) fl ∧ regWritten s t d v tag ∧ memoryKept s t

/-- The instruction completes with the PC at `pc` and writes nothing. -/
def writesNothing (s t : State) (pc : Word) : Prop := completes s t pc 0 ∧ regsKept s t ∧ memoryKept s t

/-- SetInt of R194: the low 64 bits, zeros above. -/
def intBits (v : Word) : W128 := v.setWidth 128

/-! ## Traps (R321, R324) -/

/-- Nothing of the core has changed but what the statement says of its fault ring. -/
def ringOnly (s t : State) : Prop :=
  ({ t.co with
      ring := s.co.ring, held := s.co.held, ringNews := s.co.ringNews } : Core) = s.co

/-- A synchronous trap at the instruction of the focused context: in the control context TakeTrap of R321 with
st.epc at the instruction; in a helper the helper parks at the instruction and a fault record enters the ring, or waits when the ring is full (R324). No register and no
byte of memory changes and the instruction does not issue. With st.tvec zero, or inside a handler, the warrant
ends with FAULT_UNHANDLED (R321). -/
def traps (s t : State) (cause : BitVec 16) (tval : Word) : Prop :=
  if s.cx.helper then
    t.cx = { s.cx with
      agreed := false, dropped := false, status := .parked, wait := none, waitk := 0, fpc := s.cx.pc } ∧
    ringOnly s t ∧ elsewhereKept s t ∧
    ∃ r : FaultRec, r.cause = cause ∧ r.tval = tval ∧ r.fpc = s.cx.pc ∧ r.pc = s.cx.pc ∧ r.region = s.cx.region ∧
      r.hid = s.cx.hid ∧ r.slot = s.cx.slot ∧ r.kind = 0 ∧ r.tick = BitVec.ofNat 64 s.tick ∧
      if s.co.ring.length < 64 then t.co.ring = s.co.ring ++ [r] ∧ t.co.held = s.co.held ∧ t.co.ringNews = true
      else t.co.ring = s.co.ring ∧ r ∈ t.co.held ∧ t.co.ringNews = s.co.ringNews
  else if s.cx.intrap = false ∧ s.cx.tvec ≠ 0 then
    t = { s with
      cx.agreed := false, cx.dropped := false, cx.epc := s.cx.pc, cx.cause := cause, cx.tval := tval, cx.intrap := true, cx.pc := s.cx.tvec }
  else t = State.terminate s.lau.war (if cause = 0x21 then 0x44 else 0x43) { s with cx.agreed := false, cx.dropped := false }

/-! ## The integer instructions (R197 to R203), in unbounded arithmetic -/

/-- Reduced modulo 2^64. -/
def wrap (v : Int) : Word := BitVec.ofInt 64 v

/-- `n` leading bits of `a` are zero and, below 64, the next is one. -/
def leading (a v : Word) : Prop :=
  v.toNat ≤ 64 ∧ (∀ i, 64 - v.toNat ≤ i → a.getLsbD i = false) ∧
    (v.toNat < 64 → a.getLsbD (63 - v.toNat) = true)
/-- `n` trailing bits of `a` are zero and, below 64, the next is one. -/
def trailing (a v : Word) : Prop :=
  v.toNat ≤ 64 ∧ (∀ i, i < v.toNat → a.getLsbD i = false) ∧ (v.toNat < 64 → a.getLsbD v.toNat = true)

/-- The table of R197 with the corner cases of R198: destination and what its value must satisfy, from the
64-bit source values. -/
def intRow (g : Reg → Word) : Instr → Option (Reg × (Word → Prop))
  | .add d a b => some (d, (· = wrap ((g a).toInt + (g b).toInt)))
  | .sub d a b => some (d, (· = wrap ((g a).toInt - (g b).toInt)))
  | .mul d a b => some (d, (· = wrap ((g a).toInt * (g b).toInt)))
  | .mulh d a b => some (d, (· = wrap (Int.fdiv ((g a).toInt * (g b).toInt) (2 ^ 64))))
  | .mulhn d a b => some (d, fun v => v.toNat = (g a).toNat * (g b).toNat / 2 ^ 64)
  | .div d a b => some (d, fun v =>
      if g b = 0 then v = 0
      else if (g a).toInt = -2 ^ 63 ∧ (g b).toInt = -1 then v.toInt = -2 ^ 63
      else v.toInt = Int.tdiv (g a).toInt (g b).toInt)
  | .divn d a b => some (d, fun v => v.toNat = (g a).toNat / (g b).toNat)
  | .rem d a b => some (d, fun v =>
      if g b = 0 then v = g a
      else if (g a).toInt = -2 ^ 63 ∧ (g b).toInt = -1 then v = 0
      else v.toInt = (g a).toInt - (g b).toInt * Int.tdiv (g a).toInt (g b).toInt)
  | .remn d a b => some (d, fun v => v.toNat = (g a).toNat - (g b).toNat * ((g a).toNat / (g b).toNat))
  | .and d a b => some (d, fun v => ∀ i, v.getLsbD i = ((g a).getLsbD i && (g b).getLsbD i))
  | .or d a b => some (d, fun v => ∀ i, v.getLsbD i = ((g a).getLsbD i || (g b).getLsbD i))
  | .xor d a b => some (d, fun v => ∀ i, v.getLsbD i = ((g a).getLsbD i != (g b).getLsbD i))
  | .andn d a b => some (d, fun v => ∀ i, v.getLsbD i = ((g a).getLsbD i && !(g b).getLsbD i))
  | .shl d a b => some (d, fun v => v.toNat = (g a).toNat * 2 ^ ((g b).toNat % 64) % 2 ^ 64)
  | .shr d a b => some (d, fun v => v.toNat = (g a).toNat / 2 ^ ((g b).toNat % 64))
  | .sar d a b => some (d, fun v => v.toInt = Int.fdiv (g a).toInt (2 ^ ((g b).toNat % 64)))
  | .rol d a b => some (d, fun v => v.toNat =
      (g a).toNat * 2 ^ ((g b).toNat % 64) % 2 ^ 64 + (g a).toNat / 2 ^ (64 - (g b).toNat % 64))
  | .min d a b => some (d, fun v => v.toInt = Min.min (g a).toInt (g b).toInt)
  | .max d a b => some (d, fun v => v.toInt = Max.max (g a).toInt (g b).toInt)
  | .minn d a b => some (d, fun v => v.toNat = Min.min (g a).toNat (g b).toNat)
  | .maxn d a b => some (d, fun v => v.toNat = Max.max (g a).toNat (g b).toNat)
  | .clz d a => some (d, leading (g a))
  | .ctz d a => some (d, trailing (g a))
  | .popc d a => some (d, fun v => v.toNat = ((List.range 64).filter (fun i => (g a).getLsbD i)).length)
  | .abs d a => some (d, (· = wrap |(g a).toInt|))
  | _ => none

/-- The tables of R199 to R203 without the local load: length, destination and value. -/
def immRow (g : Reg → Word) : Instr → Option (Nat × Reg × (Word → Prop))
  | .addi d a imm => some (4, d, (· = wrap ((g a).toInt + imm.toInt)))
  | .addiW3 d a lit => some (12, d, (· = wrap ((g a).toInt + lit.toInt)))
  | .andi d a imm => some (4, d, fun v => ∀ i, v.getLsbD i = ((g a).getLsbD i && (wrap imm.toInt).getLsbD i))
  | .andiW3 d a lit => some (12, d, fun v => ∀ i, v.getLsbD i = ((g a).getLsbD i && (wrap lit.toInt).getLsbD i))
  | .ori d a imm => some (4, d, fun v => ∀ i, v.getLsbD i = ((g a).getLsbD i || (wrap imm.toInt).getLsbD i))
  | .oriW3 d a lit => some (12, d, fun v => ∀ i, v.getLsbD i = ((g a).getLsbD i || (wrap lit.toInt).getLsbD i))
  | .xori d a imm => some (4, d, fun v => ∀ i, v.getLsbD i = ((g a).getLsbD i != (wrap imm.toInt).getLsbD i))
  | .xoriW3 d a lit => some (12, d, fun v => ∀ i, v.getLsbD i = ((g a).getLsbD i != (wrap lit.toInt).getLsbD i))
  | .li d imm => some (4, d, fun v => v.toInt = imm.toInt)
  | .liW3 zext d lit => some (12, d, fun v => if zext then v.toNat = lit.toNat else v.toInt = lit.toInt)
  | .sext d a w => some (4, d, fun v => ∀ i, i < 64 →
      v.getLsbD i = (g a).getLsbD (if i < w.toNat then i else w.toNat - 1))
  | .zext d a w => some (4, d, fun v => ∀ i, v.getLsbD i = (decide (i < w.toNat) && (g a).getLsbD i))
  | .bfx d a pos wm1 => some (4, d, fun v => ∀ i,
      v.getLsbD i = (decide (i ≤ wm1.toNat) && (g a).getLsbD (pos.toNat + i)))
  | .bfi d a pos wm1 => some (4, d, fun v => ∀ i,
      v.getLsbD i = if pos.toNat ≤ i ∧ i ≤ pos.toNat + wm1.toNat then (g a).getLsbD (i - pos.toNat)
        else (g d).getLsbD i)
  | _ => none

/-- The relation that a condition of CMP names (R204). -/
def cmpHolds (c : Cond) (a b : Word) : Prop :=
  match c with
  | .eq => a = b
  | .ne => a ≠ b
  | .lt => a.toInt < b.toInt
  | .le => a.toInt ≤ b.toInt
  | .ltn => a.toNat < b.toNat
  | .len => a.toNat ≤ b.toNat

/-- The bits of a register with bit `k` replaced (SetBit of R194). -/
def bitSet (old new : W128) (k : Nat) (v : Bool) : Prop :=
  ∀ i, i < 128 → new.getLsbD i = if i = k then v else old.getLsbD i

/-! ## The floating-point instructions (R207 to R214) -/

/-- The source of a form in its precision: the value that the low bits of the register encode (R196). -/
def fsrc (s : State) (p : Prec) (n : Reg) : Machine.Num :=
  (precFmt p).decode ((s.int n).toNat % 2 ^ (match p with | .s => 32 | .d => 64))
/-- The pattern itself. -/
def fpat (s : State) (p : Prec) (n : Reg) : Nat := (s.int n).toNat % 2 ^ (match p with | .s => 32 | .d => 64)

/-- The table of R207: destination, result pattern and flags. `roundNum` is Round of R119 and R120, `rcpNum`,
`rsqNum` and `nrNum` are the estimates and steps of R212 to R214, `numToInt` is the conversion of R122. -/
def fopRow (s : State) : Instr → Option (Reg × Nat × FlagSet)
  | .fadd r p d a b => some (d, roundNum (precFmt p) .ieee r ((fsrc s p a).add (fsrc s p b)))
  | .fsub r p d a b => some (d, roundNum (precFmt p) .ieee r ((fsrc s p a).add (fsrc s p b).neg))
  | .fmul r p d a b => some (d, roundNum (precFmt p) .ieee r ((fsrc s p a).mul (fsrc s p b)))
  | .fma r p d a b => some (d, roundNum (precFmt p) .ieee r (((fsrc s p a).mul (fsrc s p b)).add (fsrc s p d)))
  | .frcp p d a => some (d, rcpNum (precFmt p) (fsrc s p a))
  | .frsq p d a => some (d, rsqNum (precFmt p) (fsrc s p a))
  | .fnr r p d a => some (d, nrNum (precFmt p) r false (fsrc s p a) (fsrc s p d) (fpat s p d))
  | .fnrs r p d a => some (d, nrNum (precFmt p) r true (fsrc s p a) (fsrc s p d) (fpat s p d))
  | .fcvtFromInt r p t d a => some (d, roundNum (precFmt p) .ieee r (Machine.Num.ofInt (match t with
      | .i32 => ((s.int a).setWidth 32).toInt
      | .n32 => ((s.int a).setWidth 32).toNat
      | .i64 => (s.int a).toInt
      | .n64 => (s.int a).toNat)))
  | .fcvtSTod d a => some (d, roundNum fp64 .ieee .rne (fsrc s .s a))
  | .fcvtDTos r d a => some (d, roundNum fp32 .ieee r (fsrc s .d a))
  | _ => none

/-- The conversions to integers of R211: destination and result, sign- or zero-extended to 64 bits. -/
def toIntRow (s : State) : Instr → Option (Reg × Word × FlagSet)
  | .fcvtToInt r p t d a => some (d, conv r p t false a)
  | .fcvtWrapToInt r p t d a => some (d, conv r p t true a)
  | _ => none
where
  conv (r : Rnd) (p : Prec) (t : IntTy) (w : Bool) (a : Reg) : Word × FlagSet :=
    match t with
    | .i32 => let x := numToInt r true 32 w (fsrc s p a); ((BitVec.ofNat 32 x.1).signExtend 64, x.2)
    | .n32 => let x := numToInt r false 32 w (fsrc s p a); ((BitVec.ofNat 32 x.1).setWidth 64, x.2)
    | .i64 => let x := numToInt r true 64 w (fsrc s p a); (BitVec.ofNat 64 x.1, x.2)
    | .n64 => let x := numToInt r false 64 w (fsrc s p a); (BitVec.ofNat 64 x.1, x.2)

end Sys2Proof.Claim

open Sys2Proof Sys2Proof.Machine Sys2Proof.Claim

/-- R195, R197, R198: each integer instruction writes the 64-bit result of its row with a clear tag, zeros above it, advances the PC
by 4 and changes nothing else. -/
def Obligations.IntegerFormsCompute : Prop :=
  ∀ s i d P, intRow s.int i = some (d, P) →
    Next (exec i s) fun t => ∃ v : Word, P v ∧ writesReg s t 4 d (intBits v) false 0

/-- R187, R199, R200, R202, R203: each well-formed immediate, literal and field instruction writes the result of its row, advances the PC
by its length and changes nothing else. -/
def Obligations.ImmediateFormsCompute : Prop :=
  ∀ s i len d P, i.wf = true → immRow s.int i = some (len, d, P) →
    Next (exec i s) fun t => ∃ v : Word, P v ∧ writesReg s t len d (intBits v) false 0

/-- R200: LI writes its sign-extended immediate; its W3 form writes the literal, sign-extended for MINOR 0 and zero-extended for MINOR 1, and any
other MINOR is refused as ENC_MINOR. -/
def Obligations.LiWritesItsImmediate : Prop :=
  ∀ s, ∀ d : Reg, ∀ imm : BitVec 14, ∀ lit : W32,
    decodeWords (8 * 4 + d.val * 2 ^ 8 + imm.toNat * 2 ^ 18) 0 0 = .ok (.li d imm) ∧
    (∀ m, m < 128 → decodeWords (2 + 1 * 4 + d.val * 2 ^ 8 + m * 2 ^ 25) 0 lit.toNat =
      if m = 0 then .ok (.liW3 false d lit) else if m = 1 then .ok (.liW3 true d lit) else .error .minor) ∧
    (Next (exec (.li d imm) s) fun t => writesReg s t 4 d (intBits (wrap imm.toInt)) false 0) ∧
    (Next (exec (.liW3 false d lit) s) fun t => writesReg s t 12 d (intBits (wrap lit.toInt)) false 0) ∧
    Next (exec (.liW3 true d lit) s) fun t => writesReg s t 12 d (intBits (wrap lit.toNat)) false 0

/-- R197 (mov): a whole register is copied with its tag. -/
def Sys2Proof.Claim.MovCopiesARegister : Prop :=
  ∀ s d a, Next (exec (.mov d a) s) fun t => writesReg s t 4 d (s.g a) (s.gtag a) 0

/-- R206: SEL copies the register that bit PBIT of the predicate register selects, with its tag; its word is that of R170 and R182. -/
def Obligations.SelCopiesByAPredicateBit : Prop :=
  ∀ s, ∀ d a b p : Reg, ∀ k : Fin 16,
    decodeWords (3 * 4 + d.val * 2 ^ 8 + a.val * 2 ^ 13 + b.val * 2 ^ 18 + k.val * 2 ^ 23 + p.val * 2 ^ 27) 0 0 = .ok (.sel p k d a b) ∧
    Next (exec (.sel p k d a b) s) fun t =>
      if (s.g p).getLsbD k.val then writesReg s t 4 d (s.g a) (s.gtag a) 0
      else writesReg s t 4 d (s.g b) (s.gtag b) 0

/-- R204, R205, R210: CMP and FCMP write one bit of an untagged register, and with a tagged destination trap TAG and change nothing. -/
def Sys2Proof.Claim.ComparisonsSetOneBit : Prop :=
  (∀ s d a b, ∀ k : Fin 32, s.gtag d = true →
    (∀ c, Next (exec (.cmp c k d a b) s) fun t => traps s t 0x11 s.cx.pc) ∧
    ∀ p c, Next (exec (.fcmp p c k d a b) s) fun t => traps s t 0x11 s.cx.pc) ∧
  ∀ s d a b, ∀ k : Fin 32, s.gtag d = false →
    (∀ c, Next (exec (.cmp c k d a b) s) fun t => ∃ v, ∃ h : Bool,
      (h = true ↔ cmpHolds c (s.int a) (s.int b)) ∧ bitSet (s.g d) v k.val h ∧ writesReg s t 4 d v false 0) ∧
    (∀ p c, c ≠ .ltn → c ≠ .len → Next (exec (.fcmp p c k d a b) s) fun t => ∃ v,
      bitSet (s.g d) v k.val (Machine.Num.holds c (fsrc s p a) (fsrc s p b)) ∧
      writesReg s t 4 d v false (if (fsrc s p a).isNan || (fsrc s p b).isNan then 0b10000 else 0))

/-- MOV copies a register; CMP and FCMP write one bit: the statements named here, together.
What the manual leaves open here is the model's choice: assumption 18. -/
def Obligations.CopiesAndComparisons : Prop :=
  Sys2Proof.Claim.MovCopiesARegister ∧ Sys2Proof.Claim.ComparisonsSetOneBit

/-- R119, R207, R211 to R214: each floating-point instruction that rounds writes the rounded result of its row in its precision, ORs its flags into st.fflags and changes
nothing else. -/
def Sys2Proof.Claim.FloatingFormsRound : Prop :=
  ∀ s i d c fl, fopRow s i = some (d, c, fl) →
    Next (exec i s) fun t => writesReg s t 4 d (intBits (BitVec.ofNat 64 c)) false fl

/-- R211: the conversions to integers write the converted or wrapped integer, extended to 64 bits, with their flags. -/
def Sys2Proof.Claim.FloatToIntegerConverts : Prop :=
  ∀ s i d v fl, toIntRow s i = some (d, v, fl) →
    Next (exec i s) fun t => writesReg s t 4 d (intBits v) false fl

/-- Floating-point instructions round once and convert: the statements named here, together.
What the manual leaves open here is the model's choice: assumption 20. -/
def Obligations.FloatingFormsRoundAndConvert : Prop :=
  Sys2Proof.Claim.FloatingFormsRound ∧ Sys2Proof.Claim.FloatToIntegerConverts

namespace Sys2Proof.Claim

/-- The sign bit of a pattern. -/
def fsign (p : Prec) (x : Nat) : Bool := x.testBit (match p with | .s => 31 | .d => 63)
/-- The pattern with another sign bit. -/
def fsigned (p : Prec) (x : Nat) (neg : Bool) : Nat :=
  match p with
  | .s => x % 2 ^ 31 + if neg then 2 ^ 31 else 0
  | .d => x % 2 ^ 63 + if neg then 2 ^ 63 else 0
/-- A pattern whose value is a NaN: all exponent bits set and a fraction (R107). -/
def fnan (p : Prec) (x : Nat) : Bool :=
  match p with
  | .s => x / 2 ^ 23 % 2 ^ 8 == 255 && x % 2 ^ 23 != 0
  | .d => x / 2 ^ 52 % 2 ^ 11 == 2047 && x % 2 ^ 52 != 0
/-- The canonical NaN (R108). -/
def fquiet : Prec → Nat
  | .s => 0x7FC00000
  | .d => 0x7FF8000000000000
/-- The order of non-NaN patterns by value with −0 below +0: the pattern's magnitude with its sign. -/
def ford (p : Prec) (x : Nat) : Int :=
  let m : Int := match p with | .s => x % 2 ^ 31 | .d => x % 2 ^ 63
  if fsign p x then -m - 1 else m
/-- The bit of FCLS (R209) by the fields of the pattern. -/
def fclass (p : Prec) (x : Nat) : Nat :=
  let (top, e, fr, q) := match p with
    | .s => (255, x / 2 ^ 23 % 2 ^ 8, x % 2 ^ 23, x.testBit 22)
    | .d => (2047, x / 2 ^ 52 % 2 ^ 11, x % 2 ^ 52, x.testBit 51)
  if e = top ∧ fr ≠ 0 then (if q then 9 else 8)
  else
    let k := if e = top then 0 else if e ≠ 0 then 1 else if fr ≠ 0 then 2 else 3
    if fsign p x then k else 7 - k

/-! ## The local store (R73, R201, R243, R255) -/

/-- Byte `i` of Local(o, s): the window of WSIZE at WBASE, `o` aligned down and wrapped (R73). -/
def localByte (s : State) (o : Word) (sz i : Nat) : Nat :=
  s.cx.wbase.toNat + (o.toNat / sz * sz) % (4096 * 2 ^ s.cx.wsize.toNat) + i
/-- The value of Local(o, s), little-endian. -/
def localVal (s : State) (o : Word) (sz : Nat) : Nat :=
  ((List.range sz).map (fun i => (Memory.read s.co.store (localByte s o sz i)).toNat * 256 ^ i)).sum
/-- The size that the two low bits of the offset select (R242): 00 a word, 01 a doubleword, 10 sixteen bytes. -/
def localSize (o : Word) : Nat := if o.toNat % 4 = 1 then 8 else if o.toNat % 4 = 2 then 16 else 4
/-- No line of the window that the access touches is poisoned (R446). -/
def localClean (s : State) (o : Word) (sz : Nat) : Prop := s.co.poison.contains (localByte s o sz 0 / 64) = false

/-- The store of `sz` bytes of `v` at Local(o, s), and no other byte of any memory. -/
def localStored (s t : State) (o : Word) (sz v : Nat) : Prop :=
  (∀ i, i < sz → Memory.read t.co.store (localByte s o sz i) = BitVec.ofNat 8 (v / 256 ^ i)) ∧
  (∀ a, (∀ i, i < sz → a ≠ localByte s o sz i) → Memory.read t.co.store a = Memory.read s.co.store a) ∧
  (∀ a, Memory.read t.co.wbuf a = Memory.read s.co.wbuf a) ∧
  (∀ a, Tab.get 0 t.co.acc a = Tab.get 0 s.co.acc a) ∧ t.cores = s.cores ∧ t.spaces = s.spaces

/-- The forms of LL: length, data register, offset. -/
def llRow (s : State) : Instr → Option (Nat × Reg × Word)
  | .ll d a imm => some (4, d, wrap ((s.int a).toInt + imm.toInt))
  | .llW3 d a lit => some (12, d, wrap ((s.int a).toInt + lit.toInt))
  | _ => none
/-- The forms of SL. -/
def slRow (s : State) : Instr → Option (Nat × Reg × Word)
  | .sl d a imm => some (4, d, wrap ((s.int a).toInt + imm.toInt))
  | .slW3 d a lit => some (12, d, wrap ((s.int a).toInt + lit.toInt))
  | _ => none

/-- The forms of LAMO: destination, address register, and the new word from the old one and the operand (R185, R253). -/
def lamoRow (s : State) : Instr → Option (Reg × Reg × (W32 → W32))
  | .lamoAdd d a b => some (d, a, fun w => w + (s.int b).setWidth 32)
  | .lamoAnd d a b => some (d, a, fun w => w &&& (s.int b).setWidth 32)
  | .lamoOr d a b => some (d, a, fun w => w ||| (s.int b).setWidth 32)
  | .lamoXor d a b => some (d, a, fun w => w ^^^ (s.int b).setWidth 32)
  | .lamoMin d a b => some (d, a, fun w => if w.toInt ≤ ((s.int b).setWidth 32).toInt then w else (s.int b).setWidth 32)
  | .lamoMax d a b => some (d, a, fun w => if w.toInt ≤ ((s.int b).setWidth 32).toInt then (s.int b).setWidth 32 else w)
  | .lamoMinn d a b => some (d, a, fun w => if w.toNat ≤ ((s.int b).setWidth 32).toNat then w else (s.int b).setWidth 32)
  | .lamoMaxn d a b => some (d, a, fun w => if w.toNat ≤ ((s.int b).setWidth 32).toNat then (s.int b).setWidth 32 else w)
  | .lamoSwap d a b => some (d, a, fun _ => (s.int b).setWidth 32)
  | _ => none

/-! ## Capabilities (R215 to R222) -/

/-- E of R217. -/
def capExp (c : W128) : Nat := Min.min ((c.extractLsb' 106 6).toNat) 44
/-- The top of R217, the lowest span whose top position lies at or above the cursor, in bytes. -/
def capTopOf (c : W128) : Nat :=
  let e := 2 ^ capExp c
  let tm := (c.extractLsb' 64 21).toNat
  let u := ((c.extractLsb' 0 64).toNat + e - 1) / e
  let h := u / 2 ^ 21
  let um := u % 2 ^ 21
  ((h + if um > tm then 1 else 0) * 2 ^ 21 + tm) * e
/-- The base of R217. -/
def capBaseOf (c : W128) : Nat :=
  let span : Nat := (((c.extractLsb' 64 21).toNat + 2 ^ 21 - (c.extractLsb' 85 21).toNat) % 2 ^ 21) * 2 ^ capExp c
  ((((capTopOf c : Int) - span) % 2 ^ 64) : Int).toNat
/-- PERM. -/
def capPermOf (c : W128) : BitVec 12 := c.extractLsb' 112 12
/-- OTYPE. -/
def capTypeOf (c : W128) : BitVec 4 := c.extractLsb' 124 4
/-- The cursor. -/
def capCursorOf (c : W128) : Word := c.extractLsb' 0 64
/-- The representable region of R217. -/
def capRegionOf (c : W128) (a : Word) : Prop :=
  (capTopOf c : Int) - 2 ^ (capExp c + 21) < a.toNat ∧ a.toNat ≤ capTopOf c

/-- The field reads of R219: destination and integer. -/
def capRow (s : State) : Instr → Option (Reg × (Word → Prop))
  | .cgb d a => some (d, fun v => v.toNat = capBaseOf (s.g a))
  | .cgl d a => some (d, fun v => (v.toNat : Int) =
      Min.min ((capTopOf (s.g a) : Int) - capBaseOf (s.g a)) (2 ^ 64 - 1) % 2 ^ 64)
  | .cgp d a => some (d, fun v => v.toNat = (capPermOf (s.g a)).toNat + 2 ^ 12 * (capTypeOf (s.g a)).toNat)
  | .cga d a => some (d, (· = capCursorOf (s.g a)))
  | .ctag d a => some (d, (· = if s.gtag a then 1 else 0))
  | _ => none

/-- The cursor moves of R219 and R220: length, destination, source, new cursor. -/
def moveRow (s : State) : Instr → Option (Nat × Reg × Reg × Word)
  | .csa d a b => some (4, d, a, s.int b)
  | .cinc d a b => some (4, d, a, wrap ((s.int a).toInt + (s.int b).toInt))
  | .cincImm d a imm => some (4, d, a, wrap ((s.int a).toInt + imm.toInt))
  | .cincW3 d a lit => some (12, d, a, wrap ((s.int a).toInt + lit.toInt))
  | _ => none

/-- E of CSB (R221): the least exponent at which the rounded range fits. -/
def csbFits (b t e : Nat) : Prop := (t + 2 ^ e - 1) / 2 ^ e * 2 ^ e - b / 2 ^ e * 2 ^ e < 2 ^ (e + 21)

/-- The capability instructions that may give a tagged result: destination and source. -/
def capDeriving : Instr → Option (Reg × Reg)
  | .csa d a _ | .cinc d a _ | .cincImm d a _ | .cincW3 d a _ | .cap d a _ | .csb d a _ | .cct d a
  | .cseal d a _ | .cunseal d a _ => some (d, a)
  | _ => none

/-! ## Control (R224 to R228) -/

/-- The target of a displacement (R15). -/
def target (s : State) (disp : Int) : Word := wrap (s.cx.pc.toInt + 4 * disp)

/-- The branches that write no register: whether they are taken, and the displacement (R224). -/
def branchRow (s : State) : Instr → Option (Bool × Int)
  | .b disp => some (true, disp.toInt)
  | .bt r k disp => some ((s.g r).getLsbD k.val, disp.toInt)
  | .bf r k disp => some (!(s.g r).getLsbD k.val, disp.toInt)
  | .bz r disp => some (decide (s.int r = 0), disp.toInt)
  | .bnz r disp => some (decide (s.int r ≠ 0), disp.toInt)
  | .j lit => some (true, lit.toInt)
  | _ => none

/-- The calls: what g1 gets, and where they go (R225, R226). -/
def callRow (s : State) : Instr → Option (Word × Word)
  | .call disp => some (s.cx.pc + 4, target s disp.toInt)
  | .callW3 lit => some (s.cx.pc + 12, target s lit.toInt)
  | .callc a => if (s.int a).toNat % 4 = 0 then some (s.cx.pc + 4, s.int a) else none
  | _ => none

end Sys2Proof.Claim

/-- R207 to R209: minimum, maximum, absolute value, negation and class act on the pattern; a NaN source gives the canonical NaN and raises NV. -/
def Sys2Proof.Claim.FloatingFormsWithoutRounding : Prop :=
  ∀ s p d a b,
    (Next (exec (.fmin p d a b) s) fun t => ∃ v fl, writesReg s t 4 d (intBits (BitVec.ofNat 64 v)) false fl ∧
      if fnan p (fpat s p a) || fnan p (fpat s p b) then v = fquiet p ∧ fl = 0b10000
      else v = (if ford p (fpat s p a) < ford p (fpat s p b) then fpat s p a else fpat s p b) ∧ fl = 0) ∧
    (Next (exec (.fmax p d a b) s) fun t => ∃ v fl, writesReg s t 4 d (intBits (BitVec.ofNat 64 v)) false fl ∧
      if fnan p (fpat s p a) || fnan p (fpat s p b) then v = fquiet p ∧ fl = 0b10000
      else v = (if ford p (fpat s p a) < ford p (fpat s p b) then fpat s p b else fpat s p a) ∧ fl = 0) ∧
    (Next (exec (.fabs p d a) s) fun t => ∃ v fl, writesReg s t 4 d (intBits (BitVec.ofNat 64 v)) false fl ∧
      if fnan p (fpat s p a) then v = fquiet p ∧ fl = 0b10000 else v = fsigned p (fpat s p a) false ∧ fl = 0) ∧
    (Next (exec (.fneg p d a) s) fun t => ∃ v fl, writesReg s t 4 d (intBits (BitVec.ofNat 64 v)) false fl ∧
      if fnan p (fpat s p a) then v = fquiet p ∧ fl = 0b10000
      else v = fsigned p (fpat s p a) (!fsign p (fpat s p a)) ∧ fl = 0) ∧
    (Next (exec (.fcls p d a) s) fun t =>
      writesReg s t 4 d (intBits (BitVec.ofNat 64 (2 ^ fclass p (fpat s p a)))) false 0)

/-- R119: a value that a format represents rounds to itself with no flag, in every rounding. -/
def Sys2Proof.Claim.RoundingKeepsRepresentable : Prop :=
  ∀ f ∈ [fp64, fp32, fpBf16, fpE4m3, fpE5m2], ∀ r x o, r ≠ .sr → x < 2 ^ f.width →
    (∀ n, f.decode x ≠ .inf n) → f.decode x ≠ .nan → roundNum f o r (f.decode x) = (x, 0)

/-- Sign, class, minimum and conversion forms are exact: the statements named here, together. -/
def Obligations.FloatingFormsAreExact : Prop :=
  Sys2Proof.Claim.FloatingFormsWithoutRounding ∧ Sys2Proof.Claim.RoundingKeepsRepresentable

/-- R73, R201, R242, R243: LK and LL read the little-endian value of their size from the window of the local store, zero-extended, and change no memory. -/
def Sys2Proof.Claim.LocalLoadsReadTheWindow : Prop :=
  (∀ s d k, localClean s (BitVec.ofNat 64 (4 * k.toNat)) 4 → Next (exec (.lk d k) s) fun t =>
    writesReg s t 4 d (BitVec.ofNat 128 (localVal s (BitVec.ofNat 64 (4 * k.toNat)) 4)) false 0) ∧
  ∀ s i len d o, llRow s i = some (len, d, o) → localClean s o (localSize o) →
    Next (exec i s) fun t => writesReg s t len d (BitVec.ofNat 128 (localVal s o (localSize o))) false 0

/-- R73, R243: SL writes the low bytes of its register at its place in the window and no other byte of memory. -/
def Sys2Proof.Claim.LocalStoresWriteTheWindow : Prop :=
  ∀ s i len d o, slRow s i = some (len, d, o) →
    Next (exec i s) fun t => completes s t (s.cx.pc + BitVec.ofNat 64 len) 0 ∧ regsKept s t ∧
      localStored s t o (localSize o) (s.g d).toNat

/-- R255: the old word goes to the register, the new one to the window, in one act. -/
def Sys2Proof.Claim.LocalAtomicsSwapOneWord : Prop :=
  ∀ s i d a f, lamoRow s i = some (d, a, f) → localClean s (s.int a) 4 →
    Next (exec i s) fun t => completes s t (s.cx.pc + 4) 0 ∧
      regWritten s t d (BitVec.ofNat 128 (localVal s (s.int a) 4)) false ∧
      localStored s t (s.int a) 4 (f (BitVec.ofNat 32 (localVal s (s.int a) 4))).toNat

/-- Local loads, stores and atomics act on the window: the statements named here, together. -/
def Obligations.LocalMemoryIsReadAndWritten : Prop :=
  Sys2Proof.Claim.LocalLoadsReadTheWindow ∧
    Sys2Proof.Claim.LocalStoresWriteTheWindow ∧
    Sys2Proof.Claim.LocalAtomicsSwapOneWord

/-- R217, R219: CGB, CGL, CGP, CGA and CTAG read base, length, permissions with type, cursor and tag. -/
def Sys2Proof.Claim.CapabilityFieldsRead : Prop :=
  ∀ s i d P, capRow s i = some (d, P) → Next (exec i s) fun t => ∃ v, P v ∧ writesReg s t 4 d (intBits v) false 0

/-- R219, R220: CSA and CINC move the cursor and keep every other field, with the tag kept where the rule allows it; CAP keeps the permissions of its mask; CCT clears the tag. -/
def Sys2Proof.Claim.CursorMovesKeepTheRest : Prop :=
  (∀ s i len d a cur, moveRow s i = some (len, d, a, cur) → Next (exec i s) fun t => ∃ c : W128, ∃ tag : Bool,
    writesReg s t len d c tag 0 ∧ capCursorOf c = cur ∧ c.extractLsb' 64 64 = (s.g a).extractLsb' 64 64 ∧
    (tag = true ↔ s.gtag a = true ∧ capTypeOf (s.g a) = 0 ∧ capRegionOf (s.g a) cur)) ∧
  (∀ s d a b, Next (exec (.cap d a b) s) fun t => ∃ c : W128, ∃ tag : Bool,
    writesReg s t 4 d c tag 0 ∧ capPermOf c = capPermOf (s.g a) &&& (s.int b).setWidth 12 ∧
    capTypeOf c = capTypeOf (s.g a) ∧ c.extractLsb' 0 112 = (s.g a).extractLsb' 0 112 ∧
    (tag = true ↔ s.gtag a = true ∧ capTypeOf (s.g a) = 0)) ∧
  (∀ s d a, Next (exec (.cct d a) s) fun t => writesReg s t 4 d (s.g a) false 0)

/-- Capability fields are read and cursors move: the statements named here, together. -/
def Obligations.CapabilitiesReadAndMove : Prop :=
  Sys2Proof.Claim.CapabilityFieldsRead ∧ Sys2Proof.Claim.CursorMovesKeepTheRest

/-- R221: CSB narrows, or traps at the first check that fails. -/
def Sys2Proof.Claim.BoundsAreNarrowedOrTrap : Prop :=
  ∀ s d a b,
    let c := s.g a
    let lo := (capCursorOf c).toNat
    let hi := lo + (s.int b).toNat
    if s.gtag a = false then Next (exec (.csb d a b) s) fun t => traps s t 0x11 (capCursorOf c)
    else if capTypeOf c ≠ 0 then Next (exec (.csb d a b) s) fun t => traps s t 0x12 (capCursorOf c)
    else if lo < capBaseOf c ∨ hi > capTopOf c then Next (exec (.csb d a b) s) fun t => traps s t 0x14 (capCursorOf c)
    else ∃ e, e ≤ 44 ∧ csbFits lo hi e ∧ (∀ e', e' < e → ¬ csbFits lo hi e') ∧
      let lo' := lo / 2 ^ e * 2 ^ e
      let hi' := (hi + 2 ^ e - 1) / 2 ^ e * 2 ^ e
      if lo' < capBaseOf c ∨ hi' > capTopOf c then
        Next (exec (.csb d a b) s) fun t => traps s t 0x14 (capCursorOf c)
      else Next (exec (.csb d a b) s) fun t => ∃ c' : W128, writesReg s t 4 d c' true 0 ∧
        c'.extractLsb' 106 6 = BitVec.ofNat 6 e ∧ (c'.extractLsb' 85 21).toNat = lo' / 2 ^ e % 2 ^ 21 ∧
        (c'.extractLsb' 64 21).toNat = hi' / 2 ^ e % 2 ^ 21 ∧ capCursorOf c' = capCursorOf c ∧
        capPermOf c' = capPermOf c ∧ capTypeOf c' = capTypeOf c

/-- R222, R223: sealing and unsealing, with their traps in the rule's order. -/
def Sys2Proof.Claim.SealsNeedTheirType : Prop :=
  ∀ s d a b,
    let c := s.g a
    let y := s.int b
    (if s.gtag a = false then Next (exec (.cseal d a b) s) fun t => traps s t 0x11 y
     else if capTypeOf c ≠ 0 ∨ y = 0 ∨ y.toNat > 15 ∨ y = 10 then Next (exec (.cseal d a b) s) fun t => traps s t 0x12 y
     else if s.cx.seals.getLsbD y.toNat = false then Next (exec (.cseal d a b) s) fun t => traps s t 0x13 y
     else Next (exec (.cseal d a b) s) fun t => ∃ c' : W128, writesReg s t 4 d c' true 0 ∧
       capTypeOf c' = y.setWidth 4 ∧ c'.extractLsb' 0 124 = c.extractLsb' 0 124) ∧
    (if s.gtag a = false then Next (exec (.cunseal d a b) s) fun t => traps s t 0x11 y
     else if capTypeOf c = 0 ∨ capTypeOf c = 10 ∨ y.toNat ≠ (capTypeOf c).toNat then
       Next (exec (.cunseal d a b) s) fun t => traps s t 0x12 y
     else if s.cx.seals.getLsbD y.toNat = false then Next (exec (.cunseal d a b) s) fun t => traps s t 0x13 y
     else Next (exec (.cunseal d a b) s) fun t => ∃ c' : W128, writesReg s t 4 d c' true 0 ∧
       capTypeOf c' = 0 ∧ c'.extractLsb' 0 124 = c.extractLsb' 0 124)

/-- R215, R220 to R222: no capability instruction yields more authority than its source had: a tagged result stems from a
tagged source, reaches no byte that the source did not, and holds no permission that it did not. That the instruction has retired says that it has not trapped. -/
def Sys2Proof.Claim.AuthorityNeverGrows : Prop :=
  ∀ s i d a t, capDeriving i = some (d, a) → d ≠ 0 → exec i s = .next t → t.cx.retired = s.cx.retired + 1 →
    t.gtag d = true →
    s.gtag a = true ∧ capBaseOf (s.g a) ≤ capBaseOf (t.g d) ∧ capTopOf (t.g d) ≤ capTopOf (s.g a) ∧
      capPermOf (t.g d) &&& ~~~capPermOf (s.g a) = 0

/-- Bounds, permissions and seals are checked, and authority never grows: the statements named here, together. -/
def Obligations.CapabilityAuthorityIsChecked : Prop :=
  Sys2Proof.Claim.BoundsAreNarrowedOrTrap ∧
    Sys2Proof.Claim.SealsNeedTheirType ∧
    Sys2Proof.Claim.AuthorityNeverGrows

/-- R224, R225, R228: branches go to their displacement when taken and to the next instruction otherwise, LOOP counts its register down, J jumps, and NOP only advances the PC. -/
def Sys2Proof.Claim.BranchesTransferControl : Prop :=
  (∀ s i taken disp, branchRow s i = some (taken, disp) →
    Next (exec i s) fun t => writesNothing s t (if taken then target s disp else s.cx.pc + 4)) ∧
  (∀ s, Next (exec .nop s) fun t => writesNothing s t (s.cx.pc + 4)) ∧
  ∀ s r disp, r ≠ 0 → Next (exec (.loop r disp) s) fun t =>
    completes s t (if s.int r - 1 ≠ 0 then target s disp.toInt else s.cx.pc + 4) 0 ∧
    regWritten s t r (intBits (s.int r - 1)) false ∧ memoryKept s t

/-- R225, R226: CALL and CALLC leave the return address in g1; RET goes to its register; a misaligned target traps
ALIGN and writes nothing. -/
def Sys2Proof.Claim.CallsAndReturns : Prop :=
  (∀ s i next goto, callRow s i = some (next, goto) → Next (exec i s) fun t =>
    completes s t goto 0 ∧ regWritten s t 1 (intBits next) false ∧ memoryKept s t) ∧
  (∀ s a, (s.int a).toNat % 4 = 0 → Next (exec (.ret a) s) fun t => writesNothing s t (s.int a)) ∧
  (∀ s a, (s.int a).toNat % 4 ≠ 0 → (Next (exec (.ret a) s) fun t => traps s t 0x10 (s.int a)) ∧
    Next (exec (.callc a) s) fun t => traps s t 0x10 (s.int a))

/-- Branches, loops, calls and returns transfer control: the statements named here, together. -/
def Obligations.BranchesAndCalls : Prop :=
  Sys2Proof.Claim.BranchesTransferControl ∧ Sys2Proof.Claim.CallsAndReturns

namespace Sys2Proof.Claim

/-! ## Global accesses (R218, R232, R235 to R241) -/

/-- The address of an access: the cursor plus the offset, without wrap (R218). -/
def addr (s : State) (b : Reg) (off : Int) : Int := (s.int b).toNat + off
/-- CapCheck of R218 and the alignment of R77 hold for `sz` bytes with the permissions `p`. -/
def grants (s : State) (b : Reg) (off : Int) (p : BitVec 12) (sz : Nat) : Prop :=
  s.gtag b = true ∧ capTypeOf (s.g b) = 0 ∧ p &&& ~~~capPermOf (s.g b) = 0 ∧ (capBaseOf (s.g b) : Int) ≤ addr s b off ∧
    addr s b off + sz ≤ capTopOf (s.g b) ∧ addr s b off % sz = 0
/-- The first check that fails, in the order of R218, R77 and R81. -/
def denied (s : State) (b : Reg) (off : Int) (p : BitVec 12) (sz : Nat) (cause : BitVec 16) : Prop :=
  if s.gtag b = false then cause = 0x11
  else if capTypeOf (s.g b) ≠ 0 then cause = 0x12
  else if p &&& ~~~capPermOf (s.g b) ≠ 0 then cause = 0x13
  else if addr s b off < capBaseOf (s.g b) ∨ addr s b off + sz > capTopOf (s.g b) then cause = 0x14
  else if addr s b off % sz ≠ 0 then cause = 0x10
  else s.translate (addr s b off).toNat = .unmapped ∧ cause = 0x15

/-- The context has issued an instruction of `len` bytes and waits with WAITK `k`; no register has changed. -/
def waits (s t : State) (k : BitVec 4) (len : Nat) : Prop :=
  issued s t ∧ regsKept s t ∧ t.cx.status = .waiting ∧ t.cx.waitk = k ∧ t.cx.wait.isSome = true ∧
    t.cx.pc = s.cx.pc ∧ t.cx.npc = s.cx.pc + BitVec.ofNat 64 len ∧ t.cx.waitSince = s.co.cycle

/-- Nothing has changed but the fields that a wait sets, the context's view of memory, its count of loads, the TLB of its core,
the free values drawn and what has gone to another module. Every byte of memory is as before. -/
def accessFrame (s t : State) : Prop :=
  ({ t with
      cx := s.cx, co := s.co, picks := s.picks, out := s.out } : State) = s ∧
  ({ t.co with
      counters := s.co.counters, weightSum := s.co.weightSum, tlb := s.co.tlb } : Core) = s.co ∧
  ({ t.cx with
      run := s.cx.run, fresh := s.cx.fresh, retired := s.cx.retired, afterCtrl := s.cx.afterCtrl, agreed := s.cx.agreed,
      dropped := s.cx.dropped, status := s.cx.status, waitk := s.cx.waitk, wait := s.cx.wait, waitSince := s.cx.waitSince,
      npc := s.cx.npc, view := s.cx.view, floors := s.cx.floors, spur := s.cx.spur, loads := s.cx.loads,
      badLine := s.cx.badLine, loadLine := s.cx.loadLine } : Ctx) = s.cx

/-- The die of the focused core does not relock, so that replies enter it (R40). -/
def entered (s : State) : Prop := s.relocks s.co.id = false

/-- The reply of context `cx` of core `co`: it is resident again behind its instruction, `d` holds the value; apart
from the replies kept for a mirror nothing else has changed. -/
def delivered (t u : State) (d : Reg) (v : W128) (tag : Bool) : Prop :=
  regWritten t u d v tag ∧ u.cx.pc = t.cx.npc ∧ u.cx.status = .resident ∧ u.cx.wait = none ∧ u.cx.waitk = 0 ∧
    u.co = t.co ∧ ({ u with cx := t.cx, launches := t.launches } : State) = t ∧
    ({ u.cx with
        regs := t.cx.regs, tags := t.cx.tags, dirty := t.cx.dirty, pc := t.cx.pc, status := t.cx.status,
        wait := t.cx.wait, waitk := t.cx.waitk } : Ctx) = t.cx

/-- As `delivered`, but what came is also noted in the context's view of memory. -/
def deliveredNoted (t u : State) (d : Reg) (v : W128) (tag : Bool) : Prop :=
  regWritten t u d v tag ∧ u.cx.pc = t.cx.npc ∧ u.cx.status = .resident ∧ u.cx.wait = none ∧ u.cx.waitk = 0 ∧
    u.co = t.co ∧ ({ u with cx := t.cx, launches := t.launches } : State) = t ∧
    ({ u.cx with
        regs := t.cx.regs, tags := t.cx.tags, dirty := t.cx.dirty, pc := t.cx.pc, status := t.cx.status,
        wait := t.cx.wait, waitk := t.cx.waitk, view := t.cx.view, floors := t.cx.floors, spur := t.cx.spur } : Ctx) = t.cx

/-- A peer cannot translate the page of an access that state `s` made and `t` waits for: `u` is `t` with the instruction not issued and
its PAGE trap taken (R81, R232); a checked launch keeps the refusal for its mirror (R449). -/
def peerRefuses (s t u : State) (va : Int) : Prop :=
  traps { t.noteRefusal s.co.id s.cx.hid (wrap va) with
    cx.wait := none, cx.waitk := 0, cx.status := .resident, cx.retired := s.cx.retired } u 0x15 (wrap va)

/-- What goes to the network interface of peer `p` (R241). -/
def asked (s t : State) (p opc : Nat) (va : Int) (data : List Byte) : Prop :=
  t.out = s.out ++ [{ dest := p + 2 ^ 32, opc := opc, tag := wrap va, body := data }]

/-- The loads of R235: length, destination, base, offset, bytes, sign extension. -/
def loadRow : Instr → Option (Nat × Reg × Reg × Int × Nat × Bool)
  | .ldI8 d a o => some (4, d, a, o.toInt, 1, true)
  | .ldN8 d a o => some (4, d, a, o.toInt, 1, false)
  | .ldI16 d a o => some (4, d, a, o.toInt, 2, true)
  | .ldN16 d a o => some (4, d, a, o.toInt, 2, false)
  | .ldI32 d a o => some (4, d, a, o.toInt, 4, true)
  | .ldN32 d a o => some (4, d, a, o.toInt, 4, false)
  | .ld d a o => some (4, d, a, o.toInt, 8, false)
  | .ldW3 .i8 d a o => some (12, d, a, o.toInt, 1, true)
  | .ldW3 .n8 d a o => some (12, d, a, o.toInt, 1, false)
  | .ldW3 .i16 d a o => some (12, d, a, o.toInt, 2, true)
  | .ldW3 .n16 d a o => some (12, d, a, o.toInt, 2, false)
  | .ldW3 .i32 d a o => some (12, d, a, o.toInt, 4, true)
  | .ldW3 .n32 d a o => some (12, d, a, o.toInt, 4, false)
  | .ldW3 .w64 d a o => some (12, d, a, o.toInt, 8, false)
  | _ => none
/-- The capability loads of R238. -/
def ldcRow : Instr → Option (Nat × Reg × Reg × Int)
  | .ldc d a o => some (4, d, a, o.toInt)
  | .ldcW3 d a o => some (12, d, a, o.toInt)
  | _ => none
/-- The stores of R235 and R239: length, data register, base, offset, bytes, and whether it is STC. -/
def storeRow : Instr → Option (Nat × Reg × Reg × Int × Nat × Bool)
  | .stI8 d a o => some (4, d, a, o.toInt, 1, false)
  | .stI16 d a o => some (4, d, a, o.toInt, 2, false)
  | .stI32 d a o => some (4, d, a, o.toInt, 4, false)
  | .st d a o => some (4, d, a, o.toInt, 8, false)
  | .stW3 .b8 d a o => some (12, d, a, o.toInt, 1, false)
  | .stW3 .b16 d a o => some (12, d, a, o.toInt, 2, false)
  | .stW3 .b32 d a o => some (12, d, a, o.toInt, 4, false)
  | .stW3 .b64 d a o => some (12, d, a, o.toInt, 8, false)
  | .stc d a o => some (4, d, a, o.toInt, 16, true)
  | .stcW3 d a o => some (12, d, a, o.toInt, 16, true)
  | _ => none

/-- The number of little-endian bytes. -/
def bytesVal (bs : List Byte) : Nat := ((List.range bs.length).map (fun i => (bs.getD i 0).toNat * 256 ^ i)).sum
/-- The value of loaded bytes in a register, sign- or zero-extended to 64 bits (R235). -/
def extended (signed : Bool) (bs : List Byte) : W128 :=
  let w := 8 * bs.length
  intBits (wrap (if signed && bs.length != 0 && (bytesVal bs).testBit (w - 1) then (bytesVal bs : Int) - 2 ^ w else bytesVal bs))

/-- At moment `m` the homes of `n` bytes at `a` hold what the context has read of them in the phase (R77, R89). -/
def agrees (s : State) (a n m : Nat) : Prop := ∀ j, j < n → s.agreesAt m (a + j) = true
/-- A moment at which a load of `n` bytes at `a` may see the homes: not before the latest write of them that the context must see, nor before
what it has seen of the line, nor after now (R86, R88, R90, R91); the homes then hold what the phase has read of these bytes, when they do at
any moment between, so that no store is seen in part (R77). In a deterministic launch no moment is drawn (R438). -/
def moment (s : State) (a n m : Nat) : Prop :=
  let lo := Max.max (s.certainAt (fun b => decide (a ≤ b) && decide (b < a + n))) (Min.min s.space.seq (Tab.get 0 s.cx.floors (a / 64)))
  s.lau.det = false → lo ≤ m ∧ m ≤ Max.max lo s.space.seq ∧
    ((∃ m', lo ≤ m' ∧ m' ≤ s.space.seq ∧ agrees s a n m') → agrees s a n m)
/-- The home's byte and granule tag of a moment; in a deterministic launch the latest that happens before the load (R438). -/
def homeSeen (s : State) (m a : Nat) : Byte × Bool :=
  if s.lau.det then
    ((homeAt s.space (s.certainAt (fun b => b == a)) a).1, (homeAt s.space (s.certainAt (fun b => b / 16 == a / 16)) a).2)
  else homeAt s.space m a
/-- What the context sees of byte `a` at moment `m`: its own store or an earlier read of the phase, else the home's byte (R88, R89). -/
def seen (s : State) (m a : Nat) : Byte := (viewByte s.cx.view a).getD (homeSeen s m a).1

/-- What the context itself reads at byte `a` now, and what the home holds. -/
def ownByte (s : State) (a : Nat) : Byte := (viewByte s.cx.view a).getD (Memory.read s.space.mem a)

/-- A byte that an unreleased plain store of the context in line `line` holds. -/
def pendingIn (s : State) (line a : Nat) : Prop :=
  ∃ r ∈ s.cx.view, r.kind = .unreleased ∧ r.addr / 64 = line ∧ r.addr ≤ a ∧ a < r.addr + r.data.length

/-- The spaces differ at most in what is at home in space `n`: every other field of that space that is not memory, its tags, its
history, its sequence number, its releases or its poison is as before, and the other spaces are as before. -/
def onlySpace (s t : State) (n : Nat) : Prop :=
  ∀ k, (k ≠ n → t.spaceById k = s.spaceById k) ∧
    ({ t.spaceById k with
        mem := (s.spaceById k).mem, tags := (s.spaceById k).tags, hist := (s.spaceById k).hist,
        seq := (s.spaceById k).seq, rels := (s.spaceById k).rels, syncs := (s.spaceById k).syncs,
        poison := (s.spaceById k).poison } : Space) = s.spaceById k

/-- The frame of an access that may store at home: as `accessFrame`, but for the spaces, in which it releases nothing, and the effects that
an atomic of a deterministic launch observes. -/
def storeFrame (s t : State) : Prop :=
  ({ t with
      cx := s.cx, co := s.co, picks := s.picks, out := s.out, spaces := s.spaces } : State) = s ∧
  ({ t.co with
      counters := s.co.counters, weightSum := s.co.weightSum, tlb := s.co.tlb } : Core) = s.co ∧
  ({ t.cx with
      run := s.cx.run, fresh := s.cx.fresh, retired := s.cx.retired, afterCtrl := s.cx.afterCtrl, agreed := s.cx.agreed,
      dropped := s.cx.dropped, status := s.cx.status, waitk := s.cx.waitk, wait := s.cx.wait, waitSince := s.cx.waitSince,
      npc := s.cx.npc, view := s.cx.view, floors := s.cx.floors, spur := s.cx.spur, loads := s.cx.loads, seen := s.cx.seen,
      badLine := s.cx.badLine, loadLine := s.cx.loadLine } : Ctx) = s.cx ∧
  onlySpace s t s.war.space ∧ ∀ k, (t.spaceById k).rels = (s.spaceById k).rels

/-- The atomics of R253 and R254: doubleword form, destination, address register, and the new value from the old one, none when
nothing is written. -/
def amoRow (s : State) : Instr → Option (Bool × Reg × Reg × (Nat → Option Nat))
  | .amoAdd w d a b => some (w, d, a, fun o => some ((o + val w b) % 2 ^ wd w))
  | .amoAnd w d a b => some (w, d, a, fun o => some (o &&& val w b))
  | .amoOr w d a b => some (w, d, a, fun o => some (o ||| val w b))
  | .amoXor w d a b => some (w, d, a, fun o => some (o ^^^ val w b))
  | .amoMin w d a b => some (w, d, a, fun o => some (if sgn w o ≤ sgn w (val w b) then o else val w b))
  | .amoMax w d a b => some (w, d, a, fun o => some (if sgn w o ≤ sgn w (val w b) then val w b else o))
  | .amoMinn w d a b => some (w, d, a, fun o => some (Min.min o (val w b)))
  | .amoMaxn w d a b => some (w, d, a, fun o => some (Max.max o (val w b)))
  | .amoSwap w d a b => some (w, d, a, fun _ => some (val w b))
  | .cas w d a b => some (w, d, a, fun o => if o = val w d then some (val w b) else none)
  | _ => none
where
  /-- The width in bits. -/
  wd (w : Bool) : Nat := if w then 64 else 32
  /-- The operand in the form's width. -/
  val (w : Bool) (b : Reg) : Nat := (s.int b).toNat % 2 ^ wd w
  /-- A value read as signed. -/
  sgn (w : Bool) (o : Nat) : Int := if 2 ^ (wd w - 1) ≤ o then (o : Int) - 2 ^ wd w else o

/-- The home after the context's unreleased stores of a line have been carried there (R92). -/
def carried (s : State) (line : Nat) : Space := carryLine s.me line s.cx.view s.space

end Sys2Proof.Claim

/-- R235, R236, R218, R88, R89, R241: a load that passes its checks waits, and its reply delivers the bytes that the context sees; one of a
peer's address asks the peer, whose reply brings the bytes that the context has not itself stored or read there in the phase. -/
def Sys2Proof.Claim.GlobalLoadsDeliver : Prop :=
  (∀ s i len d a off sz sg h, loadRow i = some (len, d, a, off, sz, sg) → s.lau.mirror = false → entered s →
    grants s a off 1 sz → s.translate (addr s a off).toNat = .home h → s.space.bad h = false →
    Next (exec i s) fun t => waits s t 1 len ∧ accessFrame s t ∧ t.out = s.out ∧
      Next (exec (.globalReply s.co.id s.cx.hid .home false) t) fun u => ∃ m bs, moment s h sz m ∧ bs.length = sz ∧
        (∀ j, j < sz → bs.getD j 0 = seen s m (h + j)) ∧ delivered t u d (extended sg bs) false) ∧
  ∀ s i len d a off sz sg p, loadRow i = some (len, d, a, off, sz, sg) → s.lau.mirror = false → entered s →
    grants s a off 1 sz → s.translate (addr s a off).toNat = .peer p →
    Next (exec i s) fun t => waits s t 1 len ∧ accessFrame s t ∧ asked s t p 1 (addr s a off) [] ∧
      (∀ bs, Next (exec (.globalReply s.co.id s.cx.hid (.peer bs) false) t) fun u => ∃ vs, vs.length = sz ∧
        (∀ j, j < sz → vs.getD j 0 = (viewByte s.cx.view ((wrap (addr s a off)).toNat + j)).getD (bs.getD j 0) ∧
          viewByte u.cx.view ((wrap (addr s a off)).toNat + j) = some (vs.getD j 0)) ∧
        deliveredNoted t u d (extended sg vs) false) ∧
      ∀ n, Next (exec (.globalReply s.co.id s.cx.hid (.unmapped n) false) t) fun u => peerRefuses s t u (addr s a off)

/-- R238, R78, R216: LDC brings 16 bytes, and the tag of the granule when the capability grants LDC. -/
def Sys2Proof.Claim.CapabilityLoadsBringTheTag : Prop :=
  ∀ s i len d a off h, ldcRow i = some (len, d, a, off) → s.lau.mirror = false → entered s →
    grants s a off 1 16 → s.translate (addr s a off).toNat = .home h → s.space.bad h = false →
    Next (exec i s) fun t => waits s t 1 len ∧ accessFrame s t ∧ t.out = s.out ∧
      Next (exec (.globalReply s.co.id s.cx.hid .home false) t) fun u => ∃ m bs, moment s h 16 m ∧ bs.length = 16 ∧
        (∀ j, j < 16 → bs.getD j 0 = seen s m (h + j)) ∧
        delivered t u d (BitVec.ofNat 128 (bytesVal bs))
          ((viewTag s.cx.view (h / 16 * 16)).getD (homeSeen s m h).2 && (capPermOf (s.g a)).getLsbD 2)

/-- Global loads wait and deliver bytes and tags of one moment: the statements named here, together.
What the manual leaves open here is the model's choice: assumptions 8, 11, 15 and 16. -/
def Obligations.GlobalLoadsDeliver : Prop :=
  Sys2Proof.Claim.GlobalLoadsDeliver ∧ Sys2Proof.Claim.CapabilityLoadsBringTheTag

/-- R236, R237, R239, R78, R88: a store that passes its checks is accepted; its bytes are at once what the context reads there, and
no other byte that it reads changes. They may reach their home early, with the context's earlier stores of the line (R90). One at a
peer's address goes to the peer, and is what the context reads there from then on (R241), unless the peer cannot translate its page: then
it traps PAGE and has not happened (R81). -/
def Sys2Proof.Claim.GlobalStoresAreAccepted : Prop :=
  (∀ s i len d a off sz cap h, storeRow i = some (len, d, a, off, sz, cap) → s.lau.mirror = false → entered s →
    grants s a off (if cap && s.gtag d then 0b1010 else 0b10) sz →
    s.translate (addr s a off).toNat = .home h →
    Next (exec i s) fun t => waits s t 1 len ∧ storeFrame s t ∧ t.out = s.out ∧
      (∀ j, j < sz → ownByte t (h + j) = BitVec.ofNat 8 ((s.g d).toNat / 256 ^ j)) ∧
      (∀ x, (x < h ∨ h + sz ≤ x) → ownByte t x = ownByte s x) ∧
      (∀ x, (x < h ∨ h + sz ≤ x) → ¬ pendingIn s (h / 64) x → Memory.read t.space.mem x = Memory.read s.space.mem x) ∧
      viewTag t.cx.view (h / 16 * 16) = some (cap && s.gtag d) ∧
      Next (exec (.globalReply s.co.id s.cx.hid .home false) t) fun u =>
        regsKept t u ∧ u.cx.pc = t.cx.npc ∧ u.cx.status = .resident ∧ u.co = t.co ∧
        ({ u with cx := t.cx } : State) = t) ∧
  ∀ s i len d a off sz cap p, storeRow i = some (len, d, a, off, sz, cap) → s.lau.mirror = false → entered s →
    grants s a off (if cap && s.gtag d then 0b1010 else 0b10) sz → s.translate (addr s a off).toNat = .peer p →
    Next (exec i s) fun t => waits s t 1 len ∧ accessFrame s t ∧
      (∃ bs, bs.length = sz ∧ (∀ j, j < sz → bs.getD j 0 = BitVec.ofNat 8 ((s.g d).toNat / 256 ^ j) ∧
          viewByte t.cx.view ((wrap (addr s a off)).toNat + j) = some (bs.getD j 0)) ∧
        asked s t p (if cap && s.gtag d then 4 else 3) (addr s a off) bs) ∧
      (∀ bs, Next (exec (.globalReply s.co.id s.cx.hid (.peer bs) false) t) fun u =>
        regsKept t u ∧ u.cx.pc = t.cx.npc ∧ u.cx.status = .resident ∧ u.co = t.co ∧
        ({ u with cx := t.cx, launches := t.launches } : State) = t) ∧
      ∀ n, Next (exec (.globalReply s.co.id s.cx.hid (.unmapped n) false) t) fun u =>
        peerRefuses s { t with cx.view := s.cx.view } u (addr s a off)

/-- R253, R254, R92: an atomic reads and writes its home in one act after the context's earlier stores of the line; the reply
brings the old value. One of a peer's word goes to the peer with its operands in its width, and the reply brings the old value, or a PAGE
trap where the peer cannot translate its page (R81). -/
def Sys2Proof.Claim.GlobalAtomicsActAtHome : Prop :=
  (∀ s i w d a f h, amoRow s i = some (w, d, a, f) → s.lau.mirror = false → entered s → s.cx.status ≠ .free →
    s.spaces.any (·.id == s.war.space) = true →
    let sz := if w then 8 else 4
    grants s a 0 0b10000 sz → s.translate (addr s a 0).toNat = .home h → s.space.bad h = false →
    Next (exec i s) fun t =>
      let old := bytesVal (Memory.readN (carried s (h / 64)).mem h sz)
      waits s t 1 4 ∧ storeFrame s t ∧ t.out = s.out ∧
      (∀ x, Memory.read t.space.mem x =
        match f old with
        | some v => if h ≤ x ∧ x < h + sz then BitVec.ofNat 8 (v / 256 ^ (x - h)) else Memory.read (carried s (h / 64)).mem x
        | none => Memory.read (carried s (h / 64)).mem x) ∧
      Next (exec (.globalReply s.co.id s.cx.hid .home false) t) fun u => delivered t u d (BitVec.ofNat 128 old) false) ∧
  ∀ s i w d a f p, amoRow s i = some (w, d, a, f) → s.lau.mirror = false → entered s →
    let sz := if w then 8 else 4
    grants s a 0 0b10000 sz → s.translate (addr s a 0).toNat = .peer p →
    Next (exec i s) fun t => waits s t 1 4 ∧ accessFrame s t ∧
      (∃ opc ops, ops.length = 2 * sz ∧ asked s t p opc (addr s a 0) ops) ∧
      (∀ bs, bs.length = sz → Next (exec (.globalReply s.co.id s.cx.hid (.peer bs) false) t) fun u =>
        (∀ j, j < sz → viewByte u.cx.view ((s.int a).toNat + j) =
          some (match f (bytesVal bs) with
            | some v => BitVec.ofNat 8 (v / 256 ^ j)
            | none => bs.getD j 0)) ∧
        deliveredNoted t u d (BitVec.ofNat 128 (bytesVal bs)) false) ∧
      ∀ n, Next (exec (.globalReply s.co.id s.cx.hid (.unmapped n) false) t) fun u => peerRefuses s t u (addr s a 0)

/-- Global stores are accepted, global atomics act at the home: the statements named here, together.
What the manual leaves open here is the model's choice: assumptions 7, 11, 15 and 16. -/
def Obligations.GlobalStoresAndAtomics : Prop :=
  Sys2Proof.Claim.GlobalStoresAreAccepted ∧ Sys2Proof.Claim.GlobalAtomicsActAtHome

/-- R218, R77, R81, R232: an access that a check refuses traps at its instruction with the address in st.tval and changes nothing. -/
def Sys2Proof.Claim.RefusedAccessesTrap : Prop :=
  (∀ s i len d a off sz sg c, loadRow i = some (len, d, a, off, sz, sg) → denied s a off 1 sz c →
    Next (exec i s) fun t => traps s t c (wrap (addr s a off))) ∧
  (∀ s i len d a off c, ldcRow i = some (len, d, a, off) → denied s a off 1 16 c →
    Next (exec i s) fun t => traps s t c (wrap (addr s a off))) ∧
  (∀ s i len d a off sz cap c, storeRow i = some (len, d, a, off, sz, cap) →
    denied s a off (if cap && s.gtag d then 0b1010 else 0b10) sz c →
    Next (exec i s) fun t => traps s t c (wrap (addr s a off))) ∧
  (∀ s i w d a f c, amoRow s i = some (w, d, a, f) → denied s a 0 0b10000 (if w then 8 else 4) c →
    Next (exec i s) fun t => traps s t c (wrap (addr s a 0))) ∧
  ∀ s w d a b c, denied s a 0 0b10000 (if w then 8 else 4) c →
    Next (exec (.waitw w d a b) s) fun t => traps s t c (wrap (addr s a 0))

/-- R256, R86, R91: the context's stores of the line go home first; then WAITW returns the home value at once when it differs from the operand or
the timeout is zero; otherwise it waits, and a wake with a differing value or the timeout returns what the home then holds, which is also
what the context's loads read there from then on. -/
def Sys2Proof.Claim.WaitwWatchesTheHome : Prop :=
  ∀ s w d a b h, s.lau.mirror = false → s.lau.det = false → entered s → s.spaces.any (·.id == s.war.space) = true →
    let sz := if w then 8 else 4
    let v := bytesVal (Memory.readN (carried s (h / 64)).mem h sz)
    grants s a 0 0b10000 sz → s.translate (addr s a 0).toNat = .home h → h < 2 ^ 62 → s.space.bad h = false →
    if v ≠ (s.int b).toNat % 256 ^ sz ∨ s.int d = 0 then
      Next (exec (.waitw w d a b) s) fun t => issued s t ∧ regWritten s t d (BitVec.ofNat 128 v) false ∧
        t.cx.pc = s.cx.pc + 4 ∧ onlySpace s t s.war.space ∧
        (∀ x, Memory.read t.space.mem x = Memory.read (carried s (h / 64)).mem x) ∧ t.cores = s.cores ∧ t.co.store = s.co.store
    else Next (exec (.waitw w d a b) s) fun t => waits s t 1 4 ∧ storeFrame s t ∧
      (∀ x, Memory.read t.space.mem x = Memory.read (carried s (h / 64)).mem x) ∧
      (∀ t' : State, ({ t' with spaces := t.spaces, tick := t.tick } : State) = t → t'.space.bad h = false →
        let v' := bytesVal (Memory.readN t'.space.mem h sz)
        (v' ≠ (s.int b).toNat % 256 ^ sz →
          Next (exec (.waitwWake s.co.id s.cx.hid false) t') fun u => deliveredNoted t' u d (BitVec.ofNat 128 v') false ∧
            ∀ j, j < sz → viewByte u.cx.view (h + j) = some ((viewByte t'.cx.view (h + j)).getD (Memory.read t'.space.mem (h + j)))) ∧
        (t'.tick ≥ s.tick + (s.int d).toNat →
          Next (exec (.waitwTimeout s.co.id s.cx.hid) t') fun u => deliveredNoted t' u d (BitVec.ofNat 128 v') false))

/-- R258, R81: PREF never traps; it gives 1 when a one-byte load at the cursor would pass every check, its page being mapped now, else 0; a
peer's address is translated by the peer, and a mirror takes the answer of its primary (R449). -/
def Sys2Proof.Claim.PrefTestsTheAddress : Prop :=
  ∀ s d a, entered s → Next (exec (.pref d a) s) fun t => waits s t 1 4 ∧ accessFrame s t ∧
    ((∀ p, s.translate (s.int a).toNat ≠ .peer p) →
      Next (exec (.globalReply s.co.id s.cx.hid .home false) t) fun u => ∃ v : W128, delivered t u d v false ∧
        (v = 1 ∨ v = 0) ∧ (v = 1 ↔ grants s a 0 1 1 ∧
          ∃ h, s.translate (s.int a).toNat = .home h ∧ s.space.mapped h = true)) ∧
    ∀ p, s.translate (s.int a).toNat = .peer p →
      if s.lau.mirror then t.out = s.out ∧ t.cx.wait = some (.mirror d s.cx.loads)
      else (∀ bs, Next (exec (.globalReply s.co.id s.cx.hid (.peer bs) false) t) fun u => ∃ v : W128, delivered t u d v false ∧
          (v = 1 ∨ v = 0) ∧ (v = 1 ↔ grants s a 0 1 1)) ∧
        ∀ n, Next (exec (.globalReply s.co.id s.cx.hid (.unmapped n) false) t) fun u => delivered t u d 0 false

/-- Refused global accesses trap in the order of the checks: the statements named here, together.
What the manual leaves open here is the model's choice: assumption 19. -/
def Obligations.RefusedAccessesTrap : Prop :=
  Sys2Proof.Claim.RefusedAccessesTrap ∧ Sys2Proof.Claim.PrefTestsTheAddress

/-- R251, R252, R84, R87, R88: PHASE carries every unreleased store to its home, releases what the context has written there at its scope, and
takes a new snapshot point for that scope and those within it. -/
def Sys2Proof.Claim.PhaseReleasesAndAcquires : Prop :=
  ∀ s sc, s.co.draining s.cx.hid = false → Next (exec (.phase sc) s) fun t =>
    issued s t ∧ regsKept s t ∧ t.cx.pc = s.cx.pc + 4 ∧ t.cx.view = [] ∧
    (∀ k : Fin 4, t.cx.snap.get k = if k.val ≤ scopeCode sc then t.space.seq else s.cx.snap.get k) ∧
    onlySpace s t s.war.space ∧ t.cores = s.cores ∧ t.co.store = s.co.store ∧
    (s.spaces.any (·.id == s.war.space) = true → (∀ x,
      Memory.read t.space.mem x = (viewByte (s.cx.view.filter (fun r => r.kind == .unreleased)) x).getD (Memory.read s.space.mem x)) ∧
      t.space.rels = (if t.space.hist.any (fun h => h.by_ == s.me && decide (s.cx.born < h.seq)) then
        [{ by_ := s.me, scope := scopeCode sc, lo := s.cx.born + 1, hi := t.space.seq }] else []) ++ s.space.rels)

/-- WAITW watches its home; PHASE releases and acquires: the statements named here, together.
What the manual leaves open here is the model's choice: assumptions 11 and 15. -/
def Obligations.WaitwAndPhase : Prop :=
  Sys2Proof.Claim.WaitwWatchesTheHome ∧ Sys2Proof.Claim.PhaseReleasesAndAcquires

namespace Sys2Proof.Claim

/-! ## Full/empty words, messages and channels (R233, R234, R242 to R262) -/

/-- The condition of a form (R244): LLF, FEQ and SLE need a full word, SLF an empty one. -/
def feReady (k : FeKind) (full : Bool) : Bool := match k with | .slf => !full | _ => full
/-- The bit that a form leaves (R244): LLF and SLE empty, SLF and FEQ full. -/
def feBit (k : FeKind) : Bool := match k with | .llf | .sle => false | _ => true
/-- Whether a form writes its word (R244): SLF and SLE. -/
def feStores (k : FeKind) : Bool := match k with | .slf | .sle => true | _ => false
/-- The own-core forms (R245): kind, data register and word address in the store. -/
def feRow (s : State) : Instr → Option (FeKind × Reg × Nat)
  | .llf d a o => some (.llf, d, localByte s (wrap ((s.int a).toInt + o.toInt)) 4 0)
  | .slf d a o => some (.slf, d, localByte s (wrap ((s.int a).toInt + o.toInt)) 4 0)
  | .sle d a o => some (.sle, d, localByte s (wrap ((s.int a).toInt + o.toInt)) 4 0)
  | .feq d a o => some (.feq, d, localByte s (wrap ((s.int a).toInt + o.toInt)) 4 0)
  | _ => none
/-- The 32-bit word at byte `a` of the core's store. -/
def wordAtByte (s : State) (a : Nat) : Nat := bytesVal (Memory.readN s.co.store a 4)

/-- The instructions that send a request to another core of the launch: target register and the message (R245, R249, R259). -/
def requestRow (s : State) : Instr → Option (Reg × Payload)
  | .llfRemote d a b => some (a, .fe .llf (s.int b) ((s.int d).setWidth 32) (s.int a))
  | .slfRemote d a b => some (a, .fe .slf (s.int b) ((s.int d).setWidth 32) (s.int a))
  | .sleRemote d a b => some (a, .fe .sle (s.int b) ((s.int d).setWidth 32) (s.int a))
  | .feqRemote d a b => some (a, .fe .feq (s.int b) ((s.int d).setWidth 32) (s.int a))
  | .send ch a b => some (a, .send ch
      ((List.range 64).map (fun i => Memory.read s.co.store (localByte s (s.int b) 64 i))) (s.int a))
  | _ => none
/-- The posted stores of R249. -/
def postRow (s : State) : Instr → Option (Reg × Payload)
  | .post d a b => some (a, .post false (s.int b) ((s.int d).setWidth 32))
  | .postf d a b => some (a, .post true (s.int b) ((s.int d).setWidth 32))
  | _ => none
/-- The core that a register value names, counted from the launch's origin (R233): none outside the launch rectangle. -/
def named (s : State) (v : Word) : Option Nat :=
  if v.toNat < 2 ^ 32 ∧ v.toNat % 65536 < s.lau.width ∧ v.toNat / 65536 < s.lau.height then
    some (s.lau.px + v.toNat % 65536 + 64 * (s.lau.py + v.toNat / 65536))
  else none

/-- Only the message has been added to the network, with its key and its moment in a deterministic launch (R90, R437): no register, no byte
of memory, no other field of the module. -/
def sent (s t : State) (dst : Nat) (p : Payload) : Prop :=
  t.net = s.net ++ [{
    launch := s.co.launch.getD 0, src := s.co.id, srcHid := s.cx.hid, dst := dst, payload := p, key := s.myKey, by_ := s.stamp }] ∧
  regsKept s t ∧ ({ t with cx := s.cx, co := s.co, net := s.net } : State) = s ∧
  ({ t.co with
      counters := s.co.counters, weightSum := s.co.weightSum } : Core) = s.co ∧
  ({ t.cx with
      run := s.cx.run, fresh := s.cx.fresh, retired := s.cx.retired, afterCtrl := s.cx.afterCtrl, agreed := s.cx.agreed,
      dropped := s.cx.dropped, status := s.cx.status, waitk := s.cx.waitk, wait := s.cx.wait, waitSince := s.cx.waitSince,
      npc := s.cx.npc, pc := s.cx.pc } : Ctx) = s.cx

/-- Message `m` has left the network, the rest of which is `rest`: the routers on its path have forwarded it, which their power accounts show
(R159), and of the focused core, other cores and the governor nothing else has changed. -/
def left (s t : State) (m : Msg) (rest : List Msg) : Prop :=
  t.net = rest ∧ t.co.weightSum = s.co.weightSum + (if (pathCores m.src m.dst).contains s.co.id then 200 else 0) ∧
  t.cores.map (fun (c : Core) => { c with weightSum := 0 }) = s.cores.map (fun (c : Core) => { c with weightSum := 0 }) ∧
  ({ t.gov with routed := s.gov.routed } : Gov) = s.gov ∧
  ({ t with cx := s.cx, co := s.co, cores := s.cores, net := s.net, gov := s.gov } : State) = s

/-- No context or message waits in the queue of the word at byte `a` of the core. -/
def nobodyWaits (s : State) (a : Nat) : Prop := ∀ w ∈ s.co.waiters, w.word ≠ a
/-- No message for channel `ch` is held at the core. -/
def noneHeld (s : State) (ch : Fin 8) : Prop := ∀ m ∈ s.co.heldMsgs, ∀ e c, m.payload ≠ .send ch e c

/-- The window of the control context of the focused core, through which offsets of messages are taken (R75). -/
def remoteByte (s : State) (off : Word) : Nat :=
  s.cx.wbase.toNat + (off.toNat / 4 * 4) % (4096 * 2 ^ s.cx.wsize.toNat)

end Sys2Proof.Claim

/-- R244 to R246, R73: a full/empty form of the own core whose condition holds acts at once; otherwise the context joins the
queue of the word, in a deterministic launch by its key, and nothing but the wait changes. -/
def Sys2Proof.Claim.FullEmptyFormsActOrWait : Prop :=
  ∀ s i k d a, feRow s i = some (k, d, a) → s.cx.status ≠ .free →
    (k = .slf → s.co.pumpq.any (·.hid == s.cx.hid) = false) →
    if feReady k (s.co.full.contains a) then nobodyWaits s a →
      Next (exec i s) fun t => issued s t ∧ contextKept s { t with cx.seen := s.cx.seen } ∧ t.cx.pc = s.cx.pc + 4 ∧
        (if feStores k then regsKept s t else regWritten s t d (BitVec.ofNat 128 (wordAtByte s a)) false) ∧
        (∀ x, Memory.read t.co.store x =
          if feStores k ∧ a ≤ x ∧ x < a + 4 then BitVec.ofNat 8 ((s.g d).toNat / 256 ^ (x - a)) else Memory.read s.co.store x) ∧
        (∀ x, t.co.full.contains x = if x = a then feBit k else s.co.full.contains x) ∧
        elsewhereKept s t ∧
        ({ t.co with
            counters := s.co.counters, weightSum := s.co.weightSum, store := s.co.store, full := s.co.full,
            fillers := s.co.fillers } : Core) = s.co
    else Next (exec i s) fun t => waits s t 2 4 ∧ elsewhereKept s t ∧ t.co.store = s.co.store ∧ t.co.full = s.co.full ∧
      ∃ w : FeWaiter, ∃ before after : List FeWaiter, w.word = a ∧ w.kind = k ∧ w.hid = s.cx.hid ∧ w.own = true ∧
        w.val = (s.int d).setWidth 32 ∧ w.key = s.myKey ∧ s.co.waiters = before ++ after ∧ t.co.waiters = before ++ w :: after ∧
        if s.lau.det then (∀ x ∈ before, x.word = a → x.key ≤ s.myKey) ∧ ∀ x, after.head? = some x → x.word = a ∧ s.myKey < x.key
        else after = []

/-- R233, R245, R248, R259: a request to a core of the launch enters the network and the context waits; a value that names no core
of the launch traps SCOPE. -/
def Sys2Proof.Claim.RequestsGoToTheNamedCore : Prop :=
  ∀ s i a p, requestRow s i = some (a, p) →
    match named s (s.int a) with
    | some c => Next (exec i s) fun t => sent s t c p ∧ t.cx.status = .waiting ∧ issued s t ∧
        t.cx.npc = s.cx.pc + 4 ∧ t.cx.pc = s.cx.pc
    | none => Next (exec i s) fun t => traps s t 0x05 (s.int a)

/-- R249, R250, R233: a posted store goes out while the router's queue has room and the instruction completes at once; with 16 of
the core's posts under way the visit is lost. -/
def Sys2Proof.Claim.PostedStoresGoOut : Prop :=
  ∀ s i a p, postRow s i = some (a, p) →
    match named s (s.int a) with
    | none => Next (exec i s) fun t => traps s t 0x05 (s.int a)
    | some c =>
      if (s.net.filter (fun m => m.src == s.co.id && m.payload.isPost)).length < 16 then
        Next (exec i s) fun t => sent s t c p ∧ issued s t ∧ t.cx.pc = s.cx.pc + 4 ∧ t.cx.status = s.cx.status
      else exec i s = .next s

/-- Full/empty forms act or wait; remote forms send their request: the statements named here, together.
What the manual leaves open here is the model's choice: assumption 11. -/
def Obligations.FullEmptyAndRemoteForms : Prop :=
  Sys2Proof.Claim.FullEmptyFormsActOrWait ∧
    Sys2Proof.Claim.RequestsGoToTheNamedCore ∧
    Sys2Proof.Claim.PostedStoresGoOut

/-- R234, R246, R249, R75, R437: the first message in the network, a post to the focused core where its launch runs, in a deterministic
launch once its key is the least, writes its word through the window of the control context, POSTF fills the word when nothing waits for it, and no other byte changes. -/
def Sys2Proof.Claim.ArrivingPostsWriteOneWord : Prop :=
  ∀ s m rest off v, ∀ full : Bool, s.net = m :: rest → m.payload = .post full off v → m.dst = s.co.id →
    s.co.launch = some m.launch → (s.launchById m.launch).state ≠ .evicted → s.pathHeld m.src m.dst = false →
    ((s.launchById m.launch).det = true → s.detReady m.launch m.key = true) →
    s.cx.hid = 0 → s.cx.status ≠ .free → nobodyWaits s (remoteByte s off) →
    Next (exec (.remoteMessageArrival 0) s) fun t =>
      left s t m rest ∧ t.cx = s.cx ∧
      ({ t.co with
          store := s.co.store, full := s.co.full, fillers := s.co.fillers, weightSum := s.co.weightSum } : Core) = s.co ∧
      (∀ x, Memory.read t.co.store x =
        if remoteByte s off ≤ x ∧ x < remoteByte s off + 4 then BitVec.ofNat 8 (v.toNat / 256 ^ (x - remoteByte s off))
        else Memory.read s.co.store x) ∧
      ∀ x, t.co.full.contains x = if x = remoteByte s off ∧ full = true then true else s.co.full.contains x

/-- R248, R336, R338: the reply that a remote operation of the focused context waits for delivers its value and the instruction is
over. -/
def Sys2Proof.Claim.RepliesEndRemoteWaits : Prop :=
  ∀ s m rest v rd tg, ∀ k : BitVec 4, s.net = m :: rest → m.payload = .reply v false false → m.dst = s.co.id →
    m.srcHid = s.cx.hid → (s.launchById m.launch).state ≠ .evicted → s.pathHeld m.src m.dst = false →
    s.cx.status = .waiting → s.cx.wait = some (.remote rd k tg) →
    Next (exec (.remoteReplyArrival 0) s) fun t =>
      (if k = 1 ∨ k = 2 then regsKept s t
       else if k = 5 then regWritten s t rd (BitVec.ofNat 128 (v.toNat % 2 ^ 32)) false
       else if k = 6 then regWritten s t rd (s.cx.ctrlatch.setWidth 128) false
       else regWritten s t rd (intBits v) false) ∧
      t.cx.ctrlatch = (if k = 5 then BitVec.ofNat 32 (v.toNat / 2 ^ 32) else s.cx.ctrlatch) ∧
      left s t m rest ∧ t.cx.pc = s.cx.npc ∧ t.cx.status = .resident ∧ t.cx.wait = none ∧
      ({ t.co with weightSum := s.co.weightSum } : Core) = s.co

/-- Messages act at their core and replies end waits: the statements named here, together.
What the manual leaves open here is the model's choice: assumption 11. -/
def Obligations.MessagesArriveAndReply : Prop :=
  Sys2Proof.Claim.ArrivingPostsWriteOneWord ∧ Sys2Proof.Claim.RepliesEndRemoteWaits

/-- R259: the sender's wait ends when its entry has been appended. -/
def Sys2Proof.Claim.SendEndsWhenAppended : Prop :=
  ∀ s m rest tgt ch e, s.net = m :: rest → m.payload = .reply 0 false true → m.dst = s.co.id →
    m.srcHid = s.cx.hid → s.pathHeld m.src s.co.id = false → s.cx.status = .waiting →
    s.cx.wait = some (.send tgt ch e) →
    Next (exec (.sendCompletion s.co.id s.cx.hid) s) fun t =>
      regsKept s t ∧ left s t m rest ∧ t.cx.pc = s.cx.npc ∧ t.cx.status = .resident ∧ t.cx.wait = none ∧
      ({ t.co with weightSum := s.co.weightSum } : Core) = s.co

/-- R260, R261, R64, R70: RECV takes the oldest entry of a channel into the window at once, or waits, in deterministic mode also behind a RECV that
waits there; CHQ counts the entries. -/
def Sys2Proof.Claim.ReceiveTakesTheOldestEntry : Prop :=
  ∀ s, ∀ ch : Fin 8, ∀ d a,
    (Next (exec (.chq ch d) s) fun t => writesReg s t 4 d (BitVec.ofNat 128 (s.co.chans.get ch).length) false 0) ∧
    (∀ e rest, s.cx.status ≠ .free → s.co.chans.get ch = e :: rest → e.length = 64 → noneHeld s ch →
      (s.lau.det = true → s.co.ctxs.any (Ctx.recvs ch) = false) →
      Next (exec (.recv ch d a) s) fun t => issued s t ∧ regWritten s t d 0 false ∧ t.cx.pc = s.cx.pc + 4 ∧
        t.co.chans.get ch = rest ∧ (∀ c, c ≠ ch → t.co.chans.get c = s.co.chans.get c) ∧
        (∀ x, Memory.read t.co.store x =
          if localByte s (s.int a) 64 0 ≤ x ∧ x < localByte s (s.int a) 64 64 then e.getD (x - localByte s (s.int a) 64 0) 0
          else Memory.read s.co.store x) ∧ contextKept s { t with cx.seen := s.cx.seen } ∧ elsewhereKept s t) ∧
    (s.co.chans.get ch = [] ∨ (s.lau.det = true ∧ s.co.ctxs.any (Ctx.recvs ch) = true) → (s.cx.helper = true ∨ s.co.recast = 0 ∨ s.lau.det = true) →
      Next (exec (.recv ch d a) s) fun t => waits s t 3 4 ∧ elsewhereKept s t ∧ t.co.store = s.co.store ∧
        t.co.chans = s.co.chans)

/-- R260, R70: an entry that has come for a waiting RECV of the focused core goes to its window and ends the wait; in deterministic mode where no
other context waits on the channel. -/
def Sys2Proof.Claim.ArrivedEntriesEndReceives : Prop :=
  ∀ s, ∀ ch : Fin 8, ∀ rd off e rest, s.cx.status = .waiting → s.cx.wait = some (.recv ch rd off) →
    s.co.chans.get ch = e :: rest → e.length = 64 → noneHeld s ch →
    (s.lau.det = true → ∀ c ∈ (s.coreAt s.co.id).ctxs, c.recvs ch = true → c = s.cx) →
    Next (exec (.recvCompletion s.co.id s.cx.hid) s) fun t => regWritten s t rd 0 false ∧ t.cx.pc = s.cx.npc ∧
      t.cx.status = .resident ∧ t.cx.wait = none ∧ t.co.chans.get ch = rest ∧
      (∀ x, Memory.read t.co.store x =
        if localByte s off 64 0 ≤ x ∧ x < localByte s off 64 64 then e.getD (x - localByte s off 64 0) 0
        else Memory.read s.co.store x) ∧ elsewhereKept s t

/-- R64, R65, R262, R62: a RECV of the control context on a channel that has been empty for st.recast ticks takes the preceding
role, returns 0x100 plus it and counts DRYRECV, at its issue or out of its wait; ROLE reads the role and the entries of the rows. -/
def Sys2Proof.Claim.DryReceivesRecast : Prop :=
  (∀ s, ∀ ch : Fin 8, ∀ d a k, s.cx.helper = false → s.lau.det = false → s.co.recast ≠ 0 → s.co.chans.get ch = [] →
    s.tick - s.co.emptyAt.get ch ≥ s.co.recast.toNat → s.lau.rows[k + 1]? = some s.co.role → k < 2 →
    (∀ j, j ≤ k → s.lau.rows[j]? ≠ some s.co.role) →
    ∀ r, s.lau.rows[k]? = some r →
    (Next (exec (.recv ch d a) s) fun t => regWritten s t d (BitVec.ofNat 128 (0x100 + r)) false ∧ t.co.role = r ∧
      t.cx.pc = s.cx.pc + 4 ∧ Tab.get 0 t.co.counters 4 = Tab.get 0 s.co.counters 4 + 1 ∧ t.co.store = s.co.store ∧
      elsewhereKept s t) ∧
    (∀ off, s.cx.status = .waiting → s.cx.wait = some (.recv ch d off) →
      Next (exec (.recvDry s.co.id s.cx.hid) s) fun t => regWritten s t d (BitVec.ofNat 128 (0x100 + r)) false ∧
        t.co.role = r ∧ t.cx.pc = s.cx.npc ∧ t.cx.status = .resident ∧
        Tab.get 0 t.co.counters 4 = Tab.get 0 s.co.counters 4 + 1 ∧ t.co.store = s.co.store ∧ elsewhereKept s t)) ∧
  ∀ s d a, Next (exec (.role d a) s) fun t => ∃ v : Word, writesReg s t 4 d (intBits v) false 0 ∧
    v = (if s.int a = 0 then BitVec.ofNat 64 s.co.role
      else if s.int a = 1 then s.lau.fetch else if s.int a = 2 then s.lau.work
      else if s.int a = 3 then s.lau.stow else 0)

/-- SEND and RECV pass entries; a dry receive is recast: the statements named here, together.
What the manual leaves open here is the model's choice: assumption 11. -/
def Obligations.ChannelsPassEntries : Prop :=
  Sys2Proof.Claim.SendEndsWhenAppended ∧
    Sys2Proof.Claim.ReceiveTakesTheOldestEntry ∧
    Sys2Proof.Claim.ArrivedEntriesEndReceives ∧
    Sys2Proof.Claim.DryReceivesRecast

namespace Sys2Proof.Claim

/-! ## Contexts and the system (R318 to R345) -/

/-- The instructions that issue only in a control context (R318), MTS to control registers apart. -/
def controlOnly : Instr → Bool
  | .start _ _ _ | .join _ _ | .kill _ | .resume _ _ | .launch _ _ _ | .trapret | .faultq _ _ | .stop _ _ _ | .vmap _ _ _
  | .vunmap _ | .wpres _ _ _ | .wsplit _ _ _ | .wdeleg _ _ _ | .wsurr _ _ => true
  | _ => false
/-- The state registers that a helper may not write (R333). -/
def controlReg : SReg → Bool
  | .tvec | .actthr | .recast | .lfsr => true
  | _ => false
/-- The state registers that MTS writes (R333). -/
def writableReg : SReg → Bool
  | .region | .cause | .epc | .tval | .tvec | .window | .actthr | .recast | .lfsr | .fflags | .seals => true
  | _ => false

/-- A window word of R320 is legal. -/
def legalWindow (w : Nat) : Prop :=
  w / 2 ^ 36 = 0 ∧ w / 2 ^ 20 % 2 ^ 12 = 0 ∧ w / 2 ^ 32 % 16 ≤ 8 ∧ w % 2 ^ 20 % 2 ^ (w / 2 ^ 32 % 16 + 12) = 0

/-- The homes of the warrant's space after every unreleased store of the context has gone there, newest on top (R87). -/
def released (s t : State) : Prop :=
  onlySpace s t s.war.space ∧ (s.spaces.any (·.id == s.war.space) = true → ∀ x,
    Memory.read (t.spaceById s.war.space).mem x =
      (viewByte (s.cx.view.filter (fun r => r.kind == .unreleased)) x).getD (Memory.read s.space.mem x))

/-- The context has acquired at pkg scope: it has a new snapshot point there and in the scopes within, its point at fab scope is as before
(R84, R88). -/
def snapped (s t : State) : Prop := ∀ k : Fin 4, t.cx.snap.get k = if k.val ≤ 2 then s.space.seq else s.cx.snap.get k

/-- The value that MFS reads (R333). -/
def stateReg (s : State) : SReg → Nat
  | .pc => s.cx.pc.toNat
  | .region => s.cx.region.toNat
  | .cause => s.cx.cause.toNat
  | .epc => s.cx.epc.toNat
  | .tval => s.cx.tval.toNat
  | .tvec => s.cx.tvec.toNat
  | .slot => s.cx.slot.getD 0xF
  | .core => (s.co.id % 64 - s.lau.px) % 65536 + (s.co.id / 64 - s.lau.py) % 65536 * 65536
  | .window => s.cx.wbase.toNat + s.cx.wsize.toNat * 2 ^ 32
  | .fault => s.co.ring.length
  | .ovf => s.co.held.length
  | .actthr => s.co.actthr.toNat
  | .recast => s.co.recast.toNat
  | .lease => s.cfg.lease
  | .lfsr => s.co.lfsr.toNat
  | .fflags => s.co.fflags.toNat
  | .seals => s.cx.seals.toNat
  | .freq => (s.dies.getD (s.co.id % 64 / 16 + 4 * (s.co.id / 64 / 16)) DieSt.reset).cur
  | .hid => s.cx.hid
  | .ctrlatch => s.cx.ctrlatch.toNat
  | .warrant => 0

/-- The events that a warrant's bitmap allows (R334, R335, R429): bit 16 is that of every ISSUEDn. -/
def allowed (s : State) (e : CtrEvent) : Bool := s.war.rec_.events.getLsbD (Min.min (eventCode e) 16)
/-- Bit 31 of the bitmap: a denied event traps (R335). -/
def deniedTraps (s : State) : Bool := s.war.rec_.events.getLsbD 31

/-- `t` with what TRAPRET, REGION, GPIN, GRAMP, CTRL and MTS write put back. -/
def statusBack (s t : State) : State :=
  { t with
    cx.region := s.cx.region, cx.sent := s.cx.sent, cx.hashes := s.cx.hashes, cx.restarted := s.cx.restarted,
    cx.redo := s.cx.redo, cx.loads0 := s.cx.loads0,
    cx.intrap := s.cx.intrap, cx.pinned := s.cx.pinned, cx.cause := s.cx.cause, cx.epc := s.cx.epc, cx.tval := s.cx.tval,
    cx.tvec := s.cx.tvec, cx.wbase := s.cx.wbase, cx.wsize := s.cx.wsize, cx.seals := s.cx.seals, cx.ctrlatch := s.cx.ctrlatch,
    co.actthr := s.co.actthr, co.recast := s.co.recast, co.lfsr := s.co.lfsr, co.fflags := s.co.fflags,
    co.gramp := s.co.gramp, gov.decls := s.gov.decls }

/-- TIME's upper bound of the drift (R408): ceil(e / 1000). -/
def driftOf (e : Nat) : Int := (e + 999) / 1000

end Sys2Proof.Claim

/-- R318: in a helper an instruction of the control context traps CONTEXT and changes nothing. -/
def Sys2Proof.Claim.ControlInstructionsTrapInHelpers : Prop :=
  (∀ s i, controlOnly i = true → s.cx.helper = true → Next (exec i s) fun t => traps s t 0x09 s.cx.pc) ∧
  ∀ s r a, controlReg r = true → s.cx.helper = true → Next (exec (.mts r a) s) fun t => traps s t 0x09 s.cx.pc

/-- R230, R321, R322, R55, R228: TRAP takes its trap; TRAPRET leaves the handler; REGION notes the region. -/
def Sys2Proof.Claim.TrapsAreTakenAndLeft : Prop :=
  (∀ s code, Next (exec (.trap code) s) fun t => traps s t 0x20 (code.setWidth 64)) ∧
  (∀ s, s.cx.helper = false →
    if s.cx.intrap = false then Next (exec .trapret s) fun t => traps s t 0x09 s.cx.pc
    else if s.cx.epc.toNat % 4 ≠ 0 then Next (exec .trapret s) fun t => traps s t 0x10 s.cx.epc
    else Next (exec .trapret s) fun t => t.cx.intrap = false ∧ completes s { t with cx.intrap := s.cx.intrap } s.cx.epc 0 ∧
      regsKept s t ∧ memoryKept s t) ∧
  ∀ s : State, if s.co.longOf s.cx.hid then exec .region s = .next s
    else Next (exec .region s) fun t => t.cx.region = s.cx.pc + 4 ∧ t.cx.restarted = false ∧ t.cx.sent = 0 ∧
      t.cx.hashes = [] ∧ t.cx.redo = [] ∧ t.cx.loads0 = s.cx.loads ∧ completes s (statusBack s t) (s.cx.pc + 4) 0 ∧ regsKept s t ∧ memoryKept s t

/-- Control instructions trap in helpers; traps are taken and left: the statements named here, together. -/
def Obligations.TrapsAndPrivilege : Prop :=
  Sys2Proof.Claim.ControlInstructionsTrapInHelpers ∧ Sys2Proof.Claim.TrapsAreTakenAndLeft

/-- R229, R49, R51: YIELD gives the slot of a helper up while others are ready, and does nothing else. -/
def Sys2Proof.Claim.YieldGivesTheSlotUp : Prop :=
  ∀ s, s.cx.status ≠ .free →
    if s.cx.helper = false ∨ (s.co.promoted = [] ∧ s.co.woken = [] ∧ s.co.started = []) then
      Next (exec .yield s) fun t => writesNothing s t (s.cx.pc + 4)
    else Next (exec .yield s) fun t => regsKept s t ∧ memoryKept s t ∧ t.cx.pc = s.cx.pc + 4 ∧ t.cx.status = .queued ∧
      t.cx.slot = none ∧ t.cx.age = 0 ∧ t.cx.ready = BitVec.ofNat 64 s.tick ∧ t.co.started = s.co.started ++ [s.cx.hid] ∧
      t.co.promoted = s.co.promoted ∧ t.co.woken = s.co.woken ∧ t.co.ctxs = s.co.ctxs ∧ elsewhereKept s t

/-- R327, R43, R51, R53, R223: START makes a helper with the least free identifier, or traps in the rule's order. -/
def Sys2Proof.Claim.StartMakesAHelper : Prop :=
  ∀ s d a b, s.cx.helper = false →
    let e := s.int a
    let arg := (s.int b).toNat
    if e.toNat % 4 ≠ 0 then Next (exec (.start d a b) s) fun t => traps s t 0x10 e
    else if ¬ windowLegal (arg % 2 ^ 48) then
      Next (exec (.start d a b) s) fun t => traps s t 0x0B (BitVec.ofNat 64 (arg % 2 ^ 48))
    else if s.freeRec = none then Next (exec (.start d a b) s) fun t => traps s t 0x23 s.cx.pc
    else Next (exec (.start d a b) s) fun t => ∃ c h, t.co.ctxs = s.co.ctxs ++ [c] ∧ c.hid = h ∧ h ≠ 0 ∧
      (∀ x ∈ s.co.ctxs, x.hid ≠ h) ∧ (∀ j, 0 < j → j < h → ∃ x ∈ s.co.ctxs, x.hid = j) ∧
      c.helper = true ∧ c.pc = e ∧ c.region = e ∧ c.wbase = BitVec.ofNat 20 arg ∧
      c.wsize.toNat = arg / 2 ^ 32 % 16 ∧ c.seals = s.cx.seals &&& BitVec.ofNat 16 (arg / 2 ^ 48) ∧
      (∀ n : Reg, 2 ≤ n.val → n.val ≤ 11 → c.reg n = s.g n ∧ c.tag n = s.gtag n) ∧
      (∀ n : Reg, n.val < 2 ∨ 11 < n.val → c.reg n = 0 ∧ c.tag n = false) ∧
      ((c.status = .resident ∧ ∃ n, s.packed.freeSlot = some n ∧ c.slot = some n) ∨
        (c.status = .queued ∧ c.slot = none ∧ t.co.started = s.co.started ++ [h])) ∧
      regWritten s t d (intBits (BitVec.ofNat 64 h)) false ∧ t.cx.pc = s.cx.pc + 4 ∧ released s t ∧
      t.co.store = s.co.store ∧ t.cores = s.cores

/-- R328, R33, R87: EXIT of a helper leaves it exited with its stamp and its slot free; EXIT of the control context ends the launch
on its core, its record staying readable. Both release. -/
def Sys2Proof.Claim.ExitEndsAContext : Prop :=
  (∀ s, s.cx.helper = true → s.co.pumpq.any (fun p => p.hid == s.cx.hid && p.kind == .drain) = false →
    Next (exec .exit s) fun t => t.cx.status = .exited ∧ t.cx.slot = none ∧ t.cx.exitTick = BitVec.ofNat 64 s.tick ∧
      regsKept s t ∧ t.cx.hid = s.cx.hid ∧ t.co.store = s.co.store ∧ released s t) ∧
  (∀ s l, s.cx.helper = false → s.packed.liveHelpers = [] → s.co.launch = some l →
    s.co.pumpq.any (fun p => p.hid == s.cx.hid && p.kind == .drain) = false →
    Next (exec .exit s) fun t => t.cx.status = .free ∧ t.co.launch = none ∧ t.co.ctxs = [] ∧ t.co.ring = [] ∧
      (s.cx.status ≠ .free → ∃ r, t.co.last = some r ∧ r.regs = s.cx.regs ∧ r.tags = s.cx.tags ∧ r.status = .exited ∧
        r.exitTick = BitVec.ofNat 64 s.tick) ∧
      (∀ x ∈ t.launches, x.id = l → s.co.id ∈ x.ended) ∧ t.co.store = s.co.store ∧ t.cores = s.cores ∧ released s t) ∧
  ∀ s, s.cx.helper = false → s.packed.liveHelpers ≠ [] →
    Next (exec .exit s) fun t => t.cx.status = .waiting ∧ t.cx.waitk = 5 ∧ t.cx.npc = s.cx.pc ∧ regsKept s t ∧
      elsewhereKept s t ∧ t.co = s.co

/-- YIELD, START and EXIT change the contexts of a core: the statements named here, together.
What the manual leaves open here is the model's choice: assumptions 11, 22, 54, 103 and 117. -/
def Obligations.ContextsStartYieldAndExit : Prop :=
  Sys2Proof.Claim.YieldGivesTheSlotUp ∧ Sys2Proof.Claim.StartMakesAHelper ∧ Sys2Proof.Claim.ExitEndsAContext

/-- R329, R330, R331, R88: JOIN collects an exited helper and acquires, or waits, or traps HID; KILL removes a helper; RESUME makes a
parked helper ready. -/
def Sys2Proof.Claim.HelpersAreCollectedKilledAndResumed : Prop :=
  ∀ s d a b, s.cx.helper = false → s.cx.status = .resident →
    let h := (s.int a).toNat
    (h ≠ 0 → match s.co.ctxs.find? (fun x => x.helper && x.hid == h) with
      | none => (Next (exec (.join d a) s) fun t => traps s t 0x26 (s.int a)) ∧
          Next (exec (.kill a) s) fun t => traps s t 0x26 (s.int a)
      | some c =>
        (if c.status = .exited then Next (exec (.join d a) s) fun t =>
            regWritten s t d (intBits ((c.reg 4).setWidth 64)) false ∧ t.co.ctxs = s.co.ctxs.filter (fun x => x.hid != h) ∧
            t.cx.pc = s.cx.pc + 4 ∧ t.cx.view = s.cx.view.filter (fun r => r.kind == .unreleased) ∧ snapped s t ∧
            elsewhereKept s t ∧ t.co.store = s.co.store
          else Next (exec (.join d a) s) fun t => t.cx.status = .waiting ∧ t.cx.waitk = 5 ∧ t.cx.npc = s.cx.pc ∧
            regsKept s t ∧ elsewhereKept s t ∧ t.co = s.co) ∧
        Next (exec (.kill a) s) fun t => (∀ x ∈ t.co.ctxs, x.hid ≠ h) ∧ regsKept s t ∧ t.cx.pc = s.cx.pc + 4 ∧
          t.co.store = s.co.store) ∧
    (h = 0 → if s.packed.liveHelpers = [] then Next (exec (.join d a) s) fun t =>
        regWritten s t d (intBits (BitVec.ofNat 64 s.exited.length)) false ∧ t.cx.pc = s.cx.pc + 4 ∧
        (∀ x ∈ t.co.ctxs, x.helper = true → x.status = .exited → False) ∧ snapped s t ∧ elsewhereKept s t ∧
        t.co.store = s.co.store
      else Next (exec (.join d a) s) fun t => t.cx.status = .waiting ∧ t.cx.waitk = 5 ∧ regsKept s t ∧ t.co = s.co) ∧
    match s.co.ctxs.find? (fun x => x.helper && x.hid == h && x.status == .parked && !x.erred) with
    | none => Next (exec (.resume a b) s) fun t => traps s t 0x26 (s.int a)
    | some c => h ≠ s.cx.hid →
      let goes (pc : Word) : Prop := Next (exec (.resume a b) s) fun t => regsKept s t ∧ t.cx.pc = s.cx.pc + 4 ∧
        t.co.started = s.co.started ++ [h] ∧ t.co.store = s.co.store ∧ elsewhereKept s t ∧
        ∀ x ∈ t.co.ctxs, x.hid = h → x.status = .queued ∧ x.pc = pc ∧ x.age = 0
      if s.int b = 0 then (∀ x ∈ s.co.ctxs, x.hid = h → x = c) → goes c.pc
      else if s.int b = 1 then (∀ x ∈ s.co.ctxs, x.hid = h → x = c) → goes c.region
      else if s.int b ≠ 2 then Next (exec (.resume a b) s) fun t => traps s t 0x05 (s.int b)
      else if s.space.imapped c.fpc.toNat = false then Next (exec (.resume a b) s) fun t => traps s t 0x15 c.fpc
      else (∀ x ∈ s.co.ctxs, x.hid = h → x = c) →
        goes (c.fpc + BitVec.ofNat 64 (Max.max 4 (4 * wordCount (s.space.iword c.fpc.toNat))))

/-- R324, R326: FAULTQ writes the oldest record of the ring into the window and takes it, and the oldest held fault enters. -/
def Sys2Proof.Claim.FaultqReadsTheRing : Prop :=
  ∀ s d a, s.cx.helper = false →
    (s.co.ring = [] → Next (exec (.faultq d a) s) fun t => writesReg s t 4 d 0 false 0) ∧
    ∀ r rest, s.co.ring = r :: rest → Next (exec (.faultq d a) s) fun t =>
      let w (i : Nat) : Nat := bytesVal (Memory.readN t.co.store (localByte s (s.int a) 64 (8 * i)) 8)
      t.co.ring = rest ++ s.co.held.take 1 ∧ t.co.held = s.co.held.drop 1 ∧
      regWritten s t d (intBits (BitVec.ofNat 64 (1 + rest.length + (s.co.held.take 1).length))) false ∧
      w 3 = r.tick.toNat ∧ w 4 = r.pc.toNat ∧ w 5 = r.fpc.toNat ∧ w 6 = r.region.toNat ∧ w 7 = r.tval.toNat ∧
      w 2 = r.hid % 65536 + r.cause.toNat * 65536 ∧
      (∀ x, (x < localByte s (s.int a) 64 0 ∨ localByte s (s.int a) 64 64 ≤ x) →
        Memory.read t.co.store x = Memory.read s.co.store x) ∧
      t.cx.pc = s.cx.pc + 4 ∧ contextKept s t ∧ elsewhereKept s t

/-- R323, R321, R56: a record in the ring traps the control context at an instruction boundary, or ends a wait that may be abandoned, with
the number of records in st.tval; a context that is yet to resume at its region entry, or whose held operation goes now, does that first. -/
def Sys2Proof.Claim.HelperFaultsInterrupt : Prop :=
  ∀ s, s.cx.hid = 0 → s.cx.helper = false → s.co.ringNews = true → s.co.ring ≠ [] → s.cx.intrap = false →
    s.cx.afterCtrl = false → s.cx.rewind = false → s.cx.pend = none → s.cx.agreed = false → s.cx.tvec ≠ 0 → (s.cx.status = .resident ∨ (s.cx.status = .waiting ∧ s.cx.wait = some .join)) →
    Next (exec (.helperfaultTrap s.co.id) s) fun t => t.cx.epc = s.cx.pc ∧ t.cx.cause = 0x2B ∧
      t.cx.tval = BitVec.ofNat 64 s.co.ring.length ∧ t.cx.intrap = true ∧ t.cx.pc = s.cx.tvec ∧ t.cx.status = .resident ∧
      t.co.ringNews = false ∧ t.co.ring = s.co.ring ∧ regsKept s t ∧ memoryKept s t ∧ (s.cx.status = .waiting → t.cx.wait = none)

/-- Helpers are collected; their faults reach the ring and the control context: the statements named here, together.
What the manual leaves open here is the model's choice: assumptions 11 and 44. -/
def Obligations.HelpersAndTheFaultRing : Prop :=
  Sys2Proof.Claim.HelpersAreCollectedKilledAndResumed ∧
    Sys2Proof.Claim.FaultqReadsTheRing ∧
    Sys2Proof.Claim.HelperFaultsInterrupt

/-- R333, R127, R223, R48, R64, R124, R320: MFS reads a state register; MTS writes what the register takes, and nothing else. -/
def Sys2Proof.Claim.StateRegistersReadAndWrite : Prop :=
  (∀ s d r, if r = .fflags ∧ s.co.longOf s.cx.hid = true then exec (.mfs d r) s = .next s
    else Next (exec (.mfs d r) s) fun t =>
      if r = .warrant then ∃ c, writesReg s t 4 d c true 0 ∧ capTypeOf c = 10
      else writesReg s t 4 d (BitVec.ofNat 128 (stateReg s r)) false 0) ∧
  ∀ s r a, writableReg r = true → (s.cx.helper = true → controlReg r = false) →
    let v := s.int a
    if r = .window ∧ ¬ windowLegal v.toNat then Next (exec (.mts r a) s) fun t => traps s t 0x0B v
    else Next (exec (.mts r a) s) fun t => completes s (statusBack s t) (s.cx.pc + 4) 0 ∧ regsKept s t ∧ memoryKept s t ∧
      t.cx.region = (if r = .region then v &&& ~~~3 else s.cx.region) ∧
      t.cx.cause = (if r = .cause then v.setWidth 16 else s.cx.cause) ∧
      t.cx.epc = (if r = .epc then v else s.cx.epc) ∧ t.cx.tval = (if r = .tval then v else s.cx.tval) ∧
      t.cx.tvec = (if r = .tvec then v &&& ~~~3 else s.cx.tvec) ∧
      t.cx.wbase = (if r = .window then v.setWidth 20 else s.cx.wbase) ∧
      t.cx.wsize.toNat = (if r = .window then v.toNat / 2 ^ 32 % 16 else s.cx.wsize.toNat) ∧
      t.co.actthr.toNat = (if r = .actthr then Max.max 256 (Min.min v.toNat 65535) else s.co.actthr.toNat) ∧
      t.co.recast.toNat = (if r = .recast then Min.min v.toNat 65535 else s.co.recast.toNat) ∧
      t.co.lfsr.toNat = (if r = .lfsr then (if v.toNat % 2 ^ 32 = 0 then 1 else v.toNat % 2 ^ 32) else s.co.lfsr.toNat) ∧
      t.co.fflags = (if r = .fflags then v.setWidth 7 else s.co.fflags) ∧
      t.cx.seals = (if r = .seals then s.cx.seals &&& v.setWidth 16 else s.cx.seals) ∧
      t.cx.intrap = s.cx.intrap ∧ t.cx.pinned = s.cx.pinned ∧ t.cx.ctrlatch = s.cx.ctrlatch ∧ t.co.gramp = s.co.gramp

/-- R334 to R336, R431: the counters of allowed events, with the latch of CTRL and CTRH; a denied event reads zero or traps CTRDENY. -/
def Sys2Proof.Claim.CountersRead : Prop :=
  ∀ s d e,
    if allowed s e then
      (Next (exec (.ctr d e) s) fun t => writesReg s t 4 d (intBits (s.counterNow e)) false 0) ∧
      (Next (exec (.ctrl d e) s) fun t => completes s (statusBack s t) (s.cx.pc + 4) 0 ∧ memoryKept s t ∧
        regWritten s t d (BitVec.ofNat 128 ((s.counterNow e).toNat % 2 ^ 32)) false ∧ t.cx.afterCtrl = true ∧
        t.cx.ctrlatch.toNat = (s.counterNow e).toNat / 2 ^ 32 ∧ t.cx.region = s.cx.region) ∧
      (Next (exec (.ctrh d e) s) fun t => writesReg s t 4 d (s.cx.ctrlatch.setWidth 128) false 0)
    else if deniedTraps s then
      ∀ i ∈ [Instr.ctr d e, .ctrl d e, .ctrh d e], Next (exec i s) fun t => traps s t 0x2A (BitVec.ofNat 64 (eventCode e))
    else
      (Next (exec (.ctr d e) s) fun t => writesReg s t 4 d 0 false 0) ∧
      (Next (exec (.ctrl d e) s) fun t => regWritten s t d 0 false ∧ t.cx.ctrlatch = 0 ∧ t.cx.pc = s.cx.pc + 4 ∧
        memoryKept s t) ∧
      (Next (exec (.ctrh d e) s) fun t => writesReg s t 4 d 0 false 0)

/-- R337, R407, R408: TIME gives the tick, the bounds of trusted time, or the end of the warrant. -/
def Sys2Proof.Claim.TimeReads : Prop :=
  ∀ s d a,
    if s.int a = 0 then Next (exec (.time d a) s) fun t => writesReg s t 4 d (intBits (BitVec.ofNat 64 s.tick)) false 0
    else if s.int a = 1 then Next (exec (.time d a) s) fun t => writesReg s t 4 d (intBits (match s.clock with
      | none => 0
      | some c => wrap (c.lo0 + 10 * (s.tick - c.t0 : Nat) - driftOf (s.tick - c.t0)))) false 0
    else if s.int a = 2 then Next (exec (.time d a) s) fun t => writesReg s t 4 d (intBits (match s.clock with
      | none => wrap (2 ^ 64 - 1)
      | some c => wrap (c.hi0 + 10 * (s.tick - c.t0 : Nat) + driftOf (s.tick - c.t0)))) false 0
    else if s.int a = 3 then
      Next (exec (.time d a) s) fun t => writesReg s t 4 d (intBits (BitVec.ofNat 64 s.war.rec_.notAfter)) false 0
    else Next (exec (.time d a) s) fun t => traps s t 0x05 (s.int a)

/-- State registers, counters and trusted time are read and written: the statements named here, together. Of st.warrant it says only that
some tagged capability of OTYPE 10 is given.
What the manual leaves open here is the model's choice: assumptions 96 and 106. -/
def Obligations.StateRegistersAndCounters : Prop :=
  Sys2Proof.Claim.StateRegistersReadAndWrite ∧ Sys2Proof.Claim.CountersRead ∧ Sys2Proof.Claim.TimeReads

/-- R149, R307, R315, R336, R338, R341: CTRSEL and STOP send their request and wait; IFL gives the object of an address and the offset in it, or 0; GRAMP declares or withdraws;
WELLQ gives the partition and the refresh of a bank.
What the manual leaves open here is the model's choice: assumptions 11 and 52. -/
def Obligations.SystemQueriesAnswer : Prop :=
  (∀ s d a b c e k, named s (s.int a) = some c → (s.int b).toNat = eventCode e + 4096 * k → k < 3 → allowed s e = true →
    Next (exec (.ctrsel d a b) s) fun t => sent s t c (.ctrsel e (s.int a)) ∧ issued s t ∧ t.cx.waitk = 1 ∧
      t.cx.wait = some (.remote d (BitVec.ofNat 4 (4 + k)) (s.int a))) ∧
  (∀ s d a b c slot arm, s.cx.helper = false → s.war.rec_.debug = true →
    named s (BitVec.ofNat 64 ((s.int a).toNat % 2 ^ 32)) = some c → 1 ≤ slot → slot ≤ 10 →
    (s.int a).toNat / 2 ^ 32 = slot + (if arm then 16 else 0) → (s.int b).toNat % 4 = 0 →
    Next (exec (.stop d a b) s) fun t => sent s t c (.stop slot arm (s.int b) (s.int a)) ∧ issued s t ∧ t.cx.waitk = 1 ∧
      t.cx.wait = some (.remote d 7 (s.int a))) ∧
  (∀ s d a, s.space.imapped (s.int a).toNat = false → Next (exec (.ifl d a) s) fun t => writesReg s t 4 d 0 false 0) ∧
  (∀ s d a o i, s.space.imapped (s.int a).toNat = true → s.space.objs[i]? = some o → o.base ≤ (s.int a).toNat →
    (s.int a).toNat < o.base + Max.max 1 ((o.len + 0x1FFFFF) / 0x200000) * 0x200000 →
    (∀ j p, j < i → s.space.objs[j]? = some p → (s.int a).toNat < p.base ∨
      p.base + Max.max 1 ((p.len + 0x1FFFFF) / 0x200000) * 0x200000 ≤ (s.int a).toNat) →
    Next (exec (.ifl d a) s) fun t => writesReg s t 4 d
      (BitVec.ofNat 128 (1 + i % 16 * 256 + ((s.int a).toNat - o.base) % 2 ^ 32 * 2 ^ 32)) false 0) ∧
  (∀ s a b, Next (exec (.gramp a b) s) fun t => completes s (statusBack s t) (s.cx.pc + 4) 0 ∧ regsKept s t ∧ memoryKept s t ∧
    (if (s.int a).toInt ≤ 0 then t.co.gramp = none
     else ∃ r, t.co.gramp = some r ∧ (r.x : Int) = Min.min (s.int a).toInt 3300 ∧ r.base = none ∧
       r.stop = if (s.int b).toNat < s.tick then s.gov.next + 100 else (s.int b).toNat / 100 * 100 + 100)) ∧
  ∀ s d a, Next (exec (.wellq d a) s) fun t => ∃ v : Word, writesReg s t 4 d (intBits v) false 0 ∧
    v.toNat / 2 ^ 48 = s.war.wellMib % 65536 ∧ (v.getLsbD 36 = true ↔ s.tick % 400 < 100) ∧
    (s.tick % 6400 / 400 = (s.int a).toNat % 16 → s.tick % 400 < 100 → v.toNat % 2 ^ 16 = 0 ∧
      v.toNat / 2 ^ 16 % 2 ^ 16 = 100 - s.tick % 400)

/-- R316: GPIN sets PINNED from bit 0 of its source and clears it otherwise, but never in a context of a pinned launch; it neither waits nor traps. -/
def Obligations.GpinSetsPinned : Prop :=
  ∀ s, ∀ a : Reg, decodeWords (54 * 4 + a.val * 2 ^ 13 + 1 * 2 ^ 23) 0 0 = .ok (.gpin a) ∧
    Next (exec (.gpin a) s) fun t => completes s { t with
        cx.pinned := s.cx.pinned } (s.cx.pc + 4) 0 ∧ regsKept s t ∧ memoryKept s t ∧
      t.cx.pinned = (if (s.g a).getLsbD 0 then true else if s.lau.pinned then s.cx.pinned else false)

namespace Sys2Proof.Claim

/-! ## Memory maps, launches and warrants (R28 to R33, R80, R332, R339, R340, R343 to R350) -/

/-- The page size that VMAP's length word asks for (R339). -/
def pageSize (v : Word) : Nat := if v.toNat / 2 ^ 63 = 1 then 0x200000 else 0x10000
/-- The range of a VMAP is well shaped (R339): zero bits [62:48], a page-aligned base and a non-empty whole number of pages below
2^48, and bounds that a capability states exactly. -/
def vmapShaped (va len : Word) : Prop :=
  let n := len.toNat % 2 ^ 48
  len.toNat / 2 ^ 48 % 2 ^ 15 = 0 ∧ va.toNat < 2 ^ 48 ∧ va.toNat % pageSize len = 0 ∧ n ≠ 0 ∧ n % pageSize len = 0 ∧
    va.toNat + n ≤ 2 ^ 48 ∧ csbRange va.toNat (va.toNat + n) = (va.toNat, va.toNat + n)
/-- Some page of the space maps a byte of a 64 KiB unit of a range. -/
def mappedIn (s : State) (lo n : Nat) : Prop := ∃ i, i < n / 0x10000 ∧ s.space.mapped (lo + i * 0x10000) = true

/-- The warrant that the index of the handle in `a` names to the running warrant: its own, or one that it presented or split (R345). -/
def handleNames (s : State) (a : Reg) : Option Warrant :=
  s.wars.find? (fun w => w.hix == (s.int a).toNat / 256 && (w.id == s.lau.war || w.holder == some s.lau.war))
/-- The handle in `a` is tagged, of OTYPE 0xA, and names a warrant that the running warrant may use (R345). -/
def handle (s : State) (a : Reg) (wid : Nat) (live : Bool) : Prop :=
  s.gtag a = true ∧ capTypeOf (s.g a) = 10 ∧
    ∃ w, handleNames s a = some w ∧ w.id = wid ∧ (live = true → w.code = none ∧ w.consumed = false)

/-- The instructions on a handle: its register, and whether an ended warrant is refused (R345). -/
def handleRow : Instr → Option (Reg × Bool)
  | .launch _ a _ => some (a, true)
  | .wsplit _ a _ => some (a, false)
  | .wdeleg _ a _ => some (a, true)
  | .wsurr _ a => some (a, false)
  | .wqry _ a _ => some (a, false)
  | _ => none

/-- The context waits with WAITK 1 for a result of the wellhead (R343). -/
def awaits (s t : State) (d : Reg) (v : W128) (tag : Bool) : Prop :=
  t.cx.status = .waiting ∧ t.cx.waitk = 1 ∧ t.cx.wait = some (.warrant d v tag) ∧ regsKept s t ∧ t.cx.npc = s.cx.pc + 4

/-- The control context that a start makes (R31, R41, R223, R361): its PC and REGION at the entry of the role or of the launch, its
window, slot 0, every seal but 0 and 10, g2 the stack and g3 the global data. -/
def startedCtx (l : Launch) (core tick : Nat) (c : Ctx) : Prop :=
  c.status = .resident ∧ c.slot = some 0 ∧ c.hid = 0 ∧ c.helper = false ∧ c.wbase = l.wbase ∧ c.wsize = l.wsize ∧
  c.pc = (if l.fetch = 0 ∧ l.work = 0 ∧ l.stow = 0 then l.entry else l.rowEntry (l.startRole core)) ∧ c.region = c.pc ∧
  c.pinned = l.pinned ∧ c.seals = 0xFBFE ∧ c.tvec = 0 ∧ c.intrap = false ∧ c.act = BitVec.ofNat 64 tick ∧ c.tag 2 = true ∧
  c.wait = none ∧ ∀ n : Reg, n.val ≠ 2 → n.val ≠ 3 → c.reg n = 0 ∧ c.tag n = false

/-- Words k0 to k15 of the identity block (R32). -/
def idWord (l : Launch) (core tick j : Nat) : Nat :=
  match j with
  | 0 => l.xrel core % 65536 + l.yrel core % 65536 * 65536
  | 1 => l.width % 65536 + l.height % 65536 * 65536
  | 2 => l.startRole core
  | 3 => l.lseq % 2 ^ 32
  | 4 => tick % 2 ^ 32
  | 5 => tick / 2 ^ 32 % 2 ^ 32
  | 6 => (if l.det then 1 else 0) + (if l.pinned then 2 else 0) + (if l.checked then 4 else 0) + (if l.mirror then 8 else 0) +
      l.cls % 4 * 16
  | 7 => dieOf core
  | _ => 0
/-- Words k16 to k255: what a .const line of the group gives, else the block's KWORDS (R31). -/
def kWord (l : Launch) (g : Option Group) (j : Nat) : W32 :=
  match (match g with | none => none | some g => g.consts.find? (fun (p : Nat × W32) => p.1 == j)) with
  | some p => p.2
  | none => l.kwords.getD (j - 16) 0
/-- Where a .data image of the group is placed in the window (R18, R31). -/
def imageAt (l : Launch) (p : Nat × List Byte) : Nat := l.wbase.toNat + p.1 % (4096 * 2 ^ l.wsize.toNat)
/-- No .data image of the group covers the `n` bytes at `x`. -/
def bare (l : Launch) (g : Option Group) (x n : Nat) : Prop :=
  ∀ h, g = some h → ∀ p ∈ h.images, x + n ≤ imageAt l p ∨ imageAt l p + p.2.length ≤ x
/-- What the checks of R399 make of a record that WPRES presents: a code with its detail, a wait for another presentation of its serial
(R400), or an origin and an address for it. -/
inductive Presented where
  | refused (e : Refused)
  | waits
  | reserved (p : Nat × Nat × W128)
/-- The checks of R399 in their order. -/
def presented (s : State) (r : WarRec) (raw : List Byte) : Presented :=
  match s.check1 r raw 0 with
  | some e => .refused e
  | none =>
    match s.redeem.find? (fun e => e.serial == r.serial) with
    | some e => if e.pending then .waits else .refused (if e.moved then (0x06, 5) else (0x07, 0))
    | none =>
      match s.check9 r [] (some s.lau.war) with
      | .inl e => .refused e
      | .inr im =>
        match s.check12 r (some s.lau.war) im with
        | .inl e => .refused e
        | .inr p =>
          if r.mode = 1 ∧ r.binding = s.idHash ∧ (s.homeTab.find? (fun h => h.serial == r.serial)).any (·.claimant != s.idHash) then
            .refused (0x06, 4)
          else .reserved p

end Sys2Proof.Claim

/-- R339, R80: VMAP checks its range, then waits while its pages are mapped, whose bytes are zero and whose tags are clear; the completion writes a
capability over the range. -/
def Sys2Proof.Claim.VmapMapsZeroedPages : Prop :=
  ∀ s d a b, s.cx.helper = false →
    let n := (s.int b).toNat % 2 ^ 48
    (¬ vmapShaped (s.int a) (s.int b) → Next (exec (.vmap d a b) s) fun t => traps s t 0x06 s.cx.pc) ∧
    (vmapShaped (s.int a) (s.int b) → mappedIn s (s.int a).toNat n → Next (exec (.vmap d a b) s) fun t => ∃ i,
      s.space.mapped ((s.int a).toNat + i * 0x10000) = true ∧
      (∀ j, j < i → s.space.mapped ((s.int a).toNat + j * 0x10000) = false) ∧
      traps s t 0x28 (BitVec.ofNat 64 ((s.int a).toNat + i * 0x10000))) ∧
    (vmapShaped (s.int a) (s.int b) → ¬ mappedIn s (s.int a).toNat n →
    if s.war.memFree < n / 0x10000 then Next (exec (.vmap d a b) s) fun t => traps s t 0x27 (BitVec.ofNat 64 n)
    else if (s.space.unmapped (s.int a).toNat ((s.int a).toNat + n)).isEmpty = false then exec (.vmap d a b) s = .next s
    else Next (exec (.vmap d a b) s) fun t => waits s t 1 4 ∧ t.co.store = s.co.store ∧
      t.cores.map (·.store) = s.cores.map (·.store) ∧
      (s.spaces.any (·.id == s.war.space) = true →
        (∀ x, (s.int a).toNat ≤ x → x < (s.int a).toNat + n → (t.spaceById s.war.space).mapped x = true ∧
          Memory.read (t.spaceById s.war.space).mem x = 0 ∧ (t.spaceById s.war.space).tagAt x = false) ∧
        ∀ x, x < (s.int a).toNat ∨ (s.int a).toNat + n ≤ x →
          Memory.read (t.spaceById s.war.space).mem x = Memory.read s.space.mem x) ∧
      (s.wars.any (·.id == s.lau.war) = true → (t.warById s.lau.war).memFree = s.war.memFree - n / 0x10000) ∧
      (s.cx.hid = 0 → entered s → Next (exec (.vmapCompletion s.co.id) t) fun u => u.cx.pc = s.cx.pc + 4 ∧ u.cx.status = .resident ∧
        ∃ c : W128, regWritten t u d c true ∧ capTypeOf c = 0 ∧ capPermOf c = 0b11111 ∧ capCursorOf c = s.int a ∧
          capBaseOf c = (s.int a).toNat ∧ capTopOf c = (s.int a).toNat + n))

/-- R340, R80: VUNMAP of a range whose pages it covers takes the entries away at once and waits one lease; then every byte of the range
reads as zero, no byte elsewhere has changed and the memory is the grants' again. -/
def Sys2Proof.Claim.VunmapReturnsPages : Prop :=
  (∀ s a l, s.cx.helper = false → s.gtag a = true → capTypeOf (s.g a) = 0 → (capPermOf (s.g a)).getLsbD 1 = true →
    let lo := capBaseOf (s.g a)
    let hi := capTopOf (s.g a)
    lo % 0x10000 = 0 → s.space.walk ((hi - lo) / 0x10000 + 1) lo hi = .inr l →
    Next (exec (.vunmap a) s) fun t => waits s t 1 4 ∧ t.cx.wait = some (.vunmap lo hi s.tick (s.tick + s.cfg.lease)) ∧
      t.co.store = s.co.store ∧ t.cores = s.cores ∧ (s.spaces.any (·.id == s.war.space) = true →
        (t.spaceById s.war.space).mem = s.space.mem ∧ (t.spaceById s.war.space).old = s.space.old ++ l ∧
        ∀ p ∈ (t.spaceById s.war.space).pages, p ∉ l)) ∧
  (∀ s a, s.cx.helper = false →
    if s.gtag a = false then Next (exec (.vunmap a) s) fun t => traps s t 0x11 (s.int a)
    else if capTypeOf (s.g a) ≠ 0 then Next (exec (.vunmap a) s) fun t => traps s t 0x12 (s.int a)
    else if (capPermOf (s.g a)).getLsbD 1 = false then Next (exec (.vunmap a) s) fun t => traps s t 0x13 (s.int a)
    else capBaseOf (s.g a) % 0x10000 ≠ 0 →
      Next (exec (.vunmap a) s) fun t => traps s t 0x15 (BitVec.ofNat 64 (capBaseOf (s.g a)))) ∧
  ∀ s lo hi at_ till, s.cx.hid = 0 → entered s → s.cx.status = .waiting → s.cx.wait = some (.vunmap lo hi at_ till) → till ≤ s.tick →
    s.spaces.any (·.id == s.war.space) = true →
    Next (exec (.vunmapCompletion s.co.id) s) fun t => t.cx.status = .resident ∧ t.cx.pc = s.cx.npc ∧ regsKept s t ∧
      t.co.store = s.co.store ∧
      (∀ x, Memory.read (t.spaceById s.war.space).mem x = if lo ≤ x ∧ x < hi then 0 else Memory.read s.space.mem x) ∧
      (∀ p ∈ (t.spaceById s.war.space).old, ¬ (p.base < hi ∧ lo < p.base + p.size)) ∧
      ∀ r ∈ t.cx.view, r.addr < lo ∨ hi ≤ r.addr

/-- VMAP maps pages of zeros and VUNMAP returns them: the statements named here, together.
What the manual leaves open here is the model's choice: assumptions 36, 37, 97 and 123. -/
def Obligations.MapsComeAndGo : Prop :=
  Sys2Proof.Claim.VmapMapsZeroedPages ∧ Sys2Proof.Claim.VunmapReturnsPages

/-- R332, R345, R164: LAUNCH whose handle and block pass their checks releases and waits with the launch in the module; the acceptance of one
that is not pinned, on leaves that no switch quiesces (R422), completes it with its LSEQ. A block that a check refuses traps. -/
def Sys2Proof.Claim.LaunchEntersTheModule : Prop :=
  ∀ s d a b wid, s.cx.helper = false → handle s a wid true →
    let blk := LBlock.ofBytes ((List.range 1024).map (fun i =>
      Memory.read s.co.store (localByte s ((s.int b &&& ~~~63) + BitVec.ofNat 64 i) 1 0)))
    match s.blockErr wid blk (BitVec.ofNat 64 (s.space.iword s.cx.pc.toNat)) (s.int a) with
    | some (c, v) => Next (exec (.launch d a b) s) fun t => traps s t c v
    | none => Next (exec (.launch d a b) s) fun t => t.cx.status = .waiting ∧ t.cx.waitk = 1 ∧
        t.cx.wait = some (.launch d s.nextId) ∧ t.cx.npc = s.cx.pc + 4 ∧ regsKept s t ∧ released s t ∧ t.co.store = s.co.store ∧
        ∃ l rest, t.launches = s.launches ++ l :: rest ∧ l.id = s.nextId ∧ l.war = wid ∧ l.lseq = (s.warById wid).lseqNext ∧
          l.ox = blk.x0 ∧ l.oy = blk.y0 ∧ l.width = blk.width ∧ l.height = blk.height ∧ l.entry = blk.entry ∧
          l.state = .waiting ∧ (blk.ctrl.testBit 2 = false → rest = []) ∧ l.det = blk.ctrl.testBit 0 ∧
          l.pinned = blk.ctrl.testBit 1 ∧ l.checked = blk.ctrl.testBit 2 ∧
        (blk.ctrl.testBit 1 = false → s.cx.hid = 0 → entered s → (∀ n, s.quiesced n = false) → (∀ x ∈ s.launches, x.id ≠ s.nextId) →
          Next (exec (.launchAcceptance s.nextId) t) fun u =>
            regWritten t u d (intBits (BitVec.ofNat 64 (s.warById wid).lseqNext)) false ∧ u.cx.pc = s.cx.pc + 4 ∧
            u.cx.status = .resident ∧ u.cx.wait = none ∧ (u.launchById s.nextId).state = .accepted)

/-- R28, R332, R395, R164, R422: the leaf controllers accept a launch, the starts of a pinned one being claimed first: the LAUNCH that waits for
it returns its LSEQ, a LAUNCH message is answered LAUNCHED. A pinned launch whose claim does not fit is refused: its LAUNCH traps RAMP, its
message is answered RAMP_VIOLATION, and no trace of it stays. One that may not reach the governor yet stays, and so does one on a leaf that a
switch quiesces. -/
def Sys2Proof.Claim.AcceptedLaunchesReturnTheirNumber : Prop :=
  ∀ (s : State) (lid : Nat), let l := s.launchById lid
    let need := ((s.pairCores lid).map (fun c => s.startCost c)).sum
    l.id = lid → l.state = .waiting → l.mirrorOf = none →
    if s.leafQuiet (s.pairCores lid) then exec (.launchAcceptance lid) s = .next s
    else (∀ d, l.conn = none → entered s → s.cx.status = .waiting → s.cx.hid = 0 → s.cx.wait = some (.launch d lid) →
      if l.pinned = false then Next (exec (.launchAcceptance lid) s) fun t =>
        regWritten s t d (intBits (BitVec.ofNat 64 l.lseq)) false ∧ t.cx.pc = s.cx.npc ∧
        t.cx.status = .resident ∧ (t.launchById lid).state = .accepted ∧ t.co = s.co ∧ t.spaces = s.spaces ∧ t.cores = s.cores
      else if s.atGovernor l = false then exec (.launchAcceptance lid) s = .next s
      else if need ≤ s.gov.upLeft then Next (exec (.launchAcceptance lid) s) fun t =>
        regWritten s t d (intBits (BitVec.ofNat 64 l.lseq)) false ∧ t.cx.pc = s.cx.npc ∧ t.cx.status = .resident ∧
        (t.launchById lid).state = .accepted ∧ (t.launchById lid).granted = l.cores ∧ t.gov.upLeft = s.gov.upLeft - need ∧
        t.co.store = s.co.store ∧ t.spaces = s.spaces ∧ t.wars = s.wars
      else Next (exec (.launchAcceptance lid) s) fun t =>
        ∃ u : State, (∀ x ∈ u.launches, x.id ≠ lid ∧ x.mirrorOf ≠ some lid) ∧
          ({ u with cx := s.cx, launches := s.launches, wars := s.wars } : State) = s ∧
          ({ u.cx with status := s.cx.status, wait := s.cx.wait, waitk := s.cx.waitk } : Ctx) = s.cx ∧ u.cx.status = .resident ∧
          u.cx.wait = none ∧ u.cx.waitk = 0 ∧ traps u t 0x21 s.cx.pc) ∧
    (∀ c tag, l.conn = some (c, tag) →
      if l.pinned = false then Next (exec (.launchAcceptance lid) s) fun t => (t.launchById lid).state = .accepted ∧
        t.out = s.out ++ [{ dest := c, opc := 0x83, tag := tag, body := [0, 0, 0, 0] ++ leBytes 4 l.lseq }] ∧
        ({ t with launches := s.launches, out := s.out } : State) = s
      else if s.atGovernor l = false then exec (.launchAcceptance lid) s = .next s
      else if need ≤ s.gov.upLeft then Next (exec (.launchAcceptance lid) s) fun t => (t.launchById lid).state = .accepted ∧
        (t.launchById lid).granted = l.cores ∧ t.gov.upLeft = s.gov.upLeft - need ∧ t.wars = s.wars ∧ t.spaces = s.spaces ∧
        t.out = s.out ++ [{ dest := c, opc := 0x83, tag := tag, body := [0, 0, 0, 0] ++ leBytes 4 l.lseq }]
      else Next (exec (.launchAcceptance lid) s) fun t => (∀ x ∈ t.launches, x.id ≠ lid) ∧ t.co = s.co ∧ t.cx = s.cx ∧
        t.cores = s.cores ∧ t.gov = s.gov ∧
        t.out = s.out ++ [{ dest := c, opc := 0x83, tag := tag, body := [0x44, 0, 0, 0, 0, 0, 0, 0] }])

/-- R28, R31, R32, R41, R124, R233, R244: a start that the governor has granted makes the control context, writes the identity block and the
broadcast words, zeroes the rest of the window and places the .data images, empties its full/empty bits, and clears the tiles, the weight
buffer and the channels. Of a launch that is being evicted, or on a leaf that a switch quiesces, none is made (R59, R422). -/
def Sys2Proof.Claim.CoreStartMakesTheControlContext : Prop :=
  ∀ s lid, let l := s.launchById lid
    l.id = lid → l.state = .accepted → s.gov.resetTill = none → s.co.id ∈ l.granted → s.co.id ∉ l.started →
    s.co.id < 2048 → s.co.launch = none → s.co.vop = none → s.co.mop = none → s.co.pumpq = [] → s.co.mmr = [] →
    (∀ m ∈ s.co.heldMsgs, m.launch ≠ lid) → l.wsize.toNat ≤ 8 → (l.cls ≠ 2 ∨ ∀ c ∈ l.cores, s.heldCore c = false) →
    if l.halted ∨ s.leafQuiet l.cores then exec (.coreStart lid s.co.id) s = .next s
    else Next (exec (.coreStart lid s.co.id) s) fun t =>
      let g := groupOf (s.spaceById (s.warById l.war).space) l.entry
      let size := 4096 * 2 ^ l.wsize.toNat
      startedCtx l s.co.id s.tick t.cx ∧ t.co.id = s.co.id ∧
      t.co.launch = some lid ∧ t.co.ctxs = [] ∧ t.co.role = l.startRole s.co.id ∧ t.co.owner = (s.warById l.war).space ∧
      t.co.lfsr.toNat = (l.coreIndex (s.warById l.war) s.co.id + 1) * 0x9E3779B1 % 2 ^ 32 ∧
      t.co.descs = (match g with
        | none => []
        | some g => g.descs.foldl (fun t p => Tab.set Desc.zero t p.1 (p.2.inWindow l.wbase l.wsize)) []) ∧
      t.co.fflags = 0 ∧ t.co.actthr = 2048 ∧ t.co.recast = 4096 ∧ t.co.counters = [] ∧ t.co.ring = [] ∧
      (∀ ch, t.co.chans.get ch = []) ∧ (∀ a, Memory.read t.co.wbuf a = 0) ∧ (∀ a, Tab.get 0 t.co.acc a = 0) ∧
      (∀ x, x < l.wbase.toNat ∨ l.wbase.toNat + size ≤ x → bare l g x 1 →
        Memory.read t.co.store x = if s.co.owner = (s.warById l.war).space then Memory.read s.co.store x else 0) ∧
      (s.co.owner = (s.warById l.war).space → ∀ x, x < l.wbase.toNat ∨ l.wbase.toNat + size ≤ x →
        t.co.full.contains x = s.co.full.contains x) ∧
      (s.co.owner ≠ (s.warById l.war).space → t.co.tlb = [] ∧ t.co.poison = [] ∧ t.co.full = []) ∧
      (∀ x, l.wbase.toNat ≤ x → x < l.wbase.toNat + size → t.co.full.contains x = false) ∧
      (∀ j, j < 16 → bare l g (l.wbase.toNat + 4 * j) 4 →
        bytesVal (Memory.readN t.co.store (l.wbase.toNat + 4 * j) 4) = idWord l s.co.id (s.tick / 100 * 100) j) ∧
      (∀ j, 16 ≤ j → j < 256 → bare l g (l.wbase.toNat + 4 * j) 4 →
        bytesVal (Memory.readN t.co.store (l.wbase.toNat + 4 * j) 4) = (kWord l g j).toNat) ∧
      (∀ x, l.wbase.toNat + 1024 ≤ x → x < l.wbase.toNat + size → bare l g x 1 → Memory.read t.co.store x = 0) ∧
      (∀ h before p after, g = some h → h.images = before ++ p :: after → ∀ i, i < p.2.length →
        (∀ q ∈ after, imageAt l p + i < imageAt l q ∨ imageAt l q + q.2.length ≤ imageAt l p + i) →
        Memory.read t.co.store (imageAt l p + i) = p.2.getD i 0) ∧
      s.co.id ∈ (t.launchById lid).started

/-- Launches enter, are accepted and start their cores: the statements named here, together.
What the manual leaves open here is the model's choice: assumptions 11, 27, 55, 56, 57, 58, 62 and 118. -/
def Obligations.LaunchesStartCores : Prop :=
  Sys2Proof.Claim.LaunchEntersTheModule ∧
    Sys2Proof.Claim.AcceptedLaunchesReturnTheirNumber ∧
    Sys2Proof.Claim.CoreStartMakesTheControlContext

/-- R345, R343: an instruction on a handle traps in the order tag, seal, warrant. -/
def Sys2Proof.Claim.BadHandlesTrap : Prop :=
  ∀ s i a live, handleRow i = some (a, live) → (controlOnly i = true → s.cx.helper = false) →
    (s.gtag a = false → Next (exec i s) fun t => traps s t 0x11 (s.int a)) ∧
    (s.gtag a = true → capTypeOf (s.g a) ≠ 10 → Next (exec i s) fun t => traps s t 0x12 (s.int a)) ∧
    (s.gtag a = true → capTypeOf (s.g a) = 10 →
      (∀ w, handleNames s a = some w → live = true ∧ (w.code ≠ none ∨ w.consumed = true)) →
      Next (exec i s) fun t => traps s t 0x29 (s.int a))

/-- R343 to R349: the warrant instructions wait for the wellhead, whose completion writes the code or the handle; WDELEG answers at
once. -/
def Sys2Proof.Claim.WarrantInstructionsAnswer : Prop :=
  (∀ s d a b, s.cx.helper = false → s.int b = 0 → grants s a 0 1 1 → addr s a 0 + 384 ≤ capTopOf (s.g a) →
    s.reachOf [((s.int a).toNat, 384)] = .home → (∀ n ∈ s.space.poison, n < (s.int a).toNat % 2 ^ 48 / 64 ∨
      ((s.int a).toNat % 2 ^ 48 + 383) / 64 < n) →
    let raw := s.viewLoad ((s.int a).toNat % 2 ^ 48) 384
    let r := WarRec.ofBytes raw
    let s1 := s.noteRead ((s.int a).toNat % 2 ^ 48) raw none
    match presented s1 r raw with
    | .refused e => Next (exec (.wpres d a b) s) fun t => awaits s t d (e.1.setWidth 128) false ∧ t.wars = s.wars ∧
        t.redeem = s.redeem ∧ t.co.store = s.co.store
    | .waits => Next (exec (.wpres d a b) s) fun t => t.cx.status = .waiting ∧ t.cx.waitk = 1 ∧ t.cx.wait = some (.second d raw) ∧
        regsKept s t ∧ t.wars = s.wars ∧ t.co.store = s.co.store
    | .reserved p => Next (exec (.wpres d a b) s) fun t => regsKept s t ∧ t.co.store = s.co.store ∧ t.cx.npc = s.cx.pc + 4 ∧
        (∃ w ∈ t.wars, w.id = s.nextId ∧ w.rec_ = r ∧ w.x0 = p.1 ∧ w.y0 = p.2.1 ∧ w.vi = p.2.2 ∧ w.nested = true ∧
          w.parentW = some s.lau.war ∧ w.holder = some s.lau.war ∧ w.space = s.war.space ∧ w.code = none ∧ w.hix = s.nextId) ∧
        (∃ e ∈ t.redeem, e.serial = r.serial) ∧ t.memUsed = s.memUsed + r.memGib * 16384 ∧
        if r.mode = 1 ∧ r.binding ≠ s.idHash then t.cx.status = .waiting ∧ t.cx.waitk = 1 ∧ t.cx.wait = some (.claim d r.serial)
        else ∃ v : W128, awaits s t d v true ∧ capTypeOf v = 10 ∧ (capCursorOf v).toNat = s.nextId % 2 ^ 56 * 256) ∧
  (∀ s d a b, s.cx.helper = false → s.int b ≠ 0 → Next (exec (.wpres d a b) s) fun t => traps s t 0x05 (s.int b)) ∧
  (∀ s d a b x, s.cx.helper = false → s.int b = 0 → grants s a 0 1 1 → addr s a 0 + 384 ≤ capTopOf (s.g a) →
    s.reachOf [((s.int a).toNat, 384)] = .unmapped x → Next (exec (.wpres d a b) s) fun t => traps s t 0x15 (BitVec.ofNat 64 x)) ∧
  (∀ s d a b wid, s.cx.helper = false → handle s a wid false →
    let o := s.int b &&& ~~~63
    let q : List Byte := (List.range 64).map (fun i => Memory.read s.co.store (localByte s (o + BitVec.ofNat 64 i) 1 0))
    let f (at_ n : Nat) : Nat := bytesVal ((q.drop at_).take n)
    let code := s.splitCode (s.warById wid) (f 0 2) (f 2 2) (f 4 2) (f 6 2) (f 8 4) (f 12 4) (f 16 4)
    if code ≠ 0 then Next (exec (.wsplit d a b) s) fun t => awaits s t d (code.setWidth 128) false ∧ t.wars = s.wars ∧
      t.co.store = s.co.store
    else Next (exec (.wsplit d a b) s) fun t => ∃ v : W128, ∃ w ∈ t.wars, awaits s t d v true ∧ capTypeOf v = 10 ∧
      (capCursorOf v).toNat = s.nextId % 2 ^ 56 * 256 ∧ w.id = s.nextId ∧ w.hix = s.nextId ∧ w.child = true ∧
      w.parentW = some wid ∧ w.holder = some s.lau.war ∧ w.code = none ∧ w.space = (s.warById wid).space ∧
      w.x0 = (s.warById wid).x0 + f 0 2 ∧ w.y0 = (s.warById wid).y0 + f 2 2 ∧ w.rec_.width = f 4 2 ∧ w.rec_.height = f 6 2 ∧
      w.rec_.memGib = f 8 4 ∧ w.rec_.wellGib = f 12 4 ∧ w.rec_.share = f 16 4 ∧ w.rec_.cls = (s.warById wid).rec_.cls ∧
      w.rec_.parent = (s.warById wid).rec_.serial ∧ w.rec_.issuer = s.idHash ∧ w.rec_.binding = s.idHash ∧ w.rec_.mode = 0 ∧
      ((s.warById wid).id = wid → wid ≠ s.nextId →
        (t.warById wid).memFree = (s.warById wid).memFree - f 8 4 * 16384) ∧
      (∀ i, i < 384 → Memory.read t.co.store (localByte s (o + BitVec.ofNat 64 (64 + i)) 1 0) = w.rec_.signed.getD i 0)) ∧
  (∀ s d a b wid, s.cx.helper = false → handle s a wid true →
    let w := s.warById wid
    if w.child = false ∨ w.launched = true ∨ w.lseqNext ≠ 0 ∨ w.rec_.deleg.getLsbD 1 = false then
      Next (exec (.wdeleg d a b) s) fun t => writesReg s t 4 d 0x0B false 0
    else Next (exec (.wdeleg d a b) s) fun t => regWritten s t d 0 false ∧ t.cx.pc = s.cx.pc + 4 ∧
      (t.warById wid).consumed = true ∧ t.memUsed = s.memUsed - w.memHeld) ∧
  (∀ s d a wid, s.cx.helper = false → handle s a wid false → wid ≠ s.lau.war → (s.warById wid).id = wid →
    (s.warById wid).code ≠ none → Next (exec (.wsurr d a) s) fun t =>
      ∃ c, (s.warById wid).code = some c ∧ awaits s t d (c.setWidth 128) false) ∧
  (∀ s d a b wid, handle s a wid false → Next (exec (.wqry d a b) s) fun t =>
    awaits s t d (((s.warById wid).code.getD 0).setWidth 128) false ∧
    (∀ i, i < 64 → Memory.read t.co.store (localByte s (s.int b) 64 i) = (s.report (s.warById wid)).getD i 0) ∧
    (∀ x, (x < localByte s (s.int b) 64 0 ∨ localByte s (s.int b) 64 64 ≤ x) →
      Memory.read t.co.store x = Memory.read s.co.store x) ∧ elsewhereKept s t) ∧
  ∀ s d v tag, entered s → s.cx.status = .waiting → s.cx.wait = some (.warrant d v tag) →
    Next (exec (.warrantInstructionCompletion s.co.id) s) fun t => regWritten s t d v tag ∧ t.cx.pc = s.cx.npc ∧
      t.cx.status = .resident ∧ t.cx.wait = none ∧ t.co = s.co ∧ elsewhereKept s t

/-- R350, R348, R396: a running warrant that surrenders itself ends with code 0x41 and its report is sent to the admitting connection. -/
def Sys2Proof.Claim.SurrenderEndsTheWarrant : Prop :=
  ∀ s d a wid, s.cx.helper = false → handle s a wid false → wid = s.lau.war → (s.warById wid).id = wid →
    (s.warById wid).code = none → (s.warById wid).child = false → (s.warById wid).nested = false → s.co.launch = some s.lau.id →
    s.lau ∈ s.launches →
    Next (exec (.wsurr d a) s) fun t => (t.warById wid).code = some 0x41 ∧ t.cx.status = .free ∧ t.co.launch = none ∧
      (∀ l ∈ t.launches, l.war = wid → l.state = .done) ∧
      ∃ o, t.out = s.out ++ [o] ∧ o.dest = (s.warById wid).conn ∧ o.opc = 0x85 ∧ o.body.take 5 =
        leBytes 4 (s.warById wid).job ++ [0x41]

/-- Warrant instructions check their handle and answer: the statements named here, together.
What the manual leaves open here is the model's choice: assumptions 61, 64, 78, 79, 80, 81, 116 and 125. -/
def Obligations.WarrantInstructionsAnswer : Prop :=
  Sys2Proof.Claim.BadHandlesTrap ∧
    Sys2Proof.Claim.WarrantInstructionsAnswer ∧
    Sys2Proof.Claim.SurrenderEndsTheWarrant

namespace Sys2Proof.Claim

/-! ## The vector unit (R264 to R285) -/

/-- Bit `p` of a memory: bit p mod 8 of byte p / 8 (R112). -/
def memBit (m : Memory) (p : Nat) : Bool := (Memory.read m (p / 8)).getLsbD (p % 8)
/-- The bit address of element `e` of a destination: no permutation table applies (R112, R135, R285). -/
def elemBit (d : Desc) (e : Nat) : Nat :=
  let (i0, i1, i2, i3) := d.idx e
  d.bitAddr d.front.toNat i0 i1 i2 i3
/-- `m'` is `m` with the elements of a list of (element, code) written in its order, and with no other bit changed. In a SPARSE destination
the elements go where the model's `Desc.putElem` puts them, one after another (log 113: the model's choice). -/
def wrote (d : Desc) (ws : List (Nat × Nat)) (m m' : Memory) : Prop :=
  if d.sparse then ∀ p, memBit m' p = memBit (ws.foldl (fun m w => d.putElem d.front.toNat w.1 w.2 m) m) p
  else ∀ p, memBit m' p = match ws.reverse.find? (fun w => decide (elemBit d w.1 ≤ p) && decide (p < elemBit d w.1 + d.w)) with
    | some w => w.2.testBit (p - elemBit d w.1)
    | none => memBit m p

/-- An elementwise instruction: the fields, the format of DD, the sources with their formats, the condition on extents, the element
width that fixes L, cycles per group, the value and flags of element `e` from the store before its group, VCMP's predicate, and whether it draws from st.lfsr. -/
structure VRow where
  f : W2
  dst : Fmt
  srcs : List (BitVec 6 × Fmt)
  ok : Bool
  bits : Nat
  mul : Nat
  val : Memory → Nat → Nat × FlagSet
  pred : Option (Reg × Fin 32)
  draws : Bool

/-- The format that FMT names. -/
def vfmt (f : W2) : Fmt := fmtAt f.fmt.toNat
/-- An exact integer result under OVF (R273): wrapped or, with .sat, clamped. -/
def vfit (f : W2) (i : Int) : Nat × FlagSet :=
  fitInt (fmtSigned (vfmt f)) (fmtBits (vfmt f)) (ovfOf f.ovf.toNat != .sat) i
/-- The value of an exact integer or floating-point result (R273). -/
def vres (f : W2) (i : Int) (x : Machine.Num) : Nat × FlagSet :=
  if fmtInt (vfmt f) then vfit f i
  else roundElem (vfmt f) (rndOf f.rnd.toNat) (ovfOf f.ovf.toNat) true x
/-- A code of the format FMT as an integer. -/
def vint (f : W2) (c : Nat) : Int := intOfBits (fmtSigned (vfmt f)) (fmtBits (vfmt f)) c
/-- A code of the format FMT as a number. -/
def vnum (f : W2) (c : Nat) : Machine.Num := elemValue (vfmt f) c

/-- An instruction of two sources of format FMT, of which .gs (MINOR bit 0) replaces the second by g<ga> (R272). -/
def two (s : State) (f : W2) (mul : Nat) (op : Nat → Nat → Nat × FlagSet) : Option VRow :=
  let gs := f.minor.toNat % 2 == 1
  some ⟨f, vfmt f, if gs then [(f.da, vfmt f)] else [(f.da, vfmt f), (f.db, vfmt f)],
    (s.desc f.dd).exts == (s.desc f.da).exts && (gs || (s.desc f.dd).exts == (s.desc f.db).exts), Max.max 8 (fmtBits (vfmt f)), mul,
    fun m e => op ((s.desc f.da).at m e) (if gs then (s.g f.ga).toNat % 2 ^ fmtBits (vfmt f) else (s.desc f.db).at m e), none, false⟩
/-- An instruction of one source of format FMT. -/
def one (s : State) (f : W2) (mul : Nat) (op : Nat → Nat × FlagSet) : Option VRow :=
  some ⟨f, vfmt f, [(f.da, vfmt f)], (s.desc f.dd).exts == (s.desc f.da).exts, Max.max 8 (fmtBits (vfmt f)), mul,
    fun m e => op ((s.desc f.da).at m e), none, false⟩
/-- The bits of a logical result. -/
def logic (f : W2) (n : Nat) : Nat × FlagSet := (n % 2 ^ fmtBits (vfmt f), 0)
/-- A special function of a floating-point format. -/
def special (s : State) (f : W2) (op : FpFmt → Machine.Num → Nat × FlagSet) : Option VRow :=
  match fpOf (vfmt f) with
  | some p => one s f 2 (fun c => op p (p.decode c))
  | none => none
/-- The relation of VCMP on codes (R275). -/
def vholds (f : W2) (a b : Nat) : Bool :=
  let c := (condOf f.cnd.toNat).getD .eq
  if (fpOf (vfmt f)).isNone then
    match c with
    | .eq => a == b
    | .ne => a != b
    | .lt => decide (vint f a < vint f b)
    | .le => decide (vint f a ≤ vint f b)
    | .ltn => decide (a < b)
    | .len => decide (a ≤ b)
  else Machine.Num.holds c (vnum f a) (vnum f b)

/-- The elementwise instructions (R274 to R277, R279 to R282, R285). -/
def vecRow (s : State) : Instr → Option VRow
  | .vadd f => two s f 1 (fun a b => vres f (vint f a + vint f b) ((vnum f a).add (vnum f b)))
  | .vsub f => two s f 1 (fun a b => vres f (vint f a - vint f b) ((vnum f a).add (vnum f b).neg))
  | .vmul f => two s f 1 (fun a b => vres f (vint f a * vint f b) ((vnum f a).mul (vnum f b)))
  | .vmin f => two s f 1 (fun a b => match fpOf (vfmt f) with
    | some p => minMaxCode p false a b
    | none => (if vint f a ≤ vint f b then a else b, 0))
  | .vmax f => two s f 1 (fun a b => match fpOf (vfmt f) with
    | some p => minMaxCode p true a b
    | none => (if vint f a ≤ vint f b then b else a, 0))
  | .vand f => two s f 1 (fun a b => logic f (a &&& b))
  | .vor f => two s f 1 (fun a b => logic f (a ||| b))
  | .vxor f => two s f 1 (fun a b => logic f (a ^^^ b))
  | .vshl f => two s f 1 (fun a b => logic f (a * 2 ^ (b % fmtBits (vfmt f))))
  | .vshr f => two s f 1 (fun a b => logic f (a / 2 ^ (b % fmtBits (vfmt f))))
  | .vsar f => two s f 1 (fun a b =>
      logic f (bitsOfInt (fmtBits (vfmt f)) (Int.fdiv (intOfBits true (fmtBits (vfmt f)) a) (2 ^ (b % fmtBits (vfmt f))))))
  | .vabs f => one s f 1 (fun a => match fpOf (vfmt f) with
    | some p => signCode p false a
    | none => vfit f |vint f a|)
  | .vneg f => one s f 1 (fun a => match fpOf (vfmt f) with
    | some p => signCode p true a
    | none => vfit f (-(vint f a)))
  | .vrcp f => special s f rcpNum
  | .vrsq f => special s f rsqNum
  | .vexp2 f => special s f exp2Num
  | .vlog2 f => special s f log2Num
  | .vfma f =>
    let gs := f.minor.toNat % 2 == 1
    let a m e := if gs then (s.g f.ga).toNat % 2 ^ fmtBits (vfmt f) else (s.desc f.da).at m e
    some ⟨f, vfmt f, (if gs then [] else [(f.da, vfmt f)]) ++ [(f.db, vfmt f), (f.dc, vfmt f)],
      (gs || (s.desc f.dd).exts == (s.desc f.da).exts) && (s.desc f.dd).exts == (s.desc f.db).exts &&
        (s.desc f.dd).exts == (s.desc f.dc).exts, Max.max 8 (fmtBits (vfmt f)), 1,
      fun m e => vres f (vint f (a m e) * vint f ((s.desc f.db).at m e) + vint f ((s.desc f.dc).at m e))
        (((vnum f (a m e)).mul (vnum f ((s.desc f.db).at m e))).add (vnum f ((s.desc f.dc).at m e))), none, false⟩
  | .vnr f => match fpOf (vfmt f) with
    | none => none
    | some p => some ⟨f, vfmt f, [(f.da, vfmt f), (f.db, vfmt f)],
        (s.desc f.dd).exts == (s.desc f.da).exts && (s.desc f.dd).exts == (s.desc f.db).exts, Max.max 8 (fmtBits (vfmt f)), 2,
        fun m e => nrNum p (rndOf f.rnd.toNat) (f.minor.toNat % 2 == 1) (p.decode ((s.desc f.da).at m e))
          (p.decode ((s.desc f.db).at m e)) ((s.desc f.db).at m e), none, false⟩
  | .vcmp f =>
    if s.gtag f.gd then none
    else match two s f 1 (fun a b => (if vholds f a b then 1 else 0,
        if ((fpOf (vfmt f)).isSome && ((vnum f a).isNan || (vnum f b).isNan)) = true then 0b10000 else 0)) with
      | some r => some { r with
          dst := .n8, pred := some (f.gd, Fin.ofNat 32 (f.minor.toNat / 2)) }
      | none => none
  | .vsel f => some ⟨f, vfmt f, [(f.da, vfmt f), (f.db, vfmt f), (f.dc, .n8)],
      (s.desc f.dd).exts == (s.desc f.da).exts && (s.desc f.dd).exts == (s.desc f.db).exts &&
        (s.desc f.dd).exts == (s.desc f.dc).exts, Max.max 8 (fmtBits (vfmt f)), 1,
      fun m e => (if (s.desc f.dc).at m e ≠ 0 then (s.desc f.da).at m e else (s.desc f.db).at m e, 0), none, false⟩
  | .vcvt f => some ⟨f, vfmt f, [(f.da, fmtAt (f.minor.toNat % 16))], (s.desc f.dd).exts == (s.desc f.da).exts,
      Max.max (Max.max 8 (fmtBits (vfmt f))) (Max.max 8 (fmtBits (fmtAt (f.minor.toNat % 16)))), 1,
      fun m e => convElem (vfmt f) f (elemValue (fmtAt (f.minor.toNat % 16)) ((s.desc f.da).at m e))
        (lfsrAfter s.co.lfsr (e + 1)), none, rndOf f.rnd.toNat == .sr⟩
  | .vdqnt f => some ⟨f, vfmt f, [(f.da, fmtAt (f.minor.toNat % 16))],
      (s.desc f.dd).exts == (s.desc f.da).exts && (s.desc f.dd).ext 0 % 32 == 0 && (s.desc f.da).sspace == .loc &&
        !rowsOverlap (s.desc f.dd).foot (s.desc f.da).scaleFoot,
      Max.max (Max.max 8 (fmtBits (vfmt f))) (Max.max 8 (fmtBits (fmtAt (f.minor.toNat % 16)))), 1,
      fun m e => roundElem (vfmt f) (rndOf f.rnd.toNat) .dflt true (withScale
        ((s.desc f.da).scaleAt m (Memory.read m) e) (elemValue (fmtAt (f.minor.toNat % 16)) ((s.desc f.da).at m e))), none, false⟩
  | .vbcast f => some ⟨f, vfmt f, [(f.da, vfmt f)],
      (List.range 4).all (fun k => (s.desc f.da).ext k == (s.desc f.dd).ext k || (s.desc f.da).ext k == 1),
      Max.max 8 (fmtBits (vfmt f)), 1, fun m e => ((s.desc f.da).at m (bcastSrc (s.desc f.dd) (s.desc f.da) e), 0), none, false⟩
  | .vfill f => some ⟨f, vfmt f, [], true, Max.max 8 (fmtBits (vfmt f)), 1,
      fun _ _ => ((s.g f.ga).toNat % 2 ^ fmtBits (vfmt f), 0), none, false⟩
  | .vcopy f => if fmtBlock (vfmt f) then none else one s f 1 (fun a => (a, 0))
  | _ => none

/-- The elements of group `k` (R267). -/
def vgroupOf (n L k : Nat) : List Nat := (List.range (Min.min L (n - k * L))).map (k * L + ·)

/-- A descriptor is ready for an instruction that reads or writes its front in local memory (R137, R266). -/
def usable (s : State) (d : BitVec 6) (t : Fmt) (write : Bool) : Prop :=
  (s.desc d).state = .ready ∧ (s.desc d).fmt = t ∧ (s.desc d).fspace = .loc ∧
    (if write then (s.desc d).wr else (s.desc d).rd) = true
/-- No line that an operand could read is poisoned (R446). -/
def unpoisoned (s : State) : Prop := s.co.poison = [] ∧ s.wellPoison = []
/-- The core's grant covers one more unit of weight `mw` (R161, R266). -/
def covered (s : State) (mw : Nat) : Prop := weightAt s.mult (s.co.busyMw + mw + 300) ≤ s.co.grant

/-- An engine instruction has issued: registers, context and everything outside the core are as before (R37). -/
def dispatched (s t : State) : Prop :=
  t.cx.pc = s.cx.pc + 8 ∧ issued s t ∧ contextKept s t ∧ regsKept s t ∧ elsewhereKept s t
/-- The vector unit holds an operation of this instruction that ends `cyc` cycles later (R267, R269). -/
def vheld (s t : State) (cyc : Nat) (fl : FlagSet) (pred : Option (Reg × Fin 32 × Bool)) : Prop :=
  dispatched s t ∧
  ({ t.co with
      counters := s.co.counters, weightSum := s.co.weightSum, store := s.co.store, vop := none, lfsr := s.co.lfsr } : Core) = s.co ∧
  ∃ v, t.co.vop = some v ∧ v.hid = s.cx.hid ∧ v.fpc = s.cx.pc ∧ v.region = s.cx.region ∧ v.cycles = s.co.cycle + cyc ∧
    v.flags = fl ∧ v.pred = pred ∧ v.bad = none

/-- The instructions that rearrange or accumulate (R283 to R285): fields, format of DD, sources, condition on extents and overlap,
elements per cycle, elements worked on, the elements written in order from the store before, and the flags. -/
structure MRow where
  f : W2
  dst : Fmt
  srcs : List (BitVec 6 × Fmt)
  ok : Bool
  L : Nat
  n : Nat
  ws : Memory → List (Nat × Nat)
  fl : Memory → FlagSet

/-- The bytes that a source of a rearranging instruction reads. -/
def reads (d : Desc) : List (Nat × Nat) := d.foot ++ d.permFoot
/-- The accumulation format of VSCAN and VRED (R283). -/
def accFmt (f : W2) : Fmt := fmtAt ((scanDest f.fmt.toNat (f.minor.toNat / 2 % 2 == 1)).getD 0)
/-- Line `k` of a scan of the store before it: outputs, last value and flags. -/
def scanOf (s : State) (f : W2) (m : Memory) (k : Nat) : List (Nat × FlagSet) × ScanVal × FlagSet :=
  scanLine (accFmt f) (vfmt f) f f.cnd.toNat (f.minor.toNat % 2 == 1)
    (if f.minor.toNat / 4 % 2 == 1 then scanIn (accFmt f) ((s.desc f.db).at m k) else scanId (accFmt f) f.cnd.toNat)
    ((lineElems (s.desc f.dd).exts f.x2.toNat k).map ((s.desc f.da).at m))
/-- Line `k` of a reduction. -/
def redOf (s : State) (f : W2) (m : Memory) (k : Nat) : Nat × FlagSet :=
  let r := scanLine (accFmt f) (vfmt f) f f.cnd.toNat false (scanId (accFmt f) f.cnd.toNat)
    ((lineElems (s.desc f.da).exts f.x2.toNat k).map ((s.desc f.da).at m))
  ((scanOut (accFmt f) f r.2.1).1, r.2.2 ||| (scanOut (accFmt f) f r.2.1).2)

/-- The rearranging instructions. -/
def moveForm (s : State) : Instr → Option MRow
  | .vscan f =>
    let c := f.minor.toNat / 4 % 2 == 1
    let db := s.desc f.db
    some ⟨f, accFmt f, (f.da, vfmt f) :: (if c then [(f.db, accFmt f)] else []),
      (s.desc f.dd).exts == (s.desc f.da).exts && (!c || db.exts == dropDim (s.desc f.dd).exts f.x2.toNat) &&
        !rowsOverlap (s.desc f.dd).foot (reads (s.desc f.da) ++ if c then reads db else []),
      2048 / Max.max (Max.max 8 (fmtBits (accFmt f))) (Max.max 8 (fmtBits (vfmt f))), (s.desc f.dd).count,
      fun m => (List.range (lineNum (s.desc f.dd).exts f.x2.toNat)).flatMap (fun k =>
        (lineElems (s.desc f.dd).exts f.x2.toNat k).zip ((scanOf s f m k).1.map (·.1))),
      fun m => (List.range (lineNum (s.desc f.dd).exts f.x2.toNat)).foldl (fun a k =>
        a ||| (scanOf s f m k).2.2 ||| ((scanOf s f m k).1.map (·.2)).foldl (· ||| ·) 0) 0⟩
  | .vred f => some ⟨f, accFmt f, [(f.da, vfmt f)],
      (s.desc f.dd).exts == dropDim (s.desc f.da).exts f.x2.toNat && !rowsOverlap (s.desc f.dd).foot (reads (s.desc f.da)),
      2048 / Max.max (Max.max 8 (fmtBits (accFmt f))) (Max.max 8 (fmtBits (vfmt f))), (s.desc f.dd).count,
      fun m => (List.range (lineNum (s.desc f.da).exts f.x2.toNat)).map (fun k => (k, (redOf s f m k).1)),
      fun m => (List.range (lineNum (s.desc f.da).exts f.x2.toNat)).foldl (fun a k => a ||| (redOf s f m k).2) 0⟩
  | .vtran f =>
    let p := f.minor.toNat % 4
    let q := f.minor.toNat / 4 % 4
    some ⟨f, vfmt f, [(f.da, vfmt f)],
      (s.desc f.dd).exts == swapAt (s.desc f.da).exts p q && !rowsOverlap (s.desc f.dd).foot (reads (s.desc f.da)),
      2048 / Max.max 8 (fmtBits (vfmt f)), (s.desc f.dd).count,
      fun m => (List.range (s.desc f.dd).count).map (fun e =>
        (e, (s.desc f.da).at m ((s.desc f.da).numL (swapAt ((s.desc f.dd).idxL e) p q)))), fun _ => 0⟩
  | .vgath f => some ⟨f, vfmt f, [(f.da, vfmt f), (f.db, fmtAt (f.minor.toNat % 16))],
      (s.desc f.dd).exts == (s.desc f.db).exts && !rowsOverlap (s.desc f.dd).foot (reads (s.desc f.da) ++ reads (s.desc f.db)),
      16, (s.desc f.dd).count,
      fun m => (List.range (s.desc f.dd).count).map (fun e =>
        (e, (s.desc f.da).at m ((s.desc f.db).at m e % (s.desc f.da).count))), fun _ => 0⟩
  | .vscat f => some ⟨f, vfmt f, [(f.da, vfmt f), (f.db, fmtAt (f.minor.toNat % 16))],
      (s.desc f.da).exts == (s.desc f.db).exts && !rowsOverlap (s.desc f.dd).foot (reads (s.desc f.da) ++ reads (s.desc f.db)),
      16, (s.desc f.da).count,
      fun m => (List.range (s.desc f.da).count).map (fun e =>
        ((s.desc f.db).at m e % (s.desc f.dd).count, (s.desc f.da).at m e)), fun _ => 0⟩
  | .vlut f => some ⟨f, vfmt f, [(f.da, fmtAt (f.minor.toNat % 16)), (f.db, vfmt f)],
      (s.desc f.dd).exts == (s.desc f.da).exts && !rowsOverlap (s.desc f.dd).foot (reads (s.desc f.da) ++ reads (s.desc f.db)),
      16, (s.desc f.dd).count,
      fun m => (List.range (s.desc f.dd).count).map (fun e =>
        (e, (s.desc f.db).at m ((s.desc f.da).at m e % (s.desc f.db).count))), fun _ => 0⟩
  | _ => none

/-- The block of VQNT over elements 32·b up: its 32 codes with flags, and its scale byte (R278). -/
def qblock (s : State) (f : W2) (b : Nat) : List (Nat × FlagSet) × Nat :=
  quantBlock (vfmt f) f (Memory.read s.co.store ((s.desc f.dd).scale.toNat + b)).toNat
    ((List.range 32).map (fun i => elemValue (fmtAt (f.minor.toNat % 16)) ((s.desc f.da).at s.co.store (32 * b + i))))
    (fun i => lfsrAfter s.co.lfsr (32 * b + i + 1))

end Sys2Proof.Claim

/-- R264 to R268, R272 to R277, R279 to R282, R285: an elementwise instruction writes the elements of DD group by group, each group from the
store that the groups before it have left, keeps the vector unit for its cycles and changes nothing else.
What the manual leaves open here is the model's choice: assumptions 13, 14, 20, 21, 109, 113, 121 and 127. -/
def Obligations.VectorElementsAreComputed : Prop :=
  ∀ s i r, vecRow s i = some r → usable s r.f.dd r.dst true → (∀ d ∈ r.srcs, usable s d.1 d.2 false) → r.ok = true →
    s.co.vop = none → unpoisoned s → covered s 500 →
    let n := (s.desc r.f.dd).count
    let L := 2048 / r.bits
    let G := (n + L - 1) / L
    Next (exec i s) fun t => ∃ ms : Nat → Memory, ms 0 = s.co.store ∧ ms G = t.co.store ∧
      (∀ k, k < G → wrote (s.desc r.f.dd) ((vgroupOf n L k).map (fun e => (e, (r.val (ms k) e).1))) (ms k) (ms (k + 1))) ∧
      vheld s t (r.mul * G)
        ((List.range G).foldl (fun a k => (vgroupOf n L k).foldl (fun a e => a ||| (r.val (ms k) e).2) a) 0)
        (r.pred.map (fun p => (p.1, p.2, (List.range G).any (fun k => (vgroupOf n L k).any (fun e => (r.val (ms k) e).1 == 1))))) ∧
      t.co.lfsr = if r.draws then lfsrAfter s.co.lfsr n else s.co.lfsr

/-- R283 to R285: scans, reductions, transposes, gathers, scatters and table reads take every source element from the store before
the instruction. -/
def Sys2Proof.Claim.VectorElementsAreRearranged : Prop :=
  ∀ s i r, moveForm s i = some r → usable s r.f.dd r.dst true → (∀ d ∈ r.srcs, usable s d.1 d.2 false) → r.ok = true →
    s.co.vop = none → unpoisoned s → covered s 500 →
    Next (exec i s) fun t => wrote (s.desc r.f.dd) (r.ws s.co.store) s.co.store t.co.store ∧
      vheld s t ((r.n + r.L - 1) / r.L) (r.fl s.co.store) none ∧ t.co.lfsr = s.co.lfsr

/-- R278, R285: VQNT writes elements and scale bytes, VCOPY of a block format copies both. -/
def Sys2Proof.Claim.BlocksAreQuantisedAndCopied : Prop :=
  (∀ s f, let dd := s.desc f.dd
    let n := dd.count
    let sonly := f.minor.toNat / 32 % 2 == 1
    let L := 2048 / Max.max (Max.max 8 (fmtBits (vfmt f))) (Max.max 8 (fmtBits (fmtAt (f.minor.toNat % 16))))
    usable s f.dd (vfmt f) true → dd.sspace = .loc → usable s f.da (fmtAt (f.minor.toNat % 16)) false →
    dd.exts = (s.desc f.da).exts → dd.ext 0 % 32 = 0 → (fmtBlock (vfmt f) = true ∨ dd.scale ≠ 0) →
    rowsOverlap (dd.foot ++ dd.scaleFoot) (reads (s.desc f.da)) = false → rowsOverlap dd.foot dd.scaleFoot = false →
    s.co.vop = none → unpoisoned s → covered s 500 →
    Next (exec (.vqnt f) s) fun t =>
      (∀ b, b < n / 32 → Memory.read t.co.store (dd.scale.toNat + b) = BitVec.ofNat 8 (qblock s f b).2) ∧
      (∃ m, wrote dd (if sonly then [] else (List.range (n / 32)).flatMap (fun b =>
          ((qblock s f b).1.zipIdx).map (fun x => (32 * b + x.2, x.1.1)))) s.co.store m ∧
        ∀ x, (x < dd.scale.toNat ∨ dd.scale.toNat + n / 32 ≤ x) → Memory.read t.co.store x = Memory.read m x) ∧
      ∃ fl, vheld s t ((n + L - 1) / L) fl none ∧
        fl = (if sonly then 0 else (List.range (n / 32)).foldl (fun a b => a ||| ((qblock s f b).1.map (·.2)).foldl (· ||| ·) 0) 0) ∧
        t.co.lfsr = if rndOf f.rnd.toNat == .sr && !sonly then lfsrAfter s.co.lfsr n else s.co.lfsr) ∧
  ∀ s f, let dd := s.desc f.dd
    let da := s.desc f.da
    let L := 2048 / Max.max 8 (fmtBits (vfmt f))
    let G := (dd.count + L - 1) / L
    fmtBlock (vfmt f) = true → usable s f.dd (vfmt f) true → usable s f.da (vfmt f) false → dd.sspace = .loc → da.sspace = .loc →
    da.perm = 0 → dd.exts = da.exts → s.co.vop = none → unpoisoned s → covered s 500 →
    Next (exec (.vcopy f) s) fun t => ∃ ms : Nat → Memory, ms 0 = s.co.store ∧
      (∀ k, k < G → wrote dd ((vgroupOf dd.count L k).map (fun e => (e, da.at (ms k) e))) (ms k) (ms (k + 1))) ∧
      (∀ x, Memory.read t.co.store x = if dd.scale.toNat ≤ x ∧ x < dd.scale.toNat + da.blocks
        then Memory.read s.co.store (da.scale.toNat + (x - dd.scale.toNat)) else Memory.read (ms G) x) ∧
      vheld s t G 0 none ∧ t.co.lfsr = s.co.lfsr

/-- R269, R126, R275: at a completion that is due the flags join st.fflags, VCMP's bit is written and the unit is free. -/
def Sys2Proof.Claim.VectorCompletionsTakeEffect : Prop :=
  ∀ s v, s.co.vop = some v → v.cycles ≤ s.co.cycle → v.bad = none → v.hid = s.cx.hid → s.cx.status ≠ .free →
    Next (exec (.vectorCompletion s.co.id) s) fun t =>
      t.co.vop = none ∧ t.co.fflags = s.co.fflags ||| v.flags ∧ ({ t.co with
        vop := s.co.vop, fflags := s.co.fflags } : Core) = s.co ∧ elsewhereKept s t ∧ t.cx.pc = s.cx.pc ∧
      match v.pred with
      | none => regsKept s t
      | some (p, k, x) => ∃ w, bitSet (s.g p) w k.val x ∧ regWritten s t p w (s.gtag p)

/-- Vector moves, block scaling and completions: the statements named here, together.
What the manual leaves open here is the model's choice: assumptions 13, 14, 26, 108, 109 and 113. -/
def Obligations.VectorElementsMoveAndComplete : Prop :=
  Sys2Proof.Claim.VectorElementsAreRearranged ∧
    Sys2Proof.Claim.BlocksAreQuantisedAndCopied ∧
    Sys2Proof.Claim.VectorCompletionsTakeEffect

namespace Sys2Proof.Claim

/-! ## The matrix unit (R130, R131, R141, R286 to R298) -/

/-- All flags of a list together. -/
def allFlags (l : List FlagSet) : FlagSet := l.foldl (· ||| ·) 0
/-- A source descriptor of the matrix unit is ready (R137): B may also lie in the well or the weight buffer. -/
def usableB (s : State) (d : BitVec 6) (t : Fmt) : Prop :=
  (s.desc d).state = .ready ∧ (s.desc d).fmt = t ∧ (s.desc d).fspace ≠ .glob ∧ (s.desc d).rd = true ∧
    ((s.desc d).fspace = .well → ∀ o ∈ s.co.pumpq, o.kind ≠ .wellw)

/-- Element (m, n) of the product of A with group `g` of B, onto the tile's element (R130, R131, R291, R293). -/
def mmaVal (s : State) (f : W2) (m n g : Nat) : Nat × FlagSet :=
  let a := s.desc f.da
  let b := s.desc f.db
  mmaElem (vfmt f) (matG f) (ovfOf f.ovf.toNat == .sat) (Tab.get 0 s.co.acc (f.acc.toNat * 4096 + m * 64 + n)).toNat
    ((List.range (a.ext 0)).map (fun k =>
      (a.matElem s.co.store (Memory.read s.co.store) (s.spaceByte a.sspace) k m 0,
        b.matElem s.co.store (s.spaceByte b.fspace) (s.spaceByte b.sspace) k n g)))

/-- The matrix unit holds an operation of this instruction for `cyc` cycles; no tile, flag or other part of the core has changed. -/
def mheld (s t : State) (cyc : Nat) (fl : FlagSet) : Prop :=
  dispatched s t ∧
  ({ t.co with
      counters := s.co.counters, weightSum := s.co.weightSum, store := s.co.store, mop := none, ballast := s.co.ballast,
      mmr := s.co.mmr, mmrs := s.co.mmrs, descs := s.co.descs } : Core) = s.co ∧
  ∃ v, t.co.mop = some v ∧ v.hid = s.cx.hid ∧ v.fpc = s.cx.pc ∧ v.region = s.cx.region ∧ v.cycles = s.co.cycle + cyc ∧
    v.flags = fl ∧ v.bad = none
/-- The descriptors and the rotations of the core are as before. -/
def mquiet (s t : State) : Prop := t.co.mmr = s.co.mmr ∧ t.co.mmrs = s.co.mmrs ∧ t.co.descs = s.co.descs
/-- The cycles that an operation waits at its issue for the end of a refresh of a bank that operand `d` lies in: a bank's refresh takes
the first 100 ticks of every 400 (R149, R150). -/
def bankWait (s : State) (d : Desc) : Nat :=
  match refreshing s.tick with
  | some b => if d.wellBanks.contains b then (100 - s.tick % 400) * s.mult else 0
  | none => 0
/-- When the operation's cycles, with the refreshes that it waits out, are over, its completion leaves the accumulators as `p` says, ORs the
flags and frees the unit (R126, R141, R150). -/
def tileAfter (s t : State) (fl : FlagSet) (p : Tab W32 → Prop) : Prop :=
  ∀ n, (∀ v, t.co.mop = some v → v.ending (t.multOf s.co.id) t.co ≤ n) → Next (exec (.matrixCompletion s.co.id) { t with
    co.cycle := n }) fun u =>
    p u.co.acc ∧ u.co.mop = none ∧ u.co.fflags = s.co.fflags ||| fl ∧ regsKept t u ∧ u.cx = t.cx ∧ u.co.store = t.co.store ∧
      elsewhereKept t u
/-- The elements of a tile: `v m n` where it is given, as before elsewhere. -/
def tileIs (s : State) (tile : Nat) (v : Nat → Nat → Option W32) (acc : Tab W32) : Prop :=
  (∀ m n, m < 64 → n < 64 → Tab.get 0 acc (tile * 4096 + m * 64 + n) =
    (v m n).getD (Tab.get 0 s.co.acc (tile * 4096 + m * 64 + n))) ∧
  ∀ x, x / 4096 ≠ tile → Tab.get 0 acc x = Tab.get 0 s.co.acc x

/-- The shape rule of R291. -/
def mmaFits (s : State) (f : W2) : Prop :=
  (s.desc f.db).ext 0 = (s.desc f.da).ext 0 ∧ (s.desc f.da).ext 1 ≤ 64 ∧ (s.desc f.db).ext 1 ≤ 64 ∧
    (s.desc f.da).rank.toNat ≤ 1 ∧ (s.desc f.da).sparse = false
/-- The values of a whole product (R291). -/
def mmaAll (s : State) (f : W2) (m n : Nat) : Option W32 :=
  if m < (s.desc f.da).ext 1 ∧ n < (s.desc f.db).ext 1 then some (BitVec.ofNat 32 (mmaVal s f m n 0).1) else none
/-- The flags of a whole product. -/
def mmaFlags (s : State) (f : W2) : FlagSet :=
  allFlags ((List.range ((s.desc f.da).ext 1)).flatMap (fun m => (List.range ((s.desc f.db).ext 1)).map (fun n => (mmaVal s f m n 0).2)))
/-- The cycles of a product over K steps (R141), without a wait for its banks. -/
def mmaCycles (s : State) (f : W2) : Nat :=
  ((s.desc f.da).ext 0 + kSteps (vfmt f) - 1) / kSteps (vfmt f)

/-- The row counts of MMAG (R293). -/
def rowCounts (s : State) (f : W2) : List Nat := (List.range ((s.desc f.dc).ext 0)).map ((s.desc f.dc).at s.co.store)
/-- The first row of group `g`. -/
def firstRow (s : State) (f : W2) (g : Nat) : Nat := ((rowCounts s f).take g).sum

/-- The tile element that element `e` of a descriptor maps to, from the origin in g<ga>: row bits 5:0, column bits 13:8 (R298). -/
def tileOf (s : State) (f : W2) (d : Desc) (e : Nat) : Nat :=
  f.acc.toNat * 4096 + ((s.int f.ga).toNat % 64 + e / d.ext 0) % 64 * 64 + ((s.int f.ga).toNat / 256 % 64 + e % d.ext 0) % 64
/-- A tile-sized descriptor (R298). -/
def tileSized (d : Desc) : Prop := d.rank.toNat ≤ 1 ∧ d.ext 0 ≤ 64 ∧ d.ext 1 ≤ 64

/-- The memory with bytes written at addresses in the list's order. -/
def bytesPut (l : List (Nat × Byte)) (m m' : Memory) : Prop :=
  ∀ x, Memory.read m' x = match l.reverse.find? (fun p => p.1 == x) with
    | some p => p.2
    | none => Memory.read m x

end Sys2Proof.Claim

/-- R291, R130, R131, R141, R150, R126: MMA forms its products at issue; the tile and the flags take effect at its completion. -/
def Sys2Proof.Claim.MatrixProductsFillTheTile : Prop :=
  ∀ s f, usable s f.da (vfmt f) false → usableB s f.db (matG f) → mmaFits s f → (s.desc f.db).rank.toNat ≤ 1 →
    s.co.mop = none → unpoisoned s → covered s 2000 →
    Next (exec (.mma f) s) fun t => mheld s t (mmaCycles s f + bankWait s (s.desc f.db)) (mmaFlags s f) ∧
      t.co.store = s.co.store ∧ mquiet s t ∧ tileAfter s t (mmaFlags s f) (tileIs s f.acc.toNat (mmaAll s f))

/-- R293: MMAG multiplies the rows of each group with that group of B; rows past M raise RAG. -/
def Sys2Proof.Claim.GroupedProductsUseTheirGroup : Prop :=
  ∀ s f, usable s f.da (vfmt f) false → usableB s f.db (matG f) → usable s f.dc .n16 false → mmaFits s f →
    (s.desc f.db).rank.toNat ≤ 2 → (s.desc f.dc).rank = 0 → (s.desc f.dc).ext 0 ≤ 64 → (s.desc f.db).ext 2 = (s.desc f.dc).ext 0 →
    s.co.mop = none → unpoisoned s → covered s 2000 →
    Next (exec (.mmag f) s) fun t => ∃ cyc fl, mheld s t cyc fl ∧ mquiet s t ∧ t.co.store = s.co.store ∧
      ((s.desc f.da).ext 1 < firstRow s f (rowCounts s f).length → fl.getLsbD 6 = true) ∧
      cyc = mmaCycles s f * ((List.range (rowCounts s f).length).filter (fun g =>
          decide ((rowCounts s f).getD g 0 ≠ 0) && decide (firstRow s f g < (s.desc f.da).ext 1))).length +
        bankWait s (s.desc f.db) ∧
      ∃ v : Nat → Nat → Option W32, tileAfter s t fl (tileIs s f.acc.toNat v) ∧
        (∀ m n g, m < (s.desc f.da).ext 1 → n < (s.desc f.db).ext 1 → g < (rowCounts s f).length → firstRow s f g ≤ m →
          m < firstRow s f (g + 1) → v m n = some (BitVec.ofNat 32 (mmaVal s f m n g).1)) ∧
        ∀ m n, (s.desc f.da).ext 1 ≤ m ∨ (s.desc f.db).ext 1 ≤ n ∨ firstRow s f (rowCounts s f).length ≤ m → v m n = none

/-- Matrix products accumulate into their tile: the statements named here, together.
What the manual leaves open here is the model's choice: assumptions 13, 14 and 114. -/
def Obligations.MatrixProductsFillTheTile : Prop :=
  Sys2Proof.Claim.MatrixProductsFillTheTile ∧ Sys2Proof.Claim.GroupedProductsUseTheirGroup

/-- R297, R298: MZERO clears a tile; MRD rounds tile elements into local memory; MWR widens elements into the tile.
What the manual leaves open here is the model's choice: assumptions 13 and 14. -/
def Obligations.TilesAreClearedReadAndWritten : Prop :=
  (∀ s f, s.co.mop = none → covered s 2000 → unpoisoned s → Next (exec (.mzero f) s) fun t =>
    mheld s t 1 0 ∧ mquiet s t ∧ t.co.store = s.co.store ∧ tileAfter s t 0 (tileIs s f.acc.toNat (fun _ _ => some 0))) ∧
  (∀ s f, let d := s.desc f.dd
    let val (e : Nat) : Nat × FlagSet :=
      let c := (Tab.get 0 s.co.acc (tileOf s f d e)).toNat
      match fpOf (vfmt f) with
      | some p => roundNum p (ovfModeOf (vfmt f) (ovfOf f.ovf.toNat)) (rndOf f.rnd.toNat) (fp32.decode c)
      | none => fitInt (fmtSigned (vfmt f)) (fmtBits (vfmt f)) (ovfOf f.ovf.toNat == .wrap) (intOfBits true 32 c)
    usable s f.dd (vfmt f) true → tileSized d → s.co.mop = none → s.heldReg [f.ga] = false → unpoisoned s → covered s 2000 →
    Next (exec (.mrd f) s) fun t => mheld s t (d.ext 1) (allFlags ((List.range d.count).map (fun e => (val e).2))) ∧
      mquiet s t ∧ wrote d ((List.range d.count).map (fun e => (e, (val e).1))) s.co.store t.co.store ∧
      tileAfter s t (allFlags ((List.range d.count).map (fun e => (val e).2))) (tileIs s f.acc.toNat (fun _ _ => none))) ∧
  ∀ s f, let d := s.desc f.da
    let val (e : Nat) : W32 := match fpOf (vfmt f) with
      | some p => BitVec.ofNat 32 (roundNum fp32 .ieee .rne (p.decode (d.at s.co.store e))).1
      | none => BitVec.ofInt 32 (vint f (d.at s.co.store e))
    let fl : FlagSet := if (List.range d.count).any (fun e => (vnum f (d.at s.co.store e)).isNan) = true then 0b10000 else 0
    usable s f.da (vfmt f) false → tileSized d → s.co.mop = none → s.heldReg [f.ga] = false → unpoisoned s → covered s 2000 →
    Next (exec (.mwr f) s) fun t => mheld s t (d.ext 1) fl ∧ mquiet s t ∧ t.co.store = s.co.store ∧
      tileAfter s t fl (fun acc => (∀ e, e < d.count → Tab.get 0 acc (tileOf s f d e) = val e) ∧
        ∀ x, (∀ e, e < d.count → x ≠ tileOf s f d e) → Tab.get 0 acc x = Tab.get 0 s.co.acc x)

namespace Sys2Proof.Claim

/-- A descriptor that MMR accepts (R295): RD and WR, both buffers local, a back buffer, neither compressed nor permuted. -/
def ringDesc (s : State) (d : BitVec 6) (t : Fmt) : Prop :=
  usable s d t false ∧ (s.desc d).wr = true ∧ (s.desc d).bspace = .loc ∧ (s.desc d).back ≠ 0 ∧ (s.desc d).sparse = false ∧
    (s.desc d).perm = 0
/-- The bytes of a footprint over a base of a descriptor, in iteration order of rows (R135). -/
def rowAddrs (d : Desc) (base : Nat) : List Nat := (d.rows base).flatMap (fun r => (List.range r.2).map (r.1 + ·))

end Sys2Proof.Claim

/-- R294 to R296: MMR multiplies as MMA does while its operands move one core on: DA's front to the back buffer of the west neighbour
and DB's to the north, unless an operation in flight there holds that buffer; the release, when every core of the launch has both, swaps the
buffers.
What the manual leaves open here is the model's choice: assumptions 13, 30, 39, 114 and 122. -/
def Obligations.RotatingProductsPassTheirOperands : Prop :=
  (∀ s f, ringDesc s f.da (vfmt f) → ringDesc s f.db (matG f) → f.da ≠ f.db → mmaFits s f → (s.desc f.db).rank.toNat ≤ 1 →
    s.co.mop = none → unpoisoned s → covered s 2000 → s.cx.dropped = false →
    Next (exec (.mmr f) s) fun t => mheld s t (mmaCycles s f) (mmaFlags s f) ∧ t.co.store = s.co.store ∧
      (t.desc f.da).state = .filling ∧ (t.desc f.db).state = .filling ∧ t.co.mmrs = s.co.mmrs + 1 ∧
      (∃ o, t.co.mmr = s.co.mmr ++ [o] ∧ o.launch = s.co.launch.getD 0 ∧ o.k = s.co.mmrs ∧ o.hid = s.cx.hid ∧ o.prod = false ∧ o.inA = false ∧ o.inB = false ∧
        o.da = f.da.toNat ∧ o.db = f.db.toNat ∧
        o.a = (rowAddrs (s.desc f.da) (s.desc f.da).front.toNat).map (Memory.read s.co.store) ∧
        o.b = (rowAddrs (s.desc f.db) (s.desc f.db).front.toNat).map (Memory.read s.co.store)) ∧
      tileAfter s t (mmaFlags s f) (tileIs s f.acc.toNat (mmaAll s f))) ∧
  (∀ s core o q, ∀ north : Bool, let l := s.launchById o.launch
    let r := l.coreAt (if north then l.xrel core else (l.xrel core + l.width - 1) % l.width)
      (if north then (l.yrel core + l.height - 1) % l.height else l.yrel core)
    (s.coreAt core).mmr = [o] → (s.coreAt r).mmr = [q] → q.launch = o.launch → q.k = o.k →
    (if north then q.inB else q.inA) = false → s.relocks core = false → s.relocks r = false →
    let d := Tab.get Desc.zero (s.coreAt r).descs (if north then q.db else q.da)
    (s.coreAt r).holds d.back.toNat (some q.k) = false →
    (∀ p ∈ (s.coreAt r).pumpq, p.data ≠ none ∨ p.src.fspace ≠ .loc ∨ p.src.front ≠ d.back) →
    (if north then o.b else o.a).length = (rowAddrs d d.back.toNat).length →
    Next (exec (.mmrTransfer core north) s) fun t =>
      bytesPut ((rowAddrs d d.back.toNat).zip (if north then o.b else o.a)) (s.coreAt r).store (t.coreAt r).store ∧
      (t.coreAt r).mmr = [if north then { q with inB := true } else { q with inA := true }] ∧
      t.cx = s.cx ∧ t.spaces = s.spaces) ∧
  ∀ s o rest, s.co.mmr = o :: rest → s.relocks s.co.id = false → o.da ≠ o.db →
    (o.done = true ∨ ∀ x ∈ (s.launchById o.launch).cores, ∃ p, (s.coreAt x).mmr.find? (fun q => q.launch == o.launch && q.k == o.k) = some p ∧
      p.prod = true ∧ p.inA = true ∧ p.inB = true) →
    Next (exec (.mmrRelease s.co.id) s) fun t => t.co.mmr = rest ∧ t.co.mmrOuts = s.co.mmrOuts + 1 ∧ t.co.store = s.co.store ∧
      (∀ n, (n = o.da ∨ n = o.db) → let d := Tab.get Desc.zero s.co.descs n
        Tab.get Desc.zero t.co.descs n = { d with
          front := d.back, back := d.front, fspace := d.bspace, bspace := d.fspace, state := .ready }) ∧
      ∀ n, n ≠ o.da → n ≠ o.db → Tab.get Desc.zero t.co.descs n = Tab.get Desc.zero s.co.descs n

namespace Sys2Proof.Claim

/-- What an engine instruction requires of a descriptor (R137, R266): the formats that it accepts, whether the space of the base that it uses
is accepted, and whether RD or WR must be set. -/
structure Need where
  d : BitVec 6
  fmts : List Fmt
  space : Bool
  rd : Bool
  wr : Bool

/-- An engine instruction: what it requires, in the order DD, DA, DB, DC; the cause of the first of checks 5 to 7 that fails; its fields where
it has a scope; whether its unit is busy; and the weight that its unit adds, of one that is idle (R159, R266, R287). -/
structure ERow where
  needs : List Need
  bad : Option (BitVec 16)
  scope : Option W2
  busy : Bool
  mw : Option Nat

/-- A source whose front lies in one of some spaces. -/
def src (s : State) (d : BitVec 6) (t : Fmt) (sp : List DSpace) : Need := ⟨d, [t], sp.contains (s.desc d).fspace, true, false⟩
/-- A destination whose front lies in one of some spaces. -/
def dst (s : State) (d : BitVec 6) (t : Fmt) (sp : List DSpace) : Need := ⟨d, [t], sp.contains (s.desc d).fspace, false, true⟩
/-- A fill's destination, whose back base lies in one of some spaces. -/
def fillDst (s : State) (d : BitVec 6) (t : Fmt) (sp : List DSpace) : Need := ⟨d, [t], sp.contains (s.desc d).bspace, false, true⟩
/-- A need whose scale array must also be local. -/
def Need.scaled (s : State) (n : Need) : Need := { n with space := n.space && (s.desc n.d).sspace == .loc }
/-- SHAPE where the condition fails. -/
def shape (ok : Bool) : Option (BitVec 16) := if ok then none else some 0x06
/-- A vector instruction's row: the unit is busy, or a register that it names is held by a VCMP (R266). -/
def vectorRow (s : State) (f : W2) (needs : List Need) (bad : Option (BitVec 16)) : ERow :=
  ⟨needs, bad, none, s.co.vop.isSome || s.heldReg [f.ga, f.gd], some 500⟩
/-- The row of a vector instruction that reads and writes local fronts. -/
def plainRow (s : State) (f : W2) (t : Fmt) (srcs : List (BitVec 6 × Fmt)) (ok : Bool) : ERow :=
  vectorRow s f (dst s f.dd t [.loc] :: srcs.map (fun d => src s d.1 d.2 [.loc])) (shape ok)
/-- A WELLW is queued while operand B lies in the well, or the unit is busy (R142, R292). -/
def bBusy (s : State) (f : W2) : Bool :=
  s.co.mop.isSome || ((s.desc f.db).fspace == .well && s.co.pumpq.any (fun o => o.kind == .wellw))
/-- The shape rule of R291 with operand B of rank at most `r`. -/
def bShape (s : State) (f : W2) (r : Nat) : Bool :=
  let a := s.desc f.da
  let b := s.desc f.db
  b.ext 0 == a.ext 0 && decide (a.ext 1 ≤ 64) && decide (b.ext 1 ≤ 64) && decide (a.rank.toNat ≤ 1) && !a.sparse &&
    decide (b.rank.toNat ≤ r)
/-- A pump instruction's row (R147, R159). -/
def queueRow (s : State) (needs : List Need) (bad : Option (BitVec 16)) : ERow :=
  ⟨needs, bad, none, decide (16 ≤ s.co.pumpq.length), some (if s.co.pumpq.isEmpty then 300 else 0)⟩

/-- The engine instructions with their checks (R137, R266, R287). -/
def engineRow (s : State) (i : Instr) : Option ERow :=
  match i with
  | .vcmp f =>
    let gs := f.minor.toNat % 2 == 1
    let ok := (s.desc f.dd).exts == (s.desc f.da).exts && (gs || (s.desc f.dd).exts == (s.desc f.db).exts)
    some (vectorRow s f ([dst s f.dd .n8 [.loc], src s f.da (vfmt f) [.loc]] ++ if gs then [] else [src s f.db (vfmt f) [.loc]])
      (if ok then (if s.gtag f.gd then some 0x11 else none) else some 0x06))
  | .vdqnt f => some (vectorRow s f
      [dst s f.dd (vfmt f) [.loc], (src s f.da (fmtAt (f.minor.toNat % 16)) [.loc]).scaled s]
      (shape ((s.desc f.dd).exts == (s.desc f.da).exts && (s.desc f.dd).ext 0 % 32 == 0 &&
        !rowsOverlap (s.desc f.dd).foot (s.desc f.da).scaleFoot)))
  | .vqnt f => some (vectorRow s f
      [(dst s f.dd (vfmt f) [.loc]).scaled s, src s f.da (fmtAt (f.minor.toNat % 16)) [.loc]]
      (shape ((s.desc f.dd).exts == (s.desc f.da).exts && (s.desc f.dd).ext 0 % 32 == 0 &&
        (fmtBlock (vfmt f) || (s.desc f.dd).scale != 0) &&
        !rowsOverlap ((s.desc f.dd).foot ++ (s.desc f.dd).scaleFoot) (reads (s.desc f.da)))))
  | .vcopy f =>
    let n (x : Need) : Need := if fmtBlock (vfmt f) then x.scaled s else x
    some (vectorRow s f [n (dst s f.dd (vfmt f) [.loc]), n (src s f.da (vfmt f) [.loc])]
      (shape ((s.desc f.dd).exts == (s.desc f.da).exts && !(fmtBlock (vfmt f) && (s.desc f.da).perm != 0))))
  | .mma f => some ⟨[src s f.da (vfmt f) [.loc], src s f.db (matG f) [.loc, .well, .wbuf]], shape (bShape s f 1), none,
      bBusy s f, some 2000⟩
  | .mmag f => some ⟨[src s f.da (vfmt f) [.loc], src s f.db (matG f) [.loc, .well, .wbuf], src s f.dc .n16 [.loc]],
      shape (bShape s f 2 && (s.desc f.dc).rank == 0 && decide ((s.desc f.dc).ext 0 ≤ 64) &&
        (s.desc f.db).ext 2 == (s.desc f.dc).ext 0), none, bBusy s f, some 2000⟩
  | .mmr f =>
    let ring (d : Desc) : Bool := d.fspace == .loc && d.bspace == .loc && d.back != 0 && !d.sparse && d.perm == 0
    some ⟨[{ src s f.da (vfmt f) [.loc] with wr := true }, { src s f.db (matG f) [.loc, .well, .wbuf] with wr := true }],
      shape (bShape s f 1 && ring (s.desc f.da) && ring (s.desc f.db) && f.da != f.db), none, bBusy s f, some 2000⟩
  | .mzero _ => some ⟨[], none, none, s.co.mop.isSome, some 2000⟩
  | .mrd f => some ⟨[dst s f.dd (vfmt f) [.loc]], shape (tileShape (s.desc f.dd)), none, s.co.mop.isSome || s.heldReg [f.ga], some 2000⟩
  | .mwr f => some ⟨[src s f.da (vfmt f) [.loc]], shape (tileShape (s.desc f.da)), none, s.co.mop.isSome || s.heldReg [f.ga], some 2000⟩
  | .xcopy f =>
    let t := (s.desc f.da).fmt
    some (queueRow s [fillDst s f.dd t [.loc, .glob], src s f.da t [.loc, .glob]]
      (shape (!((s.desc f.dd).bspace == .loc && (s.desc f.dd).back == 0) && (s.desc f.dd).exts == (s.desc f.da).exts)))
  | .tld f =>
    let a := s.desc f.da
    some (queueRow s [fillDst s f.dd (vfmt f) [.loc], src s f.da (vfmt f) [.loc, .glob]]
      (shape (!((s.desc f.dd).bspace == .loc && (s.desc f.dd).back == 0) &&
        (s.desc f.dd).exts == if f.minor.toNat % 2 == 1 then [a.ext 1, a.ext 0, a.ext 2, a.ext 3] else a.exts)))
  | .wld f => some (queueRow s [fillDst s f.dd (vfmt f) [.wbuf], src s f.da (vfmt f) [.loc, .well]]
      (shape ((s.desc f.dd).exts == (s.desc f.da).exts &&
        if f.minor.toNat % 2 == 1 then (s.desc f.da).sparse && !(s.desc f.dd).sparse else (s.desc f.da).sparse == (s.desc f.dd).sparse)))
  | .drain f =>
    let t := (s.desc f.da).fmt
    some (queueRow s [dst s f.dd t [.glob], src s f.da t [.loc]] (shape ((s.desc f.dd).exts == (s.desc f.da).exts)))
  | .wellw f =>
    let t := (s.desc f.da).fmt
    some (queueRow s [src s f.dd t [.well], src s f.da t [.loc, .glob]]
      (if (s.desc f.dd).exts == (s.desc f.da).exts then (if s.wellShared then some 0x1A else none) else some 0x06))
  | .bar f => some ⟨[], none, some f, false, none⟩
  | .red f => some ⟨[dst s f.dd (redForm f).2 [.loc], src s f.da (vfmt f) [.loc]],
      shape ((s.desc f.dd).exts == (s.desc f.da).exts && decide ((s.desc f.da).count ≤ 4096)), some f, s.co.vop.isSome, some 500⟩
  | .redx f => some ⟨[dst s f.dd (vfmt f) [.loc], src s f.da (vfmt f) [.loc]],
      shape ((s.desc f.dd).exts == (s.desc f.da).exts && decide ((s.desc f.da).count ≤ 4096)), some f, s.co.vop.isSome, some 500⟩
  | .rstat f => some ⟨if f.minor.toNat % 2 == 1 then [dst s f.dd .n32 [.loc]] else [], none, some f, false, none⟩
  | .corr f => some ⟨[{ dst s f.dd .f32 [.loc] with fmts := [.f32, .i32, .n32] }], none, some f, s.co.vop.isSome, none⟩
  | i =>
    match vecRow s i, moveForm s i with
    | some r, _ => some (plainRow s r.f r.dst r.srcs r.ok)
    | _, some r => some (plainRow s r.f r.dst r.srcs r.ok)
    | none, none => none

/-- The collective's scope word names an aligned rectangle of the launch that holds the core; the other kinds have no word (R25, R308). -/
def scopeOk (s : State) (r : ERow) : Prop :=
  ∀ f, r.scope = some f → f.x2.toNat = 0 →
    scopeLegal (s.launchOn s.co) (s.int f.ga).toNat ((s.launchOn s.co).xrel s.co.id) ((s.launchOn s.co).yrel s.co.id) = true
/-- RD and WR are as an instruction requires (R137). -/
def Need.permitted (s : State) (n : Need) : Prop := (n.rd = true → (s.desc n.d).rd = true) ∧ (n.wr = true → (s.desc n.d).wr = true)
/-- The grant that an instruction needs which makes a unit of weight `w` busy (R161). -/
def grantFor (s : State) (w : Nat) : Nat := weightAt s.mult (s.co.busyMw + w + 300)

end Sys2Proof.Claim

/-- R266, R287, R35, R137, R161, R164, R308: every engine instruction, of the vector unit, the matrix unit, the pump and the collectives, traps at
the first check that fails, in the order DESC, a wait for a descriptor in motion, FORMAT, SPACE and PERM operand by operand, SHAPE, TAG or
WELL_BUSY, SCOPE; it loses its visit to a busy unit, and where the grant does not cover its unit it loses its visit with a request, or in a
pinned context claims the rise if the module has room for it and else traps RAMP.
What the manual leaves open here is the model's choice: assumptions 25 and 40. -/
def Obligations.EngineChecksComeInOrder : Prop :=
  ∀ s i r, engineRow s i = some r →
    ((∃ n ∈ r.needs, (s.desc n.d).state = .empty) → Next (exec i s) fun t => traps s t 0x18 s.cx.pc) ∧
    ((∀ n ∈ r.needs, (s.desc n.d).state ≠ .empty) → (∃ n ∈ r.needs, (s.desc n.d).state ≠ .ready) →
      Next (exec i s) fun t => t.cx.status = .waiting ∧ t.cx.waitk = 6 ∧
        (∃ n ∈ r.needs, (s.desc n.d).state ≠ .ready ∧ t.cx.wait = some (.desc n.d.toNat)) ∧
        t.cx.pc = s.cx.pc ∧ t.cx.npc = s.cx.pc ∧ regsKept s t ∧ t.co = s.co ∧ elsewhereKept s t) ∧
    ((∀ n ∈ r.needs, (s.desc n.d).state = .ready) →
      ((∃ n ∈ r.needs, (s.desc n.d).fmt ∉ n.fmts) → Next (exec i s) fun t => traps s t 0x07 s.cx.pc) ∧
      ((∀ n ∈ r.needs, (s.desc n.d).fmt ∈ n.fmts) →
        (∀ pre n post, r.needs = pre ++ n :: post → (∀ m ∈ pre, m.space = true ∧ m.permitted s) →
          (n.space = false → Next (exec i s) fun t => traps s t 0x08 s.cx.pc) ∧
          (n.space = true → ¬ n.permitted s → Next (exec i s) fun t => traps s t 0x13 s.cx.pc)) ∧
        ((∀ n ∈ r.needs, n.space = true ∧ n.permitted s) →
          (∀ c, r.bad = some c → Next (exec i s) fun t => traps s t c s.cx.pc) ∧
          (r.bad = none → ∀ f, r.scope = some f → ¬ scopeOk s r → Next (exec i s) fun t => traps s t 0x05 (s.int f.ga)) ∧
          (r.bad = none → scopeOk s r →
            (r.busy = true → Next (exec i s) fun t => t.cx = s.cx ∧
              Tab.get 0 t.co.counters 5 = Tab.get 0 s.co.counters 5 + 1 ∧ ({ t.co with
                counters := s.co.counters } : Core) = s.co ∧ elsewhereKept s t) ∧
            (r.busy = false → ∀ w, r.mw = some w → s.co.grant < grantFor s w →
              (s.cx.pinned = false → Next (exec i s) fun t => t.cx = s.cx ∧ t.co.request = some (grantFor s w - s.co.grant) ∧
                Tab.get 0 t.co.counters 6 = Tab.get 0 s.co.counters 6 + 1 ∧ ({ t.co with
                  counters := s.co.counters, request := s.co.request } : Core) = s.co ∧ elsewhereKept s t) ∧
              (s.cx.pinned = true →
                (s.gov.upLeft < grantFor s w - s.co.grant → Next (exec i s) fun t => traps s t 0x21 s.cx.pc) ∧
                (grantFor s w - s.co.grant ≤ s.gov.upLeft → exec i s = exec i { s with
                  gov.upLeft := s.gov.upLeft - (grantFor s w - s.co.grant), co.grant := grantFor s w })))))))

namespace Sys2Proof.Claim

/-! ## The pump and the descriptors (R96 to R99, R133 to R150, R299 to R307) -/

/-- A descriptor of the stated format that an operation reads or writes. -/
def entry (s : State) (d : BitVec 6) (t : Fmt) (write : Bool) (spaces : List DSpace) (back : Bool) : Prop :=
  (s.desc d).state = .ready ∧ (s.desc d).fmt = t ∧ (if write then (s.desc d).wr else (s.desc d).rd) = true ∧
    (if back then (s.desc d).bspace else (s.desc d).fspace) ∈ spaces
/-- It has a back buffer (R136). -/
def hasBack (s : State) (d : BitVec 6) : Prop := (s.desc d).bspace ≠ .loc ∨ (s.desc d).back ≠ 0

/-- The pump instructions and when their descriptors pass (R137, R302 to R306): fields, kind, condition. -/
def pumpRow (s : State) : Instr → Option (W2 × PumpKind × Prop)
  | .xcopy f => some (f, .xcopy, entry s f.dd (s.desc f.da).fmt true [.loc, .glob] true ∧
      entry s f.da (s.desc f.da).fmt false [.loc, .glob] false ∧ hasBack s f.dd ∧ (s.desc f.dd).exts = (s.desc f.da).exts)
  | .tld f =>
    let a := s.desc f.da
    some (f, .tld (f.minor.toNat % 2 == 1), entry s f.dd (vfmt f) true [.loc] true ∧ entry s f.da (vfmt f) false [.loc, .glob] false ∧
      hasBack s f.dd ∧ (s.desc f.dd).exts = if f.minor.toNat % 2 = 1 then [a.ext 1, a.ext 0, a.ext 2, a.ext 3] else a.exts)
  | .wld f => some (f, .wld (f.minor.toNat % 2 == 1), entry s f.dd (vfmt f) true [.wbuf] true ∧
      entry s f.da (vfmt f) false [.loc, .well] false ∧ (s.desc f.dd).exts = (s.desc f.da).exts ∧
      if f.minor.toNat % 2 = 1 then (s.desc f.da).sparse = true ∧ (s.desc f.dd).sparse = false
      else (s.desc f.da).sparse = (s.desc f.dd).sparse)
  | .drain f => some (f, .drain, entry s f.dd (s.desc f.da).fmt true [.glob] false ∧
      entry s f.da (s.desc f.da).fmt false [.loc] false ∧ (s.desc f.dd).exts = (s.desc f.da).exts)
  | .wellw f => some (f, .wellw, entry s f.dd (s.desc f.da).fmt false [.well] false ∧
      entry s f.da (s.desc f.da).fmt false [.loc, .glob] false ∧ (s.desc f.dd).exts = (s.desc f.da).exts ∧ s.wellShared = false)
  | _ => none

/-- The code that an operation that issues now moves to element `e`: TLD .t takes it from the exchanged index (R303). It reads its source and
its permutation table behind the writes of the operations in the queue, which come first (R86, R147). -/
def movedCode (s : State) (d a : Desc) (k : PumpKind) (e : Nat) : Nat :=
  let rd := s.pumpByte a.fspace
  let i := d.idx e
  let p := if k = .tld true then i.2.1 else i.1
  let q := if k = .tld true then i.1 else i.2.1
  if a.sparse then a.sparseCode rd a.front.toNat (a.permAt s.pumpStore p) q i.2.2.1 i.2.2.2
  else readBits rd (a.bitAddr a.front.toNat (a.permAt s.pumpStore p) q i.2.2.1 i.2.2.2) a.w

/-- The same operations wait, but for what those without their data have found of their source so far (R86). -/
def sameQueue (q q' : List PumpOp) : Prop :=
  q.map (fun (o : PumpOp) => { o with snap := [] }) = q'.map (fun (o : PumpOp) => { o with snap := [] })
/-- The bits of `m'` are those of `m` with elements written over a base of a descriptor. -/
def wroteOver (d : Desc) (base : Nat) (codes : List Nat) (m m' : Memory) : Prop :=
  wrote { d with front := BitVec.ofNat 64 base } (codes.zipIdx.map (fun c => (c.2, c.1))) m m'

end Sys2Proof.Claim

/-- R147, R138, R302, R303, R305, R306: a pump instruction enters the queue with its source read, unless an operation before it has yet
to bring what it reads or the source is a peer's, marks its descriptor and completes; no memory of the core changes. Stored bytes move
unchanged between compressed tensors. -/
def Sys2Proof.Claim.PumpInstructionsEnterTheQueue : Prop :=
  ∀ s i f k ok, pumpRow s i = some (f, k, ok) → ok → s.co.pumpq.length < 16 → unpoisoned s →
    covered s (if s.co.pumpq = [] then 300 else 0) →
    Next (exec i s) fun t => issued s t ∧ regsKept s t ∧ t.cx.pc = s.cx.pc + 8 ∧ t.cx.status = s.cx.status ∧
      t.co.store = s.co.store ∧ t.co.wbuf = s.co.wbuf ∧ t.co.acc = s.co.acc ∧ t.wells = s.wells ∧ t.cores = s.cores ∧
      (∃ o, t.co.pumpq = s.co.pumpq ++ [o] ∧ o.kind = k ∧ o.hid = s.cx.hid ∧ o.fpc = s.cx.pc ∧ o.dd = f.dd.toNat ∧ o.da = f.da.toNat ∧
        o.dst = s.desc f.dd ∧ o.src = s.desc f.da ∧
        (s.cx.dropped = false → (s.lau.mirror = true → (s.desc f.da).fspace ≠ .glob) →
          if s.co.pumpq.any (o.dependsOn ·) then o.data = none
          else s.sourceReach (s.desc f.da) = .home → o.data = some (
            if (s.desc f.da).sparse = true ∧ (s.desc f.dd).sparse = true ∧ (s.desc f.da).perm = 0 then
              ((s.desc f.da).rawAddrs (s.desc f.da).front.toNat).map (fun a => (s.pumpByte (s.desc f.da).fspace a).toNat)
            else (List.range (s.desc f.dd).count).map (movedCode s (s.desc f.dd) (s.desc f.da) k)))) ∧
      (∀ n, Tab.get Desc.zero t.co.descs n = { Tab.get Desc.zero s.co.descs n with
        state := if n = f.dd.toNat ∧ k ≠ .drain ∧ k ≠ .wellw then .filling else if n = f.da.toNat ∧ k = .drain then .draining
          else (Tab.get Desc.zero s.co.descs n).state })

/-- R99, R305, R86: DRAIN's elements are plain stores of its context, which reads them there at once. -/
def Sys2Proof.Claim.DrainedElementsArePlainStores : Prop :=
  ∀ s f ok, pumpRow s (.drain f) = some (f, .drain, ok) → ok → s.co.pumpq.length < 16 → unpoisoned s →
    covered s (if s.co.pumpq = [] then 300 else 0) → s.lau.mirror = false → s.lau.det = false → s.cx.dropped = false →
    (∀ p ∈ s.co.pumpq, p.data ≠ none ∧ (p.kind = .drain → p.stored = true)) → (s.desc f.da).sparse = false → (s.desc f.dd).sparse = false →
    s.reachOf (s.desc f.dd).foot = .home → (∀ r ∈ (s.desc f.dd).foot, r.1 + r.2 ≤ 2 ^ 48) →
    (s.desc f.dd).ext 0 * (s.desc f.dd).w % 8 = 0 →
    Next (exec (.drain f) s) fun t => ∀ p,
      (ownByte t (p / 8)).getLsbD (p % 8) = match ((List.range (s.desc f.dd).count).map (fun e =>
          (e, movedCode s (s.desc f.dd) (s.desc f.da) .drain e))).reverse.find? (fun w =>
            decide (elemBit (s.desc f.dd) w.1 ≤ p) && decide (p < elemBit (s.desc f.dd) w.1 + (s.desc f.dd).w)) with
        | some w => w.2.testBit (p - elemBit (s.desc f.dd) w.1)
        | none => (ownByte s (p / 8)).getLsbD (p % 8)

/-- R138, R140, R147, R302, R306: the head of the queue writes its buffer, a fill then waits for PUB, DRAIN and WELLW return their
descriptor to ready. A DRAIN to a peer is done once that has accepted its stores, a mirror's once its primary's is (R81, R449). -/
def Sys2Proof.Claim.PumpCompletionsWriteTheirBuffer : Prop :=
  ∀ s o rest d, s.co.pumpq = o :: rest → o.data = some d → d.length = o.dst.count → o.hid = s.cx.hid → s.cx.status ≠ .free →
    s.relocking = false → s.packed.holdsBack o = false → o.refreshHeld s.tick = false → s.poisoned o = none → o.raw = false → o.dst.sparse = false →
    (∀ c ∈ s.cx :: s.co.ctxs, c.wait = none) →
    ((o.kind = .xcopy ∨ (∃ b, o.kind = .tld b)) → o.dst.bspace = .loc →
      Next (exec (.pumpOperationCompletion s.co.id .home) s) fun t => wroteOver o.dst o.dst.back.toNat d s.co.store t.co.store ∧
        sameQueue t.co.pumpq rest ∧ t.co.descs = s.co.descs ∧ (o.dd, o.key, []) ∈ t.co.fills ∧ t.co.wbuf = s.co.wbuf ∧ t.cx = s.cx ∧
        t.spaces = s.spaces ∧ t.cores = s.cores ∧ t.wells = s.wells ∧ (s.lau.checked = false → elsewhereKept s t)) ∧
    (o.kind = .wld true → o.dst.bspace = .wbuf →
      Next (exec (.pumpOperationCompletion s.co.id .home) s) fun t => wroteOver o.dst o.dst.back.toNat d s.co.wbuf t.co.wbuf ∧
        t.co.pumpq = rest ∧ t.co.descs = s.co.descs ∧ (o.dd, o.key, []) ∈ t.co.fills ∧ t.co.store = s.co.store ∧ elsewhereKept s t) ∧
    (∀ how : ReplyHow, o.kind = .drain → o.stored = true → o.dst.fspace = .glob →
      (s.lau.mirror = true → ∃ r, s.mirrorReply s.co.id (o.hid % 65536) o.load = some r ∧ r.unmapped = none) →
      ((∀ i, s.reachOf o.rows ≠ .peer i) ∨ ∃ bs, how = .peer bs) →
      Next (exec (.pumpOperationCompletion s.co.id how) s) fun t => t.co.pumpq = rest ∧ t.co.store = s.co.store ∧
        Tab.get Desc.zero t.co.descs o.da = { Tab.get Desc.zero s.co.descs o.da with
          state := if (Tab.get Desc.zero s.co.descs o.da).state = .draining then .ready
            else (Tab.get Desc.zero s.co.descs o.da).state }) ∧
    (o.kind = .wellw → o.dst.fspace = .well →
      Next (exec (.pumpOperationCompletion s.co.id .home) s) fun t => t.co.pumpq = rest ∧ t.co.store = s.co.store ∧
        wroteOver o.dst o.dst.front.toNat d (s.wellOf o.war (dieOf s.co.id)) (t.wellOf o.war (dieOf s.co.id)))

/-- Pump operations enter the queue and write on completion: the statements named here, together.
What the manual leaves open here is the model's choice: assumptions 13, 33, 34, 35, 44, 113 and 114. -/
def Obligations.PumpOperationsQueueAndComplete : Prop :=
  Sys2Proof.Claim.PumpInstructionsEnterTheQueue ∧
    Sys2Proof.Claim.DrainedElementsArePlainStores ∧
    Sys2Proof.Claim.PumpCompletionsWriteTheirBuffer

/-- R96, R97, R139, R304, R450: PUB swaps the buffers of a completed fill, whose global bytes go home together and are released at pkg scope; of
a ready descriptor it does nothing, of an empty one it traps, and it waits for a fill or a drain that runs, whose end retires it: of a global
back buffer in a checked launch it issues again then. A page that is not translated traps PAGE (R81). -/
def Sys2Proof.Claim.PublishingSwapsTheBuffers : Prop :=
  ∀ s f, let d := s.desc f.dd
    (d.state = .empty → Next (exec (.pub f) s) fun t => traps s t 0x18 s.cx.pc) ∧
    (d.state = .ready → Next (exec (.pub f) s) fun t => writesNothing s t (s.cx.pc + 8)) ∧
    (d.state = .draining ∨ (d.state = .filling ∧ (∀ x ∈ s.co.fills, x.1 ≠ f.dd.toNat) ∧ (s.lau.checked = true → d.bspace ≠ .glob)) →
      Next (exec (.pub f) s) fun t => waits s t 6 8 ∧ t.cx.wait = some (.pub f.dd.toNat) ∧ elsewhereKept s t ∧
      ({ t.co with
          counters := s.co.counters, weightSum := s.co.weightSum } : Core) = s.co) ∧
    (d.state = .filling → (∀ x ∈ s.co.fills, x.1 ≠ f.dd.toNat) → s.lau.checked = true → d.bspace = .glob →
      Next (exec (.pub f) s) fun t => t.cx.status = .waiting ∧ t.cx.waitk = 6 ∧ t.cx.wait = some (.pub f.dd.toNat) ∧ t.cx.pc = s.cx.pc ∧
        t.cx.npc = s.cx.pc ∧ regsKept s t ∧ t.co = s.co ∧ elsewhereKept s t) ∧
    (∀ o rest data, s.co.pumpq = o :: rest → o.data = some data → s.relocking = false → s.packed.holdsBack o = false →
      (s.lau.checked = true → d.bspace ≠ .glob) → o.refreshHeld s.tick = false → s.poisoned o = none → o.kind = .xcopy → o.dst.bspace = .loc → o.dd = f.dd.toNat →
      o.hid = s.cx.hid → s.cx.status = .waiting → s.cx.wait = some (.pub f.dd.toNat) → (∀ c ∈ s.co.ctxs, c.wait = none) →
      Next (exec (.pumpOperationCompletion s.co.id .home) s) fun t => t.cx.status = .resident ∧ t.cx.wait = none ∧
        t.cx.pc = s.cx.npc ∧ regsKept s t ∧ sameQueue t.co.pumpq rest ∧ t.spaces = s.spaces ∧ t.cores = s.cores ∧
        (s.lau.checked = false → elsewhereKept s t) ∧ (∀ x ∈ t.co.fills, x.1 ≠ f.dd.toNat) ∧
        ∀ n, Tab.get Desc.zero t.co.descs n = if n = f.dd.toNat then { d with
          front := d.back, back := d.front, fspace := d.bspace, bspace := d.fspace, state := .ready }
          else Tab.get Desc.zero s.co.descs n) ∧
    ∀ key l, d.state = .filling → s.co.fills.find? (·.1 == f.dd.toNat) = some (f.dd.toNat, key, l) →
      (∀ p, l.find? (fun p => s.translate p.1 == .unmapped) = some p → Next (exec (.pub f) s) fun t =>
        traps s t 0x15 (BitVec.ofNat 64 p.1)) ∧
      ((∀ p ∈ l, ∃ h, s.translate p.1 = .home h) → s.lau.det = false → (∀ c ∈ s.cx :: s.co.ctxs, c.wait = none) →
        Next (exec (.pub f) s) fun t => issued s t ∧ regsKept s t ∧ t.cx.pc = s.cx.pc + 8 ∧ t.co.store = s.co.store ∧ t.cores = s.cores ∧
        (if l = [] ∨ s.lau.mirror = true ∨ s.cx.dropped = true then elsewhereKept s t
         else onlySpace s t s.war.space ∧ (s.spaces.any (·.id == s.war.space) = true →
          bytesPut (l.map (fun p => (p.1 % 2 ^ 48, p.2))) s.space.mem (t.spaceById s.war.space).mem ∧
          ∃ r ∈ (t.spaceById s.war.space).rels, r.by_ = s.me ∧ r.scope = 2 ∧ r.hi = (t.spaceById s.war.space).seq)) ∧
        (∀ x ∈ t.co.fills, x.1 ≠ f.dd.toNat) ∧
        ∀ n, Tab.get Desc.zero t.co.descs n = if n = f.dd.toNat then { d with
          front := d.back, back := d.front, fspace := d.bspace, bspace := d.fspace, state := .ready }
          else Tab.get Desc.zero s.co.descs n)

/-- R136, R299, R300, R301, R133: DSET checks and stores an entry, DGET reads 16 bytes of one, DSTA its state, DCLR empties it. -/
def Sys2Proof.Claim.DescriptorsAreSetReadAndCleared : Prop :=
  (∀ s f, let n := localVal s (s.int f.ga) 64
    let w := 4096 * 2 ^ s.cx.wsize.toNat
    (s.desc f.dd).state ≠ .filling → (s.desc f.dd).state ≠ .draining →
    (descOf n = none → Next (exec (.dset f) s) fun t => traps s t 0x04 s.words) ∧
    ∀ d, descOf n = some d → d.fspace = .loc → d.bspace = .loc → d.back = 0 →
      let o := d.front.toNat % w
      (o < 1024 ∨ w < o + d.hull (s.cx.wbase.toNat + o) → Next (exec (.dset f) s) fun t => traps s t 0x06 s.cx.pc) ∧
      (1024 ≤ o → o + d.hull (s.cx.wbase.toNat + o) ≤ w → d.aligned (BitVec.ofNat 64 (s.cx.wbase.toNat + o)) = true → d.extBad = false →
        d.hasScale = false → Next (exec (.dset f) s) fun t => completes s { t with co.descs := s.co.descs } (s.cx.pc + 8) 0 ∧
          regsKept s t ∧ memoryKept s t ∧ ∀ k, Tab.get Desc.zero t.co.descs k = if k = f.dd.toNat then { d with
            front := BitVec.ofNat 64 (s.cx.wbase.toNat + o), back := 0,
            perm := if d.perm = 0 then 0 else BitVec.ofNat 20 (localByte s (d.perm.setWidth 64) 1 0) }
            else Tab.get Desc.zero s.co.descs k)) ∧
  (∀ s f, Next (exec (.dget f) s) fun t =>
    writesReg s t 8 f.gd (BitVec.ofNat 128 ((s.desc f.dd).image / 2 ^ (128 * f.x2.toNat))) false 0) ∧
  (∀ s f, Next (exec (.dsta f) s) fun t => writesReg s t 8 f.gd (BitVec.ofNat 128 (match (s.desc f.dd).state with
    | .empty => 0
    | .filling => 1
    | .ready => 2
    | .draining => 3)) false 0) ∧
  ∀ s f, if (s.desc f.dd).state = .filling ∨ (s.desc f.dd).state = .draining then
      Next (exec (.dclr f) s) fun t => t.cx.status = .waiting ∧ t.cx.waitk = 6 ∧ t.cx.pc = s.cx.pc ∧ regsKept s t ∧ t.co = s.co ∧
        elsewhereKept s t
    else Next (exec (.dclr f) s) fun t => completes s { t with co.descs := s.co.descs } (s.cx.pc + 8) 0 ∧ regsKept s t ∧
      memoryKept s t ∧ ∀ k, Tab.get Desc.zero t.co.descs k = if k = f.dd.toNat then { s.desc f.dd with
        state := .empty } else Tab.get Desc.zero s.co.descs k

/-- PUB swaps buffers; descriptors are set, read and cleared: the statements named here, together.
What the manual leaves open here is the model's choice: assumptions 31, 32 and 128. -/
def Obligations.DescriptorsAndPublishing : Prop :=
  Sys2Proof.Claim.PublishingSwapsTheBuffers ∧ Sys2Proof.Claim.DescriptorsAreSetReadAndCleared

namespace Sys2Proof.Claim

/-! ## Collectives (R25, R100, R101, R151 to R158, R308 to R313) -/

/-- The scope that a collective instruction of the focused core names; none where its word traps (R308). -/
def scopeOf (s : State) (f : W2) : Option Scp := s.scopeAt s.co.id f.x2.toNat (if f.x2.toNat = 0 then s.int f.ga else 0)
/-- A scope word names an aligned sub-rectangle of the launch with sides that are powers of two and holds the core (R25, R308). -/
def wordFits (l : Launch) (core : Nat) (v : Nat) : Prop :=
  let x0 := v % 65536
  let y0 := v / 65536 % 65536
  let w := 2 ^ (v / 2 ^ 32 % 16)
  let h := 2 ^ (v / 2 ^ 36 % 16)
  v / 2 ^ 40 = 0 ∧ x0 % w = 0 ∧ y0 % h = 0 ∧ x0 + w ≤ l.width ∧ y0 + h ≤ l.height ∧
    x0 ≤ l.xrel core ∧ l.xrel core < x0 + w ∧ y0 ≤ l.yrel core ∧ l.yrel core < y0 + h
/-- No round of this identity runs yet. -/
def firstOf (s : State) (sc : Scp) (kind : RKind) (k : Nat) : Prop :=
  ∀ r ∈ s.rounds, ¬ (r.owner = sc.owner ∧ r.key = sc.key ∧ r.kind = kind ∧ r.k = k)
/-- The contribution that RED and REDX read from DA, bf16 widened to f32 (R310). -/
def words (s : State) (f : W2) : List W32 :=
  (List.range (s.desc f.da).count).map (fun e =>
    BitVec.ofNat 32 (if vfmt f = .bf16 then (s.desc f.da).at s.co.store e * 65536 else (s.desc f.da).at s.co.store e))
/-- The reduction that a form of RED names: its operation and the format of DD (R310). -/
def redKind (f : W2) : RedOp × Fmt :=
  if f.cnd = 1 then (.max, .f32) else if f.cnd = 2 then (.min, .f32) else if f.cnd = 3 then (.or, .n32)
  else if f.cnd = 0 ∧ vfmt f = .bf16 then (.sumB, .f32) else if f.cnd = 0 ∧ vfmt f = .i32 then (.sumI, .i32) else (.sumF, .f32)
/-- What RED and REDX ask of their descriptors and of the core. -/
def redReady (s : State) (f : W2) (t : Fmt) : Prop :=
  usable s f.dd t true ∧ usable s f.da (vfmt f) false ∧ (s.desc f.dd).exts = (s.desc f.da).exts ∧ (s.desc f.da).count ≤ 4096 ∧
    s.co.vop = none ∧ unpoisoned s ∧ covered s 500 ∧ s.cx.dropped = false
/-- Words written into a descriptor from its first element on, up to its count. -/
def wroteWords (d : Desc) (ws : List W32) (m m' : Memory) : Prop :=
  wrote d (((ws.take d.count).zipIdx).map (fun x => (x.2, x.1.toNat))) m m'

/-- A contribution of a participant of a scope with others goes to the router of its node (R152). -/
def contributed (s t : State) (sc : Scp) (v : NodeVal) : Prop :=
  ∃ rid dst, sc.cores[sc.idx / 2 * 2]? = some dst ∧ t.net = s.net ++ [{
    launch := 0, src := s.co.id, srcHid := 65536, dst := dst,
    payload := .node sc.owner rid 1 (sc.idx / 2) (decide (sc.idx % 2 = 1)) v }]

/-- The context has acquired at the scope of a collective of kind `kind` and at those within it: rect for kinds 0 and 1, pkg for 2, fab for 3
(R84, R88, R308). -/
def acquiredAt (s t : State) (kind : Nat) : Prop := ∀ i : Fin 4, i.val ≤ Max.max 1 kind → t.cx.snap.get i = s.space.seq
/-- The waiting context ends its wait with the PC behind the instruction and a new snapshot point (R88, R101). -/
def resumed (s t : State) (kind : Nat) : Prop :=
  t.cx.pc = s.cx.npc ∧ t.cx.status = .resident ∧ t.cx.wait = none ∧ t.cx.waitk = 0 ∧ acquiredAt s t kind ∧
    t.spaces = s.spaces

end Sys2Proof.Claim

/-- R308: a scope word that names no aligned sub-rectangle of the launch around the core traps SCOPE with the word in st.tval. -/
def Sys2Proof.Claim.ScopeWordsAreChecked : Prop :=
  ∀ s f, f.x2 = 0 → (¬ wordFits s.lau s.co.id (s.int f.ga).toNat ↔ scopeOf s f = none) ∧
    (scopeOf s f = none → (Next (exec (.bar f) s) fun t => traps s t 0x05 (s.int f.ga)) ∧
      (f.minor.toNat % 2 = 0 → Next (exec (.rstat f) s) fun t => traps s t 0x05 (s.int f.ga)))

/-- R100, R309: BAR releases, joins its round and waits; with every participant there a waiting context goes on and acquires, before
that it does not. -/
def Sys2Proof.Claim.BarriersGatherAndRelease : Prop :=
  (∀ s f sc, scopeOf s f = some sc → Next (exec (.bar f) s) fun t => waits s t 4 8 ∧ released s t ∧ t.co.store = s.co.store ∧
    t.cx.wait = some (.bar sc.key (s.co.scopeSt sc.key).bars) ∧ t.cores = s.cores ∧
    ∃ r ∈ t.rounds, r.owner = sc.owner ∧ r.key = sc.key ∧ r.kind = .bar ∧ r.k = (s.co.scopeSt sc.key).bars ∧ sc.idx ∈ r.issued) ∧
  ∀ s key k sc i r, s.cx.status = .waiting → s.cx.wait = some (.bar key k) →
    s.scopeAt s.co.id key.kind.toNat key.word = some sc → s.rootHeld s.co.id sc = false →
    s.findRound sc.owner sc.key .bar k (fun r => !r.taken.contains sc.idx) = some i → s.rounds[i]? = some r →
    if r.issued.length < sc.parts then exec (.barRelease s.co.id s.cx.hid) s = .next s
    else Next (exec (.barRelease s.co.id s.cx.hid) s) fun t => resumed s t sc.key.kind.toNat ∧ regsKept s t ∧ t.co = s.co ∧ t.cores = s.cores

/-- Scope words are checked; barriers gather and release: the statements named here, together.
What the manual leaves open here is the model's choice: assumptions 11 and 40. -/
def Obligations.ScopesAndBarriers : Prop :=
  Sys2Proof.Claim.ScopeWordsAreChecked ∧ Sys2Proof.Claim.BarriersGatherAndRelease

/-- R152, R157, R158, R287, R310, R311: RED and REDX send their contribution towards the root and wait; the only participant of a RED
has its result at once. -/
def Sys2Proof.Claim.ReductionsContribute : Prop :=
  (∀ s f sc, scopeOf s f = some sc → redReady s f (redKind f).2 → sc.me = none → sc.idx < sc.cores.length →
    sc.cores.length = sc.parts → s.rootHeld s.co.id sc = false →
    let k := (s.co.scopeSt sc.key).reds
    let v : NodeVal := {
      op := (redKind f).1, deadline := if s.lau.det then none else some (s.int f.gd).toNat, data := words s f, bits := [sc.idx] }
    firstOf s sc .red k →
    if 1 < sc.parts then Next (exec (.red f) s) fun t => waits s t 4 8 ∧ contributed s t sc v ∧
      t.cx.wait = some (.red sc.key k (s.desc f.dd)) ∧ (t.co.scopeSt sc.key).reds = k + 1 ∧ t.co.store = s.co.store
    else (k = 0 ∨ (s.co.scopeSt sc.key).heldK = some (k - 1)) → Next (exec (.red f) s) fun t => issued s t ∧ regsKept s t ∧
      t.cx.pc = s.cx.pc + 8 ∧ wroteWords (s.desc f.dd) (words s f) s.co.store t.co.store ∧ (t.co.scopeSt sc.key).reds = k + 1 ∧
      (t.co.scopeSt sc.key).heldK = some k ∧ (t.co.scopeSt sc.key).held = [sc.idx]) ∧
  ∀ s f sc, scopeOf s f = some sc → redReady s f (vfmt f) → sc.me = none → sc.idx < sc.cores.length →
    sc.cores.length = sc.parts →
    let k := (s.co.scopeSt sc.key).redxs
    let v : NodeVal := {
      op := .maxN, deadline := none, data := words s f, bits := [sc.idx] }
    firstOf s sc .redx k →
    Next (exec (.redx f) s) fun t => waits s t 4 8 ∧ (1 < sc.parts → contributed s t sc v) ∧
      t.cx.wait = some (.redx sc.key k (s.desc f.dd)) ∧ (t.co.scopeSt sc.key).redxs = k + 1 ∧ t.co.store = s.co.store

/-- R152 to R154, R156, R314: a node waits for its second child or the end of the tick of its cutoff, combines left with right and, at the
root, has the result; below the root the value goes to the parent. A value that comes first after that tick leaves an empty value to the
parent and goes to the root as a correction. -/
def Sys2Proof.Claim.ReductionNodesCombine : Prop :=
  ∀ s i r l j, s.rounds[i]? = some r → r.me = none → r.taken = [] → r.cores ≠ [] → s.asleep r.owner r.key (j * 2 ^ l) = false →
    let n := r.node l j
    n.fwd = false →
    (∀ m rest v, s.net = m :: rest → m.payload = .node r.owner r.rid l j true v → s.pathHeld m.src m.dst = false →
      s.rounds.findIdx? (·.rid == r.rid) = some i → n.rightIn = false →
      (∀ dl, n.dl = some (some dl) → s.tick ≤ dl + l * n.hop) →
      let same (t : State) : Prop := t.net = rest ∧ t.cx = s.cx ∧ ({ t.co with weightSum := s.co.weightSum } : Core) = s.co
      (n.left = none → n.leftIn = false → n.dl ≠ none →
        Next (exec (.redNodeArrival 0 none) s) fun t => same t ∧
          ∃ r' ∈ t.rounds, r'.rid = r.rid ∧ (r'.node l j).right = some v ∧ (r'.node l j).fwd = false ∧ r'.result = r.result) ∧
      (∀ a, n.left = some a → n.leftIn = true → n.dl ≠ none → r.depth ≤ l → a.op = v.op → a.deadline = v.deadline →
        a.data.length = v.data.length → Next (exec (.redNodeArrival 0 none) s) fun t => same t ∧
          ∃ r' ∈ t.rounds, r'.rid = r.rid ∧ (r'.node l j).fwd = true ∧ ∃ w, r'.result = some w ∧
            if a.bits = [] then w = v else if v.bits = [] then w = a
            else w.op = v.op ∧ w.data = List.zipWith v.op.apply a.data v.data ∧ ∀ b, b ∈ w.bits ↔ b ∈ a.bits ∨ b ∈ v.bits) ∧
      ∀ d c p z, n.left = none → n.right = none → n.dl = none → v.deadline = some d → d + l * n.hop < s.tick → v.bits ≠ [] →
        l < r.depth → r.coreOf (j * 2 ^ l) = some c → r.coreOf (j / 2 * 2 ^ (l + 1)) = some p → r.coreOf 0 = some z →
        Next (exec (.redNodeArrival 0 none) s) fun t => t.cx = s.cx ∧ t.net = rest ++ [{
          launch := 0, src := c, srcHid := 65536, dst := p,
          payload := .node r.owner r.rid (l + 1) (j / 2) (decide (j % 2 = 1)) { v with data := [], bits := [] } }, {
          launch := 0, src := c, srcHid := 65536, dst := z, payload := .correction r.owner r.key r.k v }]) ∧
    ∀ v c dl, n.left = some v → n.right = none → n.dl = some (some dl) →
      r.coreOf (j * 2 ^ l) = some c → s.relocks c = false →
      (s.tick ≤ dl + l * n.hop → exec (.redNodeCutoff i l j) s = .next s) ∧
      (dl + l * n.hop < s.tick →
        (r.depth ≤ l → Next (exec (.redNodeCutoff i l j) s) fun t => t.net = s.net ∧ t.cx = s.cx ∧ t.co = s.co ∧
          ∃ r' ∈ t.rounds, r'.rid = r.rid ∧ r'.result = some v) ∧
        ∀ p, l < r.depth → r.coreOf (j / 2 * 2 ^ (l + 1)) = some p → Next (exec (.redNodeCutoff i l j) s) fun t =>
          t.cx = s.cx ∧ t.co = s.co ∧ t.net = s.net ++ [{
            launch := 0, src := c, srcHid := 65536, dst := p,
            payload := .node r.owner r.rid (l + 1) (j / 2) (decide (j % 2 = 1)) v }])

/-- R155, R101, R158, R310, R311: a result reaches a waiting participant, which writes it into DD, holds the bitmap and acquires. -/
def Sys2Proof.Claim.ReductionResultsArrive : Prop :=
  ∀ s key k dd sc i v, s.cx.status = .waiting → s.scopeAt s.co.id key.kind.toNat key.word = some sc → sc.key = key →
    s.rootHeld s.co.id sc = false →
    (s.cx.wait = some (.red key k dd) → s.resultFor .red sc k = some (i, v) →
      (k = 0 ∨ (s.co.scopeSt key).heldK = some (k - 1)) → Next (exec (.redResultDelivery s.co.id s.cx.hid) s) fun t =>
        resumed s t key.kind.toNat ∧ regsKept s t ∧ wroteWords dd (v.result dd.count) s.co.store t.co.store ∧
        (t.co.scopeSt key).heldK = some k ∧
        (t.co.scopeSt key).held = v.bits ∧ t.cores = s.cores) ∧
    (s.cx.wait = some (.redx key k dd) → s.resultFor .redx sc k = some (i, v) →
      Next (exec (.redxRelease s.co.id s.cx.hid) s) fun t =>
        resumed s t key.kind.toNat ∧ regsKept s t ∧ wroteWords dd v.data s.co.store t.co.store ∧ t.cores = s.cores)

/-- Reductions contribute, combine in the tree and return: the statements named here, together.
What the manual leaves open here is the model's choice: assumptions 11, 41, 42, 43, 95 and 124. -/
def Obligations.ReductionsCombineInTheTree : Prop :=
  Sys2Proof.Claim.ReductionsContribute ∧
    Sys2Proof.Claim.ReductionNodesCombine ∧
    Sys2Proof.Claim.ReductionResultsArrive

/-- R156, R312, R313, R158: RSTAT reports the held result and the corrections that have come, with .bm the held bitmap too, CORR takes the oldest of them or waits, and
its time limit ends the wait with zero.
What the manual leaves open here is the model's choice: assumptions 11 and 95. -/
def Obligations.CorrectionsAreReportedAndTaken : Prop :=
  (∀ s f sc, scopeOf s f = some sc → f.minor.toNat % 2 = 0 → unpoisoned s →
    let x := s.co.scopeSt sc.key
    Next (exec (.rstat f) s) fun t => ∃ v : Word, writesReg s t 8 f.gd (intBits v) false 0 ∧
      (x.heldK = none → v = 0) ∧ ∀ k, x.heldK = some k → v.toNat % 2 ^ 31 = x.held.length % 2 ^ 31 ∧ v.getLsbD 31 = true ∧
        v.toNat / 2 ^ 32 % 2 ^ 16 = Min.min 16 (s.undelivered s.co.id sc).length ∧ v.toNat / 2 ^ 48 = k % 65536) ∧
  (∀ s f sc, scopeOf s f = some sc → f.minor.toNat % 2 = 1 → f.x2.toNat < 3 → usable s f.dd .n32 true → unpoisoned s →
    let n := (sc.parts + 31) / 32
    if (s.desc f.dd).count < n then Next (exec (.rstat f) s) fun t => traps s t 0x06 s.cx.pc
    else Next (exec (.rstat f) s) fun t => t.cx.pc = s.cx.pc + 8 ∧ issued s t ∧ elsewhereKept s t ∧ (∃ v : Word, regWritten s t f.gd (intBits v) false) ∧
      ∃ ws : List W32, ws.length = n ∧ wroteWords (s.desc f.dd) ws s.co.store t.co.store ∧
        ∀ q i, q < n → i < 32 → ((ws.getD q 0).getLsbD i = true ↔ 32 * q + i ∈ (s.co.scopeSt sc.key).held)) ∧
  (∀ s f sc, scopeOf s f = some sc → (s.desc f.dd).state = .ready → ((s.desc f.dd).fmt = .f32 ∨ (s.desc f.dd).fmt = .i32 ∨
      (s.desc f.dd).fmt = .n32) → (s.desc f.dd).fspace = .loc → (s.desc f.dd).wr = true → s.co.vop = none → unpoisoned s →
    (s.lau.det = true → Next (exec (.corr f) s) fun t => writesReg s t 8 f.gd 0 false 0) ∧
    (s.lau.det = false → s.undelivered s.co.id sc = [] → s.int f.gd = 0 →
      Next (exec (.corr f) s) fun t => writesReg s t 8 f.gd 0 false 0) ∧
    (s.lau.det = false → s.undelivered s.co.id sc = [] → s.int f.gd ≠ 0 →
      Next (exec (.corr f) s) fun t => waits s t 4 8 ∧ elsewhereKept s t ∧ t.co.store = s.co.store ∧
        t.cx.wait = some (.corr sc.key (s.desc f.dd) f.gd (s.tick + (s.int f.gd).toNat) s.co.cycle)) ∧
    ∀ r rest, s.lau.det = false → s.undelivered s.co.id sc = r :: rest →
      Next (exec (.corr f) s) fun t => issued s t ∧ t.cx.pc = s.cx.pc + 8 ∧ wroteWords (s.desc f.dd) r.val.data s.co.store t.co.store ∧
        (t.co.scopeSt sc.key).corrPos = (s.co.scopeSt sc.key).corrPos + 1 ∧ elsewhereKept s t ∧ acquiredAt s t sc.key.kind.toNat ∧
        (∀ b, b ∈ (t.co.scopeSt sc.key).held ↔ b ∈ (s.co.scopeSt sc.key).held ∨ b ∈ r.val.bits) ∧
        ∃ v : Word, regWritten s t f.gd (intBits v) false ∧ v.toNat % 2 ^ 16 = 1 ∧
          v.toNat / 2 ^ 16 % 2 ^ 16 = r.val.bits.length % 65536 ∧ v.toNat / 2 ^ 32 % 2 ^ 16 = r.k % 65536 ∧
          v.toNat / 2 ^ 48 = r.val.bits.headD 0 % 65536) ∧
  ∀ s key dd gd till since, s.cx.status = .waiting → s.cx.wait = some (.corr key dd gd till since) →
    if till ≤ s.tick then Next (exec (.corrTimeout s.co.id s.cx.hid) s) fun t => regWritten s t gd 0 false ∧ t.cx.pc = s.cx.npc ∧
      t.cx.status = .resident ∧ t.cx.wait = none ∧ t.co = s.co ∧ elsewhereKept s t
    else exec (.corrTimeout s.co.id s.cx.hid) s = .next s

namespace Sys2Proof.Claim

/-! ## Visits, fetch and the life of contexts (R34 to R56, R187, R188, R319) -/

/-- The state at the next cycle of the focused core that belongs to a slot (R34). -/
def visited (s : State) (slot : Nat) : State := s.reach (s.slotCycle slot + 1)
/-- The focused context holds the slot, whose cycle is the next that may do something (R66), and nothing comes before its instruction: no
relock, trap, stop or restart (R35, R323, R338). -/
def canVisit (s : State) (slot : Nat) : Prop :=
  slot < 11 ∧ s.relocking = false ∧ s.lau.halted = false ∧ s.nextVisit slot = slot ∧ s.cx.slot = some slot ∧ s.cx.status = .resident ∧ s.cx.rewind = false ∧ s.cx.pend = none ∧
    s.cx.awaitFetch = false ∧ s.asyncDue = false ∧ s.stopHit = false
/-- Word `k` at the focused context's PC. -/
def pcWord (s : State) (k : Nat) : Nat := s.space.iword (s.cx.pc.toNat + 4 * k)
/-- The number of words that the length bits of word 0 name (R169). -/
def pcWords (s : State) : Nat := wordCount (pcWord s 0)
/-- The instruction page of word `k` is mapped (R82). -/
def pcMapped (s : State) (k : Nat) : Prop := s.space.imapped (s.cx.pc.toNat + 4 * k) = true
/-- Word `k` where the length names it, else 0. -/
def pcWordIf (s : State) (k : Nat) : Nat := if k < pcWords s then pcWord s k else 0

/-- No word of the instruction at the focused context's PC lies in a poisoned line (R446). -/
def readable (s : State) : Prop := s.space.fetchBad s.cx.pc.toNat = none

/-- The state of a visit in which an instruction issues: its register lines are used in this cycle (R45). -/
def issuing (s : State) (slot : Nat) : State :=
  let v := visited s slot
  { v with cx := v.cx.useLines (namedLines (pcWord s 0)) v.co.cycle }
/-- The bytes at the focused context's PC decode to `i`, its register lines are in the cache, no VCMP holds a register that it names, and
neither the first issue of a helper nor a checked or deterministic launch asks for more (R44, R105, R187, R275, R437, R450). -/
def mayIssue (s : State) (i : Instr) : Prop :=
  pcWords s ≠ 0 ∧ (∀ k, k < pcWords s → pcMapped s k) ∧
    decodeWords (pcWord s 0) (pcWordIf s 1) (pcWordIf s 2) = .ok i ∧
    namedLines (pcWord s 0) &&& ~~~s.cx.lines = 0 ∧ (checksHeld i = true ∨ s.heldReg (namedRegs (pcWord s 0)) = false) ∧
    (s.cx.helper = true → s.cx.retired ≠ 0) ∧ s.lau.det = false ∧ s.lau.checked = false ∧ readable s

/-- A vector operation's destination bytes have taken free values and nothing else of the store has changed (R269). -/
def destFree (s t : State) (as : List Nat) : Prop := ∀ a, a ∉ as → Memory.read t.co.store a = Memory.read s.co.store a

/-- The context `hid` of the focused core and what is said of it. -/
def ctxIs (s : State) (core hid : Nat) (p : Ctx → Prop) : Prop := ∃ c, s.ctxAt core hid = some c ∧ p c

end Sys2Proof.Claim

/-- R35, R187: a visit of a resident context whose bytes at the PC decode runs exactly the decoded instruction, at the state of the
slot's next cycle, where the module has nothing to do before it. The context's own retirement moves the PC.
What the manual leaves open here is the model's choice: assumptions 1 and 12. -/
def Obligations.AStepRunsTheDecodedInstruction : Prop :=
  ∀ s : State, ∀ slot rest i, s.agenda = .slotVisit s.co.id slot :: rest → s.powered = true → s.ir = none → canVisit s slot →
    s.comesFirst (.slotVisit s.co.id slot) = none → mayIssue s i → Machine.step s = exec i { issuing s slot with
      agenda := rest }

/-- R82, R187, R188, R319: an unmapped instruction page traps PAGE with the PC, and a word that does not decode traps with its cause and the
words in st.tval. -/
def Sys2Proof.Claim.FetchAndDecodingFailuresTrap : Prop :=
  ∀ s slot, canVisit s slot → readable s →
    (¬ pcMapped s 0 → Next (exec (.slotVisit s.co.id slot) s) fun t => traps (visited s slot) t 0x15 s.cx.pc) ∧
    (pcMapped s 0 → pcWords s = 0 →
      Next (exec (.slotVisit s.co.id slot) s) fun t => traps (visited s slot) t 0x01 (BitVec.ofNat 64 (pcWord s 0))) ∧
    (∀ k, pcMapped s 0 → 0 < k → k < pcWords s → (∀ j, j < k → pcMapped s j) → ¬ pcMapped s k →
      Next (exec (.slotVisit s.co.id slot) s) fun t => traps (visited s slot) t 0x15 (BitVec.ofNat 64 (s.cx.pc.toNat + 4 * k))) ∧
    ∀ e, pcWords s ≠ 0 → (∀ k, k < pcWords s → pcMapped s k) →
      decodeWords (pcWord s 0) (pcWordIf s 1) (pcWordIf s 2) = .error e →
      Next (exec (.slotVisit s.co.id slot) s) fun t => traps (visited s slot) t
        (match e with
          | .length => 1
          | .major => 2
          | .minor => 3
          | .reserved => 4) (BitVec.ofNat 64 (pcWord s 0 + pcWordIf s 1 * 2 ^ 32))

/-- R34 to R36, R39, R40, R44 to R46, R48, R49, R52, R79, R149, R150, R324: a visit lets the context's instruction issue, slot 11 makes a
pending write-back, fetched instructions and register lines arrive, a line whose record cannot be read, or lies in a poisoned line, parks
its helper with REGFAULT, a free slot takes the head of the queue, a helper that has waited long enough leaves its slot at its visit,
expired translations go, and a matrix operation waits out a refresh of a bank that it reads.
What the manual leaves open here is the model's choice: assumptions 1, 13, 103, 112 and 114. -/
def Obligations.ContextsComeAndGo : Prop :=
  (∀ s slot i, canVisit s slot → mayIssue s i →
    exec (.slotVisit s.co.id slot) s = .next { issuing s slot with
      ir := some i }) ∧
  (∀ s w rest, s.relocking = false → s.nextVisit 11 = 11 → s.co.wbq = w :: rest →
    Next (exec (.slotVisit s.co.id 11) s) fun t => t.cx = s.cx ∧ elsewhereKept (visited s 11) t ∧
      t.co.wbq = (if w.left ≤ 1 then rest else { w with
        left := w.left - 1 } :: rest) ∧
      Tab.get 0 t.co.counters 27 = Tab.get 0 s.co.counters 27 + 1) ∧
  (∀ s : State, s.cx.status ≠ .free →
    (entered s → Next (exec (.instructionFetchArrival s.co.id s.cx.hid false) s) fun t =>
      t.cx = { s.cx with
        awaitFetch := false } ∧ t.co = s.co ∧ elsewhereKept s t) ∧
    (∀ bad, s.relocks s.co.id = true → Next (exec (.instructionFetchArrival s.co.id s.cx.hid bad) s) fun t =>
      t.cx = s.cx ∧ t.co = s.co ∧ ({ t with
        dies := s.dies } : State) = s ∧ (dieOf s.co.id < s.dies.length → ∃ d, t.dies[dieOf s.co.id]? = some d ∧
          .fetch s.co.id s.cx.hid bad ∈ d.inputs))) ∧
  (∀ s : State, ∀ line : Fin 4, s.cx.status ≠ .free → s.cx.lineReq.getLsbD line.val = true → entered s →
    let at_ := s.war.recAddr s.lau s.co.id s.cx + 128 * line.val
    (s.space.bad at_ = false → s.space.bad (at_ + 64) = false →
      Next (exec (.registerLineFill s.co.id s.cx.hid line.val .arrives) s) fun t => t.cx.lines = s.cx.lines ||| (1 : BitVec 4) <<< line.val ∧
      t.cx.lineReq = s.cx.lineReq &&& ~~~((1 : BitVec 4) <<< line.val) ∧ regsKept s t ∧ elsewhereKept s t ∧
      ({ t.co with lru := s.co.lru } : Core) = s.co ∧
      let clean (r : LineRec) : Prop := ∀ w ∈ s.co.wbq, w.hid ≠ r.hid
      if ((t.packed.ctxs.filter (·.slot.isSome)).map (fun x => lineCount x.lines)).sum + s.co.lru.length ≤ 64 then t.co.lru = s.co.lru
      else (∃ r ∈ s.co.lru, clean r) → ∃ r ∈ s.co.lru, clean r ∧ t.co.lru = s.co.lru.erase r ∧ ∀ q ∈ s.co.lru, clean q → r.use ≤ q.use) ∧
    (∀ how, how = .untranslated ∨ (how = .arrives ∧ (s.space.bad at_ = true ∨ s.space.bad (at_ + 64) = true)) →
      s.cx.helper = true → s.co.ring.length < 64 → Next (exec (.registerLineFill s.co.id s.cx.hid line.val how) s) fun t =>
      t.cx.status = .parked ∧ regsKept s t ∧ Tab.get 0 t.co.counters 8 = Tab.get 0 s.co.counters 8 + 1 ∧
      ∃ r : FaultRec, t.co.ring = s.co.ring ++ [r] ∧ r.cause = 0x24 ∧ r.kind = 3 ∧ r.hid = s.cx.hid ∧ r.pc = s.cx.pc)) ∧
  (∀ s n h, s.packed.freeSlot = some n → s.packed.queueHead s.lau.det = some h → (s.ctxAt s.co.id h).isSome = true →
    Next (exec (.slotRelease s.co.id) s) fun t => ctxIs t s.co.id h (fun c => c.status = .resident ∧ c.slot = some n ∧
      c.act = BitVec.ofNat 64 s.tick ∧ c.awaitFetch = true) ∧ h ∉ t.co.promoted ∧ h ∉ t.co.woken ∧ h ∉ t.co.started) ∧
  (∀ s k, s.cx.helper = true → s.cx.status = .waiting → s.cx.waitk ≠ 0 → s.cx.wait ≠ some .detHold → s.cx.slot = some k → k < 11 →
    s.relocking = false → s.lau.halted = false → s.nextVisit k = k → s.co.actthr.toNat ≤ (visited s k).co.cycle - s.cx.waitSince → s.packed.queueEmpty = false →
    Next (exec (.helperDeactivation s.co.id s.cx.hid) s) fun t => t.cx.status = .waitingOut ∧ t.cx.slot = none ∧ t.cx.wait = s.cx.wait ∧
      regsKept s t ∧ t.co.wbq = s.co.wbq ++ [{ slot := k, hid := s.cx.hid, left := lineCount s.cx.dirty + 1 }] ∧
      elsewhereKept (visited s k) t) ∧
  (∀ s : State, ∀ page, Next (exec (.tlbLeaseExpiry s.co.id page) s) fun t => t.cx = s.cx ∧ elsewhereKept s t ∧
    ∀ e, e ∈ t.co.tlb ↔ e ∈ s.co.tlb ∧ ¬ (e.base = page ∧ e.till ≤ s.tick)) ∧
  ∀ s, ∀ bank : Fin 16, (¬ (s.tick % 400 < 100 ∧ s.tick % 6400 / 400 = bank.val) → exec (.wellRefresh bank) s = .next s) ∧
    (s.tick % 400 < 100 → s.tick % 6400 / 400 = bank.val → Next (exec (.wellRefresh bank) s) fun t => t.cx = s.cx ∧
      t.spaces = s.spaces ∧ ({ t.co with mop := s.co.mop } : Core) = s.co ∧
      ∀ v, s.co.mop = some v → v.since = s.tick / 400 → t.co.mop = if bank.val ∈ v.banks ∧ s.co.cycle < v.cycles then some { v with
        cycles := v.cycles + (100 - s.tick % 400) * s.mult, since := s.tick / 400 + 1 } else some v)

/-- R56, R59, R269, R317, R321, R325, R446: an uncorrectable error ends the operation of a unit; its live context resumes at its region
entry and takes the trap UNCORR, and what the operation would have written is undefined. One in an instruction word or a register line
ends the helper that reads it: it is parked with its registers zero and a KIND 4 record. -/
def Sys2Proof.Claim.UncorrectableErrorsEndOperations : Prop :=
  (∀ s v line, s.co.vop = some v → v.reads = false →
    (v.hid = 65536 → Next (exec (.longOperationFault s.co.id .vector line) s) fun t => t.co.vop = none ∧ destFree s t v.dest ∧
      t.cx = s.cx ∧ Tab.get 0 t.sensors 0x41 = (Tab.get 0 s.sensors 0x41 + 1) % 2 ^ 32 ∧ elsewhereKept s { t with
        picks := s.picks, sensors := s.sensors }) ∧
    (v.hid = s.cx.hid → s.cx.status = .resident → s.cx.hid < 65536 → s.cx.pend = none → s.cx.wait = none → s.cx.helper = false →
      s.cx.intrap = false → s.cx.tvec ≠ 0 → Next (exec (.longOperationFault s.co.id .vector line) s) fun t =>
        t.co.vop = none ∧ destFree s t v.dest ∧ regsKept s t ∧ t.cx.cause = 0x25 ∧ t.cx.tval = line ∧ t.cx.epc = s.cx.region ∧
        t.cx.pc = s.cx.tvec ∧ t.cx.intrap = true)) ∧
  (∀ s v line, s.co.mop = some v → v.hid = 65536 → v.mmr = false →
    Next (exec (.longOperationFault s.co.id .matrix line) s) fun t => t.co.mop = none ∧ destFree s t v.dest ∧ t.cx = s.cx ∧
      ∀ a, (∀ w, (a, w) ∉ v.writes) → Tab.get 0 t.co.acc a = Tab.get 0 s.co.acc a) ∧
  ∀ s : State, s.cx.status = .resident → s.cx.helper = true → s.co.ring.length < 64 → entered s →
    let ended (t : State) : Prop := t.cx.status = .parked ∧ (∀ n : Reg, t.g n = 0 ∧ t.gtag n = false) ∧
      ∃ r : FaultRec, t.co.ring = s.co.ring ++ [r] ∧ r.cause = 0x25 ∧ r.kind = 4 ∧ r.hid = s.cx.hid ∧ r.pc = s.cx.pc
    Next (exec (.instructionFetchArrival s.co.id s.cx.hid true) s) ended ∧
    (∀ slot n, canVisit s slot → s.space.fetchBad s.cx.pc.toNat = some n → Next (exec (.slotVisit s.co.id slot) s) ended) ∧
    ∀ line : Fin 4, s.cx.lineReq.getLsbD line.val = true →
      Next (exec (.registerLineFill s.co.id s.cx.hid line.val .uncorrectable) s) ended

/-- R449 to R452, R455: both copies of a checked launch go on when their hashes agree; otherwise, when a hash is late, and when a copy sends
again what its kept hash does not match, the mismatch is counted and the copies restart at their region entries. -/
def Sys2Proof.Claim.CheckedCopiesAgreeOrRestart : Prop :=
  ∀ s core m hid h k till tk, s.partner core = some m → core ≠ m → (∀ c ∈ s.cores, c.id ≠ s.co.id) →
    ctxIs s core hid (fun c => c.wait = some (.check h till) ∧ c.status = .waiting ∧ c.restarted = false) →
    ctxIs s m hid (fun c => c.wait = some (.check k tk) ∧ c.status = .waiting ∧ c.restarted = false) →
    let resent (x : Nat) : Prop := ctxIs s x hid (fun c => c.sent < c.hashes.length)
    let restarts (t : State) : Prop :=
      Tab.get 0 t.sensors 0x42 = (Tab.get 0 s.sensors 0x42 + 1) % 2 ^ 32 ∧ ∀ x, x = core ∨ x = m → ctxIs t x hid (fun c =>
        c.restarted = true ∧ c.rewind = true ∧ c.sent = 0 ∧ c.wait = none ∧ c.status = .resident)
    (s.relocks core = false → h = k → ¬ resent core → ¬ resent m →
      Next (exec (.checkedHashArrival core hid false) s) fun t => ∀ x, x = core ∨ x = m → ctxIs t x hid (fun c =>
        c.agreed = true ∧ c.wait = none ∧ c.status = .resident)) ∧
    (∀ differs, s.relocks core = false → h ≠ k ∨ differs = true ∨ resent core ∨ resent m →
      Next (exec (.checkedHashArrival core hid differs) s) restarts) ∧
    (till ≤ s.tick → Next (exec (.checkedHashTimeout core hid) s) restarts)

/-- Uncorrectable errors end operations; checked copies agree or restart: the statements named here, together.
What the manual leaves open here is the model's choice: assumptions 10, 38, 45, 46 and 47. -/
def Obligations.ErrorsAndCheckedCopies : Prop :=
  Sys2Proof.Claim.UncorrectableErrorsEndOperations ∧ Sys2Proof.Claim.CheckedCopiesAgreeOrRestart

namespace Sys2Proof.Claim

/-! ## Power, telemetry and STANDBY (R58 to R61, R159 to R167, R409, R410, R441 to R448, R455, R456) -/

/-- The registers of the governor and a die's FREQ word (R443). -/
def govReg (s : State) (off : Nat) : Nat :=
  if off = 0 then s.gov.ldown * 65536 + s.gov.lup
  else if off = 4 then s.gov.tthr * 2 ^ 24 + s.gov.ecap
  else if off = 8 then 1000 * s.gov.lup / 3300
  else if off = 12 then s.gov.overCnt * 65536 + s.gov.est
  else if 16 ≤ off ∧ off < 48 ∧ off % 4 = 0 then
    let d := s.dies.getD (off / 4 - 4) DieSt.reset
    d.cur * 65536 + d.ceil * 256 + d.tgt
  else 0
/-- A value limited to a range. -/
def limited (lo hi v : Nat) : Nat := if v < lo then lo else if hi < v then hi else v
/-- The management port answers (R414). -/
def manages (s : State) : Prop := s.recovery = false ∧ (s.ctrls.getD 8 Ctrl.reset).running = true
/-- Only a reply on the management port has gone out. -/
def replied (s t : State) (opc : Nat) (body : List Byte) : Prop :=
  ∃ o, t = { s with
    out := s.out ++ [o] } ∧ o.dest = 2 ^ 130 ∧ o.opc = opc ∧ o.body = body

/-- Only an event has joined the queue of 256, which drops its oldest (R456). -/
def eventQueued (s t : State) (id value : Nat) : Prop :=
  t.events = (s.events ++ [(id, value)]).drop (s.events.length + 1 - 256)

/-- The event that an arrival is which waits at a die's inputs. -/
def inputEvent (e : DieInput) (i : Instr) : Prop :=
  match e with
  | .reply core hid how bad => i = .globalReply core hid how bad
  | .waitwWake core hid spurious => i = .waitwWake core hid spurious
  | .fetch core hid bad => i = .instructionFetchArrival core hid bad
  | .line core hid line how => i = .registerLineFill core hid line how
  | .fabric f => i = .redNodeArrival 0 (some f)
  | .mapped core => i = .vmapCompletion core
  | .unmapped core => i = .vunmapCompletion core
  | .warrant core => i = .warrantInstructionCompletion core
  | .hash core hid differs => i = .checkedHashArrival core hid differs
  | .launched _ _ _ | .message _ | .corrections _ => False
/-- Arrivals have their effects one after another, which takes `s` to `t`. -/
def enterInOrder : List DieInput → State → State → Prop
  | [], s, t => t = s
  | e :: l, s, t => ∃ i u, inputEvent e i ∧ exec i s = .next u ∧ enterInOrder l u t

/-- The cores of a launch run on without outstanding work, so that an eviction has nothing to settle (R59). -/
def quiet (s : State) (l : Launch) : Prop :=
  ∀ c ∈ l.cores, (s.coreAt c).vop = none ∧ (s.coreAt c).mop = none ∧ (s.coreAt c).pumpq = [] ∧ (s.coreAt c).mmr = [] ∧
    ∀ x ∈ (s.coreAt c).ctxs, x.wait = none

end Sys2Proof.Claim

/-- R159 to R163, R443: at a window boundary of a module with one busy core and no other business the core's grant falls by its gap, limited by LDOWN, and then
rises by the unmet need of its request, at most to the full-core weight, when LUP allows; the sums start again. -/
def Sys2Proof.Claim.GrantsFollowTheWindow : Prop :=
  ∀ s : State, s.cores = [] → s.launches = [] → s.co.gramp = none → s.gov.writes = [] → s.relocks s.co.id = false → s.dies.length = 8 →
    s.co.cycBase + s.mult * (s.gov.next - s.co.cycTick) ≤ s.co.cycle → s.gov.overCnt < 3 → s.gov.low < 63 →
    (∀ d ∈ s.dies, d.hot < 63 ∧ d.cur = Min.min d.tgt d.ceil ∧ d.back = 0) →
    let fall := Min.min (s.gov.ldown * 1000 * 2048 * 25) (s.co.grant * 25 - s.co.weightSum * 32) / (25 * 2048) * 2048
    let low := s.co.grant - fall
    let rise := Min.min (s.co.request.getD 0) (3300 * 128 * s.mult - low)
    Next (exec .governorWindowBoundary s) fun t => t.gov.next = s.gov.next + 100 ∧ t.tick = Max.max s.tick s.gov.next ∧
      t.co.grant = (if rise ≤ s.gov.lup * 1000 * 2048 then low + rise else low) ∧ t.co.weightSum = 0 ∧ t.co.balSum = 0 ∧
      t.co.request = none ∧ t.cx = s.cx ∧ t.co.store = s.co.store

/-- R441 to R445, R455, R456: GVREAD returns a governor register, GVWRITE waits for the next window boundary, a temperature sample is
kept and reported when it crosses TTHR. -/
def Sys2Proof.Claim.GovernorRegistersAndSamples : Prop :=
  (∀ s off, manages s → Next (exec (.gvread off) s) fun t => replied s t 3 (leBytes 4 (govReg s off.toNat % 2 ^ 32))) ∧
  (∀ s off v, manages s → exec (.gvwrite off v) s = .next { s with
    gov.writes := s.gov.writes ++ [(off.toNat, v)] }) ∧
  (∀ s : State, ∀ v : W32, (s.govWrite 0 v).gov.lup = limited 50 1000 (v.toNat % 1024) ∧ (s.govWrite 0 v).gov.ldown = limited 50 1000 (v.toNat / 65536 % 1024) ∧
    (s.govWrite 4 v).gov.tthr = limited 70 105 (v.toNat / 2 ^ 24 % 256) ∧ (s.govWrite 4 v).gov.ecap = limited 1000 8448 (v.toNat % 16384)) ∧
  ∀ s : State, ∀ die : Fin 8, ∀ deg, s.dies.length = 8 → Next (exec (.dieTemperatureSample die deg) s) fun t =>
    (t.dies.getD die.val DieSt.reset).temp = deg ∧ Tab.get 0 t.sensors (1 + die.val) = deg ∧ t.cx = s.cx ∧ t.co = s.co ∧
    if decide (s.gov.tthr < (s.dies.getD die.val DieSt.reset).temp) = decide (s.gov.tthr < deg) then t.events = s.events
    else eventQueued s t (1 + die.val) deg

/-- Grants follow the power window; governor registers and samples: the statements named here, together.
What the manual leaves open here is the model's choice: assumptions 28, 29, 57, 59, 60 and 93. -/
def Obligations.GovernorWindows : Prop :=
  Sys2Proof.Claim.GrantsFollowTheWindow ∧ Sys2Proof.Claim.GovernorRegistersAndSamples

/-- R40, R166, R355, R446 to R448, R455, R456: at the end of a relock what waited at the die's inputs enters in its order of arrival; scrub of
a line, a late scrub pass and the acknowledgement of an event. -/
def Sys2Proof.Claim.RelocksScrubsAndEvents : Prop :=
  (∀ s t : State, ∀ die till, (s.dies.getD die DieSt.reset).relock = some till → s.corrLog = [] →
    (∀ m ∈ s.net, die ∉ pathDies m.src m.dst) →
    enterInOrder (s.dies.getD die DieSt.reset).inputs { s with
      tick := Max.max s.tick till, dies := s.dies.modify die (fun d => { d with relock := none, inputs := [] }) } t →
    (∀ c ∈ t.allCores, c.mmr = [] ∧ ∀ x ∈ c.ctxs, ¬ ∃ k n, x.wait = some (.bar k n) ∨ ∃ d, x.wait = some (.red k n d) ∨ x.wait = some (.redx k n d)) →
    exec (.relockEnd die) s = .next t) ∧
  (∀ s : State, ∀ l behind found, Next (exec (.scrubLine l found behind) s) fun t =>
    Tab.get 0 t.sensors (0x59 + scrubDie l) = (if behind then 1 else 0) ∧
    (Tab.get 0 s.sensors (0x59 + scrubDie l) ≠ (if behind then 1 else 0) →
      eventQueued s t (0x59 + scrubDie l) (if behind then 1 else 0)) ∧
    Tab.get 0 t.sensors 0x40 = (if found = .corrected then (Tab.get 0 s.sensors 0x40 + 1) % 2 ^ 32 else Tab.get 0 s.sensors 0x40) ∧
    Tab.get 0 t.sensors 0x41 = (if found = .uncorrectable then (Tab.get 0 s.sensors 0x41 + 1) % 2 ^ 32 else Tab.get 0 s.sensors 0x41) ∧
    t.cx = s.cx ∧
    (found ≠ .uncorrectable → ({ t with
      sensors := s.sensors, events := s.events } : State) = s) ∧
    (found = .uncorrectable → match l with
      | .hbm _ sp line => (s.spaces.any (·.id == sp) = true → line ∈ (t.spaceById sp).poison) ∧ t.co = s.co
      | .well die line => wellLine (line / 2 ^ 24) (die % 8) (line % 2 ^ 24) ∈ t.wellPoison ∧ t.co = s.co
      | .instruction _ sp line => (s.spaces.any (·.id == sp) = true → line ∈ (t.spaceById sp).ipoison) ∧ t.co = s.co
      | .localStore core line => line % 16384 ∈ (t.coreAt core).poison)) ∧
  (∀ s : State, ∀ die, Next (exec (.scrubPassLate die) s) fun t => Tab.get 0 t.sensors (0x59 + die % 8) = 2 ∧ t.cx = s.cx ∧ t.co = s.co ∧
    (Tab.get 0 s.sensors (0x59 + die % 8) ≠ 2 → eventQueued s t (0x59 + die % 8) 2)) ∧
  ∀ s : State, exec .platformEventAcknowledge s = .next { s with
    events := s.events.tail }

/-- R27, R58 to R61, R410: a STANDBY launch is evicted when a claim or the rotation asks for its cores, and restored on free ones, a checked one
with its mirror on dies that stand apart; the rotation goes to the next in placement order. -/
def Sys2Proof.Claim.StandbyLaunchesMove : Prop :=
  (∀ s lid, let l := s.launchById lid
    l.id = lid → l.cls = 2 → l.state = .accepted → l.mirrorOf = none → (∀ x ∈ s.launches, x.mirrorOf ≠ some lid) → l.granted ≠ [] →
    quiet s l → (∀ c ∈ l.live, c ∈ l.cores) → l.halted = true ∨ (∃ c ∈ l.cores, s.heldCore c = true) →
    s.leafQuiet (s.pairCores lid) = false →
    Next (exec (.standbyEviction lid) s) fun t => (t.launchById lid).state = .evicted ∧ ∀ c ∈ l.live, (t.coreAt c).launch = none) ∧
  (∀ s lid x y, let l := s.launchById lid
    let back (t : State) : Prop := (t.launchById lid).state = .accepted ∧ (t.launchById lid).px = x ∧ (t.launchById lid).py = y ∧
      (t.launchById lid).halted = false ∧ (t.launchById lid).image = [] ∧ (t.launchById lid).tick = BitVec.ofNat 64 s.tick
    l.id = lid → l.state = .evicted → l.mirrorOf = none → s.leafQuiet (blockCores x y l.width l.height) = false → s.freeRect l x y = true →
    (s.mirrorAway lid = none → Next (exec (.standbyRestore lid x y) s) back) ∧
    ∀ m, s.mirrorAway lid = some m → m.id ≠ lid → s.launchById m.id = m →
      if s.mirrorPlaces m x y = [] then exec (.standbyRestore lid x y) s = .next s
      else Next (exec (.standbyRestore lid x y) s) fun t => back t ∧ (t.launchById m.id).state = .accepted ∧
        (∀ a ∈ rectDies x y l.width l.height, ∀ b ∈ rectDies (t.launchById m.id).px (t.launchById m.id).py m.width m.height,
          m.width = l.width → m.height = l.height → diesApart a b = true)) ∧
  ∀ s out into, let a := s.launchById out
    let b := s.launchById into
    a.id = out → b.id = into → a.cls = 2 → a.state = .accepted → a.mirrorOf = none → (∀ x ∈ s.launches, x.mirrorOf ≠ some out) →
    a.granted ≠ [] → a.live ≠ [] → quiet s a → (∀ c ∈ a.live, c ∈ a.cores) → a.tick.toNat + 1000000 ≤ s.tick →
    s.nextSharer a = some into → s.leafQuiet (s.pairCores out) = false → b.mirrorOf = none → (∀ x ∈ s.launches, x.mirrorOf ≠ some into) →
    Next (exec (.standbyRotation out into) s) fun t => (t.launchById out).state = .evicted ∧
      (b.state = .evicted → s.leafQuiet (blockCores b.px b.py b.width b.height) = false → (s.evict out).freeRect b b.px b.py = true → (t.launchById into).state = .accepted)

/-- Relocks, scrub, events; STANDBY launches move: the statements named here, together.
What the manual leaves open here is the model's choice: assumptions 53, 83, 84, 94 and 115. -/
def Obligations.StandbyAndUpkeep : Prop :=
  Sys2Proof.Claim.RelocksScrubsAndEvents ∧ Sys2Proof.Claim.StandbyLaunchesMove

/-- R342, R350, R409, R410: a warrant ends with EXPIRED_RUNNING once the upper bound of trusted time reaches its NOTAFTER, and a STANDBY warrant
that stands evicted for the hold limit ends with its code; ENDED goes to the admitting connection. -/
def Sys2Proof.Claim.WarrantsExpire : Prop :=
  ∀ s wid, let w := s.warById wid
    w.id = wid → w.code = none → w.child = false → w.nested = false →
    let ended (code : BitVec 8) (t : State) : Prop := (t.warById wid).code = some code ∧
      (∀ l ∈ t.launches, l.war = wid → l.state = .done) ∧ ∃ o, t.out = s.out ++ [o] ∧ o.dest = w.conn ∧ o.opc = 0x85 ∧
        o.body.take 5 = leBytes 4 w.job ++ [code]
    (∀ c : Clock, s.clock = some c → s.pending w = false →
      if (w.rec_.notAfter : Int) ≤ c.hi s.tick then Next (exec (.warrantExpiry wid) s) (ended 0x40)
      else exec (.warrantExpiry wid) s = .next s) ∧
    ∀ since, w.evicted = some since → w.rec_.cls = 2 →
      if since + s.cfg.stbyhold * 360000000000 ≤ s.tick then Next (exec (.standbyHoldExpiry wid) s) (ended 0x42)
      else exec (.standbyHoldExpiry wid) s = .next s

namespace Sys2Proof.Claim

/-! ## The wellhead endpoint (R390 to R412, R415) -/

/-- The wellhead endpoint answers: boot has passed step 7 and the module is not in recovery mode (R391, R414). -/
def serving (s : State) : Prop := s.booted = true ∧ s.recovery = false
/-- The state with one more message sent. -/
def sentOut (s : State) (dest opc : Nat) (tag : Word) (body : List Byte) : State :=
  { s with
    out := s.out ++ [{ dest := dest, opc := opc, tag := tag, body := body }] }
/-- The state after a NAK (R392): the message is answered with its code and opcode, and its kind is counted. -/
def nakked (s : State) (m : AdmMsg) (code opc : Nat) : State :=
  sentOut { s with
    naks := Tab.set 0 s.naks code ((Tab.get 0 s.naks code + 1) % 2 ^ 64), sensors := Tab.set 0 s.sensors 0x43 ((Tab.get 0 s.sensors 0x43 + 1) % 2 ^ 32) }
    m.conn 0xFF m.tag (leBytes 1 code ++ leBytes 1 opc ++ List.replicate 6 0)
/-- An admission message: its header, its opcode, and whether a reserved field of its body is nonzero (R392, R393). -/
def messageRow : Instr → Option (AdmMsg × Nat × Prop)
  | .present m => some (m, 0x01, m.at 388 4 ≠ 0)
  | .object m => some (m, 0x02, m.at 2 6 ≠ 0)
  | .launchMessage m => some (m, 0x03, m.at 4 4 ≠ 0)
  | .query m => some (m, 0x04, m.at 4 4 ≠ 0)
  | .surrender m => some (m, 0x05, m.at 4 4 ≠ 0)
  | .group m => some (m, 0x06, m.at 4 4 ≠ 0 ∨ m.at 20 4 ≠ 0)
  | .beacon m => some (m, 0x10, m.at 2 6 ≠ 0)
  | .claim m => some (m, 0x11, m.at 57 7 ≠ 0)
  | .claimed m => some (m, 0x91, m.at 1 7 ≠ 0)
  | .migrate m _ _ => some (m, 0x12, False)
  | .moved m _ => some (m, 0x93, m.at 20 4 ≠ 0)
  | _ => none
/-- A message that the endpoint serves: VERSION 1, no reserved bit set, and no presentation open on its connection. -/
def proper (s : State) (m : AdmMsg) : Prop := serving s ∧ m.ver = 1 ∧ m.rsv = false ∧ ∀ p ∈ s.presns, p.conn ≠ m.conn
/-- No context waits in WPRES for another presentation of its serial (R400). -/
def noSecond (s : State) : Prop := ∀ c ∈ s.allCores, ∀ x ∈ c.ctxs, ∀ rd raw, x.wait ≠ some (.second rd raw)
/-- VERDICT's body (R393). -/
def verdictBody (code : BitVec 8) (detail job : Nat) (key : Word) (vi : W128) : List Byte :=
  [code] ++ leBytes 1 detail ++ [0, 0] ++ leBytes 4 job ++ leBytes 8 key.toNat ++ leBytes 16 vi.toNat

/-- The checks of admission over Ethernet, in order (R399): when each fails, and the code and DETAIL that it gives. -/
def admissionChecks (s : State) (p : Presn) : List (Prop × BitVec 8 × Nat) :=
  let r := p.rec_
  let late (f : Clock → Prop) : Prop := ∃ c, s.clock = some c ∧ f c
  let objs := (p.objs.map (fun o => Obj.parse o.2)).mapM id
  let im := objs.bind link
  let o := (s.origins r.width r.height r.cls).getD (Config.placePick s.picks % (Max.max 1 (s.origins r.width r.height r.cls).length)) (0, 0)
  [ (r.version ≠ 1 ∨ 1 < r.mode ∨ 2 < r.cls ∨ r.width < 1 ∨ 64 < r.width ∨ r.height < 1 ∨ 32 < r.height ∨ r.memGib < 1 ∨ r.fgsize < 1 ∨
      16384 < r.fgsize ∨ r.fgsize ≤ p.peeridx ∨ r.events &&& 0x7FFEFE00 ≠ 0 ∨ r.deleg &&& 0xFFFFFF0C ≠ 0 ∨ r.rsvZero = false, 0x01, 1),
    ((∀ k ∈ s.keys, k.hash ≠ r.issuer) ∧ (r.issuer ≠ s.idHash ∨ s.idHash = 0 ∨ r.mode ≠ 0 ∨ r.binding ≠ s.idHash), 0x02, 0),
    (Config.sm2Verify r.issuer (p.raw.take 320) ((p.raw.drop 320).take 64) = false, 0x01, 2),
    (s.clock = none ∨ s.trusted = false, 0x05, 0),
    (late (fun c => c.lo s.tick < r.notBefore), 0x03, 0),
    (late (fun c => (r.notAfter : Int) ≤ c.hi s.tick), 0x04, 0),
    (r.binding ≠ s.idHash ∧ r.mode = 0, 0x06, 1),
    (r.binding ≠ s.idHash ∧ s.inDirectory r.binding = false, 0x06, 2),
    (∃ e, s.redeem.find? (fun e => e.serial == r.serial) = some e ∧ e.moved = true, 0x06, 5),
    (∃ e, s.redeem.find? (fun e => e.serial == r.serial) = some e, 0x07, 0),
    ((s.roleMask r).testBit r.cls = false, 0x0B, 1),
    (objs = none ∨ ∃ os, objs = some os ∧ (os = [] ∨ 16 < os.length ∨ codeDigest os ≠ r.digest ∨ resolved os = false), 0x0A, 0),
    (∃ os, objs = some os ∧ dupsym os = true, 0x0C, 0),
    (im = none, 0x0A, 0),
    (s.origins r.width r.height r.cls = [], 0x08, 1),
    (r.cls = 0 ∧ 65536 < ((s.holders.filter (fun w => !w.child && w.rec_.cls == 0)).map (·.rec_.share)).sum + r.share, 0x08, 2),
    (16384 * Min.min 1520 (192 * (s.dies.filter (fun d => !d.failed)).length) < s.memUsed + s.retired + r.memGib * 16384, 0x09, 1),
    (r.memGib * 16384 < fixedUnits (r.width * r.height) r.cls im, 0x09, 2),
    (∃ d ∈ rectDies o.1 o.2 r.width r.height,
      1024 < wellPart r o.1 o.2 + ((s.holders.filter (fun w => w.dies.contains d)).map (·.wellMib)).sum, 0x09, 3),
    (1048576 ≤ (s.redeem.filter (fun e => match s.clock with
      | some c => decide (c.lo s.tick ≤ (e.notAfter : Int))
      | none => true)).length, 0x09, 4),
    (s.freeVis = [], 0x09, 5),
    (r.mode = 1 ∧ r.binding = s.idHash ∧ ∃ h, s.homeTab.find? (fun h => h.serial == r.serial) = some h ∧ h.claimant ≠ s.idHash, 0x06, 4) ]

end Sys2Proof.Claim

/-- R391, R392, R394, R414: the checks on every admission message: an endpoint that does not answer, VERSION, reserved bits, and a message
other than OBJECT while a presentation is open. -/
def Sys2Proof.Claim.MessageHeadersAreChecked : Prop :=
  ∀ s i m opc rsv, messageRow i = some (m, opc, rsv) →
    (¬ serving s → exec i s = .next s) ∧
    (serving s → m.ver ≠ 1 → exec i s = .next (nakked s m 1 opc)) ∧
    (serving s → m.ver = 1 → m.rsv = true ∨ rsv → exec i s = .next (nakked s m 2 opc)) ∧
    ∀ p, serving s → m.ver = 1 → m.rsv = false → ¬ rsv → s.presns = [p] → p.conn = m.conn → p.claimed = none → noSecond s →
      opc ≠ 2 ∨ p.nobj ≤ m.at 0 2 ∨ (∃ o ∈ p.objs, o.1 = m.at 0 2) ∨ p.objs.length = p.nobj →
      exec i s = .next (nakked { s with
        presns := [] } m 4 opc)

/-- R393, R394, R422: PRESENT opens a presentation of 1 to 16 objects, and of any number, to be decided later, while a switch quiesces the
hub; OBJECT brings one of its objects, whatever their order. -/
def Sys2Proof.Claim.PresentationsOpenAndGather : Prop :=
  (∀ s m, proper s m → m.at 388 4 = 0 →
    if (m.at 384 2 < 1 ∨ 16 < m.at 384 2) ∧ s.quiesced 8 = false then
      exec (.present m) s = .next (sentOut s m.conn 0x81 m.tag (verdictBody 0x0A 0 0 0 0))
    else ∃ p, exec (.present m) s = .next { s with
        presns := s.presns ++ [p] } ∧ p.conn = m.conn ∧ p.tag = m.tag ∧ p.nobj = m.at 384 2 ∧ p.peeridx = m.at 386 2 ∧
      p.rec_ = WarRec.ofBytes (m.bytes 0 384) ∧ p.raw = m.bytes 0 384 ∧ p.objs = [] ∧ p.claimed = none ∧ p.past = false) ∧
  (∀ s m, serving s → m.ver = 1 → m.rsv = false → m.at 2 6 = 0 → (∀ p ∈ s.presns, p.conn ≠ m.conn) →
    exec (.object m) s = .next (nakked s m 4 2)) ∧
  ∀ s m p, serving s → m.ver = 1 → m.rsv = false → m.at 2 6 = 0 → s.presns = [p] → p.conn = m.conn → p.claimed = none →
    noSecond s → m.at 0 2 < p.nobj → p.nobj ≤ 16 → (∀ o ∈ p.objs, o.1 ≠ m.at 0 2) → p.objs.length + 1 < p.nobj →
    Next (exec (.object m) s) fun t => ∃ l, t = { s with
      presns := [{ p with
        objs := l }] } ∧ (∀ o, o ∈ l ↔ o = (m.at 0 2, m.body.drop 8) ∨ o ∈ p.objs) ∧
      ((p.objs.map (·.1)).Pairwise (· < ·) → (l.map (·.1)).Pairwise (· < ·))

/-- Message headers are checked; presentations open and gather: the statements named here, together.
What the manual leaves open here is the model's choice: assumptions 68, 69 and 70. -/
def Obligations.MessagesAndPresentations : Prop :=
  Sys2Proof.Claim.MessageHeadersAreChecked ∧ Sys2Proof.Claim.PresentationsOpenAndGather

/-- R342, R394, R399, R400, R402, R403, R406: the last OBJECT brings the decision: VERDICT carries the code and DETAIL of the first
check that fails; when none fails the warrant is admitted with its serial held, or a claim goes to the home of its serial.
What the manual leaves open here is the model's choice: assumptions 61, 62, 66, 67 and 70. -/
def Obligations.AdmissionChecksComeInOrder : Prop :=
  ∀ (s : State) (m : AdmMsg) (p q : Presn), serving s → m.ver = 1 → m.rsv = false → m.at 2 6 = 0 → s.presns = [p] → p.conn = m.conn →
    p.claimed = none → p.past = false → noSecond s → s.quiesced 8 = false → m.at 0 2 < p.nobj → p.nobj ≤ 16 →
    (∀ o ∈ p.objs, o.1 ≠ m.at 0 2) → p.objs.length + 1 = p.nobj →
    q = { p with
      objs := insObj (m.at 0 2) (m.body.drop 8) p.objs } →
    (∀ e ∈ s.redeem, e.serial = p.rec_.serial → e.pending = false) → (∀ w ∈ s.wars, w.id < s.nextId) →
    (∀ (k : Nat) (c : Prop) (code : BitVec 8) (detail : Nat), (admissionChecks s q)[k]? = some ((c, code, detail) : Prop × BitVec 8 × Nat) → c →
      (∀ j < k, ∀ e : Prop × BitVec 8 × Nat, (admissionChecks s q)[j]? = some e → ¬ e.1) →
      exec (.object m) s = .next (sentOut { s with
        presns := [] } p.conn 0x81 p.tag (verdictBody code detail 0 0 0))) ∧
    ((∀ e : Prop × BitVec 8 × Nat, e ∈ admissionChecks s q → ¬ e.1) →
      Next (exec (.object m) s) fun t => ∃ w ∈ t.wars, w.id = s.nextId ∧ w.rec_ = p.rec_ ∧ w.code = none ∧ w.parentW = none ∧
        w.conn = p.conn ∧ w.peeridx = p.peeridx ∧ w.vi ∈ s.freeVis ∧ (w.x0, w.y0) ∈ s.origins p.rec_.width p.rec_.height p.rec_.cls ∧
        w.job ≠ 0 ∧ (∀ x ∈ s.wars, x.code = none → x.job ≠ w.job) ∧
        t.memUsed = s.memUsed + p.rec_.memGib * 16384 ∧
        (p.rec_.binding = s.idHash → t.presns = [] ∧ (∃ e ∈ t.redeem, e.serial = p.rec_.serial ∧ e.pending = false) ∧
          (∃ im, ((q.objs.map (fun o => Obj.parse o.2)).mapM id).bind link = some im ∧ (t.spaceById s.nextId).groups = im.groups ∧
            (t.spaceById s.nextId).imem = (imageSpace s.nextId im).imem) ∧
          t.out = s.out ++ [{ dest := p.conn, opc := 0x81, tag := p.tag, body := verdictBody 0 0 w.job w.key w.vi }]) ∧
        (p.rec_.binding ≠ s.idHash → (∃ e ∈ t.redeem, e.serial = p.rec_.serial ∧ e.pending = true) ∧
          (∃ c, t.claims = s.claims ++ [c] ∧ c.serial = p.rec_.serial ∧ c.home = p.rec_.binding ∧ c.began = s.tick ∧
            c.limit = s.cfg.claimto ∧ c.conn = some p.conn) ∧
          ∃ o, t.out = s.out ++ [o] ∧ o.dest = 2 ^ 128 + s.directoryAddr p.rec_.binding ∧ o.opc = 0x11 ∧
            leAt o.body 0 16 = p.rec_.serial.toNat ∧ leAt o.body 24 32 = s.idHash.toNat ∧ leAt o.body 56 1 = 0))

/-- R349, R350, R332, R393, R395, R396, R405: LAUNCH, QUERY, SURRENDER and GROUP act on the running warrant that
their JOB and KEY name, and are answered NOJOB where they name none: LAUNCH enters a launch or answers with the cause that refuses it, QUERY gives the report, SURRENDER ends the
warrant with code 0x41, GROUP writes peer-table entries.
What the manual leaves open here is the model's choice: assumptions 68, 71 and 82. -/
def Obligations.RunningWarrantsAreServed : Prop :=
  (∀ s i m opc, proper s m → (i = .launchMessage m ∧ opc = 3) ∨ (i = .query m ∧ opc = 4) ∨ (i = .surrender m ∧ opc = 5) ∨
      (i = .group m ∧ opc = 6 ∧ m.at 20 4 = 0) → m.at 4 4 = 0 →
    (∀ w ∈ s.wars, w.code ≠ none ∨ w.child = true ∨ s.pending w = true ∨ w.job ≠ m.at 0 4 ∨ w.key.toNat ≠ m.at 8 8) →
    exec i s = .next (nakked s m 3 opc)) ∧
  ∀ s m w, proper s m → m.at 4 4 = 0 → s.jobOf m = some w → s.warById w.id = w →
    let b := LBlock.ofBytes (m.bytes 16 1024)
    (∀ c v, s.blockErr w.id b 0 0 = some (c, v) →
      exec (.launchMessage m) s = .next (sentOut s m.conn 0x83 m.tag ([0xE0, 0] ++ leBytes 2 c.toNat ++ [0, 0, 0, 0]))) ∧
    (s.blockErr w.id b 0 0 = none →
      Next (exec (.launchMessage m) s) fun t => t.out = s.out ∧ t.cx = s.cx ∧ t.co = s.co ∧ t.spaces = s.spaces ∧
          ∃ l rest, t.launches = s.launches ++ l :: rest ∧ l.id = s.nextId ∧ l.war = w.id ∧ l.lseq = w.lseqNext ∧ l.state = .waiting ∧
            l.conn = some (m.conn, m.tag) ∧ l.entry = b.entry ∧ (b.ctrl.testBit 2 = false → rest = [])) ∧
    (Next (exec (.query m) s) fun t => ∃ b, t = sentOut s m.conn 0x84 m.tag b ∧ b.length = 64 ∧ leAt b 0 8 = 0 ∧
      leAt b 8 16 = w.rec_.serial.toNat ∧ leAt b 24 1 = 0 ∧ leAt b 25 1 = w.rec_.cls % 256 ∧ leAt b 28 2 = w.rec_.height % 65536 ∧
      leAt b 30 2 = w.rec_.width % 65536 ∧ leAt b 36 4 = w.memFree / 16 % 2 ^ 32 ∧ leAt b 48 8 = w.endTick.toNat ∧
      leAt b 56 8 = w.rec_.notAfter % 2 ^ 64) ∧
    (w.nested = false → Next (exec (.surrender m) s) fun t => (t.warById w.id).code = some 0x41 ∧
      (∀ l ∈ t.launches, l.war = w.id → l.state = .done) ∧
      let b := leBytes 4 w.job ++ [0x41, 0, 0, 0] ++ leBytes 8 s.tick
      t.out = s.out ++ [{ dest := w.conn, opc := 0x85, tag := 0, body := b }, { dest := m.conn, opc := 0x85, tag := m.tag, body := b }]) ∧
    (m.at 20 4 = 0 →
      let n := m.at 18 2
      let first := m.at 16 2
      if n < 1 ∨ 1024 < n ∨ w.rec_.fgsize < first + n then
        exec (.group m) s = .next (sentOut s m.conn 0x86 m.tag [1, 0, 0, 0, 0, 0, 0, 0])
      else Next (exec (.group m) s) fun t => ∃ l, t = sentOut { s with
          wars := l } m.conn 0x86 m.tag [0, 0, 0, 0, 0, 0, 0, 0] ∧ l.length = s.wars.length ∧
        ∀ (k : Nat) (x y : Warrant), s.wars[k]? = some x → l[k]? = some y → { y with
          peers := x.peers } = x ∧ ∀ e, Tab.get PeerEnt.none y.peers e = if x.space = w.space ∧ first ≤ e ∧ e < first + n then
            { vi := BitVec.ofNat 128 (m.at (24 + 20 * (e - first)) 16), job := m.at (40 + 20 * (e - first)) 4, used := true }
          else Tab.get PeerEnt.none x.peers e)

/-- R407, R408: a beacon of a time issuer whose signature holds is accepted when its sequence number rises and its interval meets the bounds; they
become the intersection. Every other one is dropped and counted. -/
def Sys2Proof.Claim.BeaconsNarrowTheClock : Prop :=
  ∀ s m, proper s m → m.at 2 6 = 0 →
    let issuer := BitVec.ofNat 256 (m.at 32 32)
    let a : Int := (m.at 16 8 : Int) - m.at 24 8
    let b : Int := (m.at 16 8 : Int) + m.at 24 8
    let genuine := m.at 0 2 = 1 ∧ (∃ k ∈ s.keys, k.hash = issuer ∧ k.mask.getLsbD 3 = true) ∧
      Config.sm2Verify issuer (m.bytes 0 64) (m.bytes 64 64) = true
    let meets := ∀ c, s.clock = some c → c.seq < m.at 8 8 ∧ c.lo s.tick ≤ b ∧ a ≤ c.hi s.tick
    (genuine → meets → Next (exec (.beacon m) s) fun t => ∃ c, t = { s with
        clock := some c, annDone := true } ∧ c.seq = m.at 8 8 ∧ c.t0 = s.tick ∧
      (s.clock = none → c.lo s.tick = a ∧ c.hi s.tick = b) ∧
      ∀ o, s.clock = some o → c.lo s.tick = Max.max (o.lo s.tick) a ∧ c.hi s.tick = Min.min (o.hi s.tick) b) ∧
    (¬ (genuine ∧ meets) → exec (.beacon m) s = .next { s with
      beaconDrops := s.beaconDrops + 1 })

/-- R406, R393: a claim at its home: a serial that no module holds, or that its claimant holds, is the claimant's; with MODE 1 it passes on; another
module's is refused. A claim that the directory or its signature does not bear out is dropped. -/
def Sys2Proof.Claim.HomesAnswerClaims : Prop :=
  ∀ s m, proper s m → m.at 57 7 = 0 →
    let serial := BitVec.ofNat 128 (m.at 0 16)
    let who := BitVec.ofNat 256 (m.at 24 32)
    let next := if m.at 56 1 = 1 then BitVec.ofNat 256 (m.at 64 32) else who
    let borne := s.inDirectory who = true ∧ m.at 56 1 ≤ 1 ∧ Config.sm2Verify who (m.bytes 0 96) (m.bytes 96 64) = true
    (¬ borne → exec (.claim m) s = .next s) ∧
    (borne → Next (exec (.claim m) s) fun t => ∃ tab o, t = { s with
        homeTab := tab, out := s.out ++ [o] } ∧ o.dest = m.conn ∧ o.opc = 0x91 ∧ o.tag = m.tag ∧
      leAt o.body 8 16 = m.at 0 16 ∧ leAt o.body 24 32 = m.at 24 32 ∧
      match s.homeTab.find? (fun e => e.serial == serial) with
      | none => leAt o.body 0 1 = 0 ∧ tab = { serial := serial, claimant := next, notAfter := m.at 16 8 } :: s.homeTab
      | some e => if e.claimant = who then leAt o.body 0 1 = 0 ∧ tab.map (·.serial) = s.homeTab.map (·.serial) ∧
            (∃ f, tab.find? (fun e => e.serial == serial) = some f ∧ f.claimant = next)
          else leAt o.body 0 1 = 1 ∧ tab = s.homeTab)

/-- R399, R406, R424: the home's answer, or the timeout, ends a claim: a refusal frees the reservation and answers with code 0x06 and DETAIL 4 or 3;
an acceptance admits. CLAIM is sent again every 1,000,000 ticks. -/
def Sys2Proof.Claim.ClaimsAreDecided : Prop :=
  ∀ s serial p w c im, s.claims = [c] → c.serial = serial → c.conn = some p.conn → s.presns = [p] → p.claimed = some w.id → s.wars = [w] →
    w.rec_ = p.rec_ → p.rec_.serial = serial → w.code = none → w.child = false → w.space = w.id → s.pending w = true → s.spaces = [] → noSecond s →
    ((p.objs.map (fun o => Obj.parse o.2)).mapM id).bind link = some im →
    let refused (detail : Nat) (t : State) : Prop := t.presns = [] ∧ t.claims = [] ∧ t.wars = [] ∧
      t.memUsed = s.memUsed - w.memHeld ∧ (∀ e ∈ t.redeem, e.serial = serial → e.pending = false) ∧
      t.out = s.out ++ [{ dest := p.conn, opc := 0x81, tag := p.tag, body := verdictBody 0x06 detail 0 0 0 }]
    (∀ m, serving s → m.ver = 1 → m.rsv = false → m.conn ≠ p.conn → m.at 1 7 = 0 → BitVec.ofNat 128 (m.at 8 16) = serial →
      if BitVec.ofNat 256 (m.at 24 32) ≠ s.idHash ∨ 1 < m.at 0 1 ∨ Config.sm2Verify c.home (m.bytes 0 56) (m.bytes 56 64) = false then
        exec (.claimed m) s = .next s
      else if m.at 0 1 = 1 then Next (exec (.claimed m) s) (refused 4)
      else Next (exec (.claimed m) s) fun t => t.presns = [] ∧ t.claims = [] ∧ t.memUsed = s.memUsed ∧
        (∀ e ∈ t.redeem, e.serial = serial → e.pending = false) ∧
        (∃ v, t.wars = [v] ∧ { v with
          stackAt := w.stackAt } = w) ∧ (t.spaceById w.id).groups = im.groups ∧
        t.out = s.out ++ [{ dest := p.conn, opc := 0x81, tag := p.tag, body := verdictBody 0 0 w.job w.key w.vi }]) ∧
    (if s.tick < c.began + c.limit then exec (.claimTimeout serial) s = .next s
      else Next (exec (.claimTimeout serial) s) (refused 3)) ∧
    (if s.tick < c.last + 1000000 then exec (.claimResend serial) s = .next s
      else Next (exec (.claimResend serial) s) fun t => ∃ o, t = { s with
          claims := [{ c with
            last := s.tick }], out := s.out ++ [o] } ∧ o.dest = 2 ^ 128 + c.addr ∧ o.opc = 0x11 ∧ leAt o.body 0 16 = serial.toNat ∧
        leAt o.body 16 8 = w.rec_.notAfter % 2 ^ 64 ∧ leAt o.body 24 32 = s.idHash.toNat ∧ leAt o.body 56 1 = 0)

/-- Beacons narrow the clock; claims are answered and decided: the statements named here, together.
What the manual leaves open here is the model's choice: assumptions 61, 72, 73 and 74. -/
def Obligations.BeaconsAndClaims : Prop :=
  Sys2Proof.Claim.BeaconsNarrowTheClock ∧ Sys2Proof.Claim.HomesAnswerClaims ∧ Sys2Proof.Claim.ClaimsAreDecided

/-- R400, R415: an entry of the local redemption table leaves once the lower bound of trusted time exceeds its NOTAFTER; ANNOUNCE goes out on
every trained port each 100,000,000 ticks until a beacon is accepted. -/
def Sys2Proof.Claim.EntriesExpireAndModulesAnnounce : Prop :=
  (∀ s : State, ∀ serial, Next (exec (.redemptionEntryExpiry serial) s) fun t => ∃ l, t = { s with
      redeem := l } ∧ ∀ e, e ∈ l ↔ e ∈ s.redeem ∧
        ¬ (e.serial = serial ∧ e.pending = false ∧ ∃ c, s.clock = some c ∧ (e.notAfter : Int) < c.lo s.tick)) ∧
  ∀ s : State, (serving s → s.annDone = false → s.annAt + 100000000 ≤ s.tick →
    Next (exec .announceRepeat s) fun t => t.annAt = s.tick ∧ t.redeem = s.redeem ∧ t.cx = s.cx ∧
      (s.cfg.annaddr = 0 → t.out = s.out) ∧
      (s.cfg.annaddr ≠ 0 → ∃ l, t.out = s.out ++ l ∧
        l.length = ((List.range 16).filter (fun p => s.ports.getLsbD p)).length ∧
        ∀ o ∈ l, o.dest = 2 ^ 128 + s.cfg.annaddr.toNat ∧ o.opc = 0x20 ∧ leAt o.body 0 32 = s.idHash.toNat ∧
          leAt o.body 32 4 = s.bootcount.toNat ∧ leAt o.body 36 1 = s.lastReset % 256 ∧
          (∀ d : Fin 8, (leAt o.body 37 1).testBit d.val = (s.dies.getD d.val DieSt.reset).failed))) ∧
    (¬ serving s ∨ s.annDone = true ∨ s.tick < s.annAt + 100000000 → exec .announceRepeat s = .next s)

/-- Warrants and table entries expire; modules announce: the statements named here, together.
What the manual leaves open here is the model's choice: assumptions 9 and 17. -/
def Obligations.WarrantsAndEntriesExpire : Prop :=
  Sys2Proof.Claim.WarrantsExpire ∧ Sys2Proof.Claim.EntriesExpireAndModulesAnnounce

/-- R411, R412, R422, R240: a migration order that no key bears out is dropped; one whose warrant waits for a peer waits while its launch issues no
more, and one whose leaves a switch quiesces waits; its transfer goes to the destination;
an accepted one moves the warrant away: nothing of it is left here, its serial stays marked, MOVED tells its connection and its peers. At the destination a
transfer is admitted without checks 1 to 11, or refused with a code. A packet to the old address is answered with MOVED.
What the manual leaves open here is the model's choice: assumptions 75, 76 and 117. -/
def Obligations.MigrationMovesAWarrant : Prop :=
  (∀ s m a j, proper s m → s.orderOf m = none → BitVec.ofNat 256 (m.at 16 32) ≠ s.idHash ∨ s.validOrder m = false →
    exec (.migrate m a j) s = .next s) ∧
  (∀ s m a j w l, proper s m → s.orderOf m = some w → s.movable w = [l] → s.launchById l.id = l → l.mirrorOf = none →
    (∀ x ∈ s.launches, x.mirrorOf ≠ some l.id) → s.leafQuiet (s.pairCores l.id) = false → s.peersOut w = true →
    (∀ c ∈ l.live, ∀ x ∈ (s.coreAt c).ctxs, match x.wait with
      | none | some (.accept (some _)) | some (.reply _ _ _ _ _ (some _)) | some (.peerAtomic _ _ _ _ _ _) | some (.pref _ _ true) => True
      | _ => False) →
    Next (exec (.migrate m a j) s) fun t => t.later = s.later ++ [(m, a, j)] ∧ t.departures = s.departures ∧ t.out = s.out ∧ t.cx = s.cx ∧
      t.co = s.co ∧ (t.launchById l.id).state = .accepted ∧ (t.launchById l.id).halted = true) ∧
  (∀ s m a j w, proper s m → s.orderOf m = some w → s.movable w ≠ [] →
    (∀ l ∈ s.movable w, s.leafQuiet (s.pairCores (l.mirrorOf.getD l.id)) = true) → exec (.migrate m a j) s = .next { s with
      later := s.later ++ [(m, a, j)] }) ∧
  (∀ s m a j w, proper s m → s.orderOf m = some w → s.movable w = [] → (∀ l ∈ s.launches, s.launchById l.id = l) → a ≠ 0 →
    ∃ d, exec (.migrate m a j) s = .next (sentOut { s with
      departures := s.departures ++ [d] } m.conn 0x92 m.tag (leBytes 1 a ++ [0, 0, 0, 0, 0, 0, 0])) ∧
      d.dest = BitVec.ofNat 256 (m.at 16 32) ∧ d.space = s.spaceById w.space ∧
      (∀ x, x ∈ d.wars ↔ x ∈ s.wars ∧ x.space = w.space ∧ x.code = none)) ∧
  (∀ s m j w, proper s m → s.orderOf m = some w → s.launches = [] → w.rec_.mode = 0 → w.consumed = false → s.wars = [w] →
    Next (exec (.migrate m 0 j) s) fun t => t.wars = [] ∧ (∀ sp ∈ t.spaces, sp.id ≠ w.space) ∧
      (∀ e ∈ t.redeem, e.serial = w.rec_.serial → e.moved = true) ∧ t.memUsed = s.memUsed - w.memHeld ∧
      (∃ d, t.departures = s.departures ++ [d] ∧ d.wars = [w] ∧ d.space = s.spaceById w.space) ∧
      ∃ vi, t.movedVi = (w.vi, vi, j, w.rec_.notAfter) :: s.movedVi ∧
        let b := leBytes 16 vi.toNat ++ leBytes 4 j ++ [0, 0, 0, 0]
        t.out = s.out ++ [{ dest := m.conn, opc := 0x92, tag := m.tag, body := [0, 0, 0, 0] ++ leBytes 4 j },
            { dest := w.conn, opc := 0x93, tag := 0, body := b }] ++
          w.peers.map (fun e => { dest := 2 ^ 128 + e.2.vi.toNat, opc := 0x93, tag := 0, body := b })) ∧
  (∀ s : State, ∀ vi sender, match s.movedOf vi with
    | none => exec (.oldViPacket vi sender) s = .next s
    | some q => exec (.oldViPacket vi sender) s = .next (sentOut s sender 0x93 0 (leBytes 16 q.1.toNat ++ leBytes 4 q.2 ++ [0, 0, 0, 0]))) ∧
  (∀ s m a j w v, proper s m → s.orderOf m = none → s.validOrder m = true → BitVec.ofNat 256 (m.at 16 32) = s.idHash → s.arrivals = [v] →
    v.dest = s.idHash → v.wars = [w] → w.rec_.serial = BitVec.ofNat 128 (m.at 0 16) → w.child = false → w.nested = false →
    v.launches = [] → v.corrs = [] → s.corrLog = [] → (∀ c ∈ s.allCores, c.corrWaiters = []) →
    let answered (code job : Nat) (t : State) : Prop :=
      t.out = s.out ++ [{ dest := m.conn, opc := 0x92, tag := m.tag, body := leBytes 1 code ++ [0, 0, 0] ++ leBytes 4 job }]
    Next (exec (.migrate m a j) s) fun t => t.arrivals = [] ∧
      if s.trusted = false then answered 0x05 0 t ∧ t.wars = s.wars
      else match s.check12 w.rec_ none none (fun _ => true) with
        | .inl e => answered e.1.toNat 0 t ∧ t.wars = s.wars
        | .inr p => t.spaces = v.space.shift s.nextId :: s.spaces ∧ t.memUsed = s.memUsed + w.memHeld ∧
            (∃ e ∈ t.redeem, e.serial = w.rec_.serial ∧ e.pending = false ∧ e.moved = false) ∧
            ∃ x, t.wars = s.wars ++ [x] ∧ x.id = shiftId s.nextId w.id ∧ x.hix = w.hix ∧ x.rec_ = w.rec_ ∧ x.peers = w.peers ∧ x.x0 = p.1 ∧ x.y0 = p.2.1 ∧
              x.vi = p.2.2 ∧ x.job ≠ 0 ∧ answered 0 x.job t) ∧
  ∀ s m (old : ViJob), proper s m → m.at 20 4 = 0 → Next (exec (.moved m old) s) fun t => t.wars.length = s.wars.length ∧
    (∀ (k : Nat) (x y : Warrant), s.wars[k]? = some x → t.wars[k]? = some y → { y with
        peers := x.peers } = x ∧ (Tab.wf PeerEnt.none x.peers = true → ∀ e, Tab.get PeerEnt.none y.peers e =
      let p := Tab.get PeerEnt.none x.peers e
      if p.used = true ∧ p.vi = old.vi ∧ p.job = old.job then { vi := BitVec.ofNat 128 (m.at 0 16), job := m.at 16 4, used := true } else p)) ∧
    t.out = s.out ++ (match m.tag.toNat with
      | 0 => []
      | n + 1 => ((s.out[n]?).toList).filter (fun o => decide (2 ^ 32 ≤ o.dest ∧ o.dest < 2 ^ 32 + 2 ^ 14))) ∧
    ({ t.cx with
      spur := s.cx.spur } : Ctx) = s.cx ∧ ({ t.co with
      ctxs := s.co.ctxs } : Core) = s.co ∧ t.co.ctxs.length = s.co.ctxs.length

namespace Sys2Proof.Claim

/-! ## RMA, resets and management (R78, R102, R103, R404, R413 to R426, R432, R435, R448, R455) -/

/-- Every 64 KiB unit that an access of `n` bytes touches lies below 2^48 in a page that VMAP mapped or in the global data, or
under an entry of the interface's TLB that still stands (R79, R404). -/
def rmaReached (s : State) (w : Warrant) (a n : Nat) : Prop :=
  a + n ≤ 2 ^ 48 ∧ (n = 0 ∨ ∀ k, a / 0x10000 ≤ k → k * 0x10000 < a + n →
    (∃ p ∈ (s.spaceById w.space).pages, (p.kind = .data ∨ p.kind = .gdata) ∧ p.base ≤ k * 0x10000 ∧ k * 0x10000 < p.base + p.size) ∨
    ∃ e ∈ (s.spaceById w.space).nic, e.base ≤ k * 0x10000 ∧ k * 0x10000 < e.base + e.size ∧ s.tick < e.till)
/-- A poisoned line holds a byte of the access (R446, R448). -/
def rmaBad (s : State) (w : Warrant) (a n : Nat) : Prop :=
  ∃ l ∈ (s.spaceById w.space).poison, l * 64 < a + n ∧ a < l * 64 + 64
/-- Outside the memory, the tags and the interface's TLB of one space only a completion has gone out. -/
def rmaFrame (s t : State) (vi : W128) (w : Warrant) (va : Word) (data : List Byte) : Prop :=
  ({ t with
      spaces := s.spaces } : State) = sentOut s (2 ^ 129 + vi.toNat) 0 va data ∧
  ∀ k, k ≠ w.space → t.spaceById k = s.spaceById k
/-- The bytes of a space after a store of `bs` at `a`, and the tags that it clears (R97). -/
def rmaStored (s t : State) (w : Warrant) (a : Nat) (bs : List Byte) : Prop :=
  (∀ x, Memory.read (t.spaceById w.space).mem x =
    if a ≤ x ∧ x < a + bs.length then bs.getD (x - a) 0 else Memory.read (s.spaceById w.space).mem x) ∧
  ∀ x, (t.spaceById w.space).tagAt x =
    ((s.spaceById w.space).tagAt x && !(decide (bs ≠ []) && decide (a / 16 ≤ x / 16) && decide (x / 16 * 16 < a + bs.length)))
/-- The signed value of `w` bits. -/
def signedVal (w v : Nat) : Int := if v.testBit (w - 1) then (v : Int) - 2 ^ w else v
/-- The new value of an atomic of R185 (operations 0 to 8), or of CAS (R253), from the old one. -/
def peerNew (op w old x e : Nat) : Option Nat :=
  match op with
  | 0 => some ((old + x) % 2 ^ w)
  | 1 => some (old &&& x)
  | 2 => some (old ||| x)
  | 3 => some (old ^^^ x)
  | 4 => some (if signedVal w old ≤ signedVal w x then old else x)
  | 5 => some (if signedVal w old ≤ signedVal w x then x else old)
  | 6 => some (Min.min old x)
  | 7 => some (Max.max old x)
  | 8 => some x
  | _ => if old = e then some x else none

/-- A crash record has joined the sump of 2048, which drops its oldest (R418). -/
def crashed (s t : State) (ctrl : Nat) (kind : BitVec 8) (cause : W32) (pc addr : Word) : Prop :=
  t.sumpSeq = s.sumpSeq + 1 ∧ ∃ r, t.sump = (s.sump ++ [r]).drop (s.sump.length + 1 - 2048) ∧ r.seq = s.sumpSeq ∧ r.ctrl = ctrl ∧
    r.kind = kind ∧ r.cause = cause ∧ r.pc = pc ∧ r.addr = addr ∧ r.tick = BitVec.ofNat 64 s.tick ∧ r.boot = s.bootcount ∧
    r.bank = (s.ctrls.getD ctrl Ctrl.reset).bank
/-- Nothing volatile is left: no context, core, space, warrant, launch, message or presentation (R416). -/
def emptied (t : State) : Prop :=
  t.cx = Ctx.zero ∧ t.co.launch = none ∧ t.co.store = [] ∧ t.co.ctxs = [] ∧ t.cores = [] ∧ t.spaces = [] ∧ t.wars = [] ∧ t.launches = [] ∧
  t.net = [] ∧ t.rounds = [] ∧ t.wells = [] ∧ t.presns = [] ∧ t.claims = [] ∧ t.memUsed = 0
/-- What no reset clears (R416): keys, identity, the home table, fuses and the firmware banks with their selector. -/
def kept (s t : State) : Prop :=
  t.keys = s.keys ∧ t.idHash = s.idHash ∧ t.homeTab = s.homeTab ∧ t.fuses = s.fuses ∧ t.fwKey = s.fwKey ∧ t.fwMin = s.fwMin ∧
  ∀ k, (t.ctrls.getD k Ctrl.reset).bankA = (s.ctrls.getD k Ctrl.reset).bankA ∧
    (t.ctrls.getD k Ctrl.reset).bankB = (s.ctrls.getD k Ctrl.reset).bankB ∧
    (t.ctrls.getD k Ctrl.reset).active = (s.ctrls.getD k Ctrl.reset).active
/-- The bank that a controller starts from: its active one, or the other when only that is valid (R414). -/
def startBank (c : Ctrl) : Bool :=
  let act := if c.active then c.bankB else c.bankA
  let oth := if c.active then c.bankA else c.bankB
  if act.valid = false ∧ oth.valid = true then !c.active else c.active
/-- Core `c` holds nothing. -/
def wipedCore (t : State) (c : Nat) : Prop := (t.coreAt c).launch = none ∧ (t.coreAt c).store = [] ∧ (t.coreAt c).ctxs = [] ∧ (t.coreAt c).full = []
/-- How many of the 16 ports have not trained (R414). -/
def downOf (ports : BitVec 16) : Nat := ((List.range 16).filter (fun p => !ports.getLsbD p)).length
/-- No operation in flight on core `c` would write its store. -/
def noOps (s : State) (c : Nat) : Prop := ∀ k ∈ s.allCores, k.id = c → k.vop = none ∧ k.mop = none ∧ k.pumpq = []
/-- The link from the hub to a leaf, or back. -/
def linkOf (s : State) (die : Nat) (toLeaf : Bool) : Link :=
  if toLeaf then (s.ctrls.getD die Ctrl.reset).down else (s.ctrls.getD die Ctrl.reset).up
/-- A word of a 128-bit value. -/
def word32 (v : W128) (i : Nat) : W32 := v.extractLsb' (32 * i) 32
/-- The configuration registers (R423). -/
def cfgReg (s : State) (off : Nat) : W32 :=
  if off % 4 ≠ 0 then 0
  else if off = 0 then BitVec.ofNat 32 s.cfg.lease
  else if off = 4 then BitVec.ofNat 32 s.cfg.hopalw
  else if off = 8 then BitVec.ofNat 32 s.cfg.claimto
  else if off = 12 then BitVec.ofNat 32 s.cfg.stbyhold
  else if off < 0x20 then word32 s.cfg.annaddr (off / 4 % 4)
  else if 0x1000 ≤ off ∧ off < 0x2000 then word32 (Tab.get 0 s.cfg.vipool ((off - 0x1000) / 16)) (off / 4 % 4)
  else if 0x2000 ≤ off ∧ off < 0x42000 then Tab.get 0 s.cfg.rdir ((off - 0x2000) / 4)
  else 0
/-- A write of a pool entry that a warrant holds, or of the announced address of the wellhead, or of a directory entry while it is
valid, is ignored, and so is one of a reserved word (R424). -/
def cfgFixed (s : State) (off : Nat) : Prop :=
  off % 4 ≠ 0 ∨ (0x20 ≤ off ∧ off < 0x1000) ∨ 0x42000 ≤ off ∨
  (0x1000 ≤ off ∧ off < 0x2000 ∧ ((off < 0x1010 ∧ s.announced = true) ∨ (Tab.get 0 s.cfg.vipool ((off - 0x1000) / 16) ≠ 0 ∧
    ∃ w ∈ s.wars, w.vi = Tab.get 0 s.cfg.vipool ((off - 0x1000) / 16) ∧ w.code = none))) ∨
  (0x2000 ≤ off ∧ off < 0x42000 ∧ (0x30 < off % 64 ∨ (off % 64 < 0x30 ∧ (Tab.get (0 : W32) s.cfg.rdir ((off - 0x2000) / 64 * 16 + 12)).getLsbD 0 = true)))
/-- A value as the register takes it (R423): within the bounds of its row; the VALID word keeps one bit. -/
def cfgTakes (off : Nat) (v : W32) : W32 :=
  if off = 0 then BitVec.ofNat 32 (limited 1000 1000000 v.toNat)
  else if off = 4 then BitVec.ofNat 32 (limited 100 100000 v.toNat)
  else if off = 8 then BitVec.ofNat 32 (limited 10000000 1000000000 v.toNat)
  else if off = 12 then BitVec.ofNat 32 (limited 1 24 v.toNat)
  else if 0x2000 ≤ off ∧ off % 64 = 0x30 then v &&& 1
  else v

end Sys2Proof.Claim

/-- R76, R78, R79, R97, R102, R103, R253, R404, R405, R412: RMA and a peer's atomic reach the pages of the running warrant that the packet names: a write stores its bytes as one
event, a read returns the home's, an atomic answers the old value; an address out of reach or bad gives an error completion alone, a packet to a warrant that has moved is answered with MOVED. -/
def Sys2Proof.Claim.RemoteMemoryAccessObeysTheMap : Prop :=
  (∀ (s : State) (i : Instr) vi job va, ((∃ d, i = .rmaWrite vi job va d) ∨ (∃ n, i = .rmaRead vi job va n) ∨ ∃ op w x e, i = .inboundPeerAtomic vi job va op w x e) →
    (∀ w ∈ s.wars, w.vi ≠ vi ∨ w.job ≠ job ∨ w.code ≠ none ∨ w.child = true ∨ s.pending w = true) →
    match s.movedOf vi with
    | none => exec i s = .next (sentOut s (2 ^ 129 + vi.toNat) 1 va [])
    | some q => exec i s = .next (sentOut s (2 ^ 129 + vi.toNat) 0x93 0 (leBytes 16 q.1.toNat ++ leBytes 4 q.2 ++ [0, 0, 0, 0]))) ∧
  ∀ s vi job va w, s.viOf vi job = some w →
    (∀ d : List Byte, (¬ rmaReached s w va.toNat d.length → exec (.rmaWrite vi job va d) s = .next (sentOut s (2 ^ 129 + vi.toNat) 1 va [])) ∧
      (rmaReached s w va.toNat d.length → Next (exec (.rmaWrite vi job va d) s) fun t => rmaStored s t w va.toNat d ∧ rmaFrame s t vi w va [])) ∧
    (∀ n, (¬ rmaReached s w va.toNat n ∨ rmaBad s w va.toNat n →
        exec (.rmaRead vi job va n) s = .next (sentOut s (2 ^ 129 + vi.toNat) 1 va [])) ∧
      (rmaReached s w va.toNat n → ¬ rmaBad s w va.toNat n → Next (exec (.rmaRead vi job va n) s) fun t => rmaStored s t w va.toNat [] ∧
        rmaFrame s t vi w va ((List.range n).map (fun i => Memory.read (s.spaceById w.space).mem (va.toNat + i))))) ∧
    ∀ op w64 x e, let sz := if w64 then 8 else 4
      let old := bytesVal (Memory.readN (s.spaceById w.space).mem va.toNat sz)
      (va.toNat % sz ≠ 0 ∨ ¬ rmaReached s w va.toNat sz ∨ rmaBad s w va.toNat sz →
        exec (.inboundPeerAtomic vi job va op w64 x e) s = .next (sentOut s (2 ^ 129 + vi.toNat) 1 va [])) ∧
      (va.toNat % sz = 0 → rmaReached s w va.toNat sz → ¬ rmaBad s w va.toNat sz →
        Next (exec (.inboundPeerAtomic vi job va op w64 x e) s) fun t => rmaFrame s t vi w va (leBytes sz old) ∧
          match peerNew op.val (8 * sz) old (x.toNat % 2 ^ (8 * sz)) (e.toNat % 2 ^ (8 * sz)) with
          | none => rmaStored s t w va.toNat []
          | some v => rmaStored s t w va.toNat (leBytes sz v))

/-- R390, R391, R392, R413, R422: a packet that no rule defines is dropped, answered with a NACK and counted; a command takes a permit of its link or
waits for one, and its consumption returns the permit; a controller that does not run, or that a switch quiesces, neither sends nor consumes. -/
def Sys2Proof.Claim.StrayPacketsAndCommands : Prop :=
  (∀ s sender, (∀ dest, ¬ serving s → exec (.ueUnsupportedPacket sender dest) s = .next s) ∧
    (∀ opc tag, serving s → exec (.ueUnsupportedPacket sender (.vi opc tag)) s =
      .next (nakked s { conn := sender, tag := tag, ver := 1, rsv := false, body := [] } 1 (opc % 256))) ∧
    (serving s → exec (.ueUnsupportedPacket sender .module) s = .next (sentOut { s with
      ueDrops := s.ueDrops + 1 } sender 0x100 0 []))) ∧
  ∀ s : State, ∀ die : Fin 8, ∀ toLeaf consume cmd, s.ctrls.length = 9 →
    let who := if toLeaf = consume then die.val else 8
    ((s.ctrls.getD who Ctrl.reset).running = false ∨ s.quiesced who = true → exec (.controllerCommand die toLeaf consume cmd) s = .next s) ∧
    ((s.ctrls.getD who Ctrl.reset).running = true → s.quiesced who = false → Next (exec (.controllerCommand die toLeaf consume cmd) s) fun t =>
      ({ t with
          ctrls := s.ctrls } : State) = s ∧
      (∀ d b, d < 9 → (d ≠ die.val ∨ b ≠ toLeaf) → linkOf t d b = linkOf s d b) ∧
      let l := linkOf s die.val toLeaf
      let c := (cmd ++ List.replicate 64 0).take 64
      linkOf t die.val toLeaf =
        (if consume then match l.queue, l.blocked with
          | [], _ => l
          | _ :: q, [] => { l with
              permits := l.permits + 1, queue := q }
          | _ :: q, x :: r => { l with
              queue := q ++ [x], blocked := r }
        else if l.permits = 0 then { l with
              blocked := l.blocked ++ [c] }
        else { l with
              permits := l.permits - 1, queue := l.queue ++ [c] }))

/-- RMA obeys the map; stray packets and commands: the statements named here, together.
What the manual leaves open here is the model's choice: assumptions 77, 93 and 100. -/
def Obligations.RemoteAccessesAndPackets : Prop :=
  Sys2Proof.Claim.RemoteMemoryAccessObeysTheMap ∧ Sys2Proof.Claim.StrayPacketsAndCommands

/-- R414, R415, R416: power good clears everything volatile, counts the boot and starts the controllers; the wellhead answers once a port has trained, unless
a check of its own sends the module to recovery mode. Without power nothing is left and no step is taken. -/
def Sys2Proof.Claim.PowerAndBoot : Prop :=
  (∀ s ok well m ports, Next (exec (.powerOn ok well m ports) s) fun t => emptied t ∧ kept s t ∧ t.redeem = [] ∧ t.clock = none ∧ t.sump = [] ∧
    t.bootcount = s.bootcount + 1 ∧ t.lastReset = 1 ∧ t.powered = true ∧
    let good := fun k => (s.ctrls.getD k Ctrl.reset).bankA.valid || (s.ctrls.getD k Ctrl.reset).bankB.valid
    let up := ok = true ∧ good 8 = true
    (t.recovery = true ↔ ¬ up ∨ (ports ≠ 0 ∧ well = false)) ∧ (t.booted = true ↔ up ∧ ports ≠ 0 ∧ well = true) ∧
    (up → t.ports = ports ∧ t.portsDown = downOf ports ∧ (∀ d : Fin 8, (t.dies.getD d.val DieSt.reset).failed = (m.getLsbD d.val || !good d.val) ∧
        Tab.get 0 t.sensors (0x51 + d.val) = if m.getLsbD d.val || !good d.val then 1 else 0) ∧
      ∀ k, k < s.ctrls.length → k < 9 → let dead := decide (k ≠ 8) && (m.getLsbD k || !good k)
        (t.ctrls.getD k Ctrl.reset).running = !dead ∧
        (dead = false → (t.ctrls.getD k Ctrl.reset).bank = startBank (s.ctrls.getD k Ctrl.reset)))) ∧
  (∀ s, Next (exec .powerLoss s) fun t => emptied t ∧ kept s t ∧ t.redeem = [] ∧ t.clock = none ∧ t.sump = [] ∧ t.powered = false ∧
    ((∀ a b c d l, t.agenda ≠ .powerOn a b c d :: l) → step t = .fault .noPower)) ∧
  ∀ s : State, ∀ p : Fin 16, if s.recovery = true ∨ (s.ctrls.getD 8 Ctrl.reset).running = false then exec (.portLinkTraining p) s = .next s
    else Next (exec (.portLinkTraining p) s) fun t => (∀ q : Fin 16, t.ports.getLsbD q.val = (s.ports.getLsbD q.val || decide (q = p))) ∧
      t.portsDown = downOf t.ports ∧ t.wars = s.wars ∧ t.spaces = s.spaces ∧ (s.booted = true → ({ t with
          ports := s.ports, portsDown := s.portsDown } : State) = s) ∧
      (s.booted = false → t.booted = s.wellheadOk ∧ t.recovery = !s.wellheadOk)

/-- R414, R416, R418, R423, R448: a cold or warm reset of the module records itself in the sump, clears cores, HBM and warrants without ENDED, and boots again; a
cold one in every state with power, with the dies and ports that then train; a warm one keeps trusted time, the admitted serials and, once the
hub has configured the module or while no port is trained, the configuration and governor registers. -/
def Sys2Proof.Claim.ModuleResets : Prop :=
  (∀ s : State, s.recovery = true ∨ s.powered = false → exec .moduleWarmReset s = .next s) ∧
  (∀ s : State, s.recovery = false → s.powered = true → Next (exec .moduleWarmReset s) fun t => emptied t ∧ kept s t ∧
    crashed s t 8 5 3 0 0 ∧ t.bootcount = s.bootcount + 1 ∧ t.lastReset = 3 ∧ t.ports = s.ports ∧ t.retired = s.retired ∧
    (∀ d, (t.dies.getD d DieSt.reset).inReset = false ∧ (t.dies.getD d DieSt.reset).failed = (s.dies.getD d DieSt.reset).failed) ∧
    (t.booted = true ↔ s.ports ≠ 0 ∧ s.wellheadOk = true) ∧ (t.recovery = true ↔ s.ports ≠ 0 ∧ s.wellheadOk = false) ∧
    (∃ l, t.out = s.out ++ l ∧ ∀ o ∈ l, o.opc = 0x20) ∧ t.clock = s.clock ∧ (∀ e, e ∈ t.redeem ↔ e ∈ s.redeem ∧ e.pending = false) ∧
    (s.ports = 0 ∨ s.configured = true → t.cfg = s.cfg ∧ t.gov.lup = s.gov.lup ∧ t.gov.ldown = s.gov.ldown ∧ t.gov.tthr = s.gov.tthr ∧
      t.gov.ecap = s.gov.ecap ∧ t.gov.writes = s.gov.writes)) ∧
  (∀ s : State, s.powered = false → exec .moduleColdReset s = .next s) ∧
  ∀ s : State, s.powered = true → s.dies.length = 8 → Next (exec .moduleColdReset s) fun t => emptied t ∧ kept s t ∧
    let m := (Config.coldTraining s.picks).1
    let ports := (Config.coldTraining s.picks).2
    ((s.ctrls.getD 8 Ctrl.reset).running = true → crashed s t 8 5 2 0 0) ∧ t.bootcount = s.bootcount + 1 ∧ t.lastReset = 2 ∧
    t.retired = s.retired ∧ t.clock = none ∧ t.redeem = [] ∧ (∃ l, t.out = s.out ++ l ∧ ∀ o ∈ l, o.opc = 0x20) ∧
    (ports = 0 → t.cfg = Cfg.reset ∧ t.gov.lup = 300 ∧ t.gov.ldown = 300) ∧
    let good := fun k => (s.ctrls.getD k Ctrl.reset).bankA.valid || (s.ctrls.getD k Ctrl.reset).bankB.valid
    (t.recovery = true ↔ good 8 = false ∨ (ports ≠ 0 ∧ s.wellheadOk = false)) ∧
    (t.booted = true ↔ good 8 = true ∧ ports ≠ 0 ∧ s.wellheadOk = true) ∧
    (good 8 = true → t.ports = ports ∧ t.portsDown = downOf ports ∧ ∀ d : Fin 8, (t.dies.getD d.val DieSt.reset).inReset = false ∧
      (t.dies.getD d.val DieSt.reset).failed = (m.getLsbD d.val || !good d.val))

/-- Power, boot and module resets: the statements named here, together.
What the manual leaves open here is the model's choice: assumptions 86, 87, 88 and 102. -/
def Obligations.PowerAndModuleResets : Prop :=
  Sys2Proof.Claim.PowerAndBoot ∧ Sys2Proof.Claim.ModuleResets

/-- R416, R455: a die reset ends the warrants that hold a core, a well partition or a page of the die, a core reset the one that runs on the core, with
FAULT_UNHANDLED; what was reset is clear and every other store that no abandoned operation would have written keeps every byte. A port reset clears its port. -/
def Sys2Proof.Claim.PartialResets : Prop :=
  (∀ s : State, ∀ d : Fin 8, s.dies.length = 8 → (∀ w ∈ s.wars, s.warById w.id = w) → Next (exec (.dieReset d) s) fun t =>
    crashed s t 8 5 4 0 0 ∧ (t.dies.getD d.val DieSt.reset).inReset = true ∧ Tab.get 0 t.sensors (0x51 + d.val) = 2 ∧
    (∀ c, dieOf c = d.val → wipedCore t c) ∧ (∀ c, dieOf c ≠ d.val → noOps s c → (t.coreAt c).store = (s.coreAt c).store) ∧
    ((∀ c, noOps s c) → ∀ x, x ∈ t.wells ↔ x ∈ s.wells ∧ x.2.1 ≠ d.val) ∧
    (∀ w ∈ s.wars, w.code = none → (t.warById w.id).code = if s.onDie d.val w = true ∧ s.pending w = false then some 0x43 else none) ∧
    (∃ l, t.out = s.out ++ l ∧ ∀ o ∈ l, o.opc = 0x85 ∧ leAt o.body 4 1 = 0x43) ∧
    Next (exec (.dieResetCompletion d) t) fun u => (u.dies.getD d.val DieSt.reset).inReset = false ∧
      Tab.get 0 u.sensors (0x51 + d.val) = (if (t.dies.getD d.val DieSt.reset).failed then 1 else 0) ∧ u.cx = t.cx ∧ u.co = t.co ∧ u.spaces = t.spaces ∧ u.wars = t.wars) ∧
  (∀ s c, Next (exec (.coreReset c) s) fun t => crashed s t (dieOf c % 8) 5 5 0 0 ∧ wipedCore t c ∧
    (∀ k, k ≠ c → noOps s k → (t.coreAt k).store = (s.coreAt k).store) ∧
    match (s.coreAt c).launch with
    | none => t.wars = s.wars ∧ t.out = s.out ∧ t.spaces = s.spaces
    | some l => let w := s.warById (s.launchById l).war
        w.id = (s.launchById l).war → w.code = none → (t.warById w.id).code = some 0x43) ∧
  ∀ s : State, ∀ p : Fin 16, Next (exec (.portReset p) s) fun t => crashed s t 8 5 8 0 0 ∧
    (∀ q : Fin 16, t.ports.getLsbD q.val = (s.ports.getLsbD q.val && decide (q ≠ p))) ∧ ({ t with
      ports := s.ports, portsDown := s.portsDown, sump := s.sump, sumpSeq := s.sumpSeq, events := s.events } : State) = s

/-- R148, R417: an engine reset: the pump's and the matrix unit's operation faults with UNCORR and all ones; the governor loses its estimate and holds the
grants; presentations start again without a claim. -/
def Sys2Proof.Claim.EngineResets : Prop :=
  (∀ s o, s.co.pumpq = [o] → o.hid = 0 → s.cx.hid = 0 → s.cx.status = .resident → s.co.ctxs = [] → s.cx.pend = none → s.cx.wait = none →
    s.cx.helper = false → s.cx.intrap = false → s.cx.tvec ≠ 0 →
    Next (exec (.engineReset (.pump s.co.id)) s) fun t => crashed s t (dieOf s.co.id % 8) 5 7 0 0 ∧ t.co.pumpq = [] ∧ regsKept s t ∧
      t.cx.cause = 0x25 ∧ t.cx.tval = BitVec.allOnes 64 ∧ t.cx.epc = s.cx.region ∧ t.cx.pc = s.cx.tvec ∧ t.cx.intrap = true) ∧
  (∀ s v, s.co.mop = some v → v.hid = 0 → v.mmr = false → s.cx.hid = 0 → s.cx.status = .resident → s.cx.pend = none → s.cx.wait = none →
    s.cx.helper = false → s.cx.intrap = false → s.cx.tvec ≠ 0 →
    Next (exec (.engineReset (.matrix s.co.id)) s) fun t => crashed s t (dieOf s.co.id % 8) 5 7 0 0 ∧ t.co.mop = none ∧ regsKept s t ∧
      t.cx.cause = 0x25 ∧ t.cx.tval = BitVec.allOnes 64 ∧ t.cx.epc = s.cx.region ∧ t.cx.pc = s.cx.tvec ∧ t.cx.intrap = true ∧
      destFree s t v.dest ∧ ∀ a, a < v.tile * 4096 ∨ v.tile * 4096 + 4096 ≤ a → (∀ w, (a, w) ∉ v.writes) →
        Tab.get 0 t.co.acc a = Tab.get 0 s.co.acc a) ∧
  (∀ s, Next (exec (.engineReset .governor) s) fun t => crashed s t 8 5 7 0 0 ∧ t.gov.est = 0 ∧ t.gov.resetTill = some s.gov.next ∧
    t.cx = s.cx ∧ t.co.weightSum = 0 ∧ t.co.grant = s.co.grant ∧ (∀ c ∈ t.cores, c.weightSum = 0) ∧
    t.cores.map (·.grant) = s.cores.map (·.grant) ∧ t.gov.lup = s.gov.lup ∧ t.co.store = s.co.store) ∧
  ∀ s : State, (∀ p ∈ s.presns, p.complete = false ∧ 1 ≤ p.nobj ∧ p.nobj ≤ 16) → (∀ w ∈ s.wars, s.warById w.id = w) → Next (exec (.engineReset .crypto) s) fun t => crashed s t 8 5 7 0 0 ∧ t.claims = [] ∧
    t.presns = s.presns.map (fun (p : Presn) => { p with
      claimed := none, past := false }) ∧ t.out = s.out ∧ t.spaces = s.spaces ∧
    ∀ c ∈ s.claims, ∀ e ∈ t.redeem, e.serial = c.serial → s.reservedFor c.serial ≠ none → e.pending = false

/-- Die, core, port and engine resets: the statements named here, together.
What the manual leaves open here is the model's choice: assumptions 10, 88, 89 and 90. -/
def Obligations.PartialAndEngineResets : Prop :=
  Sys2Proof.Claim.PartialResets ∧ Sys2Proof.Claim.EngineResets

/-- R418, R419: a watchdog or an exception of a running controller leaves a crash record and restarts it: from its active bank, at a second event within
10 s from the other, at a third by a reset of its die or of the module. -/
def Sys2Proof.Claim.ControllersRestart : Prop :=
  ∀ s i c kind cause pc addr, (i = .watchdogExpiry c pc ∧ kind = 2 ∧ cause = 0 ∧ addr = 0) ∨ (i = .controllerException c cause pc addr ∧ kind = 1) →
    s.ctrls.length = 9 →
    let k := s.ctrls.getD c.val Ctrl.reset
    let recent := k.events.filter (fun t => decide (s.tick < t + 1000000000))
    (k.running = false → exec i s = .next s) ∧
    (k.running = true → recent.length < 2 → Next (exec i s) fun t => crashed s t c.val kind cause pc addr ∧
      (t.ctrls.getD c.val Ctrl.reset).running = true ∧ (t.ctrls.getD c.val Ctrl.reset).bank = (if recent = [] then k.active else !k.active) ∧
      (t.ctrls.getD c.val Ctrl.reset).events = recent ++ [s.tick] ∧ (∀ d, d ≠ c.val → t.ctrls.getD d Ctrl.reset = s.ctrls.getD d Ctrl.reset) ∧
      ({ t with
          sump := s.sump, sumpSeq := s.sumpSeq, events := s.events, ctrls := s.ctrls } : State) = s) ∧
    (k.running = true → 2 ≤ recent.length → s.dies.length = 8 → Next (exec i s) fun t => t.sumpSeq = s.sumpSeq + 2 ∧
      (t.ctrls.getD c.val Ctrl.reset).running = true ∧ (t.ctrls.getD c.val Ctrl.reset).events = [] ∧
      (c.val < 8 → (t.dies.getD c.val DieSt.reset).inReset = true ∧ ∀ n, dieOf n = c.val → wipedCore t n) ∧
      (c.val = 8 → emptied t ∧ t.lastReset = 3 ∧ t.clock = s.clock))

/-- Every context that waits in WPRES for another presentation of its serial runs in a launch of a running warrant (R344, R400). -/
def Sys2Proof.Claim.secondsRun (s : State) : Prop :=
  ∀ c ∈ s.allCores, ∀ x ∈ c.ctxs, ∀ rd raw, x.wait = some (.second rd raw) →
    ∃ l ∈ s.launches, ∃ w ∈ s.wars, c.launch = some l.id ∧ l.war = w.id ∧ w.code = none ∧ s.pending w = false

/-- R425, R426, R455: a sensor raises the level fused for it, 1 to 3: the alarm is recorded; from level 2 every warrant ends with 0x45, at level 3 every key is
erased and the presentations that wait are refused. -/
def Sys2Proof.Claim.AlarmsEndWarrantsAndEraseKeys : Prop :=
  ∀ s : State, ∀ n, (∀ w ∈ s.wars, s.warById w.id = w) → secondsRun s →
    let level := limited 1 3 (Tab.get 0 s.fuses n)
    Next (exec (.securityAlarm n) s) fun t => crashed s t 8 4 (BitVec.ofNat 32 n) 0 0 ∧ t.alarm = Max.max s.alarm level ∧
      Tab.get 0 t.sensors 0x50 = Max.max (Tab.get 0 s.sensors 0x50) level ∧
      (level = 1 → t.wars = s.wars ∧ t.out = s.out ∧ t.cx = s.cx ∧ t.co = s.co) ∧
      (2 ≤ level → (∀ w ∈ s.wars, w.code = none → s.pending w = false → (t.warById w.id).code = some 0x45) ∧
        ∃ l, t.out = s.out ++ l ∧ ∀ o ∈ l, (o.opc = 0x85 ∧ leAt o.body 4 1 = 0x45) ∨ (level = 3 ∧ o.opc = 0x81)) ∧
      (level < 3 → t.keys = s.keys ∧ t.idHash = s.idHash) ∧ (level = 3 → t.keys = [] ∧ t.idHash = 0)

/-- Controllers restart; alarms end warrants and erase keys: the statements named here, together.
What the manual leaves open here is the model's choice: assumptions 5, 88 and 92. -/
def Obligations.ControllersAndAlarms : Prop :=
  Sys2Proof.Claim.ControllersRestart ∧ Sys2Proof.Claim.AlarmsEndWarrantsAndEraseKeys

/-- R414, R418, R423, R424: the management port reads the sump and reads and writes the configuration registers: a value outside the bounds of its register takes
the nearest, an entry in use and a reserved word keep their value. -/
def Sys2Proof.Claim.ManagementReadsAndConfigures : Prop :=
  (∀ s i, ¬ manages s → (∃ n, i = .sumpread n) ∨ (∃ o, i = .cfgread o) ∨ (∃ o v, i = .cfgwrite o v) ∨ (∃ e v, i = .rdirEntryWrite e v) ∨
    (∃ o, i = .gvread o) ∨ (∃ o v, i = .gvwrite o v) ∨ (∃ w c, i = .dbgreadCounters w c) ∨ (∃ w c h, i = .dbgreadRecord w c h) ∨
    (∃ w c p, i = .dbgstop w c p) ∨ (∃ c, i = .spdmMeasurements c) → exec i s = .next s) ∧
  (∀ s idx, manages s → Next (exec (.sumpread idx) s) fun t => ∃ b, replied s t 1 b ∧ b.length = 128 ∧
    match s.sump.find? (fun c => c.seq % 2048 == idx % 2048) with
    | none => b = List.replicate 128 0
    | some c => leAt b 0 4 = 0x504D5553 ∧ leAt b 4 2 = 1 ∧ leAt b 6 1 = c.ctrl % 16 + (if c.bank then 16 else 0) ∧
        leAt b 7 1 = c.kind.toNat ∧ leAt b 8 4 = c.cause.toNat ∧ leAt b 12 4 = c.boot.toNat ∧ leAt b 16 8 = c.tick.toNat ∧
        leAt b 24 8 = c.pc.toNat ∧ leAt b 32 8 = c.addr.toNat ∧ leAt b 40 8 = c.fwver.toNat ∧ leAt b 48 8 = c.seq % 2 ^ 64) ∧
  (∀ s off, manages s → Next (exec (.cfgread off) s) fun t => replied s t 2 (leBytes 4 (cfgReg s off.toNat).toNat)) ∧
  ∀ s i off v, manages s → (i = .cfgwrite off v) ∨ (∃ e, i = .rdirEntryWrite e v ∧ off.toNat = 0x2000 + 64 * (e % 4096) + 0x30) →
    Next (exec i s) fun t => (cfgFixed s off.toNat → t = s) ∧ t.out = s.out ∧ t.wars = s.wars ∧ t.spaces = s.spaces ∧
      (¬ cfgFixed s off.toNat → cfgReg t off.toNat = cfgTakes off.toNat v ∧ ∀ o, o ≠ off.toNat → cfgReg t o = cfgReg s o)

/-- R41, R338, R432, R434, R435: the debug messages read the counters of a running warrant's core, and a record, and set a stop, where the warrant
allows debugging; of a launch that stands evicted they read its image, and of a control context that has ended the record that its EXIT wrote. -/
def Sys2Proof.Claim.DebugMessagesAnswer : Prop :=
  (∀ s serial core h pc, manages s → (∀ w ∈ s.wars, w.rec_.serial ≠ serial ∨ w.code ≠ none ∨ w.consumed = true ∨ s.pending w = true) →
    (Next (exec (.dbgreadCounters serial core) s) fun t => replied s t 4 [1]) ∧ (Next (exec (.dbgreadRecord serial core h) s) fun t => replied s t 5 [1]) ∧
    Next (exec (.dbgstop serial core pc) s) fun t => replied s t 6 [1]) ∧
  (∀ s serial core h pc w, manages s → s.debugged serial = some w → w.rec_.debug = false →
    (Next (exec (.dbgreadRecord serial core h) s) fun t => replied s t 5 [2]) ∧ Next (exec (.dbgstop serial core pc) s) fun t => replied s t 6 [2]) ∧
  ∀ s serial w x y h, manages s → s.debugged serial = some w → x < w.rec_.width → y < w.rec_.height → x < 65536 → y < 65536 →
    let core : Word := BitVec.ofNat 64 (x + y * 65536)
    let c := s.coreOfIndex w (x + w.rec_.width * y)
    let shown (r : Rec) : Prop := Next (exec (.dbgreadRecord serial core h) s) fun t => ∃ b, replied s t 5 (0 :: b) ∧ b.length = 1024 ∧
      (∀ n : Fin 32, leAt b (16 * n.val) 16 = (r.regs.get n).toNat) ∧ leAt b 512 8 = r.pc.toNat ∧
      leAt b 520 8 = r.region.toNat ∧ leAt b 528 8 = r.epc.toNat ∧ leAt b 536 8 = r.tval.toNat ∧
      leAt b 544 2 = r.cause.toNat ∧ leAt b 546 4 = r.tags.toNat ∧ leAt b 560 2 = r.hid % 65536
    let away := s.evictedAt w (x + w.rec_.width * y)
    ((∀ l ∈ s.launches, l.war ≠ w.id) → c = w.x0 + x + 64 * (w.y0 + y)) ∧
    (∀ l p, away = some l → l.tails.find? (·.1 == l.ofIndex w (x + w.rec_.width * y)) = some p →
      Next (exec (.dbgreadCounters serial core) s) fun t => replied s t 4 (0 :: p.2.drop 8)) ∧
    (∀ l k z, away = some l → w.rec_.debug = true → l.image.find? (·.id == l.ofIndex w (x + w.rec_.width * y)) = some k →
      k.ctxs.find? (·.hid == h) = some z → shown z.toRec) ∧
    (away = none → Next (exec (.dbgreadCounters serial core) s) fun t => ∃ b, replied s t 4 (0 :: b) ∧ b.length = 168 ∧
      (∀ k, 0 < k → k < 9 → leAt b (8 * k) 8 = (Tab.get 0 (s.coreAt c).counters k).toNat) ∧
      (∀ k, k < 12 → leAt b (72 + 8 * k) 8 = (Tab.get 0 (s.coreAt c).counters (16 + k)).toNat)) ∧
    (w.rec_.debug = true → away = none → (∀ z, s.ctxAt c h = some z → shown (if z.slot = none then z.toRec else z.saved)) ∧
      (s.ctxAt c h = none → if h = 0 ∧ (s.coreAt c).owner = w.space then
          match (s.coreAt c).last with
          | some r => shown r
          | none => Next (exec (.dbgreadRecord serial core h) s) fun t => replied s t 5 [1]
        else Next (exec (.dbgreadRecord serial core h) s) fun t => replied s t 5 [1])) ∧
    ∀ slot : Nat, ∀ arm : Bool, ∀ pc : Word, w.rec_.debug = true → away = none → slot < 16 →
      let word : Word := BitVec.ofNat 64 (x + y * 65536 + 2 ^ 32 * slot + if arm then 2 ^ 36 else 0)
      let st := (s.coreAt c).stops
      (slot < 1 ∨ 10 < slot ∨ pc.toNat % 4 ≠ 0 → Next (exec (.dbgstop serial word pc) s) fun t => replied s t 6 [1]) ∧
      (1 ≤ slot → slot ≤ 10 → pc.toNat % 4 = 0 → Next (exec (.dbgstop serial word pc) s) fun t =>
        let p : StopRec := { slot := slot, pc := pc }
        let ok := if arm then decide (st.length < 4) else st.contains p
        t.cx = s.cx ∧ (t.coreAt c).stops = (if ok then if arm then st ++ [p] else st.erase p else st) ∧
        ∃ o, t.out = s.out ++ [o] ∧ o.dest = 2 ^ 130 ∧ o.opc = 6 ∧ o.body = 0 :: leBytes 8 (if ok then 1 else 0))

/-- R420 to R422: measurements of both banks, update of the bank that is not selected, activation, for which the controller is quiesced at most 5 ms, unless the image is invalid, an
eviction claim is pending or a switch goes on, and the return to the old bank when the self-test fails within 1 s. -/
def Sys2Proof.Claim.FirmwareIsUpdatedAndSwitched : Prop :=
  ∀ s : State, ∀ c : Fin 9, s.ctrls.length = 9 →
    let k := s.ctrls.getD c.val Ctrl.reset
    let only (t : State) (k' : Ctrl) : Prop := t.ctrls.getD c.val Ctrl.reset = k' ∧ ∀ d, d ≠ c.val → t.ctrls.getD d Ctrl.reset = s.ctrls.getD d Ctrl.reset
    (manages s → Next (exec (.spdmMeasurements c) s) fun t => ∃ b, replied s t 7 b ∧ b.length = 65 ∧ leAt b 0 1 = (if k.active then 1 else 0) ∧
      leAt b 1 32 = k.bankA.measure.toNat ∧ leAt b 33 32 = k.bankB.measure.toNat) ∧
    (∀ image, Next (exec (.pldmFirmwareUpdate c image) s) fun t => ({ t with
        ctrls := s.ctrls } : State) = s ∧ ∃ b : Bank, b.version = Config.imageVersion image ∧ b.measure = Config.sm3 image ∧
      (b.valid = true ↔ Config.sm3 (Config.imageParts image).1 = (Config.imageParts image).2.1 ∧
        Config.sm2Verify s.fwKey (Config.imageParts image).1 (Config.imageParts image).2.2.1 = true ∧ s.fwMin ≤ (Config.imageParts image).2.2.2) ∧ only t (if k.active then { k with
          bankA := b } else { k with
          bankB := b })) ∧
    (let new := if k.active then k.bankA else k.bankB
      let held := c.val < 8 ∧ ∃ l ∈ s.launches, l.cls = 2 ∧ l.state = .accepted ∧ (∃ n ∈ l.live, dieOf n = c.val) ∧ ∃ n ∈ l.cores, s.heldCore n = true
      (new.valid = false ∨ held ∨ s.quiesced c.val = true → exec (.firmwareActivation c) s = .next s) ∧
      (new.valid = true → ¬ held → s.quiesced c.val = false → Next (exec (.firmwareActivation c) s) fun t => ({ t with
          ctrls := s.ctrls, picks := s.picks } : State) = s ∧ ∃ n, s.tick ≤ n ∧ n ≤ s.tick + 500000 ∧ only t { k with
          active := !k.active, bank := !k.active, switchedAt := some n, quiet := some n } ∧ (t.quiesced c.val = true ↔ s.tick < n))) ∧
    ((k.switchedAt = none ∨ ∃ n, k.switchedAt = some n ∧ (s.tick < n ∨ n + 100000000 < s.tick)) → exec (.firmwareSelfTestFailure c) s = .next s) ∧
    (∀ n, k.switchedAt = some n → n ≤ s.tick → s.tick ≤ n + 100000000 → Next (exec (.firmwareSelfTestFailure c) s) fun t => crashed s t c.val 3 0 0 0 ∧
      only t { k with
        active := !k.active, bank := !k.active, switchedAt := none, quiet := none })

/-- The management port reads, configures, debugs and updates: the statements named here, together.
What the manual leaves open here is the model's choice: assumptions 87, 88, 91, 92, 93 and 126. -/
def Obligations.ManagementAnswers : Prop :=
  Sys2Proof.Claim.ManagementReadsAndConfigures ∧
    Sys2Proof.Claim.DebugMessagesAnswer ∧
    Sys2Proof.Claim.FirmwareIsUpdatedAndSwitched

namespace Sys2Proof.Claim

/-! ## Encodings, reset and memory (R5, R168 to R188, R416, R423, R443) -/

/-- The bytes of a list of instruction words, in address order (R5, R168). -/
def wordBytes (l : List Nat) : List Byte := l.flatMap (leBytes 4)

end Sys2Proof.Claim

/-- R168 to R187: encoding is undone by decoding, for every well-formed instruction and every operand, whatever bytes follow. -/
def Obligations.DecodingUndoesEncoding : Prop :=
  ∀ i rest, i.wf = true → decodeBytes (wordBytes (encode i) ++ rest) = .ok i

/-- R168 to R187: what decodes is well formed, and its words are those of its encoding: no two words mean one instruction and no bit goes unread. -/
def Obligations.EncodingUndoesDecoding : Prop :=
  ∀ bs i, 12 ≤ bs.length → decodeBytes bs = .ok i →
    i.wf = true ∧ (encode i).length = wordCount (wordAt bs 0) ∧ wordBytes (encode i) = bs.take (4 * (encode i).length)

/-- R188 and R170 to R186: the worked encodings decode to the instructions that they stand for. -/
def Obligations.WorkedWordsDecode : Prop :=
  decodeWords 0x0018A404 0 0 = .ok (.add 4 5 6) ∧ decodeWords 0xFFFC0520 0 0 = .ok (.li 5 0x3FFF) ∧
  decodeWords 0x00808428 0 0 = .ok (.sext 4 4 32) ∧ decodeWords 0x0F20C730 0 0 = .ok (.bfx 7 6 8 15) ∧
  decodeWords 0x1A148908 0 0 = .ok (.cmp .lt 3 9 4 5) ∧ decodeWords 0x61A92838 0 0 = .ok (.fma .rtz .d 8 9 10) ∧
  decodeWords 0x4800A438 0 0 = .ok (.fcvtToInt .rtz .s .i32 4 5) ∧ decodeWords 0x0100C644 0 0 = .ok (.cincImm 6 6 64) ∧
  decodeWords 0x031C6640 0 0 = .ok (.csb 6 3 7) ∧ decodeWords 0xFFF0654C 0 0 = .ok (.bt 5 3 0x3FFC) ∧
  decodeWords 0xFFE8085C 0 0 = .ok (.loop 8 0x3FFA) ∧ decodeWords 0x0200A064 0 0 = .ok (.callc 5) ∧
  decodeWords 0x01002064 0 0 = .ok (.ret 1) ∧ decodeWords 0x01800064 0 0 = .ok .yield ∧
  decodeWords 0x0000001A 0 0x00100000 = .ok (.j 0x00100000)

/-- R414, R416, R423, R443: the module as power good rises: nothing runs and nothing is stored; the configuration and governor registers hold their reset values. -/
def Sys2Proof.Claim.ResetHoldsTheSpecifiedValues : Prop :=
  let s := State.reset
  emptied s ∧ s.redeem = [] ∧ s.clock = none ∧ s.sump = [] ∧ s.powered = true ∧ s.booted = false ∧ s.recovery = false ∧
  s.dies.length = 8 ∧ s.ctrls.length = 9 ∧
  cfgReg s 0 = 25600 ∧ cfgReg s 4 = 2000 ∧ cfgReg s 8 = 200000000 ∧ cfgReg s 12 = 1 ∧ (∀ o, 12 < o → cfgReg s o = 0) ∧
  s.gov.lup = 300 ∧ s.gov.ldown = 300 ∧ s.gov.tthr = 95 ∧ s.gov.ecap = 6758 ∧
  (∀ d ∈ s.dies, d.cur = 16 ∧ d.tgt = 16 ∧ d.ceil = 20) ∧ (∀ n a, Memory.read (s.spaceById n).mem a = 0) ∧
  (∀ n a, Memory.read (s.coreAt n).store a = 0) ∧ ∀ n : Reg, s.g n = 0 ∧ s.gtag n = false

/-- The memories of the module after reset have their canonical form (assumption 3: a byte that nothing has written reads as 0). -/
def Sys2Proof.Claim.ResetMemoryIsCanonical : Prop := State.memWf State.reset = true

/-- Reset holds the specified values and canonical memory: the statements named here, together.
What the manual leaves open here is the model's choice: assumptions 3, 4 and 5. -/
def Obligations.ResetHoldsTheSpecifiedValues : Prop :=
  Sys2Proof.Claim.ResetHoldsTheSpecifiedValues ∧ Sys2Proof.Claim.ResetMemoryIsCanonical

/-- R5, R71: every step keeps the canonical form of every memory: addresses strictly rising, no entry equal to what an unlisted address reads as
(assumption 3), so that equal memories are equal data.
What the manual leaves open here is the model's choice: assumption 3. -/
def Obligations.EveryStepKeepsMemoryCanonical : Prop :=
  ∀ s t, State.memWf s = true → step s = .next t → State.memWf t = true

/-- A module with power never stops: every step of it is a next state, whatever it does (its exceptions are states, R321, R324). -/
def Sys2Proof.Claim.PoweredStepsComplete : Prop :=
  ∀ s : State, s.powered = true → SafeStep s

/-- Fetch and decoding failures trap; no powered step stops: the statements named here, together.
What the manual leaves open here is the model's choice: assumption 102. -/
def Obligations.FetchFailuresTrap : Prop :=
  Sys2Proof.Claim.FetchAndDecodingFailuresTrap ∧ Sys2Proof.Claim.PoweredStepsComplete
end

