-- ==== Sys2Proof/Laws/Mem.lean ====
section
/-! SUPPORT. The laws of sparse tables and byte memories: a read after a write, other keys untouched, the canonical form
kept. -/

namespace Sys2Proof.Machine

open Sys2Proof

section tables

variable {α : Type} [DecidableEq α] (d : α) (t : List (Nat × α)) (a b : Nat) (v : α)

omit [DecidableEq α] in
theorem Tab.get_del : Tab.get d (Tab.del t a) b = if b = a then d else Tab.get d t b := by
  induction t with
  | nil => simp [Tab.del, Tab.get]
  | cons c t ih =>
    obtain ⟨k, w⟩ := c
    simp only [Tab.del, List.filter_cons] at ih ⊢
    by_cases hk : k = a
    · subst hk
      simp only [ne_eq, not_true_eq_false, decide_false, Bool.false_eq_true, if_false, ih, Tab.get]
      by_cases hb : b = k <;> simp [hb, eq_comm]
    · simp only [ne_eq, hk, not_false_eq_true, decide_true, if_true, Tab.get, ih]
      by_cases hb : k = b
      · subst hb; simp [hk]
      · simp [hb]

omit [DecidableEq α] in
theorem Tab.get_ins (h : ∀ c ∈ t, c.1 ≠ a) : Tab.get d (Tab.ins a v t) b = if b = a then v else Tab.get d t b := by
  induction t with
  | nil => simp [Tab.ins, Tab.get, eq_comm]
  | cons c t ih =>
    obtain ⟨k, w⟩ := c
    have hk : k ≠ a := h (k, w) (by simp)
    have ih := ih (fun c hc => h c (by simp [hc]))
    simp only [Tab.ins]
    by_cases hlt : a < k
    · simp only [hlt, if_true, Tab.get]
      by_cases hb : a = b
      · simp [hb]
      · have : ¬ b = a := fun h => hb h.symm
        simp [hb, this]
    · simp only [hlt, if_false, Tab.get, ih]
      by_cases hb : k = b
      · subst hb; simp [hk]
      · simp [hb]

omit [DecidableEq α] in
theorem Tab.mem_del {c : Nat × α} : c ∈ Tab.del t a ↔ c ∈ t ∧ c.1 ≠ a := by simp [Tab.del]

/-- A read after a write: the written key gives the value, every other key what it gave before. -/
@[simp] theorem Tab.get_set : Tab.get d (Tab.set d t a v) b = if b = a then v else Tab.get d t b := by
  unfold Tab.set
  by_cases hv : v = d
  · rw [if_pos hv, Tab.get_del, hv]
  · rw [if_neg hv, Tab.get_ins d _ a b v (fun c hc => ((Tab.mem_del t a).1 hc).2), Tab.get_del]
    by_cases hb : b = a <;> simp [hb]

omit [DecidableEq α] in
theorem Tab.mem_ins {c : Nat × α} : c ∈ Tab.ins a v t ↔ c = (a, v) ∨ c ∈ t := by
  induction t with
  | nil => simp [Tab.ins]
  | cons x t ih =>
    simp only [Tab.ins]
    split
    · simp
    · simp only [List.mem_cons, ih]; tauto

omit [DecidableEq α] in
theorem Tab.ins_sorted (ht : (t.map Prod.fst).Pairwise (· < ·)) (h : ∀ c ∈ t, c.1 ≠ a) :
    ((Tab.ins a v t).map Prod.fst).Pairwise (· < ·) := by
  induction t with
  | nil => simp [Tab.ins]
  | cons x t ih =>
    obtain ⟨k, w⟩ := x
    have hk : k ≠ a := h (k, w) (by simp)
    simp only [List.map_cons, List.pairwise_cons, List.mem_map] at ht
    simp only [Tab.ins]
    split
    · rename_i hlt
      simp only [List.map_cons, List.pairwise_cons, List.mem_map, List.mem_cons]
      refine ⟨?_, ht⟩
      rintro y (rfl | ⟨c, hc, rfl⟩)
      · exact hlt
      · exact lt_trans hlt (ht.1 _ ⟨c, hc, rfl⟩)
    · rename_i hlt
      simp only [List.map_cons, List.pairwise_cons, List.mem_map]
      refine ⟨?_, ih ht.2 (fun c hc => h c (by simp [hc]))⟩
      rintro y ⟨c, hc, rfl⟩
      rcases (Tab.mem_ins t a v).1 hc with rfl | hc
      · show k < a; omega
      · exact ht.1 _ ⟨c, hc, rfl⟩

/-- A write keeps the canonical form. -/
theorem Tab.wf_set (h : Tab.wf d t = true) : Tab.wf d (Tab.set d t a v) = true := by
  simp only [Tab.wf, Bool.and_eq_true, decide_eq_true_eq, List.all_eq_true] at h ⊢
  have hdel : ((Tab.del t a).map Prod.fst).Pairwise (· < ·) :=
    h.1.sublist (List.Sublist.map _ List.filter_sublist)
  unfold Tab.set
  split
  · exact ⟨hdel, fun c hc => h.2 c ((Tab.mem_del t a).1 hc).1⟩
  · rename_i hv
    refine ⟨Tab.ins_sorted _ a v hdel (fun c hc => ((Tab.mem_del t a).1 hc).2), ?_⟩
    intro c hc
    rcases (Tab.mem_ins _ a v).1 hc with rfl | hc
    · exact hv
    · exact h.2 c ((Tab.mem_del t a).1 hc).1

/-- Leaving entries out keeps the canonical form. -/
theorem Tab.wf_filter (p : Nat × α → Bool) (h : Tab.wf d t = true) : Tab.wf d (t.filter p) = true := by
  simp only [Tab.wf, Bool.and_eq_true, decide_eq_true_eq, List.all_eq_true] at h ⊢
  exact ⟨h.1.sublist (List.Sublist.map _ List.filter_sublist), fun c hc => h.2 c (List.mem_of_mem_filter hc)⟩

end tables

@[simp] theorem Memory.wf_nil : Memory.wf [] = true := rfl

/-- A byte read after a byte write. -/
@[simp] theorem Memory.read_write (m : Memory) (a b : Nat) (v : Byte) :
    Memory.read (m.write a v) b = if b = a then v else m.read b := by simp [Memory.read, Memory.write]

theorem Memory.wf_write (m : Memory) (a : Nat) (v : Byte) (h : m.wf = true) : (m.write a v).wf = true :=
  Tab.wf_set _ _ _ _ h

/-- A byte read after a write of bytes from `a` up. -/
@[simp] theorem Memory.read_writeN (m : Memory) (a b : Nat) (bs : List Byte) :
    Memory.read (m.writeN a bs) b = if a ≤ b ∧ b < a + bs.length then bs.getD (b - a) 0 else m.read b := by
  induction bs generalizing m a with
  | nil => simp [Memory.writeN]
  | cons x bs ih =>
    simp only [Memory.writeN, ih, Memory.read_write, List.length_cons]
    by_cases h1 : b = a
    · subst h1
      simp
    · by_cases h2 : a + 1 ≤ b ∧ b < a + 1 + bs.length
      · have h3 : a ≤ b ∧ b < a + (bs.length + 1) := by omega
        have h4 : b - a = (b - (a + 1)) + 1 := by omega
        simp only [h2, h3, and_self, if_true, h4, List.getD_cons_succ]
      · have h3 : ¬ (a ≤ b ∧ b < a + (bs.length + 1)) := by omega
        simp only [h2, h3, if_false, h1]

theorem Memory.wf_writeN (m : Memory) (a : Nat) (bs : List Byte) (h : m.wf = true) : (m.writeN a bs).wf = true := by
  induction bs generalizing m a with
  | nil => exact h
  | cons x bs ih => exact ih _ _ (Memory.wf_write m a x h)

theorem Memory.wf_writeAt (m : Memory) (l : List (Nat × Byte)) (h : m.wf = true) : (m.writeAt l).wf = true := by
  induction l generalizing m with
  | nil => exact h
  | cons x l ih => obtain ⟨a, b⟩ := x; exact ih _ (Memory.wf_write m a b h)

/-- A byte read after a write at listed addresses none of which is `b`. -/
theorem Memory.read_writeAt_of_not_mem (m : Memory) (b : Nat) (l : List (Nat × Byte)) (h : ∀ p ∈ l, p.1 ≠ b) :
    Memory.read (m.writeAt l) b = m.read b := by
  induction l generalizing m with
  | nil => rfl
  | cons x l ih =>
    obtain ⟨a, v⟩ := x
    have ha : ¬ b = a := fun e => h (a, v) (by simp) e.symm
    simp only [Memory.writeAt, ih _ (fun p hp => h p (by simp [hp])), Memory.read_write, ha, if_false]

@[simp] theorem leBytes_length (n v : Nat) : (leBytes n v).length = n := by
  induction n generalizing v with
  | zero => rfl
  | succ n ih => simp [leBytes, ih]

@[simp] theorem Memory.readN_length (m : Memory) (a n : Nat) : (m.readN a n).length = n := by simp [Memory.readN]

/-- The number that little-endian bytes of a number hold. -/
@[simp] theorem leNat_leBytes (n v : Nat) : leNat (leBytes n v) = v % 256 ^ n := by
  induction n generalizing v with
  | zero => simp [leBytes, leNat, Nat.mod_one]
  | succ n ih =>
    simp only [leBytes, leNat, ih, BitVec.toNat_ofNat]
    rw [show (2 : Nat) ^ 8 = 256 from rfl, pow_succ, Nat.mul_comm (256 ^ n) 256, Nat.mod_mul]

theorem mem_insNat (l : List Nat) (a b : Nat) : b ∈ insNat l a ↔ b = a ∨ b ∈ l := by
  induction l with
  | nil => simp [insNat]
  | cons k t ih =>
    simp only [insNat]
    split
    · simp
    · split
      · rename_i h; subst h; simp
      · simp only [List.mem_cons, ih]; tauto

theorem mem_delNat (l : List Nat) (a b : Nat) : b ∈ delNat l a ↔ b ∈ l ∧ b ≠ a := by simp [delNat]

end Sys2Proof.Machine
end

