-- ==== Sys2Proof/Laws/State.lean ====
section
/-! SUPPORT. One lemma per field for the updates of the state that instructions are built from, and what each shared operation on registers, the PC and the
notes of an issue can do. -/

namespace Sys2Proof.Machine

open Sys2Proof

@[simp] theorem State.setCap_co (s : State) (n : Reg) (v : W128) (t : Bool) : (s.setCap n v t).co = s.co := rfl
@[simp] theorem State.setCap_cores (s : State) (n : Reg) (v : W128) (t : Bool) : (s.setCap n v t).cores = s.cores := rfl
@[simp] theorem State.setCap_tick (s : State) (n : Reg) (v : W128) (t : Bool) : (s.setCap n v t).tick = s.tick := rfl
@[simp] theorem State.setCap_picks (s : State) (n : Reg) (v : W128) (t : Bool) : (s.setCap n v t).picks = s.picks := rfl
@[simp] theorem State.setCap_spaces (s : State) (n : Reg) (v : W128) (t : Bool) : (s.setCap n v t).spaces = s.spaces := rfl
@[simp] theorem State.setCap_wars (s : State) (n : Reg) (v : W128) (t : Bool) : (s.setCap n v t).wars = s.wars := rfl
@[simp] theorem State.setCap_launches (s : State) (n : Reg) (v : W128) (t : Bool) : (s.setCap n v t).launches = s.launches := rfl
@[simp] theorem State.setCap_net (s : State) (n : Reg) (v : W128) (t : Bool) : (s.setCap n v t).net = s.net := rfl
@[simp] theorem State.setCap_rounds (s : State) (n : Reg) (v : W128) (t : Bool) : (s.setCap n v t).rounds = s.rounds := rfl
@[simp] theorem State.setCap_corrLog (s : State) (n : Reg) (v : W128) (t : Bool) : (s.setCap n v t).corrLog = s.corrLog := rfl
@[simp] theorem State.setCap_wells (s : State) (n : Reg) (v : W128) (t : Bool) : (s.setCap n v t).wells = s.wells := rfl
@[simp] theorem State.setCap_gov (s : State) (n : Reg) (v : W128) (t : Bool) : (s.setCap n v t).gov = s.gov := rfl
@[simp] theorem State.setCap_dies (s : State) (n : Reg) (v : W128) (t : Bool) : (s.setCap n v t).dies = s.dies := rfl
@[simp] theorem State.setCap_cfg (s : State) (n : Reg) (v : W128) (t : Bool) : (s.setCap n v t).cfg = s.cfg := rfl
@[simp] theorem State.setCap_powered (s : State) (n : Reg) (v : W128) (t : Bool) : (s.setCap n v t).powered = s.powered := rfl
@[simp] theorem State.setCap_booted (s : State) (n : Reg) (v : W128) (t : Bool) : (s.setCap n v t).booted = s.booted := rfl
@[simp] theorem State.setCap_configured (s : State) (n : Reg) (v : W128) (t : Bool) : (s.setCap n v t).configured = s.configured := rfl
@[simp] theorem State.setCap_recovery (s : State) (n : Reg) (v : W128) (t : Bool) : (s.setCap n v t).recovery = s.recovery := rfl
@[simp] theorem State.setCap_wellheadOk (s : State) (n : Reg) (v : W128) (t : Bool) : (s.setCap n v t).wellheadOk = s.wellheadOk := rfl
@[simp] theorem State.setCap_announced (s : State) (n : Reg) (v : W128) (t : Bool) : (s.setCap n v t).announced = s.announced := rfl
@[simp] theorem State.setCap_annDone (s : State) (n : Reg) (v : W128) (t : Bool) : (s.setCap n v t).annDone = s.annDone := rfl
@[simp] theorem State.setCap_annAt (s : State) (n : Reg) (v : W128) (t : Bool) : (s.setCap n v t).annAt = s.annAt := rfl
@[simp] theorem State.setCap_bootcount (s : State) (n : Reg) (v : W128) (t : Bool) : (s.setCap n v t).bootcount = s.bootcount := rfl
@[simp] theorem State.setCap_lastReset (s : State) (n : Reg) (v : W128) (t : Bool) : (s.setCap n v t).lastReset = s.lastReset := rfl
@[simp] theorem State.setCap_clock (s : State) (n : Reg) (v : W128) (t : Bool) : (s.setCap n v t).clock = s.clock := rfl
@[simp] theorem State.setCap_presns (s : State) (n : Reg) (v : W128) (t : Bool) : (s.setCap n v t).presns = s.presns := rfl
@[simp] theorem State.setCap_redeem (s : State) (n : Reg) (v : W128) (t : Bool) : (s.setCap n v t).redeem = s.redeem := rfl
@[simp] theorem State.setCap_homeTab (s : State) (n : Reg) (v : W128) (t : Bool) : (s.setCap n v t).homeTab = s.homeTab := rfl
@[simp] theorem State.setCap_claims (s : State) (n : Reg) (v : W128) (t : Bool) : (s.setCap n v t).claims = s.claims := rfl
@[simp] theorem State.setCap_keys (s : State) (n : Reg) (v : W128) (t : Bool) : (s.setCap n v t).keys = s.keys := rfl
@[simp] theorem State.setCap_idHash (s : State) (n : Reg) (v : W128) (t : Bool) : (s.setCap n v t).idHash = s.idHash := rfl
@[simp] theorem State.setCap_naks (s : State) (n : Reg) (v : W128) (t : Bool) : (s.setCap n v t).naks = s.naks := rfl
@[simp] theorem State.setCap_sensors (s : State) (n : Reg) (v : W128) (t : Bool) : (s.setCap n v t).sensors = s.sensors := rfl
@[simp] theorem State.setCap_ctrls (s : State) (n : Reg) (v : W128) (t : Bool) : (s.setCap n v t).ctrls = s.ctrls := rfl
@[simp] theorem State.setCap_sump (s : State) (n : Reg) (v : W128) (t : Bool) : (s.setCap n v t).sump = s.sump := rfl
@[simp] theorem State.setCap_sumpSeq (s : State) (n : Reg) (v : W128) (t : Bool) : (s.setCap n v t).sumpSeq = s.sumpSeq := rfl
@[simp] theorem State.setCap_ports (s : State) (n : Reg) (v : W128) (t : Bool) : (s.setCap n v t).ports = s.ports := rfl
@[simp] theorem State.setCap_portsDown (s : State) (n : Reg) (v : W128) (t : Bool) : (s.setCap n v t).portsDown = s.portsDown := rfl
@[simp] theorem State.setCap_fwKey (s : State) (n : Reg) (v : W128) (t : Bool) : (s.setCap n v t).fwKey = s.fwKey := rfl
@[simp] theorem State.setCap_fwMin (s : State) (n : Reg) (v : W128) (t : Bool) : (s.setCap n v t).fwMin = s.fwMin := rfl
@[simp] theorem State.setCap_alarm (s : State) (n : Reg) (v : W128) (t : Bool) : (s.setCap n v t).alarm = s.alarm := rfl
@[simp] theorem State.setCap_fuses (s : State) (n : Reg) (v : W128) (t : Bool) : (s.setCap n v t).fuses = s.fuses := rfl
@[simp] theorem State.setCap_events (s : State) (n : Reg) (v : W128) (t : Bool) : (s.setCap n v t).events = s.events := rfl
@[simp] theorem State.setCap_beaconDrops (s : State) (n : Reg) (v : W128) (t : Bool) : (s.setCap n v t).beaconDrops = s.beaconDrops := rfl
@[simp] theorem State.setCap_ueDrops (s : State) (n : Reg) (v : W128) (t : Bool) : (s.setCap n v t).ueDrops = s.ueDrops := rfl
@[simp] theorem State.setCap_memUsed (s : State) (n : Reg) (v : W128) (t : Bool) : (s.setCap n v t).memUsed = s.memUsed := rfl
@[simp] theorem State.setCap_retired (s : State) (n : Reg) (v : W128) (t : Bool) : (s.setCap n v t).retired = s.retired := rfl
@[simp] theorem State.setCap_wellPoison (s : State) (n : Reg) (v : W128) (t : Bool) : (s.setCap n v t).wellPoison = s.wellPoison := rfl
@[simp] theorem State.setCap_nextId (s : State) (n : Reg) (v : W128) (t : Bool) : (s.setCap n v t).nextId = s.nextId := rfl
@[simp] theorem State.setCap_movedVi (s : State) (n : Reg) (v : W128) (t : Bool) : (s.setCap n v t).movedVi = s.movedVi := rfl
@[simp] theorem State.setCap_out (s : State) (n : Reg) (v : W128) (t : Bool) : (s.setCap n v t).out = s.out := rfl
@[simp] theorem State.setCap_agenda (s : State) (n : Reg) (v : W128) (t : Bool) : (s.setCap n v t).agenda = s.agenda := rfl
@[simp] theorem State.setCap_later (s : State) (n : Reg) (v : W128) (t : Bool) : (s.setCap n v t).later = s.later := rfl
@[simp] theorem State.setCap_arrivals (s : State) (n : Reg) (v : W128) (t : Bool) : (s.setCap n v t).arrivals = s.arrivals := rfl
@[simp] theorem State.setCap_departures (s : State) (n : Reg) (v : W128) (t : Bool) : (s.setCap n v t).departures = s.departures := rfl
@[simp] theorem State.setCap_ir (s : State) (n : Reg) (v : W128) (t : Bool) : (s.setCap n v t).ir = s.ir := rfl

@[simp] theorem State.setPc_co (s : State) (v : Word) : (s.setPc v).co = s.co := rfl
@[simp] theorem State.setPc_cores (s : State) (v : Word) : (s.setPc v).cores = s.cores := rfl
@[simp] theorem State.setPc_tick (s : State) (v : Word) : (s.setPc v).tick = s.tick := rfl
@[simp] theorem State.setPc_picks (s : State) (v : Word) : (s.setPc v).picks = s.picks := rfl
@[simp] theorem State.setPc_spaces (s : State) (v : Word) : (s.setPc v).spaces = s.spaces := rfl
@[simp] theorem State.setPc_wars (s : State) (v : Word) : (s.setPc v).wars = s.wars := rfl
@[simp] theorem State.setPc_launches (s : State) (v : Word) : (s.setPc v).launches = s.launches := rfl
@[simp] theorem State.setPc_net (s : State) (v : Word) : (s.setPc v).net = s.net := rfl
@[simp] theorem State.setPc_rounds (s : State) (v : Word) : (s.setPc v).rounds = s.rounds := rfl
@[simp] theorem State.setPc_corrLog (s : State) (v : Word) : (s.setPc v).corrLog = s.corrLog := rfl
@[simp] theorem State.setPc_wells (s : State) (v : Word) : (s.setPc v).wells = s.wells := rfl
@[simp] theorem State.setPc_gov (s : State) (v : Word) : (s.setPc v).gov = s.gov := rfl
@[simp] theorem State.setPc_dies (s : State) (v : Word) : (s.setPc v).dies = s.dies := rfl
@[simp] theorem State.setPc_cfg (s : State) (v : Word) : (s.setPc v).cfg = s.cfg := rfl
@[simp] theorem State.setPc_powered (s : State) (v : Word) : (s.setPc v).powered = s.powered := rfl
@[simp] theorem State.setPc_booted (s : State) (v : Word) : (s.setPc v).booted = s.booted := rfl
@[simp] theorem State.setPc_configured (s : State) (v : Word) : (s.setPc v).configured = s.configured := rfl
@[simp] theorem State.setPc_recovery (s : State) (v : Word) : (s.setPc v).recovery = s.recovery := rfl
@[simp] theorem State.setPc_wellheadOk (s : State) (v : Word) : (s.setPc v).wellheadOk = s.wellheadOk := rfl
@[simp] theorem State.setPc_announced (s : State) (v : Word) : (s.setPc v).announced = s.announced := rfl
@[simp] theorem State.setPc_annDone (s : State) (v : Word) : (s.setPc v).annDone = s.annDone := rfl
@[simp] theorem State.setPc_annAt (s : State) (v : Word) : (s.setPc v).annAt = s.annAt := rfl
@[simp] theorem State.setPc_bootcount (s : State) (v : Word) : (s.setPc v).bootcount = s.bootcount := rfl
@[simp] theorem State.setPc_lastReset (s : State) (v : Word) : (s.setPc v).lastReset = s.lastReset := rfl
@[simp] theorem State.setPc_clock (s : State) (v : Word) : (s.setPc v).clock = s.clock := rfl
@[simp] theorem State.setPc_presns (s : State) (v : Word) : (s.setPc v).presns = s.presns := rfl
@[simp] theorem State.setPc_redeem (s : State) (v : Word) : (s.setPc v).redeem = s.redeem := rfl
@[simp] theorem State.setPc_homeTab (s : State) (v : Word) : (s.setPc v).homeTab = s.homeTab := rfl
@[simp] theorem State.setPc_claims (s : State) (v : Word) : (s.setPc v).claims = s.claims := rfl
@[simp] theorem State.setPc_keys (s : State) (v : Word) : (s.setPc v).keys = s.keys := rfl
@[simp] theorem State.setPc_idHash (s : State) (v : Word) : (s.setPc v).idHash = s.idHash := rfl
@[simp] theorem State.setPc_naks (s : State) (v : Word) : (s.setPc v).naks = s.naks := rfl
@[simp] theorem State.setPc_sensors (s : State) (v : Word) : (s.setPc v).sensors = s.sensors := rfl
@[simp] theorem State.setPc_ctrls (s : State) (v : Word) : (s.setPc v).ctrls = s.ctrls := rfl
@[simp] theorem State.setPc_sump (s : State) (v : Word) : (s.setPc v).sump = s.sump := rfl
@[simp] theorem State.setPc_sumpSeq (s : State) (v : Word) : (s.setPc v).sumpSeq = s.sumpSeq := rfl
@[simp] theorem State.setPc_ports (s : State) (v : Word) : (s.setPc v).ports = s.ports := rfl
@[simp] theorem State.setPc_portsDown (s : State) (v : Word) : (s.setPc v).portsDown = s.portsDown := rfl
@[simp] theorem State.setPc_fwKey (s : State) (v : Word) : (s.setPc v).fwKey = s.fwKey := rfl
@[simp] theorem State.setPc_fwMin (s : State) (v : Word) : (s.setPc v).fwMin = s.fwMin := rfl
@[simp] theorem State.setPc_alarm (s : State) (v : Word) : (s.setPc v).alarm = s.alarm := rfl
@[simp] theorem State.setPc_fuses (s : State) (v : Word) : (s.setPc v).fuses = s.fuses := rfl
@[simp] theorem State.setPc_events (s : State) (v : Word) : (s.setPc v).events = s.events := rfl
@[simp] theorem State.setPc_beaconDrops (s : State) (v : Word) : (s.setPc v).beaconDrops = s.beaconDrops := rfl
@[simp] theorem State.setPc_ueDrops (s : State) (v : Word) : (s.setPc v).ueDrops = s.ueDrops := rfl
@[simp] theorem State.setPc_memUsed (s : State) (v : Word) : (s.setPc v).memUsed = s.memUsed := rfl
@[simp] theorem State.setPc_retired (s : State) (v : Word) : (s.setPc v).retired = s.retired := rfl
@[simp] theorem State.setPc_wellPoison (s : State) (v : Word) : (s.setPc v).wellPoison = s.wellPoison := rfl
@[simp] theorem State.setPc_nextId (s : State) (v : Word) : (s.setPc v).nextId = s.nextId := rfl
@[simp] theorem State.setPc_movedVi (s : State) (v : Word) : (s.setPc v).movedVi = s.movedVi := rfl
@[simp] theorem State.setPc_out (s : State) (v : Word) : (s.setPc v).out = s.out := rfl
@[simp] theorem State.setPc_agenda (s : State) (v : Word) : (s.setPc v).agenda = s.agenda := rfl
@[simp] theorem State.setPc_later (s : State) (v : Word) : (s.setPc v).later = s.later := rfl
@[simp] theorem State.setPc_arrivals (s : State) (v : Word) : (s.setPc v).arrivals = s.arrivals := rfl
@[simp] theorem State.setPc_departures (s : State) (v : Word) : (s.setPc v).departures = s.departures := rfl
@[simp] theorem State.setPc_ir (s : State) (v : Word) : (s.setPc v).ir = s.ir := rfl

@[simp] theorem State.count_cx (s : State) (ev : CtrEvent) : (s.count ev).cx = s.cx := rfl
@[simp] theorem State.count_cores (s : State) (ev : CtrEvent) : (s.count ev).cores = s.cores := rfl
@[simp] theorem State.count_tick (s : State) (ev : CtrEvent) : (s.count ev).tick = s.tick := rfl
@[simp] theorem State.count_picks (s : State) (ev : CtrEvent) : (s.count ev).picks = s.picks := rfl
@[simp] theorem State.count_spaces (s : State) (ev : CtrEvent) : (s.count ev).spaces = s.spaces := rfl
@[simp] theorem State.count_wars (s : State) (ev : CtrEvent) : (s.count ev).wars = s.wars := rfl
@[simp] theorem State.count_launches (s : State) (ev : CtrEvent) : (s.count ev).launches = s.launches := rfl
@[simp] theorem State.count_net (s : State) (ev : CtrEvent) : (s.count ev).net = s.net := rfl
@[simp] theorem State.count_rounds (s : State) (ev : CtrEvent) : (s.count ev).rounds = s.rounds := rfl
@[simp] theorem State.count_corrLog (s : State) (ev : CtrEvent) : (s.count ev).corrLog = s.corrLog := rfl
@[simp] theorem State.count_wells (s : State) (ev : CtrEvent) : (s.count ev).wells = s.wells := rfl
@[simp] theorem State.count_gov (s : State) (ev : CtrEvent) : (s.count ev).gov = s.gov := rfl
@[simp] theorem State.count_dies (s : State) (ev : CtrEvent) : (s.count ev).dies = s.dies := rfl
@[simp] theorem State.count_cfg (s : State) (ev : CtrEvent) : (s.count ev).cfg = s.cfg := rfl
@[simp] theorem State.count_powered (s : State) (ev : CtrEvent) : (s.count ev).powered = s.powered := rfl
@[simp] theorem State.count_booted (s : State) (ev : CtrEvent) : (s.count ev).booted = s.booted := rfl
@[simp] theorem State.count_configured (s : State) (ev : CtrEvent) : (s.count ev).configured = s.configured := rfl
@[simp] theorem State.count_recovery (s : State) (ev : CtrEvent) : (s.count ev).recovery = s.recovery := rfl
@[simp] theorem State.count_wellheadOk (s : State) (ev : CtrEvent) : (s.count ev).wellheadOk = s.wellheadOk := rfl
@[simp] theorem State.count_announced (s : State) (ev : CtrEvent) : (s.count ev).announced = s.announced := rfl
@[simp] theorem State.count_annDone (s : State) (ev : CtrEvent) : (s.count ev).annDone = s.annDone := rfl
@[simp] theorem State.count_annAt (s : State) (ev : CtrEvent) : (s.count ev).annAt = s.annAt := rfl
@[simp] theorem State.count_bootcount (s : State) (ev : CtrEvent) : (s.count ev).bootcount = s.bootcount := rfl
@[simp] theorem State.count_lastReset (s : State) (ev : CtrEvent) : (s.count ev).lastReset = s.lastReset := rfl
@[simp] theorem State.count_clock (s : State) (ev : CtrEvent) : (s.count ev).clock = s.clock := rfl
@[simp] theorem State.count_presns (s : State) (ev : CtrEvent) : (s.count ev).presns = s.presns := rfl
@[simp] theorem State.count_redeem (s : State) (ev : CtrEvent) : (s.count ev).redeem = s.redeem := rfl
@[simp] theorem State.count_homeTab (s : State) (ev : CtrEvent) : (s.count ev).homeTab = s.homeTab := rfl
@[simp] theorem State.count_claims (s : State) (ev : CtrEvent) : (s.count ev).claims = s.claims := rfl
@[simp] theorem State.count_keys (s : State) (ev : CtrEvent) : (s.count ev).keys = s.keys := rfl
@[simp] theorem State.count_idHash (s : State) (ev : CtrEvent) : (s.count ev).idHash = s.idHash := rfl
@[simp] theorem State.count_naks (s : State) (ev : CtrEvent) : (s.count ev).naks = s.naks := rfl
@[simp] theorem State.count_sensors (s : State) (ev : CtrEvent) : (s.count ev).sensors = s.sensors := rfl
@[simp] theorem State.count_ctrls (s : State) (ev : CtrEvent) : (s.count ev).ctrls = s.ctrls := rfl
@[simp] theorem State.count_sump (s : State) (ev : CtrEvent) : (s.count ev).sump = s.sump := rfl
@[simp] theorem State.count_sumpSeq (s : State) (ev : CtrEvent) : (s.count ev).sumpSeq = s.sumpSeq := rfl
@[simp] theorem State.count_ports (s : State) (ev : CtrEvent) : (s.count ev).ports = s.ports := rfl
@[simp] theorem State.count_portsDown (s : State) (ev : CtrEvent) : (s.count ev).portsDown = s.portsDown := rfl
@[simp] theorem State.count_fwKey (s : State) (ev : CtrEvent) : (s.count ev).fwKey = s.fwKey := rfl
@[simp] theorem State.count_fwMin (s : State) (ev : CtrEvent) : (s.count ev).fwMin = s.fwMin := rfl
@[simp] theorem State.count_alarm (s : State) (ev : CtrEvent) : (s.count ev).alarm = s.alarm := rfl
@[simp] theorem State.count_fuses (s : State) (ev : CtrEvent) : (s.count ev).fuses = s.fuses := rfl
@[simp] theorem State.count_events (s : State) (ev : CtrEvent) : (s.count ev).events = s.events := rfl
@[simp] theorem State.count_beaconDrops (s : State) (ev : CtrEvent) : (s.count ev).beaconDrops = s.beaconDrops := rfl
@[simp] theorem State.count_ueDrops (s : State) (ev : CtrEvent) : (s.count ev).ueDrops = s.ueDrops := rfl
@[simp] theorem State.count_memUsed (s : State) (ev : CtrEvent) : (s.count ev).memUsed = s.memUsed := rfl
@[simp] theorem State.count_retired (s : State) (ev : CtrEvent) : (s.count ev).retired = s.retired := rfl
@[simp] theorem State.count_wellPoison (s : State) (ev : CtrEvent) : (s.count ev).wellPoison = s.wellPoison := rfl
@[simp] theorem State.count_nextId (s : State) (ev : CtrEvent) : (s.count ev).nextId = s.nextId := rfl
@[simp] theorem State.count_movedVi (s : State) (ev : CtrEvent) : (s.count ev).movedVi = s.movedVi := rfl
@[simp] theorem State.count_out (s : State) (ev : CtrEvent) : (s.count ev).out = s.out := rfl
@[simp] theorem State.count_agenda (s : State) (ev : CtrEvent) : (s.count ev).agenda = s.agenda := rfl
@[simp] theorem State.count_later (s : State) (ev : CtrEvent) : (s.count ev).later = s.later := rfl
@[simp] theorem State.count_arrivals (s : State) (ev : CtrEvent) : (s.count ev).arrivals = s.arrivals := rfl
@[simp] theorem State.count_departures (s : State) (ev : CtrEvent) : (s.count ev).departures = s.departures := rfl
@[simp] theorem State.count_ir (s : State) (ev : CtrEvent) : (s.count ev).ir = s.ir := rfl

@[simp] theorem State.issue_cores (s : State) : s.issue.cores = s.cores := rfl
@[simp] theorem State.issue_tick (s : State) : s.issue.tick = s.tick := rfl
@[simp] theorem State.issue_picks (s : State) : s.issue.picks = s.picks := rfl
@[simp] theorem State.issue_spaces (s : State) : s.issue.spaces = s.spaces := rfl
@[simp] theorem State.issue_wars (s : State) : s.issue.wars = s.wars := rfl
@[simp] theorem State.issue_launches (s : State) : s.issue.launches = s.launches := rfl
@[simp] theorem State.issue_net (s : State) : s.issue.net = s.net := rfl
@[simp] theorem State.issue_rounds (s : State) : s.issue.rounds = s.rounds := rfl
@[simp] theorem State.issue_corrLog (s : State) : s.issue.corrLog = s.corrLog := rfl
@[simp] theorem State.issue_wells (s : State) : s.issue.wells = s.wells := rfl
@[simp] theorem State.issue_gov (s : State) : s.issue.gov = s.gov := rfl
@[simp] theorem State.issue_dies (s : State) : s.issue.dies = s.dies := rfl
@[simp] theorem State.issue_cfg (s : State) : s.issue.cfg = s.cfg := rfl
@[simp] theorem State.issue_powered (s : State) : s.issue.powered = s.powered := rfl
@[simp] theorem State.issue_booted (s : State) : s.issue.booted = s.booted := rfl
@[simp] theorem State.issue_configured (s : State) : s.issue.configured = s.configured := rfl
@[simp] theorem State.issue_recovery (s : State) : s.issue.recovery = s.recovery := rfl
@[simp] theorem State.issue_wellheadOk (s : State) : s.issue.wellheadOk = s.wellheadOk := rfl
@[simp] theorem State.issue_announced (s : State) : s.issue.announced = s.announced := rfl
@[simp] theorem State.issue_annDone (s : State) : s.issue.annDone = s.annDone := rfl
@[simp] theorem State.issue_annAt (s : State) : s.issue.annAt = s.annAt := rfl
@[simp] theorem State.issue_bootcount (s : State) : s.issue.bootcount = s.bootcount := rfl
@[simp] theorem State.issue_lastReset (s : State) : s.issue.lastReset = s.lastReset := rfl
@[simp] theorem State.issue_clock (s : State) : s.issue.clock = s.clock := rfl
@[simp] theorem State.issue_presns (s : State) : s.issue.presns = s.presns := rfl
@[simp] theorem State.issue_redeem (s : State) : s.issue.redeem = s.redeem := rfl
@[simp] theorem State.issue_homeTab (s : State) : s.issue.homeTab = s.homeTab := rfl
@[simp] theorem State.issue_claims (s : State) : s.issue.claims = s.claims := rfl
@[simp] theorem State.issue_keys (s : State) : s.issue.keys = s.keys := rfl
@[simp] theorem State.issue_idHash (s : State) : s.issue.idHash = s.idHash := rfl
@[simp] theorem State.issue_naks (s : State) : s.issue.naks = s.naks := rfl
@[simp] theorem State.issue_sensors (s : State) : s.issue.sensors = s.sensors := rfl
@[simp] theorem State.issue_ctrls (s : State) : s.issue.ctrls = s.ctrls := rfl
@[simp] theorem State.issue_sump (s : State) : s.issue.sump = s.sump := rfl
@[simp] theorem State.issue_sumpSeq (s : State) : s.issue.sumpSeq = s.sumpSeq := rfl
@[simp] theorem State.issue_ports (s : State) : s.issue.ports = s.ports := rfl
@[simp] theorem State.issue_portsDown (s : State) : s.issue.portsDown = s.portsDown := rfl
@[simp] theorem State.issue_fwKey (s : State) : s.issue.fwKey = s.fwKey := rfl
@[simp] theorem State.issue_fwMin (s : State) : s.issue.fwMin = s.fwMin := rfl
@[simp] theorem State.issue_alarm (s : State) : s.issue.alarm = s.alarm := rfl
@[simp] theorem State.issue_fuses (s : State) : s.issue.fuses = s.fuses := rfl
@[simp] theorem State.issue_events (s : State) : s.issue.events = s.events := rfl
@[simp] theorem State.issue_beaconDrops (s : State) : s.issue.beaconDrops = s.beaconDrops := rfl
@[simp] theorem State.issue_ueDrops (s : State) : s.issue.ueDrops = s.ueDrops := rfl
@[simp] theorem State.issue_memUsed (s : State) : s.issue.memUsed = s.memUsed := rfl
@[simp] theorem State.issue_retired (s : State) : s.issue.retired = s.retired := rfl
@[simp] theorem State.issue_wellPoison (s : State) : s.issue.wellPoison = s.wellPoison := rfl
@[simp] theorem State.issue_nextId (s : State) : s.issue.nextId = s.nextId := rfl
@[simp] theorem State.issue_movedVi (s : State) : s.issue.movedVi = s.movedVi := rfl
@[simp] theorem State.issue_out (s : State) : s.issue.out = s.out := rfl
@[simp] theorem State.issue_agenda (s : State) : s.issue.agenda = s.agenda := rfl
@[simp] theorem State.issue_later (s : State) : s.issue.later = s.later := rfl
@[simp] theorem State.issue_arrivals (s : State) : s.issue.arrivals = s.arrivals := rfl
@[simp] theorem State.issue_departures (s : State) : s.issue.departures = s.departures := rfl
@[simp] theorem State.issue_ir (s : State) : s.issue.ir = s.ir := rfl

@[simp] theorem State.waitOn_cores (s : State) (k : BitVec 4) (op : WaitOp) (len : Nat) : (s.waitOn k op len).cores = s.cores := rfl
@[simp] theorem State.waitOn_tick (s : State) (k : BitVec 4) (op : WaitOp) (len : Nat) : (s.waitOn k op len).tick = s.tick := rfl
@[simp] theorem State.waitOn_picks (s : State) (k : BitVec 4) (op : WaitOp) (len : Nat) : (s.waitOn k op len).picks = s.picks := rfl
@[simp] theorem State.waitOn_spaces (s : State) (k : BitVec 4) (op : WaitOp) (len : Nat) : (s.waitOn k op len).spaces = s.spaces := rfl
@[simp] theorem State.waitOn_wars (s : State) (k : BitVec 4) (op : WaitOp) (len : Nat) : (s.waitOn k op len).wars = s.wars := rfl
@[simp] theorem State.waitOn_launches (s : State) (k : BitVec 4) (op : WaitOp) (len : Nat) : (s.waitOn k op len).launches = s.launches := rfl
@[simp] theorem State.waitOn_net (s : State) (k : BitVec 4) (op : WaitOp) (len : Nat) : (s.waitOn k op len).net = s.net := rfl
@[simp] theorem State.waitOn_rounds (s : State) (k : BitVec 4) (op : WaitOp) (len : Nat) : (s.waitOn k op len).rounds = s.rounds := rfl
@[simp] theorem State.waitOn_corrLog (s : State) (k : BitVec 4) (op : WaitOp) (len : Nat) : (s.waitOn k op len).corrLog = s.corrLog := rfl
@[simp] theorem State.waitOn_wells (s : State) (k : BitVec 4) (op : WaitOp) (len : Nat) : (s.waitOn k op len).wells = s.wells := rfl
@[simp] theorem State.waitOn_gov (s : State) (k : BitVec 4) (op : WaitOp) (len : Nat) : (s.waitOn k op len).gov = s.gov := rfl
@[simp] theorem State.waitOn_dies (s : State) (k : BitVec 4) (op : WaitOp) (len : Nat) : (s.waitOn k op len).dies = s.dies := rfl
@[simp] theorem State.waitOn_cfg (s : State) (k : BitVec 4) (op : WaitOp) (len : Nat) : (s.waitOn k op len).cfg = s.cfg := rfl
@[simp] theorem State.waitOn_powered (s : State) (k : BitVec 4) (op : WaitOp) (len : Nat) : (s.waitOn k op len).powered = s.powered := rfl
@[simp] theorem State.waitOn_booted (s : State) (k : BitVec 4) (op : WaitOp) (len : Nat) : (s.waitOn k op len).booted = s.booted := rfl
@[simp] theorem State.waitOn_configured (s : State) (k : BitVec 4) (op : WaitOp) (len : Nat) : (s.waitOn k op len).configured = s.configured := rfl
@[simp] theorem State.waitOn_recovery (s : State) (k : BitVec 4) (op : WaitOp) (len : Nat) : (s.waitOn k op len).recovery = s.recovery := rfl
@[simp] theorem State.waitOn_wellheadOk (s : State) (k : BitVec 4) (op : WaitOp) (len : Nat) : (s.waitOn k op len).wellheadOk = s.wellheadOk := rfl
@[simp] theorem State.waitOn_announced (s : State) (k : BitVec 4) (op : WaitOp) (len : Nat) : (s.waitOn k op len).announced = s.announced := rfl
@[simp] theorem State.waitOn_annDone (s : State) (k : BitVec 4) (op : WaitOp) (len : Nat) : (s.waitOn k op len).annDone = s.annDone := rfl
@[simp] theorem State.waitOn_annAt (s : State) (k : BitVec 4) (op : WaitOp) (len : Nat) : (s.waitOn k op len).annAt = s.annAt := rfl
@[simp] theorem State.waitOn_bootcount (s : State) (k : BitVec 4) (op : WaitOp) (len : Nat) : (s.waitOn k op len).bootcount = s.bootcount := rfl
@[simp] theorem State.waitOn_lastReset (s : State) (k : BitVec 4) (op : WaitOp) (len : Nat) : (s.waitOn k op len).lastReset = s.lastReset := rfl
@[simp] theorem State.waitOn_clock (s : State) (k : BitVec 4) (op : WaitOp) (len : Nat) : (s.waitOn k op len).clock = s.clock := rfl
@[simp] theorem State.waitOn_presns (s : State) (k : BitVec 4) (op : WaitOp) (len : Nat) : (s.waitOn k op len).presns = s.presns := rfl
@[simp] theorem State.waitOn_redeem (s : State) (k : BitVec 4) (op : WaitOp) (len : Nat) : (s.waitOn k op len).redeem = s.redeem := rfl
@[simp] theorem State.waitOn_homeTab (s : State) (k : BitVec 4) (op : WaitOp) (len : Nat) : (s.waitOn k op len).homeTab = s.homeTab := rfl
@[simp] theorem State.waitOn_claims (s : State) (k : BitVec 4) (op : WaitOp) (len : Nat) : (s.waitOn k op len).claims = s.claims := rfl
@[simp] theorem State.waitOn_keys (s : State) (k : BitVec 4) (op : WaitOp) (len : Nat) : (s.waitOn k op len).keys = s.keys := rfl
@[simp] theorem State.waitOn_idHash (s : State) (k : BitVec 4) (op : WaitOp) (len : Nat) : (s.waitOn k op len).idHash = s.idHash := rfl
@[simp] theorem State.waitOn_naks (s : State) (k : BitVec 4) (op : WaitOp) (len : Nat) : (s.waitOn k op len).naks = s.naks := rfl
@[simp] theorem State.waitOn_sensors (s : State) (k : BitVec 4) (op : WaitOp) (len : Nat) : (s.waitOn k op len).sensors = s.sensors := rfl
@[simp] theorem State.waitOn_ctrls (s : State) (k : BitVec 4) (op : WaitOp) (len : Nat) : (s.waitOn k op len).ctrls = s.ctrls := rfl
@[simp] theorem State.waitOn_sump (s : State) (k : BitVec 4) (op : WaitOp) (len : Nat) : (s.waitOn k op len).sump = s.sump := rfl
@[simp] theorem State.waitOn_sumpSeq (s : State) (k : BitVec 4) (op : WaitOp) (len : Nat) : (s.waitOn k op len).sumpSeq = s.sumpSeq := rfl
@[simp] theorem State.waitOn_ports (s : State) (k : BitVec 4) (op : WaitOp) (len : Nat) : (s.waitOn k op len).ports = s.ports := rfl
@[simp] theorem State.waitOn_portsDown (s : State) (k : BitVec 4) (op : WaitOp) (len : Nat) : (s.waitOn k op len).portsDown = s.portsDown := rfl
@[simp] theorem State.waitOn_fwKey (s : State) (k : BitVec 4) (op : WaitOp) (len : Nat) : (s.waitOn k op len).fwKey = s.fwKey := rfl
@[simp] theorem State.waitOn_fwMin (s : State) (k : BitVec 4) (op : WaitOp) (len : Nat) : (s.waitOn k op len).fwMin = s.fwMin := rfl
@[simp] theorem State.waitOn_alarm (s : State) (k : BitVec 4) (op : WaitOp) (len : Nat) : (s.waitOn k op len).alarm = s.alarm := rfl
@[simp] theorem State.waitOn_fuses (s : State) (k : BitVec 4) (op : WaitOp) (len : Nat) : (s.waitOn k op len).fuses = s.fuses := rfl
@[simp] theorem State.waitOn_events (s : State) (k : BitVec 4) (op : WaitOp) (len : Nat) : (s.waitOn k op len).events = s.events := rfl
@[simp] theorem State.waitOn_beaconDrops (s : State) (k : BitVec 4) (op : WaitOp) (len : Nat) : (s.waitOn k op len).beaconDrops = s.beaconDrops := rfl
@[simp] theorem State.waitOn_ueDrops (s : State) (k : BitVec 4) (op : WaitOp) (len : Nat) : (s.waitOn k op len).ueDrops = s.ueDrops := rfl
@[simp] theorem State.waitOn_memUsed (s : State) (k : BitVec 4) (op : WaitOp) (len : Nat) : (s.waitOn k op len).memUsed = s.memUsed := rfl
@[simp] theorem State.waitOn_retired (s : State) (k : BitVec 4) (op : WaitOp) (len : Nat) : (s.waitOn k op len).retired = s.retired := rfl
@[simp] theorem State.waitOn_wellPoison (s : State) (k : BitVec 4) (op : WaitOp) (len : Nat) : (s.waitOn k op len).wellPoison = s.wellPoison := rfl
@[simp] theorem State.waitOn_nextId (s : State) (k : BitVec 4) (op : WaitOp) (len : Nat) : (s.waitOn k op len).nextId = s.nextId := rfl
@[simp] theorem State.waitOn_movedVi (s : State) (k : BitVec 4) (op : WaitOp) (len : Nat) : (s.waitOn k op len).movedVi = s.movedVi := rfl
@[simp] theorem State.waitOn_out (s : State) (k : BitVec 4) (op : WaitOp) (len : Nat) : (s.waitOn k op len).out = s.out := rfl
@[simp] theorem State.waitOn_agenda (s : State) (k : BitVec 4) (op : WaitOp) (len : Nat) : (s.waitOn k op len).agenda = s.agenda := rfl
@[simp] theorem State.waitOn_later (s : State) (k : BitVec 4) (op : WaitOp) (len : Nat) : (s.waitOn k op len).later = s.later := rfl
@[simp] theorem State.waitOn_arrivals (s : State) (k : BitVec 4) (op : WaitOp) (len : Nat) : (s.waitOn k op len).arrivals = s.arrivals := rfl
@[simp] theorem State.waitOn_departures (s : State) (k : BitVec 4) (op : WaitOp) (len : Nat) : (s.waitOn k op len).departures = s.departures := rfl
@[simp] theorem State.waitOn_ir (s : State) (k : BitVec 4) (op : WaitOp) (len : Nat) : (s.waitOn k op len).ir = s.ir := rfl

@[simp] theorem State.orFlags_cx (s : State) (f : FlagSet) : (s.orFlags f).cx = s.cx := rfl
@[simp] theorem State.orFlags_cores (s : State) (f : FlagSet) : (s.orFlags f).cores = s.cores := rfl
@[simp] theorem State.orFlags_tick (s : State) (f : FlagSet) : (s.orFlags f).tick = s.tick := rfl
@[simp] theorem State.orFlags_picks (s : State) (f : FlagSet) : (s.orFlags f).picks = s.picks := rfl
@[simp] theorem State.orFlags_spaces (s : State) (f : FlagSet) : (s.orFlags f).spaces = s.spaces := rfl
@[simp] theorem State.orFlags_wars (s : State) (f : FlagSet) : (s.orFlags f).wars = s.wars := rfl
@[simp] theorem State.orFlags_launches (s : State) (f : FlagSet) : (s.orFlags f).launches = s.launches := rfl
@[simp] theorem State.orFlags_net (s : State) (f : FlagSet) : (s.orFlags f).net = s.net := rfl
@[simp] theorem State.orFlags_rounds (s : State) (f : FlagSet) : (s.orFlags f).rounds = s.rounds := rfl
@[simp] theorem State.orFlags_corrLog (s : State) (f : FlagSet) : (s.orFlags f).corrLog = s.corrLog := rfl
@[simp] theorem State.orFlags_wells (s : State) (f : FlagSet) : (s.orFlags f).wells = s.wells := rfl
@[simp] theorem State.orFlags_gov (s : State) (f : FlagSet) : (s.orFlags f).gov = s.gov := rfl
@[simp] theorem State.orFlags_dies (s : State) (f : FlagSet) : (s.orFlags f).dies = s.dies := rfl
@[simp] theorem State.orFlags_cfg (s : State) (f : FlagSet) : (s.orFlags f).cfg = s.cfg := rfl
@[simp] theorem State.orFlags_powered (s : State) (f : FlagSet) : (s.orFlags f).powered = s.powered := rfl
@[simp] theorem State.orFlags_booted (s : State) (f : FlagSet) : (s.orFlags f).booted = s.booted := rfl
@[simp] theorem State.orFlags_configured (s : State) (f : FlagSet) : (s.orFlags f).configured = s.configured := rfl
@[simp] theorem State.orFlags_recovery (s : State) (f : FlagSet) : (s.orFlags f).recovery = s.recovery := rfl
@[simp] theorem State.orFlags_wellheadOk (s : State) (f : FlagSet) : (s.orFlags f).wellheadOk = s.wellheadOk := rfl
@[simp] theorem State.orFlags_announced (s : State) (f : FlagSet) : (s.orFlags f).announced = s.announced := rfl
@[simp] theorem State.orFlags_annDone (s : State) (f : FlagSet) : (s.orFlags f).annDone = s.annDone := rfl
@[simp] theorem State.orFlags_annAt (s : State) (f : FlagSet) : (s.orFlags f).annAt = s.annAt := rfl
@[simp] theorem State.orFlags_bootcount (s : State) (f : FlagSet) : (s.orFlags f).bootcount = s.bootcount := rfl
@[simp] theorem State.orFlags_lastReset (s : State) (f : FlagSet) : (s.orFlags f).lastReset = s.lastReset := rfl
@[simp] theorem State.orFlags_clock (s : State) (f : FlagSet) : (s.orFlags f).clock = s.clock := rfl
@[simp] theorem State.orFlags_presns (s : State) (f : FlagSet) : (s.orFlags f).presns = s.presns := rfl
@[simp] theorem State.orFlags_redeem (s : State) (f : FlagSet) : (s.orFlags f).redeem = s.redeem := rfl
@[simp] theorem State.orFlags_homeTab (s : State) (f : FlagSet) : (s.orFlags f).homeTab = s.homeTab := rfl
@[simp] theorem State.orFlags_claims (s : State) (f : FlagSet) : (s.orFlags f).claims = s.claims := rfl
@[simp] theorem State.orFlags_keys (s : State) (f : FlagSet) : (s.orFlags f).keys = s.keys := rfl
@[simp] theorem State.orFlags_idHash (s : State) (f : FlagSet) : (s.orFlags f).idHash = s.idHash := rfl
@[simp] theorem State.orFlags_naks (s : State) (f : FlagSet) : (s.orFlags f).naks = s.naks := rfl
@[simp] theorem State.orFlags_sensors (s : State) (f : FlagSet) : (s.orFlags f).sensors = s.sensors := rfl
@[simp] theorem State.orFlags_ctrls (s : State) (f : FlagSet) : (s.orFlags f).ctrls = s.ctrls := rfl
@[simp] theorem State.orFlags_sump (s : State) (f : FlagSet) : (s.orFlags f).sump = s.sump := rfl
@[simp] theorem State.orFlags_sumpSeq (s : State) (f : FlagSet) : (s.orFlags f).sumpSeq = s.sumpSeq := rfl
@[simp] theorem State.orFlags_ports (s : State) (f : FlagSet) : (s.orFlags f).ports = s.ports := rfl
@[simp] theorem State.orFlags_portsDown (s : State) (f : FlagSet) : (s.orFlags f).portsDown = s.portsDown := rfl
@[simp] theorem State.orFlags_fwKey (s : State) (f : FlagSet) : (s.orFlags f).fwKey = s.fwKey := rfl
@[simp] theorem State.orFlags_fwMin (s : State) (f : FlagSet) : (s.orFlags f).fwMin = s.fwMin := rfl
@[simp] theorem State.orFlags_alarm (s : State) (f : FlagSet) : (s.orFlags f).alarm = s.alarm := rfl
@[simp] theorem State.orFlags_fuses (s : State) (f : FlagSet) : (s.orFlags f).fuses = s.fuses := rfl
@[simp] theorem State.orFlags_events (s : State) (f : FlagSet) : (s.orFlags f).events = s.events := rfl
@[simp] theorem State.orFlags_beaconDrops (s : State) (f : FlagSet) : (s.orFlags f).beaconDrops = s.beaconDrops := rfl
@[simp] theorem State.orFlags_ueDrops (s : State) (f : FlagSet) : (s.orFlags f).ueDrops = s.ueDrops := rfl
@[simp] theorem State.orFlags_memUsed (s : State) (f : FlagSet) : (s.orFlags f).memUsed = s.memUsed := rfl
@[simp] theorem State.orFlags_retired (s : State) (f : FlagSet) : (s.orFlags f).retired = s.retired := rfl
@[simp] theorem State.orFlags_wellPoison (s : State) (f : FlagSet) : (s.orFlags f).wellPoison = s.wellPoison := rfl
@[simp] theorem State.orFlags_nextId (s : State) (f : FlagSet) : (s.orFlags f).nextId = s.nextId := rfl
@[simp] theorem State.orFlags_movedVi (s : State) (f : FlagSet) : (s.orFlags f).movedVi = s.movedVi := rfl
@[simp] theorem State.orFlags_out (s : State) (f : FlagSet) : (s.orFlags f).out = s.out := rfl
@[simp] theorem State.orFlags_agenda (s : State) (f : FlagSet) : (s.orFlags f).agenda = s.agenda := rfl
@[simp] theorem State.orFlags_later (s : State) (f : FlagSet) : (s.orFlags f).later = s.later := rfl
@[simp] theorem State.orFlags_arrivals (s : State) (f : FlagSet) : (s.orFlags f).arrivals = s.arrivals := rfl
@[simp] theorem State.orFlags_departures (s : State) (f : FlagSet) : (s.orFlags f).departures = s.departures := rfl
@[simp] theorem State.orFlags_ir (s : State) (f : FlagSet) : (s.orFlags f).ir = s.ir := rfl

@[simp] theorem State.localWrite_cx (s : State) (o : Word) (sz v : Nat) : (s.localWrite o sz v).cx = s.cx := rfl
@[simp] theorem State.localWrite_cores (s : State) (o : Word) (sz v : Nat) : (s.localWrite o sz v).cores = s.cores := rfl
@[simp] theorem State.localWrite_tick (s : State) (o : Word) (sz v : Nat) : (s.localWrite o sz v).tick = s.tick := rfl
@[simp] theorem State.localWrite_picks (s : State) (o : Word) (sz v : Nat) : (s.localWrite o sz v).picks = s.picks := rfl
@[simp] theorem State.localWrite_spaces (s : State) (o : Word) (sz v : Nat) : (s.localWrite o sz v).spaces = s.spaces := rfl
@[simp] theorem State.localWrite_wars (s : State) (o : Word) (sz v : Nat) : (s.localWrite o sz v).wars = s.wars := rfl
@[simp] theorem State.localWrite_launches (s : State) (o : Word) (sz v : Nat) : (s.localWrite o sz v).launches = s.launches := rfl
@[simp] theorem State.localWrite_net (s : State) (o : Word) (sz v : Nat) : (s.localWrite o sz v).net = s.net := rfl
@[simp] theorem State.localWrite_rounds (s : State) (o : Word) (sz v : Nat) : (s.localWrite o sz v).rounds = s.rounds := rfl
@[simp] theorem State.localWrite_corrLog (s : State) (o : Word) (sz v : Nat) : (s.localWrite o sz v).corrLog = s.corrLog := rfl
@[simp] theorem State.localWrite_wells (s : State) (o : Word) (sz v : Nat) : (s.localWrite o sz v).wells = s.wells := rfl
@[simp] theorem State.localWrite_gov (s : State) (o : Word) (sz v : Nat) : (s.localWrite o sz v).gov = s.gov := rfl
@[simp] theorem State.localWrite_dies (s : State) (o : Word) (sz v : Nat) : (s.localWrite o sz v).dies = s.dies := rfl
@[simp] theorem State.localWrite_cfg (s : State) (o : Word) (sz v : Nat) : (s.localWrite o sz v).cfg = s.cfg := rfl
@[simp] theorem State.localWrite_powered (s : State) (o : Word) (sz v : Nat) : (s.localWrite o sz v).powered = s.powered := rfl
@[simp] theorem State.localWrite_booted (s : State) (o : Word) (sz v : Nat) : (s.localWrite o sz v).booted = s.booted := rfl
@[simp] theorem State.localWrite_configured (s : State) (o : Word) (sz v : Nat) : (s.localWrite o sz v).configured = s.configured := rfl
@[simp] theorem State.localWrite_recovery (s : State) (o : Word) (sz v : Nat) : (s.localWrite o sz v).recovery = s.recovery := rfl
@[simp] theorem State.localWrite_wellheadOk (s : State) (o : Word) (sz v : Nat) : (s.localWrite o sz v).wellheadOk = s.wellheadOk := rfl
@[simp] theorem State.localWrite_announced (s : State) (o : Word) (sz v : Nat) : (s.localWrite o sz v).announced = s.announced := rfl
@[simp] theorem State.localWrite_annDone (s : State) (o : Word) (sz v : Nat) : (s.localWrite o sz v).annDone = s.annDone := rfl
@[simp] theorem State.localWrite_annAt (s : State) (o : Word) (sz v : Nat) : (s.localWrite o sz v).annAt = s.annAt := rfl
@[simp] theorem State.localWrite_bootcount (s : State) (o : Word) (sz v : Nat) : (s.localWrite o sz v).bootcount = s.bootcount := rfl
@[simp] theorem State.localWrite_lastReset (s : State) (o : Word) (sz v : Nat) : (s.localWrite o sz v).lastReset = s.lastReset := rfl
@[simp] theorem State.localWrite_clock (s : State) (o : Word) (sz v : Nat) : (s.localWrite o sz v).clock = s.clock := rfl
@[simp] theorem State.localWrite_presns (s : State) (o : Word) (sz v : Nat) : (s.localWrite o sz v).presns = s.presns := rfl
@[simp] theorem State.localWrite_redeem (s : State) (o : Word) (sz v : Nat) : (s.localWrite o sz v).redeem = s.redeem := rfl
@[simp] theorem State.localWrite_homeTab (s : State) (o : Word) (sz v : Nat) : (s.localWrite o sz v).homeTab = s.homeTab := rfl
@[simp] theorem State.localWrite_claims (s : State) (o : Word) (sz v : Nat) : (s.localWrite o sz v).claims = s.claims := rfl
@[simp] theorem State.localWrite_keys (s : State) (o : Word) (sz v : Nat) : (s.localWrite o sz v).keys = s.keys := rfl
@[simp] theorem State.localWrite_idHash (s : State) (o : Word) (sz v : Nat) : (s.localWrite o sz v).idHash = s.idHash := rfl
@[simp] theorem State.localWrite_naks (s : State) (o : Word) (sz v : Nat) : (s.localWrite o sz v).naks = s.naks := rfl
@[simp] theorem State.localWrite_sensors (s : State) (o : Word) (sz v : Nat) : (s.localWrite o sz v).sensors = s.sensors := rfl
@[simp] theorem State.localWrite_ctrls (s : State) (o : Word) (sz v : Nat) : (s.localWrite o sz v).ctrls = s.ctrls := rfl
@[simp] theorem State.localWrite_sump (s : State) (o : Word) (sz v : Nat) : (s.localWrite o sz v).sump = s.sump := rfl
@[simp] theorem State.localWrite_sumpSeq (s : State) (o : Word) (sz v : Nat) : (s.localWrite o sz v).sumpSeq = s.sumpSeq := rfl
@[simp] theorem State.localWrite_ports (s : State) (o : Word) (sz v : Nat) : (s.localWrite o sz v).ports = s.ports := rfl
@[simp] theorem State.localWrite_portsDown (s : State) (o : Word) (sz v : Nat) : (s.localWrite o sz v).portsDown = s.portsDown := rfl
@[simp] theorem State.localWrite_fwKey (s : State) (o : Word) (sz v : Nat) : (s.localWrite o sz v).fwKey = s.fwKey := rfl
@[simp] theorem State.localWrite_fwMin (s : State) (o : Word) (sz v : Nat) : (s.localWrite o sz v).fwMin = s.fwMin := rfl
@[simp] theorem State.localWrite_alarm (s : State) (o : Word) (sz v : Nat) : (s.localWrite o sz v).alarm = s.alarm := rfl
@[simp] theorem State.localWrite_fuses (s : State) (o : Word) (sz v : Nat) : (s.localWrite o sz v).fuses = s.fuses := rfl
@[simp] theorem State.localWrite_events (s : State) (o : Word) (sz v : Nat) : (s.localWrite o sz v).events = s.events := rfl
@[simp] theorem State.localWrite_beaconDrops (s : State) (o : Word) (sz v : Nat) : (s.localWrite o sz v).beaconDrops = s.beaconDrops := rfl
@[simp] theorem State.localWrite_ueDrops (s : State) (o : Word) (sz v : Nat) : (s.localWrite o sz v).ueDrops = s.ueDrops := rfl
@[simp] theorem State.localWrite_memUsed (s : State) (o : Word) (sz v : Nat) : (s.localWrite o sz v).memUsed = s.memUsed := rfl
@[simp] theorem State.localWrite_retired (s : State) (o : Word) (sz v : Nat) : (s.localWrite o sz v).retired = s.retired := rfl
@[simp] theorem State.localWrite_wellPoison (s : State) (o : Word) (sz v : Nat) : (s.localWrite o sz v).wellPoison = s.wellPoison := rfl
@[simp] theorem State.localWrite_nextId (s : State) (o : Word) (sz v : Nat) : (s.localWrite o sz v).nextId = s.nextId := rfl
@[simp] theorem State.localWrite_movedVi (s : State) (o : Word) (sz v : Nat) : (s.localWrite o sz v).movedVi = s.movedVi := rfl
@[simp] theorem State.localWrite_out (s : State) (o : Word) (sz v : Nat) : (s.localWrite o sz v).out = s.out := rfl
@[simp] theorem State.localWrite_agenda (s : State) (o : Word) (sz v : Nat) : (s.localWrite o sz v).agenda = s.agenda := rfl
@[simp] theorem State.localWrite_later (s : State) (o : Word) (sz v : Nat) : (s.localWrite o sz v).later = s.later := rfl
@[simp] theorem State.localWrite_arrivals (s : State) (o : Word) (sz v : Nat) : (s.localWrite o sz v).arrivals = s.arrivals := rfl
@[simp] theorem State.localWrite_departures (s : State) (o : Word) (sz v : Nat) : (s.localWrite o sz v).departures = s.departures := rfl
@[simp] theorem State.localWrite_ir (s : State) (o : Word) (sz v : Nat) : (s.localWrite o sz v).ir = s.ir := rfl

@[simp] theorem State.setPc_cx_regs (s : State) (v : Word) : (s.setPc v).cx.regs = s.cx.regs := rfl
@[simp] theorem State.setPc_cx_tags (s : State) (v : Word) : (s.setPc v).cx.tags = s.cx.tags := rfl
@[simp] theorem State.setPc_cx_region (s : State) (v : Word) : (s.setPc v).cx.region = s.cx.region := rfl
@[simp] theorem State.setPc_cx_epc (s : State) (v : Word) : (s.setPc v).cx.epc = s.cx.epc := rfl
@[simp] theorem State.setPc_cx_tval (s : State) (v : Word) : (s.setPc v).cx.tval = s.cx.tval := rfl
@[simp] theorem State.setPc_cx_cause (s : State) (v : Word) : (s.setPc v).cx.cause = s.cx.cause := rfl
@[simp] theorem State.setPc_cx_ctrlatch (s : State) (v : Word) : (s.setPc v).cx.ctrlatch = s.cx.ctrlatch := rfl
@[simp] theorem State.setPc_cx_wbase (s : State) (v : Word) : (s.setPc v).cx.wbase = s.cx.wbase := rfl
@[simp] theorem State.setPc_cx_wsize (s : State) (v : Word) : (s.setPc v).cx.wsize = s.cx.wsize := rfl
@[simp] theorem State.setPc_cx_status (s : State) (v : Word) : (s.setPc v).cx.status = s.cx.status := rfl
@[simp] theorem State.setPc_cx_slot (s : State) (v : Word) : (s.setPc v).cx.slot = s.cx.slot := rfl
@[simp] theorem State.setPc_cx_waitk (s : State) (v : Word) : (s.setPc v).cx.waitk = s.cx.waitk := rfl
@[simp] theorem State.setPc_cx_helper (s : State) (v : Word) : (s.setPc v).cx.helper = s.cx.helper := rfl
@[simp] theorem State.setPc_cx_pinned (s : State) (v : Word) : (s.setPc v).cx.pinned = s.cx.pinned := rfl
@[simp] theorem State.setPc_cx_intrap (s : State) (v : Word) : (s.setPc v).cx.intrap = s.cx.intrap := rfl
@[simp] theorem State.setPc_cx_hid (s : State) (v : Word) : (s.setPc v).cx.hid = s.cx.hid := rfl
@[simp] theorem State.setPc_cx_seals (s : State) (v : Word) : (s.setPc v).cx.seals = s.cx.seals := rfl
@[simp] theorem State.setPc_cx_tvec (s : State) (v : Word) : (s.setPc v).cx.tvec = s.cx.tvec := rfl
@[simp] theorem State.setPc_cx_ready (s : State) (v : Word) : (s.setPc v).cx.ready = s.cx.ready := rfl
@[simp] theorem State.setPc_cx_act (s : State) (v : Word) : (s.setPc v).cx.act = s.cx.act := rfl
@[simp] theorem State.setPc_cx_run (s : State) (v : Word) : (s.setPc v).cx.run = s.cx.run := rfl
@[simp] theorem State.setPc_cx_exitTick (s : State) (v : Word) : (s.setPc v).cx.exitTick = s.cx.exitTick := rfl
@[simp] theorem State.setPc_cx_saved (s : State) (v : Word) : (s.setPc v).cx.saved = s.cx.saved := rfl
@[simp] theorem State.setPc_cx_wait (s : State) (v : Word) : (s.setPc v).cx.wait = s.cx.wait := rfl
@[simp] theorem State.setPc_cx_waitSince (s : State) (v : Word) : (s.setPc v).cx.waitSince = s.cx.waitSince := rfl
@[simp] theorem State.setPc_cx_view (s : State) (v : Word) : (s.setPc v).cx.view = s.cx.view := rfl
@[simp] theorem State.setPc_cx_snap (s : State) (v : Word) : (s.setPc v).cx.snap = s.cx.snap := rfl
@[simp] theorem State.setPc_cx_born (s : State) (v : Word) : (s.setPc v).cx.born = s.cx.born := rfl
@[simp] theorem State.setPc_cx_seen (s : State) (v : Word) : (s.setPc v).cx.seen = s.cx.seen := rfl
@[simp] theorem State.setPc_cx_hb (s : State) (v : Word) : (s.setPc v).cx.hb = s.cx.hb := rfl
@[simp] theorem State.setPc_cx_floors (s : State) (v : Word) : (s.setPc v).cx.floors = s.cx.floors := rfl
@[simp] theorem State.setPc_cx_retired (s : State) (v : Word) : (s.setPc v).cx.retired = s.cx.retired := rfl
@[simp] theorem State.setPc_cx_awaitFetch (s : State) (v : Word) : (s.setPc v).cx.awaitFetch = s.cx.awaitFetch := rfl
@[simp] theorem State.setPc_cx_lines (s : State) (v : Word) : (s.setPc v).cx.lines = s.cx.lines := rfl
@[simp] theorem State.setPc_cx_lineReq (s : State) (v : Word) : (s.setPc v).cx.lineReq = s.cx.lineReq := rfl
@[simp] theorem State.setPc_cx_dirty (s : State) (v : Word) : (s.setPc v).cx.dirty = s.cx.dirty := rfl
@[simp] theorem State.setPc_cx_lineUse (s : State) (v : Word) : (s.setPc v).cx.lineUse = s.cx.lineUse := rfl
@[simp] theorem State.setPc_cx_age (s : State) (v : Word) : (s.setPc v).cx.age = s.cx.age := rfl
@[simp] theorem State.setPc_cx_readyNo (s : State) (v : Word) : (s.setPc v).cx.readyNo = s.cx.readyNo := rfl
@[simp] theorem State.setPc_cx_badLine (s : State) (v : Word) : (s.setPc v).cx.badLine = s.cx.badLine := rfl
@[simp] theorem State.setPc_cx_loadLine (s : State) (v : Word) : (s.setPc v).cx.loadLine = s.cx.loadLine := rfl
@[simp] theorem State.setPc_cx_erred (s : State) (v : Word) : (s.setPc v).cx.erred = s.cx.erred := rfl
@[simp] theorem State.setPc_cx_fpc (s : State) (v : Word) : (s.setPc v).cx.fpc = s.cx.fpc := rfl
@[simp] theorem State.setPc_cx_afterCtrl (s : State) (v : Word) : (s.setPc v).cx.afterCtrl = s.cx.afterCtrl := rfl
@[simp] theorem State.setPc_cx_sent (s : State) (v : Word) : (s.setPc v).cx.sent = s.cx.sent := rfl
@[simp] theorem State.setPc_cx_hashes (s : State) (v : Word) : (s.setPc v).cx.hashes = s.cx.hashes := rfl
@[simp] theorem State.setPc_cx_restarted (s : State) (v : Word) : (s.setPc v).cx.restarted = s.cx.restarted := rfl
@[simp] theorem State.setPc_cx_agreed (s : State) (v : Word) : (s.setPc v).cx.agreed = s.cx.agreed := rfl
@[simp] theorem State.setPc_cx_dropped (s : State) (v : Word) : (s.setPc v).cx.dropped = s.cx.dropped := rfl
@[simp] theorem State.setPc_cx_redo (s : State) (v : Word) : (s.setPc v).cx.redo = s.cx.redo := rfl
@[simp] theorem State.setPc_cx_rewind (s : State) (v : Word) : (s.setPc v).cx.rewind = s.cx.rewind := rfl
@[simp] theorem State.setPc_cx_fresh (s : State) (v : Word) : (s.setPc v).cx.fresh = s.cx.fresh := rfl
@[simp] theorem State.setPc_cx_npc (s : State) (v : Word) : (s.setPc v).cx.npc = s.cx.npc := rfl
@[simp] theorem State.setPc_cx_recNo (s : State) (v : Word) : (s.setPc v).cx.recNo = s.cx.recNo := rfl
@[simp] theorem State.setPc_cx_loads (s : State) (v : Word) : (s.setPc v).cx.loads = s.cx.loads := rfl
@[simp] theorem State.setPc_cx_loads0 (s : State) (v : Word) : (s.setPc v).cx.loads0 = s.cx.loads0 := rfl
@[simp] theorem State.setPc_cx_spur (s : State) (v : Word) : (s.setPc v).cx.spur = s.cx.spur := rfl
@[simp] theorem State.setPc_cx_pend (s : State) (v : Word) : (s.setPc v).cx.pend = s.cx.pend := rfl

@[simp] theorem State.issue_cx_regs (s : State) : s.issue.cx.regs = s.cx.regs := rfl
@[simp] theorem State.issue_cx_tags (s : State) : s.issue.cx.tags = s.cx.tags := rfl
@[simp] theorem State.issue_cx_pc (s : State) : s.issue.cx.pc = s.cx.pc := rfl
@[simp] theorem State.issue_cx_region (s : State) : s.issue.cx.region = s.cx.region := rfl
@[simp] theorem State.issue_cx_epc (s : State) : s.issue.cx.epc = s.cx.epc := rfl
@[simp] theorem State.issue_cx_tval (s : State) : s.issue.cx.tval = s.cx.tval := rfl
@[simp] theorem State.issue_cx_cause (s : State) : s.issue.cx.cause = s.cx.cause := rfl
@[simp] theorem State.issue_cx_ctrlatch (s : State) : s.issue.cx.ctrlatch = s.cx.ctrlatch := rfl
@[simp] theorem State.issue_cx_wbase (s : State) : s.issue.cx.wbase = s.cx.wbase := rfl
@[simp] theorem State.issue_cx_wsize (s : State) : s.issue.cx.wsize = s.cx.wsize := rfl
@[simp] theorem State.issue_cx_status (s : State) : s.issue.cx.status = s.cx.status := rfl
@[simp] theorem State.issue_cx_slot (s : State) : s.issue.cx.slot = s.cx.slot := rfl
@[simp] theorem State.issue_cx_waitk (s : State) : s.issue.cx.waitk = s.cx.waitk := rfl
@[simp] theorem State.issue_cx_helper (s : State) : s.issue.cx.helper = s.cx.helper := rfl
@[simp] theorem State.issue_cx_pinned (s : State) : s.issue.cx.pinned = s.cx.pinned := rfl
@[simp] theorem State.issue_cx_intrap (s : State) : s.issue.cx.intrap = s.cx.intrap := rfl
@[simp] theorem State.issue_cx_hid (s : State) : s.issue.cx.hid = s.cx.hid := rfl
@[simp] theorem State.issue_cx_seals (s : State) : s.issue.cx.seals = s.cx.seals := rfl
@[simp] theorem State.issue_cx_tvec (s : State) : s.issue.cx.tvec = s.cx.tvec := rfl
@[simp] theorem State.issue_cx_ready (s : State) : s.issue.cx.ready = s.cx.ready := rfl
@[simp] theorem State.issue_cx_act (s : State) : s.issue.cx.act = s.cx.act := rfl
@[simp] theorem State.issue_cx_exitTick (s : State) : s.issue.cx.exitTick = s.cx.exitTick := rfl
@[simp] theorem State.issue_cx_saved (s : State) : s.issue.cx.saved = s.cx.saved := rfl
@[simp] theorem State.issue_cx_wait (s : State) : s.issue.cx.wait = s.cx.wait := rfl
@[simp] theorem State.issue_cx_waitSince (s : State) : s.issue.cx.waitSince = s.cx.waitSince := rfl
@[simp] theorem State.issue_cx_view (s : State) : s.issue.cx.view = s.cx.view := rfl
@[simp] theorem State.issue_cx_snap (s : State) : s.issue.cx.snap = s.cx.snap := rfl
@[simp] theorem State.issue_cx_born (s : State) : s.issue.cx.born = s.cx.born := rfl
@[simp] theorem State.issue_cx_seen (s : State) : s.issue.cx.seen = s.cx.seen := rfl
@[simp] theorem State.issue_cx_hb (s : State) : s.issue.cx.hb = s.cx.hb := rfl
@[simp] theorem State.issue_cx_floors (s : State) : s.issue.cx.floors = s.cx.floors := rfl
@[simp] theorem State.issue_cx_awaitFetch (s : State) : s.issue.cx.awaitFetch = s.cx.awaitFetch := rfl
@[simp] theorem State.issue_cx_lines (s : State) : s.issue.cx.lines = s.cx.lines := rfl
@[simp] theorem State.issue_cx_lineReq (s : State) : s.issue.cx.lineReq = s.cx.lineReq := rfl
@[simp] theorem State.issue_cx_dirty (s : State) : s.issue.cx.dirty = s.cx.dirty := rfl
@[simp] theorem State.issue_cx_lineUse (s : State) : s.issue.cx.lineUse = s.cx.lineUse := rfl
@[simp] theorem State.issue_cx_age (s : State) : s.issue.cx.age = s.cx.age := rfl
@[simp] theorem State.issue_cx_readyNo (s : State) : s.issue.cx.readyNo = s.cx.readyNo := rfl
@[simp] theorem State.issue_cx_badLine (s : State) : s.issue.cx.badLine = s.cx.badLine := rfl
@[simp] theorem State.issue_cx_loadLine (s : State) : s.issue.cx.loadLine = s.cx.loadLine := rfl
@[simp] theorem State.issue_cx_erred (s : State) : s.issue.cx.erred = s.cx.erred := rfl
@[simp] theorem State.issue_cx_fpc (s : State) : s.issue.cx.fpc = s.cx.fpc := rfl
@[simp] theorem State.issue_cx_sent (s : State) : s.issue.cx.sent = s.cx.sent := rfl
@[simp] theorem State.issue_cx_hashes (s : State) : s.issue.cx.hashes = s.cx.hashes := rfl
@[simp] theorem State.issue_cx_restarted (s : State) : s.issue.cx.restarted = s.cx.restarted := rfl
@[simp] theorem State.issue_cx_redo (s : State) : s.issue.cx.redo = s.cx.redo := rfl
@[simp] theorem State.issue_cx_rewind (s : State) : s.issue.cx.rewind = s.cx.rewind := rfl
@[simp] theorem State.issue_cx_npc (s : State) : s.issue.cx.npc = s.cx.npc := rfl
@[simp] theorem State.issue_cx_recNo (s : State) : s.issue.cx.recNo = s.cx.recNo := rfl
@[simp] theorem State.issue_cx_loads (s : State) : s.issue.cx.loads = s.cx.loads := rfl
@[simp] theorem State.issue_cx_loads0 (s : State) : s.issue.cx.loads0 = s.cx.loads0 := rfl
@[simp] theorem State.issue_cx_spur (s : State) : s.issue.cx.spur = s.cx.spur := rfl
@[simp] theorem State.issue_cx_pend (s : State) : s.issue.cx.pend = s.cx.pend := rfl

@[simp] theorem State.waitOn_cx_regs (s : State) (k : BitVec 4) (op : WaitOp) (len : Nat) : (s.waitOn k op len).cx.regs = s.cx.regs := rfl
@[simp] theorem State.waitOn_cx_tags (s : State) (k : BitVec 4) (op : WaitOp) (len : Nat) : (s.waitOn k op len).cx.tags = s.cx.tags := rfl
@[simp] theorem State.waitOn_cx_pc (s : State) (k : BitVec 4) (op : WaitOp) (len : Nat) : (s.waitOn k op len).cx.pc = s.cx.pc := rfl
@[simp] theorem State.waitOn_cx_region (s : State) (k : BitVec 4) (op : WaitOp) (len : Nat) : (s.waitOn k op len).cx.region = s.cx.region := rfl
@[simp] theorem State.waitOn_cx_epc (s : State) (k : BitVec 4) (op : WaitOp) (len : Nat) : (s.waitOn k op len).cx.epc = s.cx.epc := rfl
@[simp] theorem State.waitOn_cx_tval (s : State) (k : BitVec 4) (op : WaitOp) (len : Nat) : (s.waitOn k op len).cx.tval = s.cx.tval := rfl
@[simp] theorem State.waitOn_cx_cause (s : State) (k : BitVec 4) (op : WaitOp) (len : Nat) : (s.waitOn k op len).cx.cause = s.cx.cause := rfl
@[simp] theorem State.waitOn_cx_ctrlatch (s : State) (k : BitVec 4) (op : WaitOp) (len : Nat) : (s.waitOn k op len).cx.ctrlatch = s.cx.ctrlatch := rfl
@[simp] theorem State.waitOn_cx_wbase (s : State) (k : BitVec 4) (op : WaitOp) (len : Nat) : (s.waitOn k op len).cx.wbase = s.cx.wbase := rfl
@[simp] theorem State.waitOn_cx_wsize (s : State) (k : BitVec 4) (op : WaitOp) (len : Nat) : (s.waitOn k op len).cx.wsize = s.cx.wsize := rfl
@[simp] theorem State.waitOn_cx_slot (s : State) (k : BitVec 4) (op : WaitOp) (len : Nat) : (s.waitOn k op len).cx.slot = s.cx.slot := rfl
@[simp] theorem State.waitOn_cx_helper (s : State) (k : BitVec 4) (op : WaitOp) (len : Nat) : (s.waitOn k op len).cx.helper = s.cx.helper := rfl
@[simp] theorem State.waitOn_cx_pinned (s : State) (k : BitVec 4) (op : WaitOp) (len : Nat) : (s.waitOn k op len).cx.pinned = s.cx.pinned := rfl
@[simp] theorem State.waitOn_cx_intrap (s : State) (k : BitVec 4) (op : WaitOp) (len : Nat) : (s.waitOn k op len).cx.intrap = s.cx.intrap := rfl
@[simp] theorem State.waitOn_cx_hid (s : State) (k : BitVec 4) (op : WaitOp) (len : Nat) : (s.waitOn k op len).cx.hid = s.cx.hid := rfl
@[simp] theorem State.waitOn_cx_seals (s : State) (k : BitVec 4) (op : WaitOp) (len : Nat) : (s.waitOn k op len).cx.seals = s.cx.seals := rfl
@[simp] theorem State.waitOn_cx_tvec (s : State) (k : BitVec 4) (op : WaitOp) (len : Nat) : (s.waitOn k op len).cx.tvec = s.cx.tvec := rfl
@[simp] theorem State.waitOn_cx_ready (s : State) (k : BitVec 4) (op : WaitOp) (len : Nat) : (s.waitOn k op len).cx.ready = s.cx.ready := rfl
@[simp] theorem State.waitOn_cx_act (s : State) (k : BitVec 4) (op : WaitOp) (len : Nat) : (s.waitOn k op len).cx.act = s.cx.act := rfl
@[simp] theorem State.waitOn_cx_exitTick (s : State) (k : BitVec 4) (op : WaitOp) (len : Nat) : (s.waitOn k op len).cx.exitTick = s.cx.exitTick := rfl
@[simp] theorem State.waitOn_cx_saved (s : State) (k : BitVec 4) (op : WaitOp) (len : Nat) : (s.waitOn k op len).cx.saved = s.cx.saved := rfl
@[simp] theorem State.waitOn_cx_view (s : State) (k : BitVec 4) (op : WaitOp) (len : Nat) : (s.waitOn k op len).cx.view = s.cx.view := rfl
@[simp] theorem State.waitOn_cx_snap (s : State) (k : BitVec 4) (op : WaitOp) (len : Nat) : (s.waitOn k op len).cx.snap = s.cx.snap := rfl
@[simp] theorem State.waitOn_cx_born (s : State) (k : BitVec 4) (op : WaitOp) (len : Nat) : (s.waitOn k op len).cx.born = s.cx.born := rfl
@[simp] theorem State.waitOn_cx_seen (s : State) (k : BitVec 4) (op : WaitOp) (len : Nat) : (s.waitOn k op len).cx.seen = s.cx.seen := rfl
@[simp] theorem State.waitOn_cx_hb (s : State) (k : BitVec 4) (op : WaitOp) (len : Nat) : (s.waitOn k op len).cx.hb = s.cx.hb := rfl
@[simp] theorem State.waitOn_cx_floors (s : State) (k : BitVec 4) (op : WaitOp) (len : Nat) : (s.waitOn k op len).cx.floors = s.cx.floors := rfl
@[simp] theorem State.waitOn_cx_awaitFetch (s : State) (k : BitVec 4) (op : WaitOp) (len : Nat) : (s.waitOn k op len).cx.awaitFetch = s.cx.awaitFetch := rfl
@[simp] theorem State.waitOn_cx_lines (s : State) (k : BitVec 4) (op : WaitOp) (len : Nat) : (s.waitOn k op len).cx.lines = s.cx.lines := rfl
@[simp] theorem State.waitOn_cx_lineReq (s : State) (k : BitVec 4) (op : WaitOp) (len : Nat) : (s.waitOn k op len).cx.lineReq = s.cx.lineReq := rfl
@[simp] theorem State.waitOn_cx_dirty (s : State) (k : BitVec 4) (op : WaitOp) (len : Nat) : (s.waitOn k op len).cx.dirty = s.cx.dirty := rfl
@[simp] theorem State.waitOn_cx_lineUse (s : State) (k : BitVec 4) (op : WaitOp) (len : Nat) : (s.waitOn k op len).cx.lineUse = s.cx.lineUse := rfl
@[simp] theorem State.waitOn_cx_age (s : State) (k : BitVec 4) (op : WaitOp) (len : Nat) : (s.waitOn k op len).cx.age = s.cx.age := rfl
@[simp] theorem State.waitOn_cx_readyNo (s : State) (k : BitVec 4) (op : WaitOp) (len : Nat) : (s.waitOn k op len).cx.readyNo = s.cx.readyNo := rfl
@[simp] theorem State.waitOn_cx_badLine (s : State) (k : BitVec 4) (op : WaitOp) (len : Nat) : (s.waitOn k op len).cx.badLine = s.cx.badLine := rfl
@[simp] theorem State.waitOn_cx_loadLine (s : State) (k : BitVec 4) (op : WaitOp) (len : Nat) : (s.waitOn k op len).cx.loadLine = s.cx.loadLine := rfl
@[simp] theorem State.waitOn_cx_erred (s : State) (k : BitVec 4) (op : WaitOp) (len : Nat) : (s.waitOn k op len).cx.erred = s.cx.erred := rfl
@[simp] theorem State.waitOn_cx_fpc (s : State) (k : BitVec 4) (op : WaitOp) (len : Nat) : (s.waitOn k op len).cx.fpc = s.cx.fpc := rfl
@[simp] theorem State.waitOn_cx_sent (s : State) (k : BitVec 4) (op : WaitOp) (len : Nat) : (s.waitOn k op len).cx.sent = s.cx.sent := rfl
@[simp] theorem State.waitOn_cx_hashes (s : State) (k : BitVec 4) (op : WaitOp) (len : Nat) : (s.waitOn k op len).cx.hashes = s.cx.hashes := rfl
@[simp] theorem State.waitOn_cx_restarted (s : State) (k : BitVec 4) (op : WaitOp) (len : Nat) : (s.waitOn k op len).cx.restarted = s.cx.restarted := rfl
@[simp] theorem State.waitOn_cx_redo (s : State) (k : BitVec 4) (op : WaitOp) (len : Nat) : (s.waitOn k op len).cx.redo = s.cx.redo := rfl
@[simp] theorem State.waitOn_cx_rewind (s : State) (k : BitVec 4) (op : WaitOp) (len : Nat) : (s.waitOn k op len).cx.rewind = s.cx.rewind := rfl
@[simp] theorem State.waitOn_cx_recNo (s : State) (k : BitVec 4) (op : WaitOp) (len : Nat) : (s.waitOn k op len).cx.recNo = s.cx.recNo := rfl
@[simp] theorem State.waitOn_cx_loads (s : State) (k : BitVec 4) (op : WaitOp) (len : Nat) : (s.waitOn k op len).cx.loads = s.cx.loads := rfl
@[simp] theorem State.waitOn_cx_loads0 (s : State) (k : BitVec 4) (op : WaitOp) (len : Nat) : (s.waitOn k op len).cx.loads0 = s.cx.loads0 := rfl
@[simp] theorem State.waitOn_cx_spur (s : State) (k : BitVec 4) (op : WaitOp) (len : Nat) : (s.waitOn k op len).cx.spur = s.cx.spur := rfl
@[simp] theorem State.waitOn_cx_pend (s : State) (k : BitVec 4) (op : WaitOp) (len : Nat) : (s.waitOn k op len).cx.pend = s.cx.pend := rfl

@[simp] theorem State.count_co_id (s : State) (ev : CtrEvent) : (s.count ev).co.id = s.co.id := rfl
@[simp] theorem State.count_co_launch (s : State) (ev : CtrEvent) : (s.count ev).co.launch = s.co.launch := rfl
@[simp] theorem State.count_co_primary (s : State) (ev : CtrEvent) : (s.count ev).co.primary = s.co.primary := rfl
@[simp] theorem State.count_co_owner (s : State) (ev : CtrEvent) : (s.count ev).co.owner = s.co.owner := rfl
@[simp] theorem State.count_co_store (s : State) (ev : CtrEvent) : (s.count ev).co.store = s.co.store := rfl
@[simp] theorem State.count_co_full (s : State) (ev : CtrEvent) : (s.count ev).co.full = s.co.full := rfl
@[simp] theorem State.count_co_poison (s : State) (ev : CtrEvent) : (s.count ev).co.poison = s.co.poison := rfl
@[simp] theorem State.count_co_waiters (s : State) (ev : CtrEvent) : (s.count ev).co.waiters = s.co.waiters := rfl
@[simp] theorem State.count_co_descs (s : State) (ev : CtrEvent) : (s.count ev).co.descs = s.co.descs := rfl
@[simp] theorem State.count_co_acc (s : State) (ev : CtrEvent) : (s.count ev).co.acc = s.co.acc := rfl
@[simp] theorem State.count_co_wbuf (s : State) (ev : CtrEvent) : (s.count ev).co.wbuf = s.co.wbuf := rfl
@[simp] theorem State.count_co_chans (s : State) (ev : CtrEvent) : (s.count ev).co.chans = s.co.chans := rfl
@[simp] theorem State.count_co_chanBy (s : State) (ev : CtrEvent) : (s.count ev).co.chanBy = s.co.chanBy := rfl
@[simp] theorem State.count_co_fillers (s : State) (ev : CtrEvent) : (s.count ev).co.fillers = s.co.fillers := rfl
@[simp] theorem State.count_co_emptyAt (s : State) (ev : CtrEvent) : (s.count ev).co.emptyAt = s.co.emptyAt := rfl
@[simp] theorem State.count_co_ring (s : State) (ev : CtrEvent) : (s.count ev).co.ring = s.co.ring := rfl
@[simp] theorem State.count_co_held (s : State) (ev : CtrEvent) : (s.count ev).co.held = s.co.held := rfl
@[simp] theorem State.count_co_ringNews (s : State) (ev : CtrEvent) : (s.count ev).co.ringNews = s.co.ringNews := rfl
@[simp] theorem State.count_co_fflags (s : State) (ev : CtrEvent) : (s.count ev).co.fflags = s.co.fflags := rfl
@[simp] theorem State.count_co_lfsr (s : State) (ev : CtrEvent) : (s.count ev).co.lfsr = s.co.lfsr := rfl
@[simp] theorem State.count_co_actthr (s : State) (ev : CtrEvent) : (s.count ev).co.actthr = s.co.actthr := rfl
@[simp] theorem State.count_co_recast (s : State) (ev : CtrEvent) : (s.count ev).co.recast = s.co.recast := rfl
@[simp] theorem State.count_co_role (s : State) (ev : CtrEvent) : (s.count ev).co.role = s.co.role := rfl
@[simp] theorem State.count_co_cycBase (s : State) (ev : CtrEvent) : (s.count ev).co.cycBase = s.co.cycBase := rfl
@[simp] theorem State.count_co_cycTick (s : State) (ev : CtrEvent) : (s.count ev).co.cycTick = s.co.cycTick := rfl
@[simp] theorem State.count_co_cycle (s : State) (ev : CtrEvent) : (s.count ev).co.cycle = s.co.cycle := rfl
@[simp] theorem State.count_co_stops (s : State) (ev : CtrEvent) : (s.count ev).co.stops = s.co.stops := rfl
@[simp] theorem State.count_co_promoted (s : State) (ev : CtrEvent) : (s.count ev).co.promoted = s.co.promoted := rfl
@[simp] theorem State.count_co_woken (s : State) (ev : CtrEvent) : (s.count ev).co.woken = s.co.woken := rfl
@[simp] theorem State.count_co_started (s : State) (ev : CtrEvent) : (s.count ev).co.started = s.co.started := rfl
@[simp] theorem State.count_co_lru (s : State) (ev : CtrEvent) : (s.count ev).co.lru = s.co.lru := rfl
@[simp] theorem State.count_co_wbq (s : State) (ev : CtrEvent) : (s.count ev).co.wbq = s.co.wbq := rfl
@[simp] theorem State.count_co_readySeq (s : State) (ev : CtrEvent) : (s.count ev).co.readySeq = s.co.readySeq := rfl
@[simp] theorem State.count_co_ctxs (s : State) (ev : CtrEvent) : (s.count ev).co.ctxs = s.co.ctxs := rfl
@[simp] theorem State.count_co_last (s : State) (ev : CtrEvent) : (s.count ev).co.last = s.co.last := rfl
@[simp] theorem State.count_co_vop (s : State) (ev : CtrEvent) : (s.count ev).co.vop = s.co.vop := rfl
@[simp] theorem State.count_co_mop (s : State) (ev : CtrEvent) : (s.count ev).co.mop = s.co.mop := rfl
@[simp] theorem State.count_co_pumpq (s : State) (ev : CtrEvent) : (s.count ev).co.pumpq = s.co.pumpq := rfl
@[simp] theorem State.count_co_fills (s : State) (ev : CtrEvent) : (s.count ev).co.fills = s.co.fills := rfl
@[simp] theorem State.count_co_mmrs (s : State) (ev : CtrEvent) : (s.count ev).co.mmrs = s.co.mmrs := rfl
@[simp] theorem State.count_co_mmrOuts (s : State) (ev : CtrEvent) : (s.count ev).co.mmrOuts = s.co.mmrOuts := rfl
@[simp] theorem State.count_co_mmr (s : State) (ev : CtrEvent) : (s.count ev).co.mmr = s.co.mmr := rfl
@[simp] theorem State.count_co_coll (s : State) (ev : CtrEvent) : (s.count ev).co.coll = s.co.coll := rfl
@[simp] theorem State.count_co_corrBase (s : State) (ev : CtrEvent) : (s.count ev).co.corrBase = s.co.corrBase := rfl
@[simp] theorem State.count_co_heldMsgs (s : State) (ev : CtrEvent) : (s.count ev).co.heldMsgs = s.co.heldMsgs := rfl
@[simp] theorem State.count_co_grant (s : State) (ev : CtrEvent) : (s.count ev).co.grant = s.co.grant := rfl
@[simp] theorem State.count_co_weightSum (s : State) (ev : CtrEvent) : (s.count ev).co.weightSum = s.co.weightSum := rfl
@[simp] theorem State.count_co_ballast (s : State) (ev : CtrEvent) : (s.count ev).co.ballast = s.co.ballast := rfl
@[simp] theorem State.count_co_balAcct (s : State) (ev : CtrEvent) : (s.count ev).co.balAcct = s.co.balAcct := rfl
@[simp] theorem State.count_co_balSum (s : State) (ev : CtrEvent) : (s.count ev).co.balSum = s.co.balSum := rfl
@[simp] theorem State.count_co_gramp (s : State) (ev : CtrEvent) : (s.count ev).co.gramp = s.co.gramp := rfl
@[simp] theorem State.count_co_request (s : State) (ev : CtrEvent) : (s.count ev).co.request = s.co.request := rfl
@[simp] theorem State.count_co_tlb (s : State) (ev : CtrEvent) : (s.count ev).co.tlb = s.co.tlb := rfl

@[simp] theorem State.issue_co_id (s : State) : s.issue.co.id = s.co.id := rfl
@[simp] theorem State.issue_co_launch (s : State) : s.issue.co.launch = s.co.launch := rfl
@[simp] theorem State.issue_co_primary (s : State) : s.issue.co.primary = s.co.primary := rfl
@[simp] theorem State.issue_co_owner (s : State) : s.issue.co.owner = s.co.owner := rfl
@[simp] theorem State.issue_co_store (s : State) : s.issue.co.store = s.co.store := rfl
@[simp] theorem State.issue_co_full (s : State) : s.issue.co.full = s.co.full := rfl
@[simp] theorem State.issue_co_poison (s : State) : s.issue.co.poison = s.co.poison := rfl
@[simp] theorem State.issue_co_waiters (s : State) : s.issue.co.waiters = s.co.waiters := rfl
@[simp] theorem State.issue_co_descs (s : State) : s.issue.co.descs = s.co.descs := rfl
@[simp] theorem State.issue_co_acc (s : State) : s.issue.co.acc = s.co.acc := rfl
@[simp] theorem State.issue_co_wbuf (s : State) : s.issue.co.wbuf = s.co.wbuf := rfl
@[simp] theorem State.issue_co_chans (s : State) : s.issue.co.chans = s.co.chans := rfl
@[simp] theorem State.issue_co_chanBy (s : State) : s.issue.co.chanBy = s.co.chanBy := rfl
@[simp] theorem State.issue_co_fillers (s : State) : s.issue.co.fillers = s.co.fillers := rfl
@[simp] theorem State.issue_co_emptyAt (s : State) : s.issue.co.emptyAt = s.co.emptyAt := rfl
@[simp] theorem State.issue_co_ring (s : State) : s.issue.co.ring = s.co.ring := rfl
@[simp] theorem State.issue_co_held (s : State) : s.issue.co.held = s.co.held := rfl
@[simp] theorem State.issue_co_ringNews (s : State) : s.issue.co.ringNews = s.co.ringNews := rfl
@[simp] theorem State.issue_co_fflags (s : State) : s.issue.co.fflags = s.co.fflags := rfl
@[simp] theorem State.issue_co_lfsr (s : State) : s.issue.co.lfsr = s.co.lfsr := rfl
@[simp] theorem State.issue_co_actthr (s : State) : s.issue.co.actthr = s.co.actthr := rfl
@[simp] theorem State.issue_co_recast (s : State) : s.issue.co.recast = s.co.recast := rfl
@[simp] theorem State.issue_co_role (s : State) : s.issue.co.role = s.co.role := rfl
@[simp] theorem State.issue_co_cycBase (s : State) : s.issue.co.cycBase = s.co.cycBase := rfl
@[simp] theorem State.issue_co_cycTick (s : State) : s.issue.co.cycTick = s.co.cycTick := rfl
@[simp] theorem State.issue_co_cycle (s : State) : s.issue.co.cycle = s.co.cycle := rfl
@[simp] theorem State.issue_co_stops (s : State) : s.issue.co.stops = s.co.stops := rfl
@[simp] theorem State.issue_co_promoted (s : State) : s.issue.co.promoted = s.co.promoted := rfl
@[simp] theorem State.issue_co_woken (s : State) : s.issue.co.woken = s.co.woken := rfl
@[simp] theorem State.issue_co_started (s : State) : s.issue.co.started = s.co.started := rfl
@[simp] theorem State.issue_co_lru (s : State) : s.issue.co.lru = s.co.lru := rfl
@[simp] theorem State.issue_co_wbq (s : State) : s.issue.co.wbq = s.co.wbq := rfl
@[simp] theorem State.issue_co_readySeq (s : State) : s.issue.co.readySeq = s.co.readySeq := rfl
@[simp] theorem State.issue_co_ctxs (s : State) : s.issue.co.ctxs = s.co.ctxs := rfl
@[simp] theorem State.issue_co_last (s : State) : s.issue.co.last = s.co.last := rfl
@[simp] theorem State.issue_co_vop (s : State) : s.issue.co.vop = s.co.vop := rfl
@[simp] theorem State.issue_co_mop (s : State) : s.issue.co.mop = s.co.mop := rfl
@[simp] theorem State.issue_co_pumpq (s : State) : s.issue.co.pumpq = s.co.pumpq := rfl
@[simp] theorem State.issue_co_fills (s : State) : s.issue.co.fills = s.co.fills := rfl
@[simp] theorem State.issue_co_mmrs (s : State) : s.issue.co.mmrs = s.co.mmrs := rfl
@[simp] theorem State.issue_co_mmrOuts (s : State) : s.issue.co.mmrOuts = s.co.mmrOuts := rfl
@[simp] theorem State.issue_co_mmr (s : State) : s.issue.co.mmr = s.co.mmr := rfl
@[simp] theorem State.issue_co_coll (s : State) : s.issue.co.coll = s.co.coll := rfl
@[simp] theorem State.issue_co_corrBase (s : State) : s.issue.co.corrBase = s.co.corrBase := rfl
@[simp] theorem State.issue_co_heldMsgs (s : State) : s.issue.co.heldMsgs = s.co.heldMsgs := rfl
@[simp] theorem State.issue_co_grant (s : State) : s.issue.co.grant = s.co.grant := rfl
@[simp] theorem State.issue_co_ballast (s : State) : s.issue.co.ballast = s.co.ballast := rfl
@[simp] theorem State.issue_co_balAcct (s : State) : s.issue.co.balAcct = s.co.balAcct := rfl
@[simp] theorem State.issue_co_balSum (s : State) : s.issue.co.balSum = s.co.balSum := rfl
@[simp] theorem State.issue_co_gramp (s : State) : s.issue.co.gramp = s.co.gramp := rfl
@[simp] theorem State.issue_co_request (s : State) : s.issue.co.request = s.co.request := rfl
@[simp] theorem State.issue_co_tlb (s : State) : s.issue.co.tlb = s.co.tlb := rfl

@[simp] theorem State.waitOn_co_id (s : State) (k : BitVec 4) (op : WaitOp) (len : Nat) : (s.waitOn k op len).co.id = s.co.id := rfl
@[simp] theorem State.waitOn_co_launch (s : State) (k : BitVec 4) (op : WaitOp) (len : Nat) : (s.waitOn k op len).co.launch = s.co.launch := rfl
@[simp] theorem State.waitOn_co_primary (s : State) (k : BitVec 4) (op : WaitOp) (len : Nat) : (s.waitOn k op len).co.primary = s.co.primary := rfl
@[simp] theorem State.waitOn_co_owner (s : State) (k : BitVec 4) (op : WaitOp) (len : Nat) : (s.waitOn k op len).co.owner = s.co.owner := rfl
@[simp] theorem State.waitOn_co_store (s : State) (k : BitVec 4) (op : WaitOp) (len : Nat) : (s.waitOn k op len).co.store = s.co.store := rfl
@[simp] theorem State.waitOn_co_full (s : State) (k : BitVec 4) (op : WaitOp) (len : Nat) : (s.waitOn k op len).co.full = s.co.full := rfl
@[simp] theorem State.waitOn_co_poison (s : State) (k : BitVec 4) (op : WaitOp) (len : Nat) : (s.waitOn k op len).co.poison = s.co.poison := rfl
@[simp] theorem State.waitOn_co_waiters (s : State) (k : BitVec 4) (op : WaitOp) (len : Nat) : (s.waitOn k op len).co.waiters = s.co.waiters := rfl
@[simp] theorem State.waitOn_co_descs (s : State) (k : BitVec 4) (op : WaitOp) (len : Nat) : (s.waitOn k op len).co.descs = s.co.descs := rfl
@[simp] theorem State.waitOn_co_acc (s : State) (k : BitVec 4) (op : WaitOp) (len : Nat) : (s.waitOn k op len).co.acc = s.co.acc := rfl
@[simp] theorem State.waitOn_co_wbuf (s : State) (k : BitVec 4) (op : WaitOp) (len : Nat) : (s.waitOn k op len).co.wbuf = s.co.wbuf := rfl
@[simp] theorem State.waitOn_co_chans (s : State) (k : BitVec 4) (op : WaitOp) (len : Nat) : (s.waitOn k op len).co.chans = s.co.chans := rfl
@[simp] theorem State.waitOn_co_chanBy (s : State) (k : BitVec 4) (op : WaitOp) (len : Nat) : (s.waitOn k op len).co.chanBy = s.co.chanBy := rfl
@[simp] theorem State.waitOn_co_fillers (s : State) (k : BitVec 4) (op : WaitOp) (len : Nat) : (s.waitOn k op len).co.fillers = s.co.fillers := rfl
@[simp] theorem State.waitOn_co_emptyAt (s : State) (k : BitVec 4) (op : WaitOp) (len : Nat) : (s.waitOn k op len).co.emptyAt = s.co.emptyAt := rfl
@[simp] theorem State.waitOn_co_ring (s : State) (k : BitVec 4) (op : WaitOp) (len : Nat) : (s.waitOn k op len).co.ring = s.co.ring := rfl
@[simp] theorem State.waitOn_co_held (s : State) (k : BitVec 4) (op : WaitOp) (len : Nat) : (s.waitOn k op len).co.held = s.co.held := rfl
@[simp] theorem State.waitOn_co_ringNews (s : State) (k : BitVec 4) (op : WaitOp) (len : Nat) : (s.waitOn k op len).co.ringNews = s.co.ringNews := rfl
@[simp] theorem State.waitOn_co_fflags (s : State) (k : BitVec 4) (op : WaitOp) (len : Nat) : (s.waitOn k op len).co.fflags = s.co.fflags := rfl
@[simp] theorem State.waitOn_co_lfsr (s : State) (k : BitVec 4) (op : WaitOp) (len : Nat) : (s.waitOn k op len).co.lfsr = s.co.lfsr := rfl
@[simp] theorem State.waitOn_co_actthr (s : State) (k : BitVec 4) (op : WaitOp) (len : Nat) : (s.waitOn k op len).co.actthr = s.co.actthr := rfl
@[simp] theorem State.waitOn_co_recast (s : State) (k : BitVec 4) (op : WaitOp) (len : Nat) : (s.waitOn k op len).co.recast = s.co.recast := rfl
@[simp] theorem State.waitOn_co_role (s : State) (k : BitVec 4) (op : WaitOp) (len : Nat) : (s.waitOn k op len).co.role = s.co.role := rfl
@[simp] theorem State.waitOn_co_cycBase (s : State) (k : BitVec 4) (op : WaitOp) (len : Nat) : (s.waitOn k op len).co.cycBase = s.co.cycBase := rfl
@[simp] theorem State.waitOn_co_cycTick (s : State) (k : BitVec 4) (op : WaitOp) (len : Nat) : (s.waitOn k op len).co.cycTick = s.co.cycTick := rfl
@[simp] theorem State.waitOn_co_cycle (s : State) (k : BitVec 4) (op : WaitOp) (len : Nat) : (s.waitOn k op len).co.cycle = s.co.cycle := rfl
@[simp] theorem State.waitOn_co_stops (s : State) (k : BitVec 4) (op : WaitOp) (len : Nat) : (s.waitOn k op len).co.stops = s.co.stops := rfl
@[simp] theorem State.waitOn_co_promoted (s : State) (k : BitVec 4) (op : WaitOp) (len : Nat) : (s.waitOn k op len).co.promoted = s.co.promoted := rfl
@[simp] theorem State.waitOn_co_woken (s : State) (k : BitVec 4) (op : WaitOp) (len : Nat) : (s.waitOn k op len).co.woken = s.co.woken := rfl
@[simp] theorem State.waitOn_co_started (s : State) (k : BitVec 4) (op : WaitOp) (len : Nat) : (s.waitOn k op len).co.started = s.co.started := rfl
@[simp] theorem State.waitOn_co_lru (s : State) (k : BitVec 4) (op : WaitOp) (len : Nat) : (s.waitOn k op len).co.lru = s.co.lru := rfl
@[simp] theorem State.waitOn_co_wbq (s : State) (k : BitVec 4) (op : WaitOp) (len : Nat) : (s.waitOn k op len).co.wbq = s.co.wbq := rfl
@[simp] theorem State.waitOn_co_readySeq (s : State) (k : BitVec 4) (op : WaitOp) (len : Nat) : (s.waitOn k op len).co.readySeq = s.co.readySeq := rfl
@[simp] theorem State.waitOn_co_ctxs (s : State) (k : BitVec 4) (op : WaitOp) (len : Nat) : (s.waitOn k op len).co.ctxs = s.co.ctxs := rfl
@[simp] theorem State.waitOn_co_last (s : State) (k : BitVec 4) (op : WaitOp) (len : Nat) : (s.waitOn k op len).co.last = s.co.last := rfl
@[simp] theorem State.waitOn_co_vop (s : State) (k : BitVec 4) (op : WaitOp) (len : Nat) : (s.waitOn k op len).co.vop = s.co.vop := rfl
@[simp] theorem State.waitOn_co_mop (s : State) (k : BitVec 4) (op : WaitOp) (len : Nat) : (s.waitOn k op len).co.mop = s.co.mop := rfl
@[simp] theorem State.waitOn_co_pumpq (s : State) (k : BitVec 4) (op : WaitOp) (len : Nat) : (s.waitOn k op len).co.pumpq = s.co.pumpq := rfl
@[simp] theorem State.waitOn_co_fills (s : State) (k : BitVec 4) (op : WaitOp) (len : Nat) : (s.waitOn k op len).co.fills = s.co.fills := rfl
@[simp] theorem State.waitOn_co_mmrs (s : State) (k : BitVec 4) (op : WaitOp) (len : Nat) : (s.waitOn k op len).co.mmrs = s.co.mmrs := rfl
@[simp] theorem State.waitOn_co_mmrOuts (s : State) (k : BitVec 4) (op : WaitOp) (len : Nat) : (s.waitOn k op len).co.mmrOuts = s.co.mmrOuts := rfl
@[simp] theorem State.waitOn_co_mmr (s : State) (k : BitVec 4) (op : WaitOp) (len : Nat) : (s.waitOn k op len).co.mmr = s.co.mmr := rfl
@[simp] theorem State.waitOn_co_coll (s : State) (k : BitVec 4) (op : WaitOp) (len : Nat) : (s.waitOn k op len).co.coll = s.co.coll := rfl
@[simp] theorem State.waitOn_co_corrBase (s : State) (k : BitVec 4) (op : WaitOp) (len : Nat) : (s.waitOn k op len).co.corrBase = s.co.corrBase := rfl
@[simp] theorem State.waitOn_co_heldMsgs (s : State) (k : BitVec 4) (op : WaitOp) (len : Nat) : (s.waitOn k op len).co.heldMsgs = s.co.heldMsgs := rfl
@[simp] theorem State.waitOn_co_grant (s : State) (k : BitVec 4) (op : WaitOp) (len : Nat) : (s.waitOn k op len).co.grant = s.co.grant := rfl
@[simp] theorem State.waitOn_co_ballast (s : State) (k : BitVec 4) (op : WaitOp) (len : Nat) : (s.waitOn k op len).co.ballast = s.co.ballast := rfl
@[simp] theorem State.waitOn_co_balAcct (s : State) (k : BitVec 4) (op : WaitOp) (len : Nat) : (s.waitOn k op len).co.balAcct = s.co.balAcct := rfl
@[simp] theorem State.waitOn_co_balSum (s : State) (k : BitVec 4) (op : WaitOp) (len : Nat) : (s.waitOn k op len).co.balSum = s.co.balSum := rfl
@[simp] theorem State.waitOn_co_gramp (s : State) (k : BitVec 4) (op : WaitOp) (len : Nat) : (s.waitOn k op len).co.gramp = s.co.gramp := rfl
@[simp] theorem State.waitOn_co_request (s : State) (k : BitVec 4) (op : WaitOp) (len : Nat) : (s.waitOn k op len).co.request = s.co.request := rfl
@[simp] theorem State.waitOn_co_tlb (s : State) (k : BitVec 4) (op : WaitOp) (len : Nat) : (s.waitOn k op len).co.tlb = s.co.tlb := rfl

@[simp] theorem State.orFlags_co_id (s : State) (f : FlagSet) : (s.orFlags f).co.id = s.co.id := rfl
@[simp] theorem State.orFlags_co_launch (s : State) (f : FlagSet) : (s.orFlags f).co.launch = s.co.launch := rfl
@[simp] theorem State.orFlags_co_primary (s : State) (f : FlagSet) : (s.orFlags f).co.primary = s.co.primary := rfl
@[simp] theorem State.orFlags_co_owner (s : State) (f : FlagSet) : (s.orFlags f).co.owner = s.co.owner := rfl
@[simp] theorem State.orFlags_co_store (s : State) (f : FlagSet) : (s.orFlags f).co.store = s.co.store := rfl
@[simp] theorem State.orFlags_co_full (s : State) (f : FlagSet) : (s.orFlags f).co.full = s.co.full := rfl
@[simp] theorem State.orFlags_co_poison (s : State) (f : FlagSet) : (s.orFlags f).co.poison = s.co.poison := rfl
@[simp] theorem State.orFlags_co_waiters (s : State) (f : FlagSet) : (s.orFlags f).co.waiters = s.co.waiters := rfl
@[simp] theorem State.orFlags_co_descs (s : State) (f : FlagSet) : (s.orFlags f).co.descs = s.co.descs := rfl
@[simp] theorem State.orFlags_co_acc (s : State) (f : FlagSet) : (s.orFlags f).co.acc = s.co.acc := rfl
@[simp] theorem State.orFlags_co_wbuf (s : State) (f : FlagSet) : (s.orFlags f).co.wbuf = s.co.wbuf := rfl
@[simp] theorem State.orFlags_co_chans (s : State) (f : FlagSet) : (s.orFlags f).co.chans = s.co.chans := rfl
@[simp] theorem State.orFlags_co_chanBy (s : State) (f : FlagSet) : (s.orFlags f).co.chanBy = s.co.chanBy := rfl
@[simp] theorem State.orFlags_co_fillers (s : State) (f : FlagSet) : (s.orFlags f).co.fillers = s.co.fillers := rfl
@[simp] theorem State.orFlags_co_emptyAt (s : State) (f : FlagSet) : (s.orFlags f).co.emptyAt = s.co.emptyAt := rfl
@[simp] theorem State.orFlags_co_ring (s : State) (f : FlagSet) : (s.orFlags f).co.ring = s.co.ring := rfl
@[simp] theorem State.orFlags_co_held (s : State) (f : FlagSet) : (s.orFlags f).co.held = s.co.held := rfl
@[simp] theorem State.orFlags_co_ringNews (s : State) (f : FlagSet) : (s.orFlags f).co.ringNews = s.co.ringNews := rfl
@[simp] theorem State.orFlags_co_lfsr (s : State) (f : FlagSet) : (s.orFlags f).co.lfsr = s.co.lfsr := rfl
@[simp] theorem State.orFlags_co_actthr (s : State) (f : FlagSet) : (s.orFlags f).co.actthr = s.co.actthr := rfl
@[simp] theorem State.orFlags_co_recast (s : State) (f : FlagSet) : (s.orFlags f).co.recast = s.co.recast := rfl
@[simp] theorem State.orFlags_co_role (s : State) (f : FlagSet) : (s.orFlags f).co.role = s.co.role := rfl
@[simp] theorem State.orFlags_co_counters (s : State) (f : FlagSet) : (s.orFlags f).co.counters = s.co.counters := rfl
@[simp] theorem State.orFlags_co_cycBase (s : State) (f : FlagSet) : (s.orFlags f).co.cycBase = s.co.cycBase := rfl
@[simp] theorem State.orFlags_co_cycTick (s : State) (f : FlagSet) : (s.orFlags f).co.cycTick = s.co.cycTick := rfl
@[simp] theorem State.orFlags_co_cycle (s : State) (f : FlagSet) : (s.orFlags f).co.cycle = s.co.cycle := rfl
@[simp] theorem State.orFlags_co_stops (s : State) (f : FlagSet) : (s.orFlags f).co.stops = s.co.stops := rfl
@[simp] theorem State.orFlags_co_promoted (s : State) (f : FlagSet) : (s.orFlags f).co.promoted = s.co.promoted := rfl
@[simp] theorem State.orFlags_co_woken (s : State) (f : FlagSet) : (s.orFlags f).co.woken = s.co.woken := rfl
@[simp] theorem State.orFlags_co_started (s : State) (f : FlagSet) : (s.orFlags f).co.started = s.co.started := rfl
@[simp] theorem State.orFlags_co_lru (s : State) (f : FlagSet) : (s.orFlags f).co.lru = s.co.lru := rfl
@[simp] theorem State.orFlags_co_wbq (s : State) (f : FlagSet) : (s.orFlags f).co.wbq = s.co.wbq := rfl
@[simp] theorem State.orFlags_co_readySeq (s : State) (f : FlagSet) : (s.orFlags f).co.readySeq = s.co.readySeq := rfl
@[simp] theorem State.orFlags_co_ctxs (s : State) (f : FlagSet) : (s.orFlags f).co.ctxs = s.co.ctxs := rfl
@[simp] theorem State.orFlags_co_last (s : State) (f : FlagSet) : (s.orFlags f).co.last = s.co.last := rfl
@[simp] theorem State.orFlags_co_vop (s : State) (f : FlagSet) : (s.orFlags f).co.vop = s.co.vop := rfl
@[simp] theorem State.orFlags_co_mop (s : State) (f : FlagSet) : (s.orFlags f).co.mop = s.co.mop := rfl
@[simp] theorem State.orFlags_co_pumpq (s : State) (f : FlagSet) : (s.orFlags f).co.pumpq = s.co.pumpq := rfl
@[simp] theorem State.orFlags_co_fills (s : State) (f : FlagSet) : (s.orFlags f).co.fills = s.co.fills := rfl
@[simp] theorem State.orFlags_co_mmrs (s : State) (f : FlagSet) : (s.orFlags f).co.mmrs = s.co.mmrs := rfl
@[simp] theorem State.orFlags_co_mmrOuts (s : State) (f : FlagSet) : (s.orFlags f).co.mmrOuts = s.co.mmrOuts := rfl
@[simp] theorem State.orFlags_co_mmr (s : State) (f : FlagSet) : (s.orFlags f).co.mmr = s.co.mmr := rfl
@[simp] theorem State.orFlags_co_coll (s : State) (f : FlagSet) : (s.orFlags f).co.coll = s.co.coll := rfl
@[simp] theorem State.orFlags_co_corrBase (s : State) (f : FlagSet) : (s.orFlags f).co.corrBase = s.co.corrBase := rfl
@[simp] theorem State.orFlags_co_heldMsgs (s : State) (f : FlagSet) : (s.orFlags f).co.heldMsgs = s.co.heldMsgs := rfl
@[simp] theorem State.orFlags_co_grant (s : State) (f : FlagSet) : (s.orFlags f).co.grant = s.co.grant := rfl
@[simp] theorem State.orFlags_co_weightSum (s : State) (f : FlagSet) : (s.orFlags f).co.weightSum = s.co.weightSum := rfl
@[simp] theorem State.orFlags_co_ballast (s : State) (f : FlagSet) : (s.orFlags f).co.ballast = s.co.ballast := rfl
@[simp] theorem State.orFlags_co_balAcct (s : State) (f : FlagSet) : (s.orFlags f).co.balAcct = s.co.balAcct := rfl
@[simp] theorem State.orFlags_co_balSum (s : State) (f : FlagSet) : (s.orFlags f).co.balSum = s.co.balSum := rfl
@[simp] theorem State.orFlags_co_gramp (s : State) (f : FlagSet) : (s.orFlags f).co.gramp = s.co.gramp := rfl
@[simp] theorem State.orFlags_co_request (s : State) (f : FlagSet) : (s.orFlags f).co.request = s.co.request := rfl
@[simp] theorem State.orFlags_co_tlb (s : State) (f : FlagSet) : (s.orFlags f).co.tlb = s.co.tlb := rfl

@[simp] theorem State.localWrite_co_id (s : State) (o : Word) (sz v : Nat) : (s.localWrite o sz v).co.id = s.co.id := rfl
@[simp] theorem State.localWrite_co_launch (s : State) (o : Word) (sz v : Nat) : (s.localWrite o sz v).co.launch = s.co.launch := rfl
@[simp] theorem State.localWrite_co_primary (s : State) (o : Word) (sz v : Nat) : (s.localWrite o sz v).co.primary = s.co.primary := rfl
@[simp] theorem State.localWrite_co_owner (s : State) (o : Word) (sz v : Nat) : (s.localWrite o sz v).co.owner = s.co.owner := rfl
@[simp] theorem State.localWrite_co_full (s : State) (o : Word) (sz v : Nat) : (s.localWrite o sz v).co.full = s.co.full := rfl
@[simp] theorem State.localWrite_co_poison (s : State) (o : Word) (sz v : Nat) : (s.localWrite o sz v).co.poison = s.co.poison := rfl
@[simp] theorem State.localWrite_co_waiters (s : State) (o : Word) (sz v : Nat) : (s.localWrite o sz v).co.waiters = s.co.waiters := rfl
@[simp] theorem State.localWrite_co_descs (s : State) (o : Word) (sz v : Nat) : (s.localWrite o sz v).co.descs = s.co.descs := rfl
@[simp] theorem State.localWrite_co_acc (s : State) (o : Word) (sz v : Nat) : (s.localWrite o sz v).co.acc = s.co.acc := rfl
@[simp] theorem State.localWrite_co_wbuf (s : State) (o : Word) (sz v : Nat) : (s.localWrite o sz v).co.wbuf = s.co.wbuf := rfl
@[simp] theorem State.localWrite_co_chans (s : State) (o : Word) (sz v : Nat) : (s.localWrite o sz v).co.chans = s.co.chans := rfl
@[simp] theorem State.localWrite_co_chanBy (s : State) (o : Word) (sz v : Nat) : (s.localWrite o sz v).co.chanBy = s.co.chanBy := rfl
@[simp] theorem State.localWrite_co_fillers (s : State) (o : Word) (sz v : Nat) : (s.localWrite o sz v).co.fillers = s.co.fillers := rfl
@[simp] theorem State.localWrite_co_emptyAt (s : State) (o : Word) (sz v : Nat) : (s.localWrite o sz v).co.emptyAt = s.co.emptyAt := rfl
@[simp] theorem State.localWrite_co_ring (s : State) (o : Word) (sz v : Nat) : (s.localWrite o sz v).co.ring = s.co.ring := rfl
@[simp] theorem State.localWrite_co_held (s : State) (o : Word) (sz v : Nat) : (s.localWrite o sz v).co.held = s.co.held := rfl
@[simp] theorem State.localWrite_co_ringNews (s : State) (o : Word) (sz v : Nat) : (s.localWrite o sz v).co.ringNews = s.co.ringNews := rfl
@[simp] theorem State.localWrite_co_fflags (s : State) (o : Word) (sz v : Nat) : (s.localWrite o sz v).co.fflags = s.co.fflags := rfl
@[simp] theorem State.localWrite_co_lfsr (s : State) (o : Word) (sz v : Nat) : (s.localWrite o sz v).co.lfsr = s.co.lfsr := rfl
@[simp] theorem State.localWrite_co_actthr (s : State) (o : Word) (sz v : Nat) : (s.localWrite o sz v).co.actthr = s.co.actthr := rfl
@[simp] theorem State.localWrite_co_recast (s : State) (o : Word) (sz v : Nat) : (s.localWrite o sz v).co.recast = s.co.recast := rfl
@[simp] theorem State.localWrite_co_role (s : State) (o : Word) (sz v : Nat) : (s.localWrite o sz v).co.role = s.co.role := rfl
@[simp] theorem State.localWrite_co_counters (s : State) (o : Word) (sz v : Nat) : (s.localWrite o sz v).co.counters = s.co.counters := rfl
@[simp] theorem State.localWrite_co_cycBase (s : State) (o : Word) (sz v : Nat) : (s.localWrite o sz v).co.cycBase = s.co.cycBase := rfl
@[simp] theorem State.localWrite_co_cycTick (s : State) (o : Word) (sz v : Nat) : (s.localWrite o sz v).co.cycTick = s.co.cycTick := rfl
@[simp] theorem State.localWrite_co_cycle (s : State) (o : Word) (sz v : Nat) : (s.localWrite o sz v).co.cycle = s.co.cycle := rfl
@[simp] theorem State.localWrite_co_stops (s : State) (o : Word) (sz v : Nat) : (s.localWrite o sz v).co.stops = s.co.stops := rfl
@[simp] theorem State.localWrite_co_promoted (s : State) (o : Word) (sz v : Nat) : (s.localWrite o sz v).co.promoted = s.co.promoted := rfl
@[simp] theorem State.localWrite_co_woken (s : State) (o : Word) (sz v : Nat) : (s.localWrite o sz v).co.woken = s.co.woken := rfl
@[simp] theorem State.localWrite_co_started (s : State) (o : Word) (sz v : Nat) : (s.localWrite o sz v).co.started = s.co.started := rfl
@[simp] theorem State.localWrite_co_lru (s : State) (o : Word) (sz v : Nat) : (s.localWrite o sz v).co.lru = s.co.lru := rfl
@[simp] theorem State.localWrite_co_wbq (s : State) (o : Word) (sz v : Nat) : (s.localWrite o sz v).co.wbq = s.co.wbq := rfl
@[simp] theorem State.localWrite_co_readySeq (s : State) (o : Word) (sz v : Nat) : (s.localWrite o sz v).co.readySeq = s.co.readySeq := rfl
@[simp] theorem State.localWrite_co_ctxs (s : State) (o : Word) (sz v : Nat) : (s.localWrite o sz v).co.ctxs = s.co.ctxs := rfl
@[simp] theorem State.localWrite_co_last (s : State) (o : Word) (sz v : Nat) : (s.localWrite o sz v).co.last = s.co.last := rfl
@[simp] theorem State.localWrite_co_vop (s : State) (o : Word) (sz v : Nat) : (s.localWrite o sz v).co.vop = s.co.vop := rfl
@[simp] theorem State.localWrite_co_mop (s : State) (o : Word) (sz v : Nat) : (s.localWrite o sz v).co.mop = s.co.mop := rfl
@[simp] theorem State.localWrite_co_pumpq (s : State) (o : Word) (sz v : Nat) : (s.localWrite o sz v).co.pumpq = s.co.pumpq := rfl
@[simp] theorem State.localWrite_co_fills (s : State) (o : Word) (sz v : Nat) : (s.localWrite o sz v).co.fills = s.co.fills := rfl
@[simp] theorem State.localWrite_co_mmrs (s : State) (o : Word) (sz v : Nat) : (s.localWrite o sz v).co.mmrs = s.co.mmrs := rfl
@[simp] theorem State.localWrite_co_mmrOuts (s : State) (o : Word) (sz v : Nat) : (s.localWrite o sz v).co.mmrOuts = s.co.mmrOuts := rfl
@[simp] theorem State.localWrite_co_mmr (s : State) (o : Word) (sz v : Nat) : (s.localWrite o sz v).co.mmr = s.co.mmr := rfl
@[simp] theorem State.localWrite_co_coll (s : State) (o : Word) (sz v : Nat) : (s.localWrite o sz v).co.coll = s.co.coll := rfl
@[simp] theorem State.localWrite_co_corrBase (s : State) (o : Word) (sz v : Nat) : (s.localWrite o sz v).co.corrBase = s.co.corrBase := rfl
@[simp] theorem State.localWrite_co_heldMsgs (s : State) (o : Word) (sz v : Nat) : (s.localWrite o sz v).co.heldMsgs = s.co.heldMsgs := rfl
@[simp] theorem State.localWrite_co_grant (s : State) (o : Word) (sz v : Nat) : (s.localWrite o sz v).co.grant = s.co.grant := rfl
@[simp] theorem State.localWrite_co_weightSum (s : State) (o : Word) (sz v : Nat) : (s.localWrite o sz v).co.weightSum = s.co.weightSum := rfl
@[simp] theorem State.localWrite_co_ballast (s : State) (o : Word) (sz v : Nat) : (s.localWrite o sz v).co.ballast = s.co.ballast := rfl
@[simp] theorem State.localWrite_co_balAcct (s : State) (o : Word) (sz v : Nat) : (s.localWrite o sz v).co.balAcct = s.co.balAcct := rfl
@[simp] theorem State.localWrite_co_balSum (s : State) (o : Word) (sz v : Nat) : (s.localWrite o sz v).co.balSum = s.co.balSum := rfl
@[simp] theorem State.localWrite_co_gramp (s : State) (o : Word) (sz v : Nat) : (s.localWrite o sz v).co.gramp = s.co.gramp := rfl
@[simp] theorem State.localWrite_co_request (s : State) (o : Word) (sz v : Nat) : (s.localWrite o sz v).co.request = s.co.request := rfl
@[simp] theorem State.localWrite_co_tlb (s : State) (o : Word) (sz v : Nat) : (s.localWrite o sz v).co.tlb = s.co.tlb := rfl

@[simp] theorem Ctx.put_pc (c : Ctx) (n : Reg) (v : W128) (t : Bool) : (c.put n v t).pc = c.pc := by
  unfold Ctx.put; split <;> rfl
@[simp] theorem Ctx.put_region (c : Ctx) (n : Reg) (v : W128) (t : Bool) : (c.put n v t).region = c.region := by
  unfold Ctx.put; split <;> rfl
@[simp] theorem Ctx.put_epc (c : Ctx) (n : Reg) (v : W128) (t : Bool) : (c.put n v t).epc = c.epc := by
  unfold Ctx.put; split <;> rfl
@[simp] theorem Ctx.put_tval (c : Ctx) (n : Reg) (v : W128) (t : Bool) : (c.put n v t).tval = c.tval := by
  unfold Ctx.put; split <;> rfl
@[simp] theorem Ctx.put_cause (c : Ctx) (n : Reg) (v : W128) (t : Bool) : (c.put n v t).cause = c.cause := by
  unfold Ctx.put; split <;> rfl
@[simp] theorem Ctx.put_ctrlatch (c : Ctx) (n : Reg) (v : W128) (t : Bool) : (c.put n v t).ctrlatch = c.ctrlatch := by
  unfold Ctx.put; split <;> rfl
@[simp] theorem Ctx.put_wbase (c : Ctx) (n : Reg) (v : W128) (t : Bool) : (c.put n v t).wbase = c.wbase := by
  unfold Ctx.put; split <;> rfl
@[simp] theorem Ctx.put_wsize (c : Ctx) (n : Reg) (v : W128) (t : Bool) : (c.put n v t).wsize = c.wsize := by
  unfold Ctx.put; split <;> rfl
@[simp] theorem Ctx.put_status (c : Ctx) (n : Reg) (v : W128) (t : Bool) : (c.put n v t).status = c.status := by
  unfold Ctx.put; split <;> rfl
@[simp] theorem Ctx.put_slot (c : Ctx) (n : Reg) (v : W128) (t : Bool) : (c.put n v t).slot = c.slot := by
  unfold Ctx.put; split <;> rfl
@[simp] theorem Ctx.put_waitk (c : Ctx) (n : Reg) (v : W128) (t : Bool) : (c.put n v t).waitk = c.waitk := by
  unfold Ctx.put; split <;> rfl
@[simp] theorem Ctx.put_helper (c : Ctx) (n : Reg) (v : W128) (t : Bool) : (c.put n v t).helper = c.helper := by
  unfold Ctx.put; split <;> rfl
@[simp] theorem Ctx.put_pinned (c : Ctx) (n : Reg) (v : W128) (t : Bool) : (c.put n v t).pinned = c.pinned := by
  unfold Ctx.put; split <;> rfl
@[simp] theorem Ctx.put_intrap (c : Ctx) (n : Reg) (v : W128) (t : Bool) : (c.put n v t).intrap = c.intrap := by
  unfold Ctx.put; split <;> rfl
@[simp] theorem Ctx.put_hid (c : Ctx) (n : Reg) (v : W128) (t : Bool) : (c.put n v t).hid = c.hid := by
  unfold Ctx.put; split <;> rfl
@[simp] theorem Ctx.put_seals (c : Ctx) (n : Reg) (v : W128) (t : Bool) : (c.put n v t).seals = c.seals := by
  unfold Ctx.put; split <;> rfl
@[simp] theorem Ctx.put_tvec (c : Ctx) (n : Reg) (v : W128) (t : Bool) : (c.put n v t).tvec = c.tvec := by
  unfold Ctx.put; split <;> rfl
@[simp] theorem Ctx.put_ready (c : Ctx) (n : Reg) (v : W128) (t : Bool) : (c.put n v t).ready = c.ready := by
  unfold Ctx.put; split <;> rfl
@[simp] theorem Ctx.put_act (c : Ctx) (n : Reg) (v : W128) (t : Bool) : (c.put n v t).act = c.act := by
  unfold Ctx.put; split <;> rfl
@[simp] theorem Ctx.put_run (c : Ctx) (n : Reg) (v : W128) (t : Bool) : (c.put n v t).run = c.run := by
  unfold Ctx.put; split <;> rfl
@[simp] theorem Ctx.put_exitTick (c : Ctx) (n : Reg) (v : W128) (t : Bool) : (c.put n v t).exitTick = c.exitTick := by
  unfold Ctx.put; split <;> rfl
@[simp] theorem Ctx.put_saved (c : Ctx) (n : Reg) (v : W128) (t : Bool) : (c.put n v t).saved = c.saved := by
  unfold Ctx.put; split <;> rfl
@[simp] theorem Ctx.put_wait (c : Ctx) (n : Reg) (v : W128) (t : Bool) : (c.put n v t).wait = c.wait := by
  unfold Ctx.put; split <;> rfl
@[simp] theorem Ctx.put_waitSince (c : Ctx) (n : Reg) (v : W128) (t : Bool) : (c.put n v t).waitSince = c.waitSince := by
  unfold Ctx.put; split <;> rfl
@[simp] theorem Ctx.put_view (c : Ctx) (n : Reg) (v : W128) (t : Bool) : (c.put n v t).view = c.view := by
  unfold Ctx.put; split <;> rfl
@[simp] theorem Ctx.put_snap (c : Ctx) (n : Reg) (v : W128) (t : Bool) : (c.put n v t).snap = c.snap := by
  unfold Ctx.put; split <;> rfl
@[simp] theorem Ctx.put_born (c : Ctx) (n : Reg) (v : W128) (t : Bool) : (c.put n v t).born = c.born := by
  unfold Ctx.put; split <;> rfl
@[simp] theorem Ctx.put_seen (c : Ctx) (n : Reg) (v : W128) (t : Bool) : (c.put n v t).seen = c.seen := by
  unfold Ctx.put; split <;> rfl
@[simp] theorem Ctx.put_hb (c : Ctx) (n : Reg) (v : W128) (t : Bool) : (c.put n v t).hb = c.hb := by
  unfold Ctx.put; split <;> rfl
@[simp] theorem Ctx.put_floors (c : Ctx) (n : Reg) (v : W128) (t : Bool) : (c.put n v t).floors = c.floors := by
  unfold Ctx.put; split <;> rfl
@[simp] theorem Ctx.put_retired (c : Ctx) (n : Reg) (v : W128) (t : Bool) : (c.put n v t).retired = c.retired := by
  unfold Ctx.put; split <;> rfl
@[simp] theorem Ctx.put_awaitFetch (c : Ctx) (n : Reg) (v : W128) (t : Bool) : (c.put n v t).awaitFetch = c.awaitFetch := by
  unfold Ctx.put; split <;> rfl
@[simp] theorem Ctx.put_lines (c : Ctx) (n : Reg) (v : W128) (t : Bool) : (c.put n v t).lines = c.lines := by
  unfold Ctx.put; split <;> rfl
@[simp] theorem Ctx.put_lineReq (c : Ctx) (n : Reg) (v : W128) (t : Bool) : (c.put n v t).lineReq = c.lineReq := by
  unfold Ctx.put; split <;> rfl
@[simp] theorem Ctx.put_lineUse (c : Ctx) (n : Reg) (v : W128) (t : Bool) : (c.put n v t).lineUse = c.lineUse := by
  unfold Ctx.put; split <;> rfl
@[simp] theorem Ctx.put_age (c : Ctx) (n : Reg) (v : W128) (t : Bool) : (c.put n v t).age = c.age := by
  unfold Ctx.put; split <;> rfl
@[simp] theorem Ctx.put_readyNo (c : Ctx) (n : Reg) (v : W128) (t : Bool) : (c.put n v t).readyNo = c.readyNo := by
  unfold Ctx.put; split <;> rfl
@[simp] theorem Ctx.put_badLine (c : Ctx) (n : Reg) (v : W128) (t : Bool) : (c.put n v t).badLine = c.badLine := by
  unfold Ctx.put; split <;> rfl
@[simp] theorem Ctx.put_loadLine (c : Ctx) (n : Reg) (v : W128) (t : Bool) : (c.put n v t).loadLine = c.loadLine := by
  unfold Ctx.put; split <;> rfl
@[simp] theorem Ctx.put_erred (c : Ctx) (n : Reg) (v : W128) (t : Bool) : (c.put n v t).erred = c.erred := by
  unfold Ctx.put; split <;> rfl
@[simp] theorem Ctx.put_fpc (c : Ctx) (n : Reg) (v : W128) (t : Bool) : (c.put n v t).fpc = c.fpc := by
  unfold Ctx.put; split <;> rfl
@[simp] theorem Ctx.put_afterCtrl (c : Ctx) (n : Reg) (v : W128) (t : Bool) : (c.put n v t).afterCtrl = c.afterCtrl := by
  unfold Ctx.put; split <;> rfl
@[simp] theorem Ctx.put_sent (c : Ctx) (n : Reg) (v : W128) (t : Bool) : (c.put n v t).sent = c.sent := by
  unfold Ctx.put; split <;> rfl
@[simp] theorem Ctx.put_hashes (c : Ctx) (n : Reg) (v : W128) (t : Bool) : (c.put n v t).hashes = c.hashes := by
  unfold Ctx.put; split <;> rfl
@[simp] theorem Ctx.put_restarted (c : Ctx) (n : Reg) (v : W128) (t : Bool) : (c.put n v t).restarted = c.restarted := by
  unfold Ctx.put; split <;> rfl
@[simp] theorem Ctx.put_agreed (c : Ctx) (n : Reg) (v : W128) (t : Bool) : (c.put n v t).agreed = c.agreed := by
  unfold Ctx.put; split <;> rfl
@[simp] theorem Ctx.put_dropped (c : Ctx) (n : Reg) (v : W128) (t : Bool) : (c.put n v t).dropped = c.dropped := by
  unfold Ctx.put; split <;> rfl
@[simp] theorem Ctx.put_redo (c : Ctx) (n : Reg) (v : W128) (t : Bool) : (c.put n v t).redo = c.redo := by
  unfold Ctx.put; split <;> rfl
@[simp] theorem Ctx.put_rewind (c : Ctx) (n : Reg) (v : W128) (t : Bool) : (c.put n v t).rewind = c.rewind := by
  unfold Ctx.put; split <;> rfl
@[simp] theorem Ctx.put_fresh (c : Ctx) (n : Reg) (v : W128) (t : Bool) : (c.put n v t).fresh = c.fresh := by
  unfold Ctx.put; split <;> rfl
@[simp] theorem Ctx.put_npc (c : Ctx) (n : Reg) (v : W128) (t : Bool) : (c.put n v t).npc = c.npc := by
  unfold Ctx.put; split <;> rfl
@[simp] theorem Ctx.put_recNo (c : Ctx) (n : Reg) (v : W128) (t : Bool) : (c.put n v t).recNo = c.recNo := by
  unfold Ctx.put; split <;> rfl
@[simp] theorem Ctx.put_loads (c : Ctx) (n : Reg) (v : W128) (t : Bool) : (c.put n v t).loads = c.loads := by
  unfold Ctx.put; split <;> rfl
@[simp] theorem Ctx.put_loads0 (c : Ctx) (n : Reg) (v : W128) (t : Bool) : (c.put n v t).loads0 = c.loads0 := by
  unfold Ctx.put; split <;> rfl
@[simp] theorem Ctx.put_spur (c : Ctx) (n : Reg) (v : W128) (t : Bool) : (c.put n v t).spur = c.spur := by
  unfold Ctx.put; split <;> rfl
@[simp] theorem Ctx.put_pend (c : Ctx) (n : Reg) (v : W128) (t : Bool) : (c.put n v t).pend = c.pend := by
  unfold Ctx.put; split <;> rfl

@[simp] theorem State.setCap_cx (s : State) (n : Reg) (v : W128) (t : Bool) : (s.setCap n v t).cx = s.cx.put n v t := rfl
@[simp] theorem State.setPc_cx_pc (s : State) (v : Word) : (s.setPc v).cx.pc = v := rfl
@[simp] theorem State.issue_cx_run (s : State) : s.issue.cx.run = if s.cx.fresh then BitVec.ofNat 64 s.tick else s.cx.run := rfl
@[simp] theorem State.issue_cx_fresh (s : State) : s.issue.cx.fresh = false := rfl
@[simp] theorem State.issue_cx_retired (s : State) : s.issue.cx.retired = s.cx.retired + 1 := rfl
@[simp] theorem State.issue_cx_afterCtrl (s : State) : s.issue.cx.afterCtrl = false := rfl
@[simp] theorem State.issue_cx_agreed (s : State) : s.issue.cx.agreed = false := rfl
@[simp] theorem State.issue_cx_dropped (s : State) : s.issue.cx.dropped = false := rfl
@[simp] theorem State.issue_co_weightSum (s : State) : s.issue.co.weightSum = s.co.weightSum + 300 := rfl
@[simp] theorem State.orFlags_co_fflags (s : State) (f : FlagSet) : (s.orFlags f).co.fflags = s.co.fflags ||| f := rfl

/-- The counters after an event has been counted. -/
@[simp] theorem State.count_counter (s : State) (ev : CtrEvent) (e : Nat) :
    Tab.get 0 (s.count ev).co.counters e =
      if e = eventCode ev then Tab.get 0 s.co.counters e + 1 else Tab.get 0 s.co.counters e := by
  simp only [State.count, Tab.get_set]
  split
  · rename_i h; rw [h]
  · rfl

/-- The counters after an issue (R334). -/
@[simp] theorem State.issue_counter (s : State) (e : Nat) :
    Tab.get 0 s.issue.co.counters e =
      if e = eventCode (issuedEvent s.cx.slot) then Tab.get 0 s.co.counters e + 1 else Tab.get 0 s.co.counters e :=
  State.count_counter s _ e

/-- What a register write can do: register `n` holds the value unless it is g0, every other register stays. -/
@[simp] theorem Ctx.reg_put (c : Ctx) (n k : Reg) (v : W128) (t : Bool) :
    (c.put n v t).reg k = if k = n then (if k = 0 then 0 else v) else c.reg k := by
  unfold Ctx.reg Ctx.put
  by_cases hk : k = 0
  · subst hk; simp
  · by_cases hn : n = 0
    · subst hn; simp [hk]
    · simp only [hn, hk, if_false]
      by_cases h : k = n
      · subst h; rw [if_pos rfl]; exact Vector.getElem_set_self k.isLt
      · have : n.val ≠ k.val := fun e => h (Fin.ext e.symm)
        simp only [h, if_false]
        exact Vector.getElem_set_ne n.isLt k.isLt this

/-- The tags after a register write. -/
@[simp] theorem Ctx.tag_put (c : Ctx) (n k : Reg) (v : W128) (t : Bool) :
    (c.put n v t).tag k = if k = n then (if k = 0 then false else t) else c.tag k := by
  unfold Ctx.tag Ctx.put
  by_cases hk : k = 0
  · subst hk; simp
  · by_cases hn : n = 0
    · subst hn; simp [hk]
    · have hlt : k.val < 32 := k.isLt
      simp only [hk, hn, if_false]
      have e1 : ∀ m : Nat, m < 32 → ((1 : BitVec 32) <<< m).getLsbD k.val = decide (k.val = m) := by
        intro m hm
        simp only [BitVec.getLsbD_shiftLeft, hlt, decide_true, Bool.true_and]
        by_cases e : k.val = m
        · simp [e]
        · by_cases h3 : k.val < m
          · simp [h3, e]
          · have : ¬ k.val - m = 0 := by omega
            simp [e, this]
      by_cases h : k = n
      · subst h; cases t <;> simp [-BitVec.getLsbD_eq_getElem]
      · have h' : ¬ k.val = n.val := fun e => h (Fin.ext e)
        cases t
        · simp only [Bool.false_eq_true, if_false, BitVec.getLsbD_and, BitVec.getLsbD_not, hlt, e1 n.val n.isLt, h, h',
            decide_true, decide_false, Bool.not_false, Bool.and_true]
        · simp only [if_true, BitVec.getLsbD_or, e1 n.val n.isLt, h, h', decide_false, Bool.or_false, if_false]

/-- g0 reads as zero with a clear tag (R12). -/
@[simp] theorem Ctx.reg_zero (c : Ctx) : c.reg 0 = 0 := rfl
@[simp] theorem Ctx.tag_zero (c : Ctx) : c.tag 0 = false := rfl

end Sys2Proof.Machine
end

