-- ==== Sys2Proof/Laws/Ops.lean ====
section
/-! SUPPORT. What each shared way of ending an instruction does, said once: writing a register, going on, jumping, waiting and trapping. -/

namespace Sys2Proof.Laws

open Sys2Proof Sys2Proof.Machine Sys2Proof.Claim

/-- An answered next state of which a property holds. -/
theorem next_of {t : State} {P : State → Prop} (h : P t) : Next (.next t) P := ⟨t, rfl, h⟩

/-- A retirement with one register written. -/
theorem retire_writesReg (s : State) (len : Nat) (d : Reg) (v : W128) (t : Bool) :
    writesReg s ((s.setCap d v t).retire len) len d v t 0 := by
  refine ⟨⟨?_, ?_, ⟨?_, ?_, ?_, rfl, ?_⟩, ?_, ?_, ?_⟩, ?_, ?_⟩
  · simp [State.retire]
  · simp [State.retire]
  · intro e; simp only [State.retire]; exact State.issue_counter _ _ |>.trans (by simp)
  · simp [State.retire]
  · simp [State.retire]
  · simp [State.retire]
  · simp only [contextKept, State.retire, State.setPc, State.issue, State.count, State.setCap, Ctx.put]; split <;> rfl
  · simp only [coreKept, State.retire, State.setPc, State.issue, State.count, State.setCap]
  · simp only [elsewhereKept, State.retire, State.setPc, State.issue, State.count, State.setCap]
  · intro n; simp only [State.g, State.gtag, State.retire]
    exact ⟨Ctx.reg_put _ _ _ _ _, Ctx.tag_put _ _ _ _ _⟩
  · exact ⟨fun _ => rfl, fun _ => rfl, fun _ => rfl, rfl, fun _ _ => ⟨rfl, rfl⟩⟩

/-- A 64-bit result (R194). -/
theorem result_writesReg (s : State) (len : Nat) (d : Reg) (v : Word) :
    writesReg s (s.result len d v) len d (intBits v) false 0 := retire_writesReg s len d _ _

/-- A retirement that goes to an address. -/
theorem jump_writesNothing (s : State) (v : Word) : writesNothing s (s.jump v) v := by
  refine ⟨⟨?_, ?_, ⟨?_, ?_, ?_, rfl, ?_⟩, ?_, ?_, ?_⟩, ?_, ?_⟩
  · simp [State.jump]
  · simp [State.jump]
  · intro e; simp only [State.jump]; exact State.issue_counter _ _ |>.trans (by simp)
  · simp [State.jump]
  · simp [State.jump]
  · simp [State.jump]
  · simp only [contextKept, State.jump, State.setPc, State.issue, State.count]
  · simp only [coreKept, State.jump, State.setPc, State.issue, State.count]
  · simp only [elsewhereKept, State.jump, State.setPc, State.issue, State.count]
  · intro n; exact ⟨rfl, rfl⟩
  · exact ⟨fun _ => rfl, fun _ => rfl, fun _ => rfl, rfl, fun _ _ => ⟨rfl, rfl⟩⟩

/-- A retirement that writes nothing. -/
theorem retire_writesNothing (s : State) (len : Nat) : writesNothing s (s.retire len) (s.cx.pc + BitVec.ofNat 64 len) :=
  jump_writesNothing s _

/-- An issued instruction that waits. -/
theorem waitOn_waits (s : State) (k : BitVec 4) (op : WaitOp) (len : Nat) : waits s (s.waitOn k op len) k len := by
  refine ⟨⟨fun e => ?_, rfl, rfl, rfl, rfl⟩, fun n => ⟨rfl, rfl⟩, rfl, rfl, rfl, rfl, rfl, rfl⟩
  exact State.issue_counter _ _

/-- A synchronous trap (R321, R324). -/
theorem trap_traps (s : State) (c : BitVec 16) (v : Word) : traps s (s.trap c v) c v := by
  let u : State := { s with cx.agreed := false, cx.dropped := false }
  by_cases h : s.cx.helper = true
  · have e : s.trap c v = u.park 0 c v s.cx.pc s.cx.pc := if_pos h
    rw [traps, if_pos h, e]
    refine ⟨rfl, ?_, rfl, faultRec u.cx s.tick 0 c v s.cx.pc s.cx.pc, rfl, rfl, rfl, rfl, rfl, rfl, rfl, rfl, rfl, ?_⟩
    · simp only [ringOnly, State.park, Core.pushFault]; split <;> rfl
    · simp only [State.park, Core.pushFault]
      by_cases hl : s.co.ring.length < 64
      · simp [u, hl, faultRec]
      · have : ∀ r l, r ∈ insHeld r l := by
          intro r l; induction l with
          | nil => simp [insHeld]
          | cons x t ih => unfold insHeld; split <;> simp [ih]
        simpa [u, hl, faultRec] using this _ _
  · have e : s.trap c v = u.takeTrap c v s.cx.pc := if_neg h
    rw [traps, if_neg h, e, State.takeTrap]
    by_cases h1 : s.cx.intrap = false ∧ s.cx.tvec ≠ 0
    · have g : u.cx.trapped c v s.cx.pc = some { u.cx with
          epc := s.cx.pc, cause := c, tval := v, intrap := true, pc := s.cx.tvec } :=
        if_neg (by rintro (hi | ht); exacts [by simp [u, h1.1] at hi, h1.2 ht])
      rw [if_pos h1, g]
    · have g : u.cx.trapped c v s.cx.pc = none := by
        refine if_pos ?_
        by_cases hi : s.cx.intrap = true
        · exact Or.inl hi
        · exact Or.inr (by by_contra ht; exact h1 ⟨by simpa using hi, ht⟩)
      rw [if_neg h1, g]; rfl

end Sys2Proof.Laws
end

