-- ==== Sys2Proof/Tests/Slice0.lean ====
section
/-! SUPPORT. Tests: ill-formed instructions, words written out from the encodings, single steps computed by hand from
the rules, and for every statement states and operands that meet its hypotheses. -/

namespace Sys2Proof.Tests

open Sys2Proof Sys2Proof.Machine Sys2Proof.Claim

set_option maxRecDepth 100000
set_option exponentiation.threshold 2048

/-- Every word decodes to its instruction. -/
def decodes (l : List (Nat × Nat × Instr)) : Bool := l.all (fun p => decodeTableWord p.1 p.2.1 == some p.2.2)

/-- The answer is a next state of which the test holds. -/
def res (r : Res) (f : State → Bool) : Bool :=
  match r with
  | .next t => f t
  | _ => false

/-- One launch on core 0 whose context has a NOP at its PC. -/
def base : State := State.reset.withFetchWord 32 0x64

/-- A capability over [b, t) with every permission, its cursor at `cur`. -/
def dataCap (b t cur : Nat) : W128 := mkCap 0 0xFFF 0 b t cur

/-- `s` with register `n` holding `v` with the tag. -/
def put (s : State) (n : Reg) (v : W128) (tag : Bool := false) : State :=
  { s with cx.regs := s.cx.regs.set n v, cx.tags := if tag then s.cx.tags ||| (1#32 <<< n.val) else s.cx.tags }

/-- `base` with a data page at 0x10000, a capability over it in g4 and small integers in g5 to g8. -/
def rich : State :=
  let s := put (put (put (put (put base 4 (dataCap 0x10000 0x20000 0x10000) true) 5 3) 6 5) 7 1) 8 0
  { s with spaces := s.spaces.map (fun p => { p with pages := ⟨0x10000, false, .data, 0⟩ :: p.pages }) }

/-- `rich` in a helper. -/
def helper : State := { rich with cx.helper := true, cx.hid := 1 }

/-! ## Ill-formed instructions

One for each check of R173 to R187, beside its well-formed neighbour. -/

/-- The first is refused, the second is not. -/
def refusesNot (bad good : Instr) : Bool := !bad.wf && good.wf

/-- Widths and positions (R203). -/
theorem test_wf_fields : refusesNot (.sext 1 2 0) (.sext 1 2 1) && refusesNot (.zext 1 2 65) (.zext 1 2 64) &&
    refusesNot (.bfx 1 2 1 63) (.bfx 1 2 1 62) && refusesNot (.bfi 1 2 63 1) (.bfi 1 2 63 0) = true := by decide

/-- LOOP of g0, conditions and roundings that a form does not take, a register that MTS does not write (R173, R182, R210, R224, R333). -/
theorem test_wf_values : refusesNot (.loop 0 5) (.loop 31 5) && refusesNot (.fcmp .s .ltn 0 1 2 3) (.fcmp .s .le 0 1 2 3) &&
    refusesNot (.fcmp .d .len 0 1 2 3) (.fcmp .d .ne 0 1 2 3) && refusesNot (.fadd .sr .s 1 2 3) (.fadd .rtp .s 1 2 3) &&
    refusesNot (.fcvtToInt .sr .s .i32 1 2) (.fcvtToInt .rne .s .i32 1 2) && refusesNot (.mts .pc 1) (.mts .epc 1) = true := by decide

/-- Fields of a W2 instruction with rounding and overflow. -/
def fieldsOf (fmt : BitVec 4) (minor : BitVec 7) (ovf rnd : BitVec 2) (cnd : BitVec 3) : W2 :=
  { minor := minor, ovf := ovf, rnd := rnd, cnd := cnd, ga := 0, gd := 0, x2 := 0, fmt := fmt, acc := 0, dc := 0, db := 0, da := 0, dd := 0 }

/-- Formats, minors, roundings, conditions and descriptors that a W2 form does not take (R171 to R178, R184). -/
theorem test_wf_w2 : refusesNot (.vadd (fieldsOf 15 0 0 0 0)) (.vadd (fieldsOf 1 0 0 0 0)) &&
    refusesNot (.vadd (fieldsOf 1 2 0 0 0)) (.vadd (fieldsOf 1 1 0 0 0)) && refusesNot (.vadd (fieldsOf 1 0 0 3 0)) (.vadd (fieldsOf 1 0 0 2 0)) &&
    refusesNot (.vcmp (fieldsOf 1 0 0 0 6)) (.vcmp (fieldsOf 1 0 0 0 0)) && refusesNot (.vrcp (fieldsOf 7 0 0 0 0)) (.vrcp (fieldsOf 1 0 0 0 0)) = true := by
  decide

/-- Steps of the module have no words. -/
theorem test_wf_module_steps : (Instr.powerLoss).wf = false ∧ (Instr.slotVisit 0 0).wf = false := by decide

/-- Words that the decoder refuses by name: length bits, major, minor, value. -/
theorem test_decode_refuses : decodeWords 3 0 0 = .error .length ∧ decodeWords 0xFC 0 0 = .error .major ∧
    decodeWords (0x64 + 2 ^ 23 * 9) 0 0 = .error .minor ∧ decodeWords 0x0000A428 0 0 = .error .reserved := by decide

/-- Words written out from the encodings of R170 to R186: INTR. -/
theorem test_words_intr_0 : decodes [
  (32, 0x18A404, .add 4 5 6),
  (32, 0x98A404, .sub 4 5 6),
  (32, 0x118A404, .mul 4 5 6),
  (32, 0x198A404, .mulh 4 5 6),
  (32, 0x218A404, .mulhn 4 5 6),
  (32, 0x298A404, .div 4 5 6),
  (32, 0x318A404, .divn 4 5 6),
  (32, 0x398A404, .rem 4 5 6),
  (32, 0x418A404, .remn 4 5 6),
  (32, 0x498A404, .and 4 5 6),
  (32, 0x518A404, .or 4 5 6),
  (32, 0x598A404, .xor 4 5 6),
  (32, 0x618A404, .andn 4 5 6),
  (32, 0x698A404, .shl 4 5 6),
  (32, 0x718A404, .shr 4 5 6),
  (32, 0x798A404, .sar 4 5 6),
  (32, 0x818A404, .rol 4 5 6),
  (32, 0x898A404, .min 4 5 6),
  (32, 0x918A404, .max 4 5 6),
  (32, 0x998A404, .minn 4 5 6),
  (32, 0xA18A404, .maxn 4 5 6),
  (32, 0xA80A404, .clz 4 5),
  (32, 0xB00A404, .ctz 4 5),
  (32, 0xB80A404, .popc 4 5)] = true := by decide

/-- Words written out from the encodings of R170 to R186: INTR. -/
theorem test_words_intr_1 : decodes [
  (32, 0xC00A404, .abs 4 5),
  (32, 0xC80A404, .mov 4 5)] = true := by decide

/-- Words written out from the encodings of R170 to R186: comparison and selection. -/
theorem test_words_comparison_and_selection_0 : decodes [
  (32, 0x1A18A408, .cmp .lt 3 4 5 6),
  (32, 0x4998A40C, .sel 9 3 4 5 6)] = true := by decide

/-- Words written out from the encodings of R170 to R186: immediates. -/
theorem test_words_immediates_0 : decodes [
  (32, 0xFFF0A410, .addi 4 5 0x3FFC),
  (32, 0xFFF0A414, .andi 4 5 0x3FFC),
  (32, 0xFFF0A418, .ori 4 5 0x3FFC),
  (32, 0xFFF0A41C, .xori 4 5 0x3FFC),
  (96, 0xFFFF1234000000000000A40A, .addiW3 4 5 0xFFFF1234),
  (96, 0xFFFF1234000000000000A40E, .andiW3 4 5 0xFFFF1234),
  (96, 0xFFFF1234000000000000A412, .oriW3 4 5 0xFFFF1234),
  (96, 0xFFFF1234000000000000A416, .xoriW3 4 5 0xFFFF1234),
  (32, 0xFFF00420, .li 4 0x3FFC),
  (96, 0xFFFF12340000000002000406, .liW3 true 4 0xFFFF1234),
  (32, 0x1C0424, .lk 4 7),
  (32, 0x80A428, .sext 4 5 32),
  (32, 0x80A42C, .zext 4 5 32),
  (32, 0xF20A430, .bfx 4 5 8 15),
  (32, 0xF20A434, .bfi 4 5 8 15)] = true := by decide

/-- Words written out from the encodings of R170 to R186: FOP. -/
theorem test_words_fop_0 : decodes [
  (32, 0x6018A438, .fadd .rtz .d 4 5 6),
  (32, 0x6098A438, .fsub .rtz .d 4 5 6),
  (32, 0x6118A438, .fmul .rtz .d 4 5 6),
  (32, 0x6198A438, .fma .rtz .d 4 5 6),
  (32, 0x2218A438, .fmin .d 4 5 6),
  (32, 0x2298A438, .fmax .d 4 5 6),
  (32, 0x2300A438, .fabs .d 4 5),
  (32, 0x2380A438, .fneg .d 4 5),
  (32, 0x2400A438, .fcls .d 4 5),
  (32, 0x2480A438, .frcp .d 4 5),
  (32, 0x2500A438, .frsq .d 4 5),
  (32, 0x6580A438, .fnr .rtz .d 4 5),
  (32, 0x6600A438, .fnrs .rtz .d 4 5),
  (32, 0x6980A438, .fcvtToInt .rtz .d .n64 4 5),
  (32, 0x6B80A438, .fcvtFromInt .rtz .d .n64 4 5),
  (32, 0xC00A438, .fcvtSTod 4 5),
  (32, 0x6C00A438, .fcvtDTos .rtz 4 5),
  (32, 0x7180A438, .fcvtWrapToInt .rtz .d .n64 4 5),
  (32, 0x1A98A43C, .fcmp .d .lt 3 4 5 6)] = true := by decide

/-- Words written out from the encodings of R170 to R186: capabilities. -/
theorem test_words_capabilities_0 : decodes [
  (32, 0xA440, .cgb 4 5),
  (32, 0x80A440, .cgl 4 5),
  (32, 0x100A440, .cgp 4 5),
  (32, 0x180A440, .cga 4 5),
  (32, 0x218A440, .csa 4 5 6),
  (32, 0x298A440, .cinc 4 5 6),
  (32, 0x318A440, .csb 4 5 6),
  (32, 0x398A440, .cap 4 5 6),
  (32, 0x400A440, .ctag 4 5),
  (32, 0x480A440, .cct 4 5),
  (32, 0x518A440, .cseal 4 5 6),
  (32, 0x598A440, .cunseal 4 5 6),
  (32, 0xFFF0A444, .cincImm 4 5 0x3FFC),
  (96, 0xFFFF1234000000000000A43A, .cincW3 4 5 0xFFFF1234)] = true := by decide

/-- Words written out from the encodings of R170 to R186: control. -/
theorem test_words_control_0 : decodes [
  (32, 0xFFF00048, .b 0x3FFC),
  (32, 0xFFF0684C, .bt 8 3 0x3FFC),
  (32, 0xFFF06850, .bf 8 3 0x3FFC),
  (32, 0xFFF00854, .bz 8 0x3FFC),
  (32, 0xFFF00858, .bnz 8 0x3FFC),
  (32, 0xFFF0085C, .loop 8 0x3FFC),
  (32, 0xFFF00060, .call 0x3FFC),
  (96, 0xFFFF1234000000000000001E, .callW3 0xFFFF1234),
  (96, 0xFFFF1234000000000000001A, .j 0xFFFF1234),
  (32, 0x64, .nop),
  (32, 0x800064, .region),
  (32, 0x100A064, .ret 5),
  (32, 0x1800064, .yield),
  (32, 0x200A064, .callc 5),
  (32, 0x48D00068, .trap 0x1234)] = true := by decide

/-- Words written out from the encodings of R170 to R186: global memory. -/
theorem test_words_global_memory_0 : decodes [
  (32, 0xFFF0A46C, .ldI8 4 5 0x3FFC),
  (32, 0xFFF0A470, .ldN8 4 5 0x3FFC),
  (32, 0xFFF0A474, .ldI16 4 5 0x3FFC),
  (32, 0xFFF0A478, .ldN16 4 5 0x3FFC),
  (32, 0xFFF0A47C, .ldI32 4 5 0x3FFC),
  (32, 0xFFF0A480, .ldN32 4 5 0x3FFC),
  (32, 0xFFF0A484, .ld 4 5 0x3FFC),
  (32, 0xFFF0A488, .stI8 4 5 0x3FFC),
  (32, 0xFFF0A48C, .stI16 4 5 0x3FFC),
  (32, 0xFFF0A490, .stI32 4 5 0x3FFC),
  (32, 0xFFF0A494, .st 4 5 0x3FFC),
  (32, 0xFFF0A498, .ldc 4 5 0x3FFC),
  (32, 0xFFF0A49C, .stc 4 5 0x3FFC),
  (96, 0xFFFF1234000000000600A422, .ldW3 .n16 4 5 0xFFFF1234),
  (96, 0xFFFF1234000000000600A426, .stW3 .b64 4 5 0xFFFF1234),
  (96, 0xFFFF1234000000000000A42A, .ldcW3 4 5 0xFFFF1234),
  (96, 0xFFFF1234000000000000A42E, .stcW3 4 5 0xFFFF1234)] = true := by decide

/-- Words written out from the encodings of R170 to R186: local memory and full/empty words. -/
theorem test_words_local_memory_and_full_empty_words_0 : decodes [
  (32, 0xFFF0A4A0, .ll 4 5 0x3FFC),
  (32, 0xFFF0A4A4, .sl 4 5 0x3FFC),
  (96, 0xFFFF1234000000000000A432, .llW3 4 5 0xFFFF1234),
  (96, 0xFFFF1234000000000000A436, .slW3 4 5 0xFFFF1234),
  (32, 0xFFF0A4A8, .llf 4 5 0x3FFC),
  (32, 0xFFF0A4AC, .slf 4 5 0x3FFC),
  (32, 0xFFF0A4B0, .sle 4 5 0x3FFC),
  (32, 0xFFF0A4B4, .feq 4 5 0x3FFC),
  (32, 0x18A4B8, .post 4 5 6),
  (32, 0x98A4B8, .postf 4 5 6),
  (32, 0x118A4B8, .llfRemote 4 5 6),
  (32, 0x198A4B8, .slfRemote 4 5 6),
  (32, 0x218A4B8, .sleRemote 4 5 6),
  (32, 0x298A4B8, .feqRemote 4 5 6)] = true := by decide

/-- Words written out from the encodings of R170 to R186: SYNC. -/
theorem test_words_sync_0 : decodes [
  (32, 0x10000BC, .phase .pkg),
  (32, 0x898A4BC, .amoAdd true 4 5 6),
  (32, 0x998A4BC, .amoAnd true 4 5 6),
  (32, 0xA98A4BC, .amoOr true 4 5 6),
  (32, 0xB98A4BC, .amoXor true 4 5 6),
  (32, 0xC98A4BC, .amoMin true 4 5 6),
  (32, 0xD98A4BC, .amoMax true 4 5 6),
  (32, 0xE98A4BC, .amoMinn true 4 5 6),
  (32, 0xF98A4BC, .amoMaxn true 4 5 6),
  (32, 0x1098A4BC, .amoSwap true 4 5 6),
  (32, 0x1498A4BC, .cas true 4 5 6),
  (32, 0x1818A4BC, .lamoAdd 4 5 6),
  (32, 0x1898A4BC, .lamoAnd 4 5 6),
  (32, 0x1918A4BC, .lamoOr 4 5 6),
  (32, 0x1998A4BC, .lamoXor 4 5 6),
  (32, 0x1A18A4BC, .lamoMin 4 5 6),
  (32, 0x1A98A4BC, .lamoMax 4 5 6),
  (32, 0x1B18A4BC, .lamoMinn 4 5 6),
  (32, 0x1B98A4BC, .lamoMaxn 4 5 6),
  (32, 0x1C18A4BC, .lamoSwap 4 5 6),
  (32, 0x2098A4BC, .waitw true 4 5 6),
  (32, 0x2400A4BC, .pref 4 5)] = true := by decide

/-- Words written out from the encodings of R170 to R186: channels. -/
theorem test_words_channels_0 : decodes [
  (32, 0x398A0C0, .send 7 5 6),
  (32, 0x780A4C0, .recv 7 4 5),
  (32, 0xB8004C0, .chq 7 4),
  (32, 0xC00A4C0, .role 4 5)] = true := by decide

/-- Words written out from the encodings of R170 to R186: system. -/
theorem test_words_system_0 : decodes [
  (32, 0x18A4C4, .start 4 5 6),
  (32, 0x8000C4, .exit),
  (32, 0x100A4C4, .join 4 5),
  (32, 0x180A0C4, .kill 5),
  (32, 0x218A0C4, .resume 5 6),
  (32, 0x298A4C4, .launch 4 5 6),
  (32, 0x30000C4, .trapret),
  (32, 0x380A4C4, .faultq 4 5),
  (32, 0x418A4C4, .ctrsel 4 5 6),
  (32, 0x480A4C4, .time 4 5),
  (32, 0x518A4C4, .stop 4 5 6),
  (32, 0x598A4C4, .vmap 4 5 6),
  (32, 0x600A0C4, .vunmap 5),
  (32, 0x680A4C4, .ifl 4 5),
  (32, 0x1404C8, .mfs 4 .tvec),
  (32, 0x14A0CC, .mts .tvec 5),
  (32, 0x4404D0, .ctr 4 (.issued 1)),
  (32, 0x404404D0, .ctrl 4 (.issued 1)),
  (32, 0x804404D0, .ctrh 4 (.issued 1)),
  (32, 0x18A4D4, .wpres 4 5 6),
  (32, 0x98A4D4, .wsplit 4 5 6),
  (32, 0x118A4D4, .wdeleg 4 5 6),
  (32, 0x180A4D4, .wsurr 4 5),
  (32, 0x218A4D4, .wqry 4 5 6)] = true := by decide

/-- Words written out from the encodings of R170 to R186: system. -/
theorem test_words_system_1 : decodes [
  (32, 0x18A0D8, .gramp 5 6),
  (32, 0x80A0D8, .gpin 5),
  (32, 0xA4DC, .wellq 4 5)] = true := by decide

/-- Words written out from the encodings of R170 to R186: vector. -/
theorem test_words_vector_0 : decodes [
  (64, 0xBDB900000005, .vadd ⟨0, 0, 0, 0, 0, 0, 0, 0, 0, 0, 11, 54, 57⟩),
  (64, 0x28FD300000009, .vsub ⟨0, 0, 0, 0, 0, 0, 0, 0, 0, 0, 40, 63, 19⟩),
  (64, 0x1A52A0000000D, .vmul ⟨0, 0, 0, 0, 0, 0, 0, 0, 0, 0, 26, 20, 42⟩),
  (64, 0xE12BA500000011, .vfma ⟨0, 0, 0, 0, 0, 0, 0, 0, 0, 56, 18, 46, 37⟩),
  (64, 0x526300000015, .vmin ⟨0, 0, 0, 0, 0, 0, 0, 0, 0, 0, 5, 9, 35⟩),
  (64, 0x29E8900000019, .vmax ⟨0, 0, 0, 0, 0, 0, 0, 0, 0, 0, 41, 58, 9⟩),
  (64, 0x7020000001D, .vabs ⟨0, 0, 0, 0, 0, 0, 0, 0, 0, 0, 0, 28, 2⟩),
  (64, 0xBC800000021, .vneg ⟨0, 0, 0, 0, 0, 0, 0, 0, 0, 0, 0, 47, 8⟩),
  (64, 0x2C01808900000025, .vand ⟨0, 0, 0, 0, 0, 0, 0, 11, 0, 0, 24, 2, 9⟩),
  (64, 0x3001167800000029, .vor ⟨0, 0, 0, 0, 0, 0, 0, 12, 0, 0, 17, 25, 56⟩),
  (64, 0x24031BA00000002D, .vxor ⟨0, 0, 0, 0, 0, 0, 0, 9, 0, 0, 49, 46, 32⟩),
  (64, 0x200251B800000031, .vshl ⟨0, 0, 0, 0, 0, 0, 0, 8, 0, 0, 37, 6, 56⟩),
  (64, 0x3400E85C00000035, .vshr ⟨0, 0, 0, 0, 0, 0, 0, 13, 0, 0, 14, 33, 28⟩),
  (64, 0x2402998200000039, .vsar ⟨0, 0, 0, 0, 0, 0, 0, 9, 0, 0, 41, 38, 2⟩),
  (64, 0x650700040D3D, .vcmp ⟨0, 0, 0, 1, 0, 13, 0, 0, 0, 0, 6, 20, 7⟩),
  (64, 0x285C62EE00000041, .vsel ⟨0, 0, 0, 0, 0, 0, 0, 10, 0, 23, 6, 11, 46⟩),
  (64, 0xB3700000045, .vcvt ⟨0, 0, 0, 0, 0, 0, 0, 0, 0, 0, 0, 44, 55⟩),
  (64, 0x18000EF602000049, .vqnt ⟨1, 0, 0, 0, 0, 0, 0, 6, 0, 0, 0, 59, 54⟩),
  (64, 0x40000810400004D, .vdqnt ⟨2, 0, 0, 0, 0, 0, 0, 1, 0, 0, 0, 2, 1⟩),
  (64, 0x75500000051, .vrcp ⟨0, 0, 0, 0, 0, 0, 0, 0, 0, 0, 0, 29, 21⟩),
  (64, 0x4FA00000055, .vrsq ⟨0, 0, 0, 0, 0, 0, 0, 0, 0, 0, 0, 19, 58⟩),
  (64, 0x70B800000059, .vnr ⟨0, 0, 0, 0, 0, 0, 0, 0, 0, 0, 7, 2, 56⟩),
  (64, 0x4000FD00000005D, .vexp2 ⟨0, 0, 0, 0, 0, 0, 0, 1, 0, 0, 0, 63, 16⟩),
  (64, 0x8000D5900000061, .vlog2 ⟨0, 0, 0, 0, 0, 0, 0, 2, 0, 0, 0, 53, 25⟩)] = true := by decide

/-- Words written out from the encodings of R170 to R186: vector. -/
theorem test_words_vector_1 : decodes [
  (64, 0x69000040065, .vscan ⟨0, 0, 0, 1, 0, 0, 0, 0, 0, 0, 0, 26, 16⟩),
  (64, 0xA7800080069, .vred ⟨0, 0, 0, 2, 0, 0, 0, 0, 0, 0, 0, 41, 56⟩),
  (64, 0x380000FE0000006D, .vbcast ⟨0, 0, 0, 0, 0, 0, 0, 14, 0, 0, 0, 3, 62⟩),
  (64, 0x330000C071, .vfill ⟨0, 0, 0, 0, 6, 0, 0, 0, 0, 0, 0, 0, 51⟩),
  (64, 0x28000A0200000075, .vcopy ⟨0, 0, 0, 0, 0, 0, 0, 10, 0, 0, 0, 40, 2⟩),
  (64, 0x2000079, .vtran ⟨1, 0, 0, 0, 0, 0, 0, 0, 0, 0, 0, 0, 0⟩),
  (64, 0x40030811800007D, .vgath ⟨12, 0, 0, 0, 0, 0, 0, 1, 0, 0, 3, 2, 1⟩),
  (64, 0x400308118000081, .vscat ⟨12, 0, 0, 0, 0, 0, 0, 1, 0, 0, 3, 2, 1⟩),
  (64, 0x308116000085, .vlut ⟨11, 0, 0, 0, 0, 0, 0, 0, 0, 0, 3, 2, 1⟩)] = true := by decide

/-- Words written out from the encodings of R170 to R186: matrix, pump and collective. -/
theorem test_words_matrix_pump_and_collective_0 : decodes [
  (64, 0xC00498000000089, .mma ⟨0, 0, 0, 0, 0, 0, 0, 3, 0, 0, 4, 38, 0⟩),
  (64, 0x1FAEEEC00000008D, .mmag ⟨0, 0, 0, 0, 0, 0, 0, 7, 3, 43, 46, 59, 0⟩),
  (64, 0x1C005DC000000091, .mmr ⟨0, 0, 0, 0, 0, 0, 0, 7, 0, 0, 5, 55, 0⟩),
  (64, 0x95, .mzero ⟨0, 0, 0, 0, 0, 0, 0, 0, 0, 0, 0, 0, 0⟩),
  (64, 0x400003800032099, .mrd ⟨0, 0, 0, 0, 25, 0, 0, 1, 0, 0, 0, 0, 56⟩),
  (64, 0x2C0004400003809D, .mwr ⟨0, 0, 0, 0, 28, 0, 0, 11, 0, 0, 0, 17, 0⟩),
  (64, 0x10000DEB000000A1, .wld ⟨0, 0, 0, 0, 0, 0, 0, 4, 0, 0, 0, 55, 43⟩),
  (64, 0xADC000000A5, .tld ⟨0, 0, 0, 0, 0, 0, 0, 0, 0, 0, 0, 43, 28⟩),
  (64, 0x38000384A9, .dset ⟨0, 0, 0, 0, 28, 4, 0, 0, 0, 0, 0, 0, 56⟩),
  (64, 0x1500001FAD, .dget ⟨0, 0, 0, 0, 0, 31, 0, 0, 0, 0, 0, 0, 21⟩),
  (64, 0x14000011B1, .dsta ⟨0, 0, 0, 0, 0, 17, 0, 0, 0, 0, 0, 0, 20⟩),
  (64, 0xAB7000000B5, .xcopy ⟨0, 0, 0, 0, 0, 0, 0, 0, 0, 0, 0, 42, 55⟩),
  (64, 0x27000000B9, .pub ⟨0, 0, 0, 0, 0, 0, 0, 0, 0, 0, 0, 0, 39⟩),
  (64, 0x8C6000000BD, .drain ⟨0, 0, 0, 0, 0, 0, 0, 0, 0, 0, 0, 35, 6⟩),
  (64, 0x8000000C1, .dclr ⟨0, 0, 0, 0, 0, 0, 0, 0, 0, 0, 0, 0, 8⟩),
  (64, 0x44E000000C5, .wellw ⟨0, 0, 0, 0, 0, 0, 0, 0, 0, 0, 0, 17, 14⟩),
  (64, 0x100C9, .bar ⟨0, 0, 0, 0, 8, 0, 0, 0, 0, 0, 0, 0, 0⟩),
  (64, 0x40002ED0001E8CD, .red ⟨0, 0, 0, 0, 15, 8, 0, 1, 0, 0, 0, 11, 45⟩),
  (64, 0x2C00079F0002E0D1, .redx ⟨0, 0, 0, 0, 23, 0, 0, 11, 0, 0, 0, 30, 31⟩),
  (64, 0x2902030BD5, .rstat ⟨1, 0, 0, 0, 24, 11, 0, 0, 0, 0, 0, 0, 41⟩),
  (64, 0x27000027D9, .corr ⟨0, 0, 0, 0, 1, 7, 0, 0, 0, 0, 0, 0, 39⟩)] = true := by decide

/-! ## Hypotheses that some state and operands meet -/

theorem witness_IntegerFormsCompute : ∃ s : State, ∃ i d P, intRow s.int i = some (d, P) := ⟨rich, .div 3 5 6, _, _, rfl⟩

theorem witness_ImmediateFormsCompute :
    ∃ s : State, ∃ i len d P, i.wf = true ∧ immRow s.int i = some (len, d, P) := ⟨rich, .bfi 3 5 1 62, _, _, _, rfl, rfl⟩

/-- The least and the greatest width. -/
theorem witness_ImmediateFormsCompute_widths : ((.sext 3 5 1 : Instr).wf && (.sext 3 5 64 : Instr).wf &&
    (.zext 3 5 1 : Instr).wf && (.zext 3 5 64 : Instr).wf && (.bfx 3 5 0 63 : Instr).wf) = true := rfl

theorem witness_ComparisonsSetOneBit : rich.gtag 4 = true ∧ ∃ (s : State) (d : Reg) (c : Cond),
    s.gtag d = false ∧ c ≠ .ltn ∧ c ≠ .len := ⟨by decide, rich, 5, .le, by decide⟩

theorem witness_FloatingFormsRound : ∃ s : State, ∃ i d c fl, fopRow s i = some (d, c, fl) :=
  ⟨rich, .fma .rtp .d 3 5 6, _, _, _, rfl⟩

theorem witness_FloatToIntegerConverts : ∃ s : State, ∃ i d v fl, toIntRow s i = some (d, v, fl) :=
  ⟨rich, .fcvtToInt .rtz .d .n64 3 5, _, _, _, rfl⟩

/-- The greatest finite value of FP8 E4M3. -/
theorem witness_RoundingKeepsRepresentable : fpE4m3 ∈ [fp64, fp32, fpBf16, fpE4m3, fpE5m2] ∧ Rnd.rtp ≠ .sr ∧
    0x7E < 2 ^ fpE4m3.width ∧ (∀ n, fpE4m3.decode 0x7E ≠ .inf n) ∧ fpE4m3.decode 0x7E ≠ .nan := by
  refine ⟨by simp, by decide, by decide, fun n => ?_, by decide⟩
  cases n <;> decide

/-- Offset −1 selects a word, aligned down to the last word of the window. -/
theorem witness_LocalLoadsReadTheWindow : ∃ s : State, ∃ i len d o, llRow s i = some (len, d, o) ∧ localClean s o (localSize o) :=
  ⟨rich, .ll 3 0 0x3FFF, _, _, _, rfl, by unfold localClean; decide⟩

/-- The first and the last constant. -/
theorem witness_LocalLoadsReadTheWindow_lk : localClean rich (BitVec.ofNat 64 (4 * (0 : BitVec 14).toNat)) 4 ∧
    localClean rich (BitVec.ofNat 64 (4 * (0x3FFF : BitVec 14).toNat)) 4 := by unfold localClean; decide

theorem witness_LocalStoresWriteTheWindow : ∃ s : State, ∃ i len d o, slRow s i = some (len, d, o) :=
  ⟨rich, .slW3 3 5 0xFFFFFFFE, _, _, _, rfl⟩

theorem witness_LocalAtomicsSwapOneWord : ∃ s : State, ∃ i d a f, lamoRow s i = some (d, a, f) ∧ localClean s (s.int a) 4 :=
  ⟨rich, .lamoMin 3 5 6, _, _, _, rfl, by unfold localClean; decide⟩

theorem witness_CapabilityFieldsRead : ∃ s : State, ∃ i d P, capRow s i = some (d, P) := ⟨rich, .cgl 3 4, _, _, rfl⟩

theorem witness_CursorMovesKeepTheRest : ∃ s : State, ∃ i len d a cur, moveRow s i = some (len, d, a, cur) :=
  ⟨rich, .cincW3 3 4 0xFFFFFFFF, _, _, _, _, rfl⟩

/-- A source without a tag, a sealed source, a range past the top, and a range that ends at the top. -/
theorem witness_BoundsAreNarrowedOrTrap :
    rich.gtag 5 = false ∧
    (∃ s : State, s.gtag 4 = true ∧ capTypeOf (s.g 4) ≠ 0) ∧
    (∃ s : State, s.gtag 4 = true ∧ capTypeOf (s.g 4) = 0 ∧
      (capCursorOf (s.g 4)).toNat + (s.int 5).toNat > capTopOf (s.g 4)) ∧
    ∃ s : State, s.gtag 4 = true ∧ capTypeOf (s.g 4) = 0 ∧ capBaseOf (s.g 4) ≤ (capCursorOf (s.g 4)).toNat ∧
      (capCursorOf (s.g 4)).toNat + (s.int 5).toNat = capTopOf (s.g 4) :=
  ⟨by decide, ⟨put rich 4 (mkCap 3 0xFFF 0 0x10000 0x20000 0x10000) true, by decide⟩,
    ⟨put rich 5 0x10001, by decide⟩, ⟨put rich 5 0x10000, by decide⟩⟩

/-- Types 1 and 15 that the context may seal with, and 0, 10 and 16 that it may not. -/
theorem witness_SealsNeedTheirType :
    (∃ s : State, s.gtag 4 = true ∧ capTypeOf (s.g 4) = 0 ∧ s.int 5 = 15 ∧ s.cx.seals.getLsbD 15 = true) ∧
    (∃ s : State, s.gtag 4 = true ∧ capTypeOf (s.g 4) = 0 ∧ s.int 5 = 16) ∧
    (∃ s : State, s.gtag 4 = true ∧ capTypeOf (s.g 4) = 0 ∧ s.int 5 = 1 ∧ s.cx.seals.getLsbD 1 = false) ∧
    (∃ s : State, s.gtag 4 = true ∧ capTypeOf (s.g 4) = 1 ∧ s.int 5 = 1 ∧ s.cx.seals.getLsbD 1 = true) ∧
    ∃ s : State, s.gtag 4 = true ∧ capTypeOf (s.g 4) = 10 :=
  ⟨⟨{ put rich 5 15 with cx.seals := 0x8000 }, by decide⟩, ⟨put rich 5 16, by decide⟩,
    ⟨{ put rich 5 1 with cx.seals := 0 }, by decide⟩,
    ⟨{ put (put rich 5 1) 4 (mkCap 1 0xFFF 0 0x10000 0x20000 0x10000) true with cx.seals := 2 }, by decide⟩,
    ⟨put rich 4 (mkCap 10 0xFFF 0 0x10000 0x20000 0x10000) true, by decide⟩⟩

/-- CSB of a tagged capability retires with a tagged result. -/
theorem witness_AuthorityNeverGrows : capDeriving (.csb 3 4 5) = some (3, 4) ∧ (3 : Reg) ≠ 0 ∧
    res (exec (.csb 3 4 5) rich) (fun t => t.cx.retired == rich.cx.retired + 1 && t.gtag 3) = true := by
  refine ⟨rfl, by decide, by decide⟩

theorem witness_BranchesTransferControl : (∃ s : State, ∃ i tk disp, branchRow s i = some (tk, disp)) ∧ (31 : Reg) ≠ 0 :=
  ⟨⟨rich, .bf 5 31 0x1FFF, _, _, rfl⟩, by decide⟩

theorem witness_CallsAndReturns : (∃ s : State, ∃ i next goto, callRow s i = some (next, goto)) ∧
    (∃ (s : State) (a : Reg), (s.int a).toNat % 4 = 0) ∧ ∃ (s : State) (a : Reg), (s.int a).toNat % 4 ≠ 0 :=
  ⟨⟨put rich 5 4, .callc 5, _, _, rfl⟩, ⟨rich, 8, by decide⟩, ⟨rich, 5, by decide⟩⟩

/-- `rich` with peer 1 in its peer table and a capability over 64 KiB of the peer's in g10. -/
def peered : State :=
  let p := 2 ^ 62 + 2 ^ 48
  let s := put rich 10 (dataCap (p + 0x10000) (p + 0x20000) (p + 0x10000)) true
  { s with wars := s.wars.map (fun w => { w with peers := [(1, ⟨9, 2, true⟩)], rec_ := { w.rec_ with fgsize := 2 } }) }

/-- The last byte of the capability's range at home, and at a peer. -/
theorem witness_GlobalLoadsDeliver : (∃ s : State, ∃ i len d a off sz sg h, loadRow i = some (len, d, a, off, sz, sg) ∧
    s.lau.mirror = false ∧ entered s ∧ grants s a off 1 sz ∧ s.translate (addr s a off).toNat = .home h ∧ s.space.bad h = false) ∧
    ∃ s : State, ∃ i len d a off sz sg p, loadRow i = some (len, d, a, off, sz, sg) ∧ s.lau.mirror = false ∧ entered s ∧
      grants s a off 1 sz ∧ s.translate (addr s a off).toNat = .peer p :=
  ⟨⟨rich, .ldW3 .n8 3 4 0xFFFF, _, _, _, _, _, _, 0x1FFFF, rfl, by decide, by unfold entered; decide, by unfold grants; decide,
      by decide, by decide⟩,
    ⟨peered, .ldW3 .n8 3 10 0xFFFF, _, _, _, _, _, _, 1, rfl, by decide, by unfold entered; decide, by unfold grants; decide, by decide⟩⟩

theorem witness_CapabilityLoadsBringTheTag : ∃ s : State, ∃ i len d a off h, ldcRow i = some (len, d, a, off) ∧
    s.lau.mirror = false ∧ entered s ∧ grants s a off 1 16 ∧ s.translate (addr s a off).toNat = .home h ∧ s.space.bad h = false :=
  ⟨rich, .ldcW3 3 4 0xFFF0, _, _, _, _, 0x1FFF0, rfl, by decide, by unfold entered; decide, by unfold grants; decide, by decide, by decide⟩

/-- A tagged STC, a plain ST, and an ST at a peer. -/
theorem witness_GlobalStoresAreAccepted :
    (∃ s : State, ∃ i len d a off sz cap h, storeRow i = some (len, d, a, off, sz, cap) ∧ s.lau.mirror = false ∧ s.gtag d = true ∧
      entered s ∧ grants s a off (if cap && s.gtag d then 0b1010 else 0b10) sz ∧ s.translate (addr s a off).toNat = .home h) ∧
    (∃ s : State, ∃ i len d a off sz cap h, storeRow i = some (len, d, a, off, sz, cap) ∧ s.lau.mirror = false ∧ cap = false ∧
      entered s ∧ grants s a off (if cap && s.gtag d then 0b1010 else 0b10) sz ∧ s.translate (addr s a off).toNat = .home h) ∧
    ∃ s : State, ∃ i len d a off sz cap p, storeRow i = some (len, d, a, off, sz, cap) ∧ s.lau.mirror = false ∧
      entered s ∧ grants s a off (if cap && s.gtag d then 0b1010 else 0b10) sz ∧ s.translate (addr s a off).toNat = .peer p :=
  ⟨⟨rich, .stc 4 4 0, _, _, _, _, _, _, 0x10000, rfl, by decide, by decide, by unfold entered; decide, by unfold grants; decide, by decide⟩,
    ⟨rich, .stW3 .b64 5 4 0xFFF8, _, _, _, _, _, _, 0x1FFF8, rfl, by decide, rfl, by unfold entered; decide, by unfold grants; decide,
      by decide⟩,
    ⟨peered, .stW3 .b64 5 10 0xFFF8, _, _, _, _, _, _, 1, rfl, by decide, by unfold entered; decide, by unfold grants; decide, by decide⟩⟩

theorem witness_GlobalAtomicsActAtHome : (∃ s : State, ∃ i w d a f h, amoRow s i = some (w, d, a, f) ∧ s.lau.mirror = false ∧
    entered s ∧ s.cx.status ≠ .free ∧ s.spaces.any (·.id == s.war.space) = true ∧ grants s a 0 0b10000 (if w then 8 else 4) ∧
    s.translate (addr s a 0).toNat = .home h ∧ s.space.bad h = false) ∧
    ∃ s : State, ∃ i w d a f p, amoRow s i = some (w, d, a, f) ∧ s.lau.mirror = false ∧ entered s ∧
      grants s a 0 0b10000 (if w then 8 else 4) ∧ s.translate (addr s a 0).toNat = .peer p :=
  ⟨⟨rich, .cas true 3 4 5, _, _, _, _, 0x10000, rfl, by decide, by unfold entered; decide, by decide, by decide, by unfold grants; decide,
      by decide, by decide⟩,
    ⟨peered, .amoAdd false 3 10 5, _, _, _, _, 1, rfl, by decide, by unfold entered; decide, by unfold grants; decide, by decide⟩⟩

/-- Each check fails in turn: tag, seal, permission, bounds (one byte past the top), alignment, translation. -/
theorem witness_RefusedAccessesTrap : denied rich 5 0 1 1 0x11 ∧
    denied (put rich 4 (mkCap 3 0xFFF 0 0x10000 0x20000 0x10000) true) 4 0 1 1 0x12 ∧
    denied (put rich 4 (mkCap 0 2 0 0x10000 0x20000 0x10000) true) 4 0 1 1 0x13 ∧ denied rich 4 0x10000 1 1 0x14 ∧
    denied rich 4 (-1) 1 1 0x14 ∧ denied rich 4 0xFFF9 1 4 0x10 ∧
    denied (put rich 4 (dataCap 0x40000 0x50000 0x40000) true) 4 0 1 1 0x15 := by
  unfold denied; decide

/-- The loads, stores and atomics that meet them. -/
theorem witness_RefusedAccessesTrap_rows : (loadRow (.ld 3 5 0)).isSome = true ∧ (ldcRow (.ldc 3 5 0)).isSome = true ∧
    (storeRow (.stc 3 5 0)).isSome = true ∧ (amoRow rich (.amoSwap false 3 5 6)).isSome = true := ⟨rfl, rfl, rfl, rfl⟩

/-- A value that differs at once, and one that does not with a timeout of one tick. -/
theorem witness_WaitwWatchesTheHome :
    (∃ s : State, ∃ w : Bool, ∃ d a b h, s.lau.mirror = false ∧ s.lau.det = false ∧ entered s ∧
      s.spaces.any (·.id == s.war.space) = true ∧ grants s a 0 0b10000 (if w then 8 else 4) ∧
      s.translate (addr s a 0).toNat = .home h ∧ h < 2 ^ 62 ∧ s.space.bad h = false ∧
      (bytesVal (Memory.readN (carried s (h / 64)).mem h (if w then 8 else 4)) ≠ (s.int b).toNat % 256 ^ (if w then 8 else 4) ∨ s.int d = 0)) ∧
    ∃ s : State, ∃ w : Bool, ∃ d a b h, s.lau.mirror = false ∧ s.lau.det = false ∧ entered s ∧
      s.spaces.any (·.id == s.war.space) = true ∧ grants s a 0 0b10000 (if w then 8 else 4) ∧
      s.translate (addr s a 0).toNat = .home h ∧ h < 2 ^ 62 ∧ s.space.bad h = false ∧
      ¬ (bytesVal (Memory.readN (carried s (h / 64)).mem h (if w then 8 else 4)) ≠ (s.int b).toNat % 256 ^ (if w then 8 else 4) ∨ s.int d = 0) :=
  ⟨⟨rich, true, 7, 4, 5, 0x10000, by decide, by decide, by unfold entered; decide, by decide, by unfold grants; decide, by decide, by decide,
      by decide, by decide⟩,
    ⟨rich, true, 7, 4, 8, 0x10000, by decide, by decide, by unfold entered; decide, by decide, by unfold grants; decide, by decide, by decide,
      by decide, by decide⟩⟩

/-- The home's value differs afterwards, and the timeout is reached, in the state in which WAITW waits. -/
theorem witness_WaitwWatchesTheHome_later : res (exec (.waitw true 7 4 8) rich) (fun t =>
    t.cx.wait.isSome &&
    ({ t with spaces := t.spaces.map (fun p => { p with mem := [(0x10000, 9)] }) } : State).space.bad 0x10000 == false &&
    bytesVal (Memory.readN ({ t with spaces := t.spaces.map (fun p => { p with mem := [(0x10000, 9)] }) } : State).space.mem 0x10000 8)
      != (rich.int 8).toNat) = true := by decide

/-- A word of the module's, one of a peer's, also from a mirror, and one that no page holds. -/
theorem witness_PrefTestsTheAddress : entered rich ∧ rich.translate (rich.int 4).toNat = .home 0x10000 ∧
    peered.lau.mirror = false ∧ (∃ s : State, entered s ∧ s.translate (s.int 10).toNat = .peer 1 ∧ s.lau.mirror = true) ∧
    rich.translate (rich.int 5).toNat = .unmapped ∧ entered peered ∧ peered.translate (peered.int 10).toNat = .peer 1 := by
  refine ⟨by unfold entered; decide, by decide, by decide,
    ⟨{ peered with launches := peered.launches.map (fun l => { l with mirror := true, mirrorOf := some 9 }) }, by unfold entered; decide, by decide, by decide⟩,
    by decide, by unfold entered; decide, by decide⟩

theorem witness_PhaseReleasesAndAcquires : rich.co.draining rich.cx.hid = false ∧
    rich.spaces.any (·.id == rich.war.space) = true := by decide

/-- `s` with a word of the own store at 0, full or empty, for the address in g8. -/
def fullAt (s : State) (l : List Nat) : State := { s with co.full := l }

/-- Each form ready, and each one not ready. -/
theorem witness_FullEmptyFormsActOrWait :
    feRow (fullAt rich [0]) (.llf 3 8 0) = some (.llf, 3, 0) ∧ feRow rich (.slf 3 8 0) = some (.slf, 3, 0) ∧
    feRow rich (.sle 3 8 0) = some (.sle, 3, 0) ∧ feRow rich (.feq 3 8 0) = some (.feq, 3, 0) ∧
    feReady .llf ((fullAt rich [0]).co.full.contains 0) = true ∧ feReady .slf (rich.co.full.contains 0) = true ∧
    feReady .sle (rich.co.full.contains 0) = false ∧ feReady .slf ((fullAt rich [0]).co.full.contains 0) = false ∧
    rich.cx.status ≠ .free ∧ rich.co.pumpq.any (·.hid == rich.cx.hid) = false ∧ nobodyWaits rich 0 := by
  unfold nobodyWaits; decide

/-- The last core of the launch, and the first column outside it. -/
theorem witness_RequestsGoToTheNamedCore : (requestRow rich (.llfRemote 3 8 5)).isSome = true ∧
    (requestRow rich (.send 7 8 5)).isSome = true ∧ named rich (rich.int 8) = some rich.co.id ∧
    named rich 1 = none ∧ named rich 0x10000 = none := by decide

/-- Fewer than sixteen posts under way, and sixteen. -/
def posted (k : Nat) : State :=
  { rich with net := List.replicate k ⟨0, rich.co.id, 0, rich.co.id, .post false 0 7, 0, none⟩ }

theorem witness_PostedStoresGoOut : (postRow rich (.postf 3 8 5)).isSome = true ∧
    ((posted 15).net.filter (fun m => m.src == (posted 15).co.id && m.payload.isPost)).length = 15 ∧
    ((posted 16).net.filter (fun m => m.src == (posted 16).co.id && m.payload.isPost)).length = 16 ∧
    named (posted 16) ((posted 16).int 8) = some (posted 16).co.id ∧ named rich (rich.int 5) = none := by decide

/-- `rich` with one message for its core in the network. -/
def msgIn (p : Payload) : State := { rich with net := [⟨rich.co.launch.getD 0, rich.co.id, 0, rich.co.id, p, 0, none⟩] }

theorem witness_ArrivingPostsWriteOneWord : ∃ s : State, ∃ m rest off v, s.net = m :: rest ∧
    m.payload = .post true off v ∧ m.dst = s.co.id ∧ s.co.launch = some m.launch ∧
    (s.launchById m.launch).state ≠ .evicted ∧ s.pathHeld m.src m.dst = false ∧
    ((s.launchById m.launch).det = true → s.detReady m.launch m.key = true) ∧ s.cx.hid = 0 ∧ s.cx.status ≠ .free ∧
    nobodyWaits s (remoteByte s off) :=
  ⟨msgIn (.post true 0xFFC 7), _, _, _, _, rfl, rfl, by decide, by decide, by decide, by decide, by decide, by decide, by decide,
    by unfold nobodyWaits; decide⟩

theorem witness_RepliesEndRemoteWaits : ∃ s : State, ∃ m rest v rd tg, ∃ k : BitVec 4, s.net = m :: rest ∧
    m.payload = .reply v false false ∧ m.dst = s.co.id ∧ m.srcHid = s.cx.hid ∧
    (s.launchById m.launch).state ≠ .evicted ∧ s.pathHeld m.src m.dst = false ∧ s.cx.status = .waiting ∧
    s.cx.wait = some (.remote rd k tg) :=
  ⟨{ msgIn (.reply 7 false false) with cx.status := .waiting, cx.wait := some (.remote 3 5 0) }, _, _, _, _, _, _, rfl, rfl,
    by decide, by decide, by decide, by decide, rfl, rfl⟩

theorem witness_SendEndsWhenAppended : ∃ s : State, ∃ m rest tgt ch e, s.net = m :: rest ∧
    m.payload = .reply 0 false true ∧ m.dst = s.co.id ∧ m.srcHid = s.cx.hid ∧ s.pathHeld m.src s.co.id = false ∧
    s.cx.status = .waiting ∧ s.cx.wait = some (.send tgt ch e) :=
  ⟨{ msgIn (.reply 0 false true) with cx.status := .waiting, cx.wait := some (.send 0 2 []) }, _, _, _, _, _, rfl, rfl,
    by decide, by decide, by decide, rfl, rfl⟩

/-- `rich` with one entry in channel 7. -/
def entryIn : State := { rich with co.chans := rich.co.chans.set 7 [List.replicate 64 9] }

/-- A deterministic launch, on whose core a helper waits in RECV on channel 7. -/
def detRecv : State :=
  { entryIn with
      launches := entryIn.launches.map (fun l => { l with det := true })
      co.ctxs := [{ Ctx.zero with helper := true, hid := 1, status := .waiting, wait := some (.recv 7 3 0) }] }

/-- An entry that stands, an empty channel in a helper, and a deterministic RECV behind another one. -/
theorem witness_ReceiveTakesTheOldestEntry :
    entryIn.cx.status ≠ .free ∧ (entryIn.co.chans.get 7 = [List.replicate 64 9] ∧ entryIn.lau.det = false ∧ noneHeld entryIn 7) ∧
    (helper.co.chans.get 7 = [] ∧ helper.cx.helper = true) ∧
    (detRecv.lau.det = true ∧ detRecv.co.ctxs.any (Ctx.recvs 7) = true ∧ detRecv.co.ctxs.any (Ctx.recvs 6) = false) := by
  refine ⟨by decide, ⟨by decide, by decide, fun m h => ?_⟩, by decide, by decide⟩
  have : entryIn.co.heldMsgs = [] := by decide
  simp [this] at h

/-- `entryIn` in a RECV that waits. -/
def entryWaits : State := { entryIn with cx.status := .waiting, cx.wait := some (.recv 7 3 0) }

theorem witness_ArrivedEntriesEndReceives : ∃ s : State, ∃ ch : Fin 8, ∃ rd off e rest, s.cx.status = .waiting ∧
    s.cx.wait = some (.recv ch rd off) ∧ s.co.chans.get ch = e :: rest ∧ e.length = 64 ∧ noneHeld s ch ∧
    (s.lau.det = true → ∀ c ∈ (s.coreAt s.co.id).ctxs, c.recvs ch = true → c = s.cx) := by
  refine ⟨entryWaits, 7, 3, 0, List.replicate 64 9, [], rfl, rfl, by decide, rfl, fun m h => ?_, fun h => absurd h (by decide)⟩
  have : entryWaits.co.heldMsgs = [] := by decide
  simp [this] at h

/-- A core in its launch's second and third role, whose channel has been empty for exactly st.recast ticks. -/
def dryCore (r : Nat) : State :=
  { rich with
      co.role := r, co.recast := 4096, tick := 4096
      launches := rich.launches.map (fun l => { l with fetch := 0x0000000100000001, work := 0x0000000100010001, stow := 0x0000000100020001 }) }

theorem witness_DryReceivesRecast :
    (dryCore 2).cx.helper = false ∧ (dryCore 2).lau.det = false ∧ (dryCore 2).co.recast ≠ 0 ∧
    (dryCore 2).co.chans.get 0 = [] ∧ (dryCore 2).tick - (dryCore 2).co.emptyAt.get 0 ≥ (dryCore 2).co.recast.toNat ∧
    (dryCore 2).lau.rows[0]? = some 1 ∧ (dryCore 2).lau.rows[1]? = some (dryCore 2).co.role ∧
    (dryCore 3).lau.rows[1]? = some 2 ∧ (dryCore 3).lau.rows[2]? = some (dryCore 3).co.role ∧
    (∀ j, j ≤ 1 → (dryCore 3).lau.rows[j]? ≠ some (dryCore 3).co.role) := by
  decide

/-- `rich` with one helper of its core. -/
def withHelper (st : Status) : State :=
  { rich with co.ctxs := [{ Ctx.zero with helper := true, hid := 1, status := st, pc := 0x200000, fpc := 0x200000 }] }

theorem witness_ControlInstructionsTrapInHelpers : controlOnly (.wsurr 3 4) = true ∧ controlReg .recast = true ∧
    helper.cx.helper = true := ⟨rfl, rfl, rfl⟩

/-- Outside a handler, inside one with a misaligned st.epc, inside one with st.epc 0, and with a long operation. -/
theorem witness_TrapsAreTakenAndLeft : rich.cx.helper = false ∧ rich.cx.intrap = false ∧
    (∃ s : State, s.cx.helper = false ∧ s.cx.intrap = true ∧ s.cx.epc.toNat % 4 ≠ 0) ∧
    (∃ s : State, s.cx.helper = false ∧ s.cx.intrap = true ∧ s.cx.epc.toNat % 4 = 0) ∧
    rich.co.longOf rich.cx.hid = false ∧ ∃ s : State, s.co.longOf s.cx.hid = true :=
  ⟨by decide, by decide, ⟨{ rich with cx.intrap := true, cx.epc := 2 }, by decide⟩,
    ⟨{ rich with cx.intrap := true, cx.epc := 4 }, by decide⟩, by decide,
    ⟨{ rich with co.vop := some ⟨0, 0, 0, none, [], 0, [], 0, none, false⟩ }, by decide⟩⟩

/-- A trap where a handler stands, and one where none does. -/
theorem witness_TrapsAreTakenAndLeft_handler : (∃ s : State, s.cx.helper = false ∧ s.cx.intrap = false ∧ s.cx.tvec ≠ 0) ∧
    rich.cx.tvec = 0 := ⟨⟨{ rich with cx.tvec := 0x200040 }, by decide⟩, by decide⟩

theorem witness_YieldGivesTheSlotUp : rich.cx.status ≠ .free ∧ rich.cx.helper = false ∧
    ∃ s : State, s.cx.status ≠ .free ∧ ¬ (s.cx.helper = false ∨ (s.co.promoted = [] ∧ s.co.woken = [] ∧ s.co.started = [])) :=
  ⟨by decide, by decide, ⟨{ helper with co.started := [2] }, by decide⟩⟩

/-- A misaligned entry, an illegal window, no free record, and a start that succeeds. -/
theorem witness_StartMakesAHelper : rich.cx.helper = false ∧ (rich.int 5).toNat % 4 ≠ 0 ∧
    ¬ windowLegal ((put rich 6 (9 * 2 ^ 32)).int 6).toNat ∧ windowLegal (8 * 2 ^ 32) ∧
    rich.freeRec ≠ none ∧ (rich.int 8).toNat % 4 = 0 ∧ windowLegal ((rich.int 8).toNat % 2 ^ 48) := by
  unfold windowLegal; decide

/-- `rich` with a helper in every record of its core and of its warrant's pool. -/
def fullTable : State :=
  { rich with co.ctxs := (List.range 16443).map (fun r => { Ctx.zero with helper := true, hid := r + 1, recNo := r }) }

theorem witness_StartMakesAHelper_full : fullTable.cx.helper = false ∧ fullTable.freeRec = none := by
  refine ⟨by decide, ?_⟩
  have used : ∀ r, r < 16443 → (fullTable.lau.coreIndex fullTable.war fullTable.co.id, r) ∈ fullTable.recsUsed := by
    intro r h
    simp only [State.recsUsed, List.mem_append, List.mem_flatMap, List.mem_filter, List.mem_map]
    refine Or.inl ⟨fullTable.packed, ⟨List.mem_cons_self, by decide⟩, ({ Ctx.zero with helper := true, hid := r + 1, recNo := r } : Ctx),
      ⟨?_, rfl⟩, ?_⟩
    · have e : fullTable.packed.ctxs = fullTable.cx :: fullTable.co.ctxs := by
        show keepCtx fullTable.cx fullTable.co.ctxs = _
        unfold keepCtx; rw [if_neg (by decide)]
      rw [e]
      exact List.mem_cons_of_mem _ (List.mem_map.mpr ⟨r, List.mem_range.mpr h, rfl⟩)
    · have e : fullTable.launchOn fullTable.packed = fullTable.lau := by decide
      rw [e]; rfl
  unfold State.freeRec
  have e1 : (List.range 59).find? (fun r => !fullTable.recsUsed.contains (fullTable.lau.coreIndex fullTable.war fullTable.co.id, r)) = none := by
    rw [List.find?_eq_none]; intro r h
    have := List.mem_range.mp h
    simpa using used r (by omega)
  simp only [e1]
  rw [List.find?_eq_none]; intro r h
  obtain ⟨k, hk, rfl⟩ := List.mem_map.mp h
  have := List.mem_range.mp hk
  simpa using ⟨_, used (k + 59) (by omega)⟩

/-- A helper without DRAINs, a control context without helpers, and one with a helper that lives. -/
theorem witness_ExitEndsAContext :
    (helper.cx.helper = true ∧ helper.co.pumpq.any (fun p => p.hid == helper.cx.hid && p.kind == .drain) = false) ∧
    (rich.cx.helper = false ∧ rich.packed.liveHelpers = [] ∧ rich.co.launch.isSome = true ∧
      rich.co.pumpq.any (fun p => p.hid == rich.cx.hid && p.kind == .drain) = false ∧ rich.cx.status ≠ .free) ∧
    (withHelper .parked).cx.helper = false ∧ (withHelper .parked).packed.liveHelpers ≠ [] := by decide

/-- g7 = 1 names the helper: exited, live, or absent; g8 = 0 joins all; parked it may be resumed in each of the three ways. -/
theorem witness_HelpersAreCollectedKilledAndResumed : (rich.int 7).toNat = 1 ∧ (rich.int 8).toNat = 0 ∧
    rich.cx.helper = false ∧ rich.cx.status = .resident ∧ (withHelper .exited).co.ctxs.find? (fun x => x.helper && x.hid == 1 && x.status == .exited) ≠ none ∧
    (withHelper .parked).co.ctxs.find? (fun x => x.helper && x.hid == 1 && x.status == .parked && !x.erred) ≠ none ∧
    (rich.co.ctxs.find? (fun x => x.helper && x.hid == 1)) = none ∧ (withHelper .exited).packed.liveHelpers = [] ∧
    (withHelper .parked).packed.liveHelpers ≠ [] ∧ (1 : Nat) ≠ (withHelper .parked).cx.hid ∧
    rich.int 6 ≠ 0 ∧ rich.int 6 ≠ 1 ∧ rich.int 6 ≠ 2 ∧ (put rich 6 2).int 6 = 2 ∧
    (withHelper .parked).space.imapped 0x200000 = true ∧ (withHelper .parked).space.imapped 0x1FFFFF = false := by decide

theorem witness_FaultqReadsTheRing : rich.cx.helper = false ∧ rich.co.ring = [] ∧
    ∃ s : State, ∃ r rest, s.cx.helper = false ∧ s.co.ring = r :: rest :=
  ⟨by decide, by decide, ⟨{ rich with co.ring := [⟨1, 2, 3, 4, 5, 6, 1, some 0, 0⟩] }, _, _, by decide, rfl⟩⟩

/-- Resident at a boundary, and waiting in JOIN. -/
theorem witness_HelperFaultsInterrupt : ∀ b : Bool, ∃ s : State, s.cx.hid = 0 ∧ s.cx.helper = false ∧ s.co.ringNews = true ∧
    s.co.ring ≠ [] ∧ s.cx.intrap = false ∧ s.cx.afterCtrl = false ∧ s.cx.rewind = false ∧ s.cx.pend = none ∧ s.cx.agreed = false ∧
    s.cx.tvec ≠ 0 ∧
    if b then s.cx.status = .resident else s.cx.status = .waiting ∧ s.cx.wait = some .join := by
  intro b
  refine ⟨{ rich with
      cx.tvec := 0x200040, co.ring := [⟨1, 2, 3, 4, 5, 6, 1, some 0, 0⟩], co.ringNews := true
      cx.status := if b then .resident else .waiting, cx.wait := if b then none else some .join }, ?_⟩
  cases b <;> decide

/-- A helper's register, a window that is not legal and one that is, a read of st.fflags with and without a long operation. -/
theorem witness_StateRegistersReadAndWrite : writableReg .seals = true ∧ controlReg .seals = false ∧
    writableReg .tvec = true ∧ rich.cx.helper = false ∧ ¬ windowLegal 0x100000 ∧ windowLegal 0xFFFFF000 ∨ windowLegal 0 := by
  unfold windowLegal; decide

/-- `rich` with an event bitmap. -/
def events (b : W32) : State :=
  { rich with wars := rich.wars.map (fun w => { w with rec_ := { w.rec_ with events := b } }) }

/-- The first and the last event: allowed, denied, and denied with the trap of bit 31. -/
theorem witness_CountersRead : allowed (events 1) .cycles = true ∧ allowed (events 0x10000) (.issued 0) = true ∧ allowed (events 0x10000) (.issued 11) = true ∧
    allowed (events 0x100) .failact = true ∧
    (allowed (events 0) .cycles = false ∧ deniedTraps (events 0) = false) ∧
    (allowed (events 0x80000000) (.issued 11) = false ∧ deniedTraps (events 0x80000000) = true) := by decide

/-- g8 = 0, g7 = 1, g5 = 3 and g6 = 5 meet clauses 0, 1, 3 and the last. -/
theorem witness_TimeReads : rich.int 8 = 0 ∧ rich.int 7 = 1 ∧ (put rich 7 2).int 7 = 2 ∧ rich.int 5 = 3 ∧
    (rich.int 6 ≠ 0 ∧ rich.int 6 ≠ 1 ∧ rich.int 6 ≠ 2 ∧ rich.int 6 ≠ 3) := by decide

/-- `rich` with every event allowed and the debug right. -/
def openRich : State :=
  { rich with wars := rich.wars.map (fun w => { w with rec_ := { w.rec_ with events := 0xFFFFFFFF, debug := true } }) }

theorem witness_SystemQueriesAnswer :
    (named openRich (openRich.int 8) = some openRich.co.id ∧ (openRich.int 8).toNat = eventCode (.cycles) + 4096 * 0 ∧
      allowed openRich .cycles = true) ∧
    (named (put openRich 5 (26 * 2 ^ 32)) (BitVec.ofNat 64 (((put openRich 5 (26 * 2 ^ 32)).int 5).toNat % 2 ^ 32)) =
        some openRich.co.id ∧ ((put openRich 5 (26 * 2 ^ 32)).int 5).toNat / 2 ^ 32 = 10 + 16 ∧
      openRich.war.rec_.debug = true ∧ openRich.cx.helper = false ∧ (openRich.int 8).toNat % 4 = 0) ∧
    rich.space.imapped (rich.int 5).toNat = false ∧ (rich.int 8).toInt ≤ 0 ∧ ¬ (rich.int 5).toInt ≤ 0 := by decide

/-- The last byte of the first object's pages, and the first byte of the second object. -/
theorem witness_SystemQueriesAnswer_objects : ∃ s : State,
    s.space.imapped 0x3FFFFF = true ∧ s.space.objs[0]? = some ⟨0x200000, 8⟩ ∧ s.space.imapped 0x400000 = true ∧
    s.space.objs[1]? = some ⟨0x400000, 4⟩ :=
  ⟨{ rich with spaces := rich.spaces.map (fun p => { p with ipages := [1, 2], objs := [⟨0x200000, 8⟩, ⟨0x400000, 4⟩] }) },
    by decide⟩

/-- A 64 KiB range, a 2 MiB range at the top of the space, a range that is not shaped, a mapped one, and too little memory. -/
theorem witness_VmapMapsZeroedPages : vmapShaped 0x100000 0x10000 ∧ vmapShaped 0xFFFFFFE00000 (0x8000000000000000 + 0x200000) ∧
    ¬ vmapShaped 0x100000 0 ∧ ¬ vmapShaped 0x1000000000000 0x10000 ∧ rich.cx.helper = false ∧
    rich.space.mapped 0x10000 = true ∧ vmapShaped 0x10000 0x10000 ∧ rich.space.mapped 0x100000 = false ∧
    1 ≤ rich.war.memFree ∧ (rich.space.unmapped 0x100000 0x110000).isEmpty = true ∧
    (∃ s : State, s.war.memFree < 1) ∧ rich.spaces.any (·.id == rich.war.space) = true ∧
    rich.wars.any (·.id == rich.lau.war) = true ∧ rich.cx.hid = 0 ∧ entered rich := by
  refine ⟨by unfold vmapShaped; decide, by unfold vmapShaped; decide, by unfold vmapShaped; decide, by unfold vmapShaped; decide,
    by decide, by decide, by unfold vmapShaped; decide, by decide, by decide, by decide, ⟨State.reset, by decide⟩, by decide, by decide,
    by decide, by unfold entered; decide⟩

/-- A range that an unmapping still holds. -/
theorem witness_VmapMapsZeroedPages_held : ∃ s : State, (s.space.unmapped 0x100000 0x110000).isEmpty = false ∧
    s.space.mapped 0x100000 = false ∧ 1 ≤ s.war.memFree :=
  ⟨{ rich with spaces := rich.spaces.map (fun p => { p with old := [⟨0x100000, false, .data, 0⟩] }) }, by decide⟩

/-- The page at 0x10000 with its capability; a sealed one, an untagged one and one without ST; a wait whose lease is over. -/
theorem witness_VunmapReturnsPages : (rich.cx.helper = false ∧ rich.gtag 4 = true ∧ capTypeOf (rich.g 4) = 0 ∧
      (capPermOf (rich.g 4)).getLsbD 1 = true ∧ capBaseOf (rich.g 4) % 0x10000 = 0 ∧
      rich.space.walk ((capTopOf (rich.g 4) - capBaseOf (rich.g 4)) / 0x10000 + 1) (capBaseOf (rich.g 4)) (capTopOf (rich.g 4)) =
        .inr [⟨0x10000, false, .data, 0⟩]) ∧
    rich.gtag 5 = false ∧ (∃ s : State, s.gtag 4 = true ∧ capTypeOf (s.g 4) ≠ 0) ∧
    (∃ s : State, s.gtag 4 = true ∧ capTypeOf (s.g 4) = 0 ∧ (capPermOf (s.g 4)).getLsbD 1 = false) ∧
    (∃ s : State, s.gtag 4 = true ∧ capTypeOf (s.g 4) = 0 ∧ (capPermOf (s.g 4)).getLsbD 1 = true ∧ capBaseOf (s.g 4) % 0x10000 ≠ 0) ∧
    ∃ s : State, s.cx.hid = 0 ∧ entered s ∧ s.cx.status = .waiting ∧ s.cx.wait = some (.vunmap 0x10000 0x20000 0 0) ∧ 0 ≤ s.tick ∧
      s.spaces.any (·.id == s.war.space) = true :=
  ⟨by decide, by decide, ⟨put rich 4 (mkCap 3 0xFFF 0 0x10000 0x20000 0x10000) true, by decide⟩,
    ⟨put rich 4 (mkCap 0 1 0 0x10000 0x20000 0x10000) true, by decide⟩, ⟨put rich 4 (dataCap 0x10010 0x10010 0x10010) true, by decide⟩,
    ⟨{ rich with cx.status := .waiting, cx.wait := some (.vunmap 0x10000 0x20000 0 0) }, by unfold entered; decide⟩⟩

/-- The handle of the running warrant in g9. -/
def handled : State := put rich 9 (mkCap 10 0 0 0 0 (rich.lau.war * 256)) true

/-- `handled` with the launch block of one core at offset 0 of the window: width and height 1, entry 0x200000. -/
def blockIn : State :=
  { handled with co.store := [(4, 1), (6, 1), (10, 0x20)] }

theorem handled_handle (live : Bool) : handle handled 9 handled.lau.war live := ⟨by decide, by decide, _, rfl, by decide, fun _ => by decide⟩

theorem witness_LaunchEntersTheModule : handled.cx.helper = false ∧ handle handled 9 handled.lau.war true ∧
    handle handled 9 handled.lau.war false ∧ handle blockIn 9 blockIn.lau.war true ∧ (handled.warById handled.lau.war).id = handled.lau.war ∧ handled.co.launch ≠ none ∧
    (handled.warById handled.lau.war).code = none ∧ (handled.warById handled.lau.war).child = false ∧
    (handled.warById handled.lau.war).nested = false := by
  exact ⟨by decide, handled_handle true, handled_handle false, ⟨by decide, by decide, _, rfl, by decide, fun _ => by decide⟩, by decide⟩

/-- The block of the statement. -/
def blockOf (s : State) (b : Reg) : LBlock := LBlock.ofBytes ((List.range 1024).map (fun i =>
  Memory.read s.co.store (localByte s ((s.int b &&& ~~~63) + BitVec.ofNat 64 i) 1 0)))

/-- A block of zeros is refused, the block of one core passes, and its launch is not pinned. -/
theorem witness_LaunchEntersTheModule_blocks :
    (let s : State := { handled with co.store := [] }
     s.blockErr s.lau.war (blockOf s 8) (BitVec.ofNat 64 (s.space.iword s.cx.pc.toNat)) (s.int 9)).isSome = true ∧
    blockIn.blockErr blockIn.lau.war (blockOf blockIn 8) (BitVec.ofNat 64 (blockIn.space.iword blockIn.cx.pc.toNat)) (blockIn.int 9) = none ∧
    (blockOf blockIn 8).ctrl.testBit 1 = false ∧ blockIn.cx.hid = 0 ∧ entered blockIn ∧
    (∀ x ∈ blockIn.launches, x.id ≠ blockIn.nextId) := by unfold entered; decide

/-- No controller of it is quiesced. -/
theorem notQuiesced {s : State} (h : ∀ c ∈ s.ctrls, c.quiet = none) (n : Nat) : s.quiesced n = false := by
  unfold State.quiesced
  rw [List.getD_eq_getElem?_getD]
  cases e : s.ctrls[n]? with
  | none => rfl
  | some c => simp [h c (List.mem_of_getElem? e)]

theorem witness_LaunchEntersTheModule_quiesced : ∀ n, blockIn.quiesced n = false := notQuiesced (by decide)

/-- A launch of one core that a LAUNCH message brought: with `pinned`, the earlier launch `before` it, and headroom `up`. -/
def messageLaunch (pinned : Bool) (before : Option LState) (up : Nat) : State :=
  let l : Launch := { Launch.zero with id := 77, width := 1, height := 1, state := .waiting, conn := some (5, 9), pinned := pinned }
  { State.reset with
      gov.upLeft := up
      launches := (before.toList.map (fun st => { Launch.zero with id := 76, state := st })) ++ [l] }

/-- A LAUNCH message: not pinned, behind an earlier launch, and pinned where the claim fits by nothing and where it does not by one. -/
theorem witness_AcceptedLaunchesReturnTheirNumber_message :
    (let s := messageLaunch false none 0
     (s.launchById 77).id = 77 ∧ (s.launchById 77).state = .waiting ∧ (s.launchById 77).mirrorOf = none ∧ s.leafQuiet (s.pairCores 77) = false ∧
       (s.launchById 77).conn = some (5, 9) ∧ (s.launchById 77).pinned = false) ∧
    (let s := messageLaunch true (some .waiting) 0
     s.atGovernor (s.launchById 77) = false) ∧
    (let s := messageLaunch true none (3300 * 128 * 16)
     s.atGovernor (s.launchById 77) = true ∧ ((s.pairCores 77).map (fun c => s.startCost c)).sum = s.gov.upLeft) ∧
    (let s := messageLaunch true none (3300 * 128 * 16 - 1)
     s.atGovernor (s.launchById 77) = true ∧ ((s.pairCores 77).map (fun c => s.startCost c)).sum = s.gov.upLeft + 1) := by decide

/-- A LAUNCH that waits for its acceptance, of a pinned launch or not, the earlier launch `before` it, headroom `up`, on a die whose leaf is
quiesced until `till`. -/
def instrLaunch (pinned : Bool) (before : Option LState) (up till : Nat) : State :=
  { rich with
      cx.status := .waiting, cx.wait := some (.launch 3 77), gov.upLeft := up
      ctrls := rich.ctrls.map (fun c => { c with quiet := some till })
      launches := rich.launches ++ (before.toList.map (fun st => { Launch.zero with id := 76, war := rich.lau.war, state := st })) ++
        [{ Launch.zero with id := 77, war := rich.lau.war, px := 1, width := 1, height := 1, entry := 0x200000, state := .waiting, pinned := pinned }] }

/-- What the waiting LAUNCH and its launch meet, on a quiesced leaf or not. -/
def mayBeAccepted (s : State) (quiet : Bool) : Bool :=
  (s.launchById 77).id == 77 && (s.launchById 77).state == .waiting && (s.launchById 77).mirrorOf == none && s.leafQuiet (s.pairCores 77) == quiet &&
    (s.launchById 77).conn == none && s.relocks s.co.id == false && s.cx.status == .waiting && s.cx.hid == 0 && s.cx.wait == some (.launch 3 77)

/-- Not pinned, behind an earlier launch, where the claim fits by nothing and where it does not by one, and on a quiesced leaf. -/
theorem witness_AcceptedLaunchesReturnTheirNumber :
    (mayBeAccepted (instrLaunch false none 0 0) false && !((instrLaunch false none 0 0).launchById 77).pinned) = true ∧
    (let s := instrLaunch true (some .waiting) 0 0
     mayBeAccepted s false && !s.atGovernor (s.launchById 77)) = true ∧
    (let s := instrLaunch true none (3300 * 128 * 16) 0
     mayBeAccepted s false && s.atGovernor (s.launchById 77) && ((s.pairCores 77).map (fun c => s.startCost c)).sum == s.gov.upLeft) = true ∧
    (let s := instrLaunch true none (3300 * 128 * 16 - 1) 0
     mayBeAccepted s false && s.atGovernor (s.launchById 77) && ((s.pairCores 77).map (fun c => s.startCost c)).sum == s.gov.upLeft + 1) = true ∧
    mayBeAccepted (instrLaunch false none 0 500000) true = true := by decide +kernel

/-- A core of a space, the one of the launch or another, whose launch of a class has its start. -/
def startable (cls owner : Nat) : State :=
  { State.reset with
      co.owner := owner
      launches := [{ Launch.zero with
        id := 77, width := 1, height := 1, entry := 0x200000, state := .accepted, granted := [0], wsize := 8, cls := cls }] }

/-- What core 0 of `s` and launch 77 meet. -/
def mayStart (s : State) : Prop := let l := s.launchById 77
  l.id = 77 ∧ l.state = .accepted ∧ s.gov.resetTill = none ∧ s.co.id ∈ l.granted ∧ s.co.id ∉ l.started ∧ s.co.id < 2048 ∧
    s.co.launch = none ∧ s.co.vop = none ∧ s.co.mop = none ∧ s.co.pumpq = [] ∧ s.co.mmr = [] ∧ s.co.heldMsgs = [] ∧ l.wsize.toNat ≤ 8 ∧
    (l.cls ≠ 2 ∨ ∀ c ∈ l.cores, s.heldCore c = false)

theorem witness_CoreStartMakesTheControlContext : ∀ cls owner, cls ≤ 2 → owner ≤ 1 → mayStart (startable cls owner) ∧
    ((startable cls owner).launchById 77).halted = false ∧
    (startable cls owner).leafQuiet ((startable cls owner).launchById 77).cores = false ∧ ((startable cls owner).launchById 77).cls = cls ∧
    ((startable cls owner).co.owner = ((startable cls owner).warById ((startable cls owner).launchById 77).war).space ↔ owner = 0) := by
  intro cls owner h1 h2
  unfold mayStart
  interval_cases cls <;> interval_cases owner <;> decide

/-- A launch that is being evicted, one on a quiesced leaf, and one whose group has a constant and two images that overlap. -/
theorem witness_CoreStartMakesTheControlContext_cases :
    (∃ s, mayStart s ∧ (s.launchById 77).halted = true) ∧
    (∃ s, mayStart s ∧ s.leafQuiet (s.launchById 77).cores = true) ∧
    ∃ s, ∃ g : Group, mayStart s ∧ groupOf (s.spaceById (s.warById (s.launchById 77).war).space) (s.launchById 77).entry = some g ∧
      g.images = [] ++ (0x2000, [1, 2, 3]) :: [(0x2001, [9])] ∧ imageAt (s.launchById 77) (0x2000, [1, 2, 3]) = 0x2000 ∧
      kWord (s.launchById 77) (some g) 20 = 5 ∧ kWord (s.launchById 77) (some g) 21 = 0 := by
  refine ⟨⟨{ startable 0 0 with launches := (startable 0 0).launches.map (fun l => { l with halted := true }) }, ?_, by decide⟩,
    ⟨{ startable 0 0 with ctrls := (startable 0 0).ctrls.map (fun c => { c with quiet := some 1 }) }, ?_, by decide⟩,
    ⟨{ startable 0 0 with spaces := [{ Space.zero with groups := [⟨0x200000, none, [(20, 5)], [(0x2000, [1, 2, 3]), (0x2001, [9])], []⟩] }] },
      _, ?_, rfl, rfl, by decide, by decide, by decide⟩⟩
  all_goals unfold mayStart; decide

/-- The bytes before the images are bare, those of the images are not. -/
theorem witness_CoreStartMakesTheControlContext_bare :
    let g : Group := ⟨0x200000, none, [], [(0x2000, [1, 2, 3])], []⟩
    bare ((startable 0 0).launchById 77) (some g) 0x1FFF 1 ∧ bare ((startable 0 0).launchById 77) (some g) 0x2003 1 ∧
      ¬ bare ((startable 0 0).launchById 77) (some g) 0x1FFF 2 := by
  have at_ : imageAt ((startable 0 0).launchById 77) (0x2000, [1, 2, 3]) = 0x2000 := by decide
  refine ⟨fun h hg p hp => ?_, fun h hg p hp => ?_, fun h => ?_⟩
  · cases hg; cases List.mem_singleton.mp hp; rw [at_]; exact Or.inl (by decide)
  · cases hg; cases List.mem_singleton.mp hp; rw [at_]; exact Or.inr (by decide)
  · have := h _ rfl _ (List.mem_singleton.mpr rfl)
    rw [at_] at this; revert this; decide

/-- No tag, a seal that is not 0xA, an index that names no warrant, and one of a warrant that has ended. -/
theorem witness_BadHandlesTrap : handleRow (.wsurr 3 5) = some (5, false) ∧ handleRow (.wqry 3 4 8) = some (4, false) ∧
    handleRow (.wdeleg 3 9 8) = some (9, true) ∧ rich.cx.helper = false ∧ rich.gtag 5 = false ∧ (rich.gtag 4 = true ∧ capTypeOf (rich.g 4) ≠ 10) ∧
    (∃ s : State, s.gtag 9 = true ∧ capTypeOf (s.g 9) = 10 ∧ handleNames s 9 = none) ∧
    ∃ s : State, ∃ w, s.gtag 9 = true ∧ capTypeOf (s.g 9) = 10 ∧ handleNames s 9 = some w ∧ w.code ≠ none := by
  refine ⟨rfl, rfl, rfl, by decide, by decide, by decide, ⟨put rich 9 (mkCap 10 0 0 0 0 0x7700) true, by decide⟩,
    ⟨{ handled with wars := handled.wars.map (fun w => { w with code := some 0x40 }) }, _, by decide, by decide, rfl, by decide⟩⟩

/-- `rich` in a deterministic launch, in which no load draws a moment. -/
def detRich : State := { rich with launches := rich.launches.map (fun l => { l with det := true }) }

/-- WPRES of a record of zeros at 0x10000 is refused; one of a page that is not mapped, and an index that is not zero. -/
theorem witness_WarrantInstructionsAnswer_wpres : detRich.cx.helper = false ∧ detRich.int 8 = 0 ∧ grants detRich 4 0 1 1 ∧
    addr detRich 4 0 + 384 ≤ capTopOf (detRich.g 4) ∧ detRich.reachOf [((detRich.int 4).toNat, 384)] = .home ∧ detRich.space.poison = [] ∧
    detRich.int 5 ≠ 0 ∧
    (let raw := detRich.viewLoad ((detRich.int 4).toNat % 2 ^ 48) 384
     Claim.presented (detRich.noteRead ((detRich.int 4).toNat % 2 ^ 48) raw none) (WarRec.ofBytes raw) raw = .refused (0x01, 1)) ∧
    ∃ s : State, s.cx.helper = false ∧ s.int 8 = 0 ∧ grants s 4 0 1 1 ∧ addr s 4 0 + 384 ≤ capTopOf (s.g 4) ∧
      s.reachOf [((s.int 4).toNat, 384)] = .unmapped 0x10000 := by
  refine ⟨by decide, by decide, by unfold grants; decide, by decide, by decide, by decide, by decide, ?_,
    ⟨{ rich with spaces := rich.spaces.map (fun p => { p with pages := [] }) }, by decide, by decide, by unfold grants; decide, by decide, by decide⟩⟩
  have hraw : detRich.viewLoad ((detRich.int 4).toNat % 2 ^ 48) 384 = List.replicate 384 0 := by decide
  simp only [hraw]
  have hc : ∀ s : State, s.check1 (WarRec.ofBytes (List.replicate 384 0)) (List.replicate 384 0) 0 = some (0x01, 1) := fun s => rfl
  unfold Claim.presented
  rw [hc]

/-- A child of the running warrant, its handle in g9: fresh with and without the right, or ended. -/
def childOf (deleg : W32) (code : Option (BitVec 8)) : State :=
  { put rich 9 (mkCap 10 0 0 0 0 0x7700) true with
      wars := rich.wars ++ [{ Warrant.zero with
        id := 0x77, hix := 0x77, child := true, holder := some rich.lau.war, code := code, rec_ := { WarRec.zero with deleg := deleg } }] }

theorem witness_WarrantInstructionsAnswer : handle (childOf 2 none) 9 0x77 true ∧ handle (childOf 0 (some 0x40)) 9 0x77 false ∧
    (0x77 ≠ rich.lau.war) ∧ ((childOf 0 (some 0x40)).warById 0x77).id = 0x77 ∧ ((childOf 0 (some 0x40)).warById 0x77).code ≠ none ∧
    (let w := (childOf 2 none).warById 0x77
     ¬ (w.child = false ∨ w.launched = true ∨ w.lseqNext ≠ 0 ∨ w.rec_.deleg.getLsbD 1 = false)) ∧
    (let w := (childOf 0 none).warById 0x77
     w.child = false ∨ w.launched = true ∨ w.lseqNext ≠ 0 ∨ w.rec_.deleg.getLsbD 1 = false) ∧
    ∃ s : State, ∃ d v tag, entered s ∧ s.cx.status = .waiting ∧ s.cx.wait = some (.warrant d v tag) := by
  refine ⟨⟨by decide, by decide, _, rfl, by decide⟩, ⟨by decide, by decide, _, rfl, by decide⟩, by decide, by decide, by decide, by decide, by decide,
    ⟨{ rich with cx.status := .waiting, cx.wait := some (.warrant 3 0x11 false) }, _, _, _, by unfold entered; decide, rfl, rfl⟩⟩

/-- `handled` with a warrant of two cores that may split, and a request for core (1, 0) with `mem` GiB at offset 0. -/
def splitting (mem : Byte) : State :=
  { handled with
      co.store := [(0, 1), (4, 1), (6, 1), (8, mem)]
      wars := handled.wars.map (fun w => { w with memFree := 32768, rec_ := { w.rec_ with width := 2, memGib := 2, deleg := 0x11 } }) }

/-- A split that is made, and one that asks for no memory. -/
theorem witness_WarrantInstructionsAnswer_wsplit : handle (splitting 1) 9 handled.lau.war false ∧ (splitting 1).cx.helper = false ∧
    (splitting 1).splitCode ((splitting 1).warById handled.lau.war) 1 0 1 1 1 0 0 = 0 ∧
    (splitting 0).splitCode ((splitting 0).warById handled.lau.war) 1 0 1 1 0 0 0 = 0x09 ∧
    ((splitting 1).warById handled.lau.war).id = handled.lau.war ∧ handled.lau.war ≠ (splitting 1).nextId ∧
    (List.range 20).map (fun i => Memory.read (splitting 1).co.store (localByte (splitting 1) (((splitting 1).int 8 &&& ~~~63) + BitVec.ofNat 64 i) 1 0)) =
      [1, 0, 0, 0, 1, 0, 1, 0, 1, 0, 0, 0, 0, 0, 0, 0, 0, 0, 0, 0] := by
  refine ⟨⟨by decide, by decide, _, rfl, by decide⟩, by decide, by decide, by decide, by decide, by decide, by decide⟩

theorem witness_SurrenderEndsTheWarrant : handled.cx.helper = false ∧ handle handled 9 handled.lau.war false ∧
    (handled.warById handled.lau.war).id = handled.lau.war ∧ (handled.warById handled.lau.war).code = none ∧
    (handled.warById handled.lau.war).child = false ∧ (handled.warById handled.lau.war).nested = false ∧
    handled.co.launch = some handled.lau.id ∧ handled.lau ∈ handled.launches :=
  ⟨by decide, handled_handle false, by decide⟩

/-- A ready descriptor of `n + 1` elements in the local store, at `a`, with its scale bytes at `sc`. -/
def flat (t : Fmt) (n : BitVec 16) (a : Word) (sc : Word := 0) : Desc :=
  { Desc.zero with state := .ready, fmt := t, rd := true, wr := true, ext0 := n, front := a, scale := sc }
/-- `rich` with descriptors. -/
def tensors (l : List (Nat × Desc)) : State := { rich with co.descs := l }
/-- Fields with a format and descriptors. -/
def fields (fmt : BitVec 4) (dc db da dd : BitVec 6) (minor : BitVec 7 := 0) : W2 :=
  { minor := minor, ovf := 0, rnd := 0, cnd := 0, ga := 0, gd := 0, x2 := 0, fmt := fmt, acc := 0, dc := dc, db := db, da := da, dd := dd }

/-- Sums of 65 elements, one more than a group holds of FP32. -/
theorem witness_VectorElementsAreComputed : ∃ s : State, ∃ i r, vecRow s i = some r ∧ usable s r.f.dd r.dst true ∧
    (∀ d ∈ r.srcs, usable s d.1 d.2 false) ∧ r.ok = true ∧ s.co.vop = none ∧ unpoisoned s ∧ Claim.covered s 500 := by
  refine ⟨tensors [(1, flat .f32 64 0x1000), (2, flat .f32 64 0x2000), (3, flat .f32 64 0x3000)], .vadd (fields 1 0 2 2 1), _, rfl, ?_⟩
  unfold usable unpoisoned Claim.covered; decide

/-- VCMP into a descriptor of UINT8, its predicate in the untagged g0. -/
theorem witness_VectorElementsAreComputed_vcmp : ∃ s : State, ∃ i r, vecRow s i = some r ∧ r.pred.isSome = true ∧
    usable s r.f.dd r.dst true ∧ (∀ d ∈ r.srcs, usable s d.1 d.2 false) ∧ r.ok = true ∧ s.co.vop = none ∧ unpoisoned s ∧
    Claim.covered s 500 := by
  refine ⟨tensors [(1, flat .n8 64 0x1000), (2, flat .f32 64 0x2000)], .vcmp (fields 1 0 2 2 1), _, rfl, ?_⟩
  unfold usable unpoisoned Claim.covered; decide

/-- A transpose of a matrix of 2 rows of 3 elements. -/
theorem witness_VectorElementsAreRearranged : ∃ s : State, ∃ i r, moveForm s i = some r ∧ usable s r.f.dd r.dst true ∧
    (∀ d ∈ r.srcs, usable s d.1 d.2 false) ∧ r.ok = true ∧ s.co.vop = none ∧ unpoisoned s ∧ Claim.covered s 500 := by
  refine ⟨tensors [(1, { flat .f32 1 0x1000 with rank := 1, ext1 := 2, str1 := 2 }), (2, { flat .f32 2 0x2000 with rank := 1, ext1 := 1, str1 := 3 })],
    .vtran (fields 1 0 0 2 1 4), _, rfl, ?_⟩
  unfold usable unpoisoned Claim.covered; decide

/-- One block of FP4 from 32 elements of FP32, and a copy of two blocks. -/
theorem witness_BlocksAreQuantisedAndCopied :
    (∃ s : State, ∃ f : W2, usable s f.dd (vfmt f) true ∧ (s.desc f.dd).sspace = .loc ∧
      usable s f.da (fmtAt (f.minor.toNat % 16)) false ∧ (s.desc f.dd).exts = (s.desc f.da).exts ∧ (s.desc f.dd).ext 0 % 32 = 0 ∧
      (fmtBlock (vfmt f) = true ∨ (s.desc f.dd).scale ≠ 0) ∧
      rowsOverlap ((s.desc f.dd).foot ++ (s.desc f.dd).scaleFoot) (reads (s.desc f.da)) = false ∧
      rowsOverlap (s.desc f.dd).foot (s.desc f.dd).scaleFoot = false ∧ s.co.vop = none ∧ unpoisoned s ∧ Claim.covered s 500) ∧
    ∃ s : State, ∃ f : W2, fmtBlock (vfmt f) = true ∧ usable s f.dd (vfmt f) true ∧ usable s f.da (vfmt f) false ∧
      (s.desc f.dd).sspace = .loc ∧ (s.desc f.da).sspace = .loc ∧ (s.desc f.da).perm = 0 ∧
      (s.desc f.dd).exts = (s.desc f.da).exts ∧ s.co.vop = none ∧ unpoisoned s ∧ Claim.covered s 500 := by
  refine ⟨⟨tensors [(1, flat .mxfp4 31 0x1000 0x1100), (2, flat .f32 31 0x2000)], fields 5 0 0 2 1 1, ?_⟩,
    ⟨tensors [(1, flat .mxfp4 63 0x1000 0x1100), (2, flat .mxfp4 63 0x2000 0x2100)], fields 5 0 0 2 1, ?_⟩⟩
  all_goals unfold usable unpoisoned Claim.covered; decide

/-- A comparison that is due in this cycle. -/
theorem witness_VectorCompletionsTakeEffect : ∃ s : State, ∃ v, s.co.vop = some v ∧ v.cycles ≤ s.co.cycle ∧ v.bad = none ∧
    v.hid = s.cx.hid ∧ s.cx.status ≠ .free ∧ v.pred.isSome = true :=
  ⟨{ rich with co.vop := some ⟨rich.cx.hid, 0, 0, some (5, 31, true), [], rich.co.cycle, [], 0, none, false⟩ }, _, rfl, by decide⟩

/-- A ready matrix of `m + 1` rows of `n + 1` elements in the local store. -/
def mat (t : Fmt) (n m : BitVec 16) (a : Word) (back : Word := 0) : Desc :=
  { flat t n a with rank := 1, ext1 := m, str1 := n.setWidth 32 + 1, back := back }
/-- A of 64 rows, B of 64 columns over K = 2, of BF16, three group counts, and a tile of FP32. -/
def products : State :=
  tensors [(1, mat .bf16 1 63 0x1000 0x5000), (2, mat .bf16 1 63 0x2000 0x6000), (3, flat .n16 2 0x3000),
    (4, { mat .bf16 1 63 0x2000 with rank := 2, ext2 := 2, str2 := 128 }), (5, mat .f32 63 63 0x8000)]

theorem witness_MatrixProductsFillTheTile : ∃ s : State, ∃ f : W2, usable s f.da (vfmt f) false ∧ usableB s f.db (matG f) ∧
    mmaFits s f ∧ (s.desc f.db).rank.toNat ≤ 1 ∧ s.co.mop = none ∧ unpoisoned s ∧ Claim.covered s 2000 := by
  refine ⟨products, fields 2 0 2 1 0 2, ?_⟩
  unfold usable usableB mmaFits unpoisoned Claim.covered; decide

theorem witness_GroupedProductsUseTheirGroup : ∃ s : State, ∃ f : W2, usable s f.da (vfmt f) false ∧ usableB s f.db (matG f) ∧
    usable s f.dc .n16 false ∧ mmaFits s f ∧ (s.desc f.db).rank.toNat ≤ 2 ∧ (s.desc f.dc).rank = 0 ∧ (s.desc f.dc).ext 0 ≤ 64 ∧
    (s.desc f.db).ext 2 = (s.desc f.dc).ext 0 ∧ s.co.mop = none ∧ unpoisoned s ∧ Claim.covered s 2000 := by
  refine ⟨products, fields 2 3 4 1 0 2, ?_⟩
  unfold usable usableB mmaFits unpoisoned Claim.covered; decide

/-- A state in whose refresh bank 1 stands, at its first and its last tick, and one in no refresh; B in that bank. -/
theorem witness_MatrixProductsFillTheTile_banks :
    refreshing ({ products with tick := 400 } : State).tick = some 1 ∧ refreshing ({ products with tick := 499 } : State).tick = some 1 ∧
    refreshing ({ products with tick := 500 } : State).tick = none ∧
    ({ mat .bf16 1 63 0x1000 with fspace := .well } : Desc).wellBanks.contains 1 = true := by decide

/-- Row counts 64, 0 and 1 reach past the last row of A. -/
theorem witness_GroupedProductsUseTheirGroup_past : ∃ s : State, (s.desc 1).ext 1 < firstRow s (fields 2 3 4 1 0 2) 3 ∧
    firstRow s (fields 2 3 4 1 0 2) 1 = 64 := by
  refine ⟨{ products with co.store := [(0x3000, 64), (0x3004, 1)] }, ?_⟩
  decide

/-- A whole tile of 64 rows of 64 elements, from an origin that no vector operation holds. -/
theorem witness_TilesAreClearedReadAndWritten : ∃ s : State, ∃ f : W2, usable s f.dd (vfmt f) true ∧ usable s f.da (vfmt f) false ∧
    tileSized (s.desc f.dd) ∧ tileSized (s.desc f.da) ∧ s.co.mop = none ∧ s.heldReg [f.ga] = false ∧ unpoisoned s ∧
    Claim.covered s 2000 := by
  refine ⟨products, fields 1 0 0 5 5, ?_⟩
  unfold usable tileSized unpoisoned Claim.covered; decide

/-- An MMR, and a core whose launch has one core: its neighbours are itself. -/
def rotating (p : Bool) (inA inB : Bool) : State :=
  { products with
      co.mmr := [⟨rich.lau.id, 0, 0, 1, 2, List.replicate 256 0, List.replicate 256 0, inA, inB, p, false, [], 0⟩] }

theorem witness_RotatingProductsPassTheirOperands : ∃ s : State, ∃ f : W2, ringDesc s f.da (vfmt f) ∧ ringDesc s f.db (matG f) ∧
    f.da ≠ f.db ∧ mmaFits s f ∧ (s.desc f.db).rank.toNat ≤ 1 ∧ s.co.mop = none ∧ unpoisoned s ∧ Claim.covered s 2000 ∧ s.cx.dropped = false := by
  refine ⟨products, fields 2 0 2 1 0 2, ?_⟩
  unfold ringDesc usable mmaFits unpoisoned Claim.covered; decide

theorem witness_RotatingProductsPassTheirOperands_transfer : ∀ north : Bool, ∃ o : MmrOp,
    ((rotating false false false).coreAt 0).mmr = [o] ∧ (if north then o.inB else o.inA) = false ∧
    (rotating false false false).relocks 0 = false ∧
    (let d := Tab.get Desc.zero ((rotating false false false).coreAt 0).descs (if north then o.db else o.da)
     ((rotating false false false).coreAt 0).holds d.back.toNat (some o.k) = false) ∧ ((rotating false false false).coreAt 0).pumpq = [] ∧
    (let l := (rotating false false false).launchById o.launch
     l.coreAt (if north then l.xrel 0 else (l.xrel 0 + l.width - 1) % l.width)
      (if north then (l.yrel 0 + l.height - 1) % l.height else l.yrel 0) = 0) ∧
    (if north then o.b else o.a).length = (rowAddrs (Tab.get Desc.zero ((rotating false false false).coreAt 0).descs (if north then o.db else o.da))
      (Tab.get Desc.zero ((rotating false false false).coreAt 0).descs (if north then o.db else o.da)).back.toNat).length := by
  intro north
  cases north <;> exact ⟨⟨rich.lau.id, 0, 0, 1, 2, List.replicate 256 0, List.replicate 256 0, false, false, false, false, [], 0⟩, by decide⟩

theorem witness_RotatingProductsPassTheirOperands_release : ∃ s : State, ∃ o rest, s.co.mmr = o :: rest ∧
    s.relocks s.co.id = false ∧ o.da ≠ o.db ∧ ∀ x ∈ (s.launchById o.launch).cores,
      ∃ p, (s.coreAt x).mmr.find? (fun q => q.launch == o.launch && q.k == o.k) = some p ∧ p.prod = true ∧ p.inA = true ∧ p.inB = true := by
  refine ⟨rotating true true true, _, _, rfl, by decide, by decide, fun x h => ?_⟩
  have h0 : x = 0 := by
    have e : ((rotating true true true).launchById rich.lau.id).cores = [0] := by decide
    exact List.mem_singleton.mp (e ▸ h)
  subst h0
  exact ⟨_, rfl, rfl, rfl, rfl⟩

/-- RD and WR as a descriptor's requirement asks. -/
def permits (s : State) (n : Need) : Bool := (!n.rd || (s.desc n.d).rd) && (!n.wr || (s.desc n.d).wr)
theorem permits_iff (s : State) (n : Need) : permits s n = true ↔ n.permitted s := by
  simp [permits, Need.permitted]
  cases n.rd <;> cases n.wr <;> simp

/-- An engine instruction's row passes its checks of the descriptors, in the first `k` of them where that is given. -/
def passes (s : State) (r : ERow) (k : Nat := 4) : Bool :=
  r.needs.all (fun n => (s.desc n.d).state == .ready && n.fmts.contains (s.desc n.d).fmt) && (r.needs.take k).all (fun n => n.space && permits s n)

/-- VADD with descriptors in each state, of a wrong format, in a wrong space and without a permission, the first and the third of them. -/
theorem witness_EngineChecksComeInOrder :
    let i : Instr := .vadd (fields 1 0 3 2 1)
    let ds (d1 d3 : Desc) : State := tensors [(1, d1), (2, flat .f32 7 0x2000), (3, d3)]
    let d := flat .f32 7 0x1000
    (engineRow rich i).any (fun r => r.needs.any (fun n => (rich.desc n.d).state == .empty)) = true ∧
    (let s := ds d { d with state := .draining }
     (engineRow s i).any (fun r => r.needs.all (fun n => (s.desc n.d).state != .empty) && r.needs.any (fun n => (s.desc n.d).state != .ready)) = true) ∧
    (let s := ds d (flat .bf16 7 0x1000)
     (engineRow s i).any (fun r => r.needs.all (fun n => (s.desc n.d).state == .ready) && r.needs.any (fun n => !n.fmts.contains (s.desc n.d).fmt)) = true) ∧
    (let s := ds { d with fspace := .glob } d
     (engineRow s i).any (fun r => passes s r 0 && r.needs.head?.any (fun n => !n.space)) = true) ∧
    (let s := ds d { d with fspace := .glob }
     (engineRow s i).any (fun r => passes s r 2 && r.needs[2]?.any (fun n => !n.space)) = true) ∧
    (let s := ds { d with wr := false } d
     (engineRow s i).any (fun r => passes s r 0 && r.needs.head?.any (fun n => n.space && !permits s n)) = true) ∧
    (let s := ds d { d with rd := false }
     (engineRow s i).any (fun r => passes s r 2 && r.needs[2]?.any (fun n => n.space && !permits s n)) = true) := by decide

/-- VADD of a wrong shape, with a busy unit, with a grant of zero outside a pinned launch and in one, where the rise does not fit by one and
where it fits. -/
theorem witness_EngineChecksComeInOrder_units :
    let i : Instr := .vadd (fields 1 0 2 2 1)
    let d := flat .f32 7 0x1000
    let s : State := tensors [(1, d), (2, d)]
    (let s := tensors [(1, d), (2, flat .f32 6 0x2000)]
     (engineRow s i).any (fun r => passes s r && r.bad == some 0x06) = true) ∧
    (let s := { s with co.vop := some ⟨0, 0, 0, none, [], 9, [], 0, none, false⟩ }
     (engineRow s i).any (fun r => passes s r && r.bad == none && r.busy) = true) ∧
    (∀ pinned, let s := { s with co.grant := 0, cx.pinned := pinned }
     (engineRow s i).any (fun r => passes s r && r.bad == none && !r.busy && r.mw.any (fun w => decide (s.co.grant < grantFor s w)) &&
       s.cx.pinned == pinned) = true) ∧
    ∀ short : Bool, let s := { s with co.grant := 0, cx.pinned := true, gov.upLeft := weightAt s.mult 800 - if short then 1 else 0 }
     (engineRow s i).any (fun r => passes s r && r.bad == none && !r.busy &&
       r.mw.any (fun w => decide (s.gov.upLeft < grantFor s w - s.co.grant) == short)) = true := by decide

/-- RED over a scope of one core, and over one outside its launch. -/
theorem witness_EngineChecksComeInOrder_scope : ∀ legal : Bool,
    let f : W2 := { fields 1 0 0 2 1 with ga := if legal then 0 else 5 }
    let s : State := tensors [(1, flat (redForm f).2 7 0x1000), (2, flat .f32 7 0x2000)]
    ∃ r, engineRow s (.red f) = some r ∧ passes s r = true ∧ r.bad = none ∧ r.scope = some f ∧ f.x2.toNat = 0 ∧
      (scopeOk s r ↔ legal = true) := by
  intro legal f s
  have hx : f.x2.toNat = 0 := by revert legal; decide
  refine ⟨_, rfl, ?_, ?_, rfl, hx, ?_⟩
  · clear hx; revert legal; decide
  · clear hx; revert legal; decide
  · have key : scopeLegal (s.launchOn s.co) (s.int f.ga).toNat ((s.launchOn s.co).xrel s.co.id) ((s.launchOn s.co).yrel s.co.id) = legal := by
      clear hx; revert legal; decide
    constructor
    · intro h
      have := h f rfl hx
      rw [key] at this; exact this
    · intro h g hg _
      cases hg; rw [key]; exact h

/-- TLD .t of a matrix of 3 rows of 2 elements into the back buffer of its transpose. -/
theorem witness_PumpInstructionsEnterTheQueue : ∃ s : State, ∃ i f k ok, pumpRow s i = some (f, k, ok) ∧ ok ∧
    s.co.pumpq.length < 16 ∧ unpoisoned s ∧ Claim.covered s (if s.co.pumpq = [] then 300 else 0) ∧ s.cx.dropped = false ∧
    s.lau.mirror = false ∧ s.co.pumpq.any (fun _ => true) = false ∧ s.sourceReach (s.desc f.da) = .home := by
  refine ⟨tensors [(1, mat .f32 2 1 0x1000 0x1800), (2, mat .f32 1 2 0x2000)], .tld (fields 1 0 0 2 1 1), _, _, _, rfl, ?_⟩
  unfold entry hasBack unpoisoned Claim.covered; decide

/-- DRAIN of 8 elements to the page at 0x10000. -/
theorem witness_DrainedElementsArePlainStores : ∃ s : State, ∃ f ok, pumpRow s (.drain f) = some (f, .drain, ok) ∧ ok ∧
    s.co.pumpq.length < 16 ∧ unpoisoned s ∧ Claim.covered s (if s.co.pumpq = [] then 300 else 0) ∧ s.lau.mirror = false ∧
    s.lau.det = false ∧ s.cx.dropped = false ∧ (∀ p ∈ s.co.pumpq, p.data ≠ none ∧ (p.kind = .drain → p.stored = true)) ∧ (s.desc f.da).sparse = false ∧ (s.desc f.dd).sparse = false ∧
    s.reachOf (s.desc f.dd).foot = .home ∧ (∀ r ∈ (s.desc f.dd).foot, r.1 + r.2 ≤ 2 ^ 48) ∧
    (s.desc f.dd).ext 0 * (s.desc f.dd).w % 8 = 0 := by
  refine ⟨tensors [(1, { flat .f32 7 0x10000 with fspace := .glob }), (2, flat .f32 7 0x2000)], fields 1 0 0 2 1, _, rfl, ?_⟩
  unfold entry unpoisoned Claim.covered; decide

/-- The head of the queue for each kind of operation. -/
def pumping (k : PumpKind) (b : DSpace) : State :=
  { rich with
      co.pumpq := [⟨k, rich.lau.war, rich.cx.hid, 0, 1, 2, { flat .f32 1 0x1000 with back := 0x1800, bspace := b, fspace := b },
        flat .f32 1 0x2000, some [1, 2], 0, 0, true, [], 0⟩] }

theorem witness_PumpCompletionsWriteTheirBuffer : ∀ x ∈ [(PumpKind.xcopy, DSpace.loc), (.tld true, .loc), (.wld true, .wbuf), (.drain, .glob), (.wellw, .well)],
    ∃ s : State, ∃ o rest d, s.co.pumpq = o :: rest ∧ o.data = some d ∧ d.length = o.dst.count ∧ o.hid = s.cx.hid ∧
      s.cx.status ≠ .free ∧ s.relocking = false ∧ s.packed.holdsBack o = false ∧ o.refreshHeld s.tick = false ∧
      s.poisoned o = none ∧ o.raw = false ∧ o.dst.sparse = false ∧ (∀ c ∈ s.cx :: s.co.ctxs, c.wait = none) ∧ o.kind = x.1 ∧ o.dst.bspace = x.2 ∧ o.dst.fspace = x.2 ∧
      o.stored = true ∧ s.lau.mirror = false ∧ s.lau.checked = false ∧
      (match s.reachOf o.rows with
        | .peer _ => false
        | _ => true) = true := by
  intro x h
  refine ⟨pumping x.1 x.2, _, _, [1, 2], rfl, rfl, ?_⟩
  simp only [List.mem_cons, List.not_mem_nil, or_false] at h
  rcases h with rfl | rfl | rfl | rfl | rfl <;> decide

/-- An operation behind one that has yet to bring its source, and one behind none. -/
theorem witness_PumpInstructionsEnterTheQueue_behind : ∃ s : State, ∃ o : PumpOp, s.co.pumpq.any (o.dependsOn ·) = true ∧
    ([] : List PumpOp).any (o.dependsOn ·) = false :=
  ⟨{ pumping .xcopy .loc with co.pumpq := (pumping .xcopy .loc).co.pumpq.map (fun o => { o with data := none }) },
    ⟨.xcopy, rich.lau.war, rich.cx.hid, 0, 3, 1, flat .f32 1 0x3000, flat .f32 1 0x1800, none, 0, 0, false, [], 0⟩, by decide⟩

/-- A PUB that waits for the fill at the head of the queue. -/
def pubWaits : State :=
  { pumping .xcopy .loc with
      co.descs := [(1, { flat .f32 1 0x1000 with back := 0x1800, state := .filling })]
      cx.status := .waiting, cx.wait := some (.pub 1) }

theorem witness_PublishingSwapsTheBuffers_waits : ∃ o rest data, pubWaits.co.pumpq = o :: rest ∧ o.data = some data ∧
    pubWaits.relocking = false ∧ pubWaits.packed.holdsBack o = false ∧ pubWaits.lau.checked = false ∧ o.refreshHeld pubWaits.tick = false ∧ pubWaits.poisoned o = none ∧
    o.kind = .xcopy ∧ o.dst.bspace = .loc ∧ o.dd = 1 ∧ o.hid = pubWaits.cx.hid ∧ pubWaits.cx.status = .waiting ∧
    pubWaits.cx.wait = some (.pub 1) ∧ (∀ c ∈ pubWaits.co.ctxs, c.wait = none) :=
  ⟨_, _, _, rfl, rfl, by decide⟩

/-- PUB of a descriptor in each state: without a completed fill, and with one. -/
theorem witness_PublishingSwapsTheBuffers : (rich.desc 1).state = .empty ∧
    ((tensors [(1, flat .f32 7 0x1000)]).desc 1).state = .ready ∧
    (∃ s : State, (s.desc 1).state = .filling ∧ (∀ x ∈ s.co.fills, x.1 ≠ 1) ∧ s.lau.checked = false) ∧ (∃ s : State, (s.desc 1).state = .draining) ∧
    ∃ s : State, (s.desc 1).state = .filling ∧ s.co.fills.find? (·.1 == 1) = some (1, 0, []) ∧
      ∀ c ∈ s.cx :: s.co.ctxs, c.wait = none :=
  ⟨by decide, by decide, ⟨tensors [(1, { flat .f32 7 0x1000 with state := .filling })], by decide⟩,
    ⟨tensors [(1, { flat .f32 7 0x1000 with state := .draining })], by decide⟩,
    ⟨{ tensors [(1, { flat .f32 7 0x1000 with state := .filling })] with co.fills := [(1, 0, [])] }, by decide⟩⟩

/-- A checked launch whose fill of a global back buffer still runs, and a completed one of two bytes, of a mapped page and of one that is not. -/
theorem witness_PublishingSwapsTheBuffers_global : (∃ s : State, (s.desc 1).state = .filling ∧ (∀ x ∈ s.co.fills, x.1 ≠ 1) ∧
      s.lau.checked = true ∧ (s.desc 1).bspace = .glob) ∧
    (∃ s : State, (s.desc 1).state = .filling ∧ s.co.fills.find? (·.1 == 1) = some (1, 0, [(0x10000, 7), (0x30000, 8)]) ∧
      ([(0x10000, 7), (0x30000, 8)] : List (Nat × Byte)).find? (fun p => s.translate p.1 == .unmapped) = some (0x30000, 8)) ∧
    ∃ s : State, ∃ l, (s.desc 1).state = .filling ∧ s.co.fills.find? (·.1 == 1) = some (1, 0, l) ∧ l ≠ [] ∧
      (∀ p ∈ l, s.translate p.1 = .home p.1) ∧ s.lau.det = false ∧ (∀ c ∈ s.cx :: s.co.ctxs, c.wait = none) ∧ s.lau.mirror = false ∧
      s.cx.dropped = false ∧ s.spaces.any (·.id == s.war.space) = true := by
  refine ⟨⟨{ tensors [(1, { flat .f32 7 0x1000 with state := .filling, bspace := .glob })] with
      launches := rich.launches.map (fun l => { l with checked := true }) }, by decide⟩,
    ⟨{ tensors [(1, { flat .f32 7 0x1000 with state := .filling })] with co.fills := [(1, 0, [(0x10000, 7), (0x30000, 8)])] }, by decide⟩,
    ⟨{ tensors [(1, { flat .f32 7 0x1000 with state := .filling })] with co.fills := [(1, 0, [(0x10000, 7), (0x1FFFF, 8)])] },
      [(0x10000, 7), (0x1FFFF, 8)], by decide⟩⟩

/-- A DRAIN to a peer, and a mirror's whose primary's is accepted. -/
theorem witness_PumpCompletionsWriteTheirBuffer_peer : (∃ s : State, ∃ o : PumpOp, s.reachOf o.rows = .peer 1 ∧ o.kind = .drain ∧ o.dst.fspace = .glob) ∧
    ∃ s : State, ∃ o r, s.co.pumpq = [o] ∧ s.lau.mirror = true ∧ s.mirrorReply s.co.id (o.hid % 65536) o.load = some r ∧ r.unmapped = none := by
  let p : Nat := 2 ^ 62 + 2 ^ 48 + 0x10000
  refine ⟨⟨peered, ⟨.drain, rich.lau.war, rich.cx.hid, 0, 1, 2, { flat .f32 1 (BitVec.ofNat 64 p) with fspace := .glob }, flat .f32 1 0x2000,
      some [1, 2], 0, 0, true, [], 0⟩, by decide⟩,
    ⟨{ pumping .drain .glob with
        launches := [{ rich.lau with mirror := true, mirrorOf := some 9 }, { Launch.zero with id := 9, replies := [⟨0, 0, 0, 0, 0, false, [], none⟩] }] },
      _, _, rfl, by decide, rfl, rfl⟩⟩

/-- A descriptor word whose format code is reserved, and one of a flat INT8 descriptor at 0x800 of the window. -/
def setting (w : Nat) : State :=
  { rich with co.store := Memory.writeN [] 0 (leBytes 64 w), cx.wsize := 2 }
/-- A ready INT8 descriptor with RD, one element, front buffer at `o`. -/
def flatWord (o : Nat) : Nat :=
  ({ flat .i8 0 (BitVec.ofNat 64 o) with state := .ready } : Desc).image

theorem witness_DescriptorsAreSetReadAndCleared : (descOf (15 * 8)).isNone = true ∧
    (∃ d, descOf (flatWord 1023) = some d ∧ d.fspace = .loc ∧ d.bspace = .loc ∧ d.back = 0 ∧ d.front.toNat % 16384 < 1024) ∧
    (∃ d, descOf (flatWord 1024) = some d ∧ d.fspace = .loc ∧ d.bspace = .loc ∧ d.back = 0 ∧ 1024 ≤ d.front.toNat % 16384 ∧
      d.front.toNat % 16384 + d.hull d.front.toNat ≤ 16384 ∧ d.extBad = false ∧ d.hasScale = false ∧
      d.aligned (BitVec.ofNat 64 (rich.cx.wbase.toNat + d.front.toNat % 16384)) = true) ∧
    localVal (setting (flatWord 1024)) 0 64 = flatWord 1024 ∧
    (rich.desc 1).state ≠ .filling ∧ (rich.desc 1).state ≠ .draining ∧
    ∃ s : State, (s.desc 1).state = .filling ∨ (s.desc 1).state = .draining := by
  refine ⟨by decide, ⟨flat .i8 0 1023, by decide +kernel⟩,
    ⟨flat .i8 0 1024, by decide +kernel⟩, by decide, by decide, by decide,
    ⟨tensors [(1, { flat .f32 7 0x1000 with state := .draining })], by decide⟩⟩

/-- `rich` with descriptors, in a launch of two cores. -/
def duo (l : List (Nat × Desc)) : State :=
  { tensors l with launches := rich.launches.map (fun x => { x with width := 2 }) }
/-- FP32 descriptors 1 and 2 of eight elements. -/
def sums : State := duo [(1, flat .f32 7 0x1000), (2, flat .f32 7 0x2000)]
/-- Fields of a collective of the whole launch. -/
def whole : W2 := { fields 1 0 0 2 1 with x2 := 1 }

/-- The one core at (1, 0), and a word with a bit above its fields, a rectangle that is not aligned, one that sticks out and one without the core. -/
theorem witness_ScopeWordsAreChecked : wordFits (duo []).lau (duo []).co.id 0 ∧ wordFits (duo []).lau (duo []).co.id 0x100000000 ∧
    ¬ wordFits (duo []).lau (duo []).co.id 0x10000000000 ∧ ¬ wordFits (duo []).lau (duo []).co.id 0x100000001 ∧
    ¬ wordFits (duo []).lau (duo []).co.id 0x200000000 ∧ ¬ wordFits (duo []).lau (duo []).co.id 1 := by
  unfold wordFits; decide

/-- A round of BAR that one of two participants has joined, and one that both have. -/
def barred (l : List Nat) : State :=
  { duo [] with
      cx.status := .waiting, cx.wait := some (.bar ⟨1, 0⟩ 0)
      rounds := [⟨0, 2 * rich.lau.id, ⟨1, 0⟩, .bar, 0, 2, 10, [0, 1], none, [], l, [], none, []⟩] }

theorem witness_BarriersGatherAndRelease : (∃ sc, scopeOf sums whole = some sc) ∧ ∀ l ∈ [[0], [0, 1]],
    ∃ s : State, ∃ sc i r, s.cx.status = .waiting ∧ s.cx.wait = some (.bar ⟨1, 0⟩ 0) ∧
      s.scopeAt s.co.id 1 0 = some sc ∧ s.rootHeld s.co.id sc = false ∧
      s.findRound sc.owner sc.key .bar 0 (fun r => !r.taken.contains sc.idx) = some i ∧ s.rounds[i]? = some r ∧ r.issued = l := by
  refine ⟨⟨_, rfl⟩, fun l h => ?_⟩
  simp only [List.mem_cons, List.not_mem_nil, or_false] at h
  rcases h with rfl | rfl
  · exact ⟨barred [0], _, 0, _, rfl, rfl, rfl, by decide, by decide, rfl, rfl⟩
  · exact ⟨barred [0, 1], _, 0, _, rfl, rfl, rfl, by decide, by decide, rfl, rfl⟩

/-- Two participants, and the one core of a scope word. -/
theorem witness_ReductionsContribute : ∀ x ∈ [(1, 2), (0, 1)], ∃ s : State, ∃ f : W2, ∃ sc, f.x2.toNat = x.1 ∧ scopeOf s f = some sc ∧
    redReady s f (redKind f).2 ∧ redReady s f (vfmt f) ∧ sc.me = none ∧ sc.idx < sc.cores.length ∧ sc.cores.length = sc.parts ∧
    sc.parts = x.2 ∧ s.rootHeld s.co.id sc = false ∧ s.rounds = [] ∧ (s.co.scopeSt sc.key).reds = 0 := by
  intro x h
  simp only [List.mem_cons, List.not_mem_nil, or_false] at h
  rcases h with rfl | rfl
  · refine ⟨sums, whole, _, rfl, rfl, ?_⟩
    unfold redReady usable unpoisoned Claim.covered; decide
  · refine ⟨sums, { whole with x2 := 0 }, _, rfl, rfl, ?_⟩
    unfold redReady usable unpoisoned Claim.covered; decide

/-- A value of participant `i`. -/
def nodeVal (i : Nat) : NodeVal := ⟨.sumI, some 50, [1, 2], [i]⟩
/-- A round of RED over `p` cores with node (1, 0) of cutoff 50 + 10. -/
def treeRound (p : Nat) (left : Option NodeVal) : Round :=
  ⟨5, 2 * rich.lau.id, ⟨1, 0⟩, .red, 0, p, 10, List.range p, none,
    [⟨1, 0, 10, some (some 50), left, none, left.isSome, false, false, true⟩], [0], [], none, []⟩
/-- A message to the right child of that node. -/
def treeMsg : Msg := ⟨0, 1, 65536, 0, .node (2 * rich.lau.id) 5 1 0 true (nodeVal 1), 0, none⟩
/-- The round and the message at tick 60. -/
def reducing (p : Nat) (left : Option NodeVal) : State :=
  { duo [] with tick := 60, rounds := [treeRound p left], net := [treeMsg] }

/-- The right value first and last at the root, at the tick of the cutoff, deadline + level × hop allowance; the cutoff at the root and below
it, then and a tick later. -/
theorem witness_ReductionNodesCombine : (∀ p ∈ [2, 4], (reducing p none).asleep (2 * rich.lau.id) ⟨1, 0⟩ 0 = false) ∧
    (∀ a ∈ [none, some (nodeVal 0)], let s := reducing 2 a
      let r := treeRound 2 a
      s.rounds[0]? = some r ∧ r.me = none ∧ r.taken = [] ∧ r.cores ≠ [] ∧ (r.node 1 0).fwd = false ∧ s.net = [treeMsg] ∧
      treeMsg.payload = .node r.owner r.rid 1 0 true (nodeVal 1) ∧ s.pathHeld treeMsg.src treeMsg.dst = false ∧
      s.rounds.findIdx? (·.rid == r.rid) = some 0 ∧ (r.node 1 0).rightIn = false ∧ (r.node 1 0).dl = some (some 50) ∧
      s.tick = 50 + 1 * (r.node 1 0).hop ∧ (r.node 1 0).left = a ∧ (r.node 1 0).leftIn = a.isSome ∧ r.depth ≤ 1) ∧
    (∀ p ∈ [2, 4], let s := reducing p (some (nodeVal 0))
      let r := treeRound p (some (nodeVal 0))
      (r.node 1 0).right = none ∧ 50 + 1 * (r.node 1 0).hop = s.tick ∧
      50 + 1 * (r.node 1 0).hop < ({ s with tick := 61 } : State).tick ∧ r.coreOf (0 * 2 ^ 1) = some 0 ∧ s.relocks 0 = false ∧
      (r.depth ≤ 1 ↔ p = 2) ∧ r.coreOf (0 / 2 * 2 ^ 2) = some 0) := by decide

/-- The first value a tick after the cutoff of its node, below the root. -/
theorem witness_ReductionNodesCombine_late : ∃ s : State, ∃ r : Round, s.rounds[0]? = some r ∧ (r.node 1 0).left = none ∧
    (r.node 1 0).right = none ∧ (r.node 1 0).dl = none ∧ (nodeVal 1).deadline = some 50 ∧ 50 + 1 * (r.node 1 0).hop < s.tick ∧
    (nodeVal 1).bits ≠ [] ∧ 1 < r.depth ∧ r.coreOf (0 * 2 ^ 1) = some 0 ∧ r.coreOf (0 / 2 * 2 ^ 2) = some 0 ∧ r.coreOf 0 = some 0 ∧
    s.asleep r.owner r.key 0 = false :=
  ⟨{ duo [] with tick := 61, net := [treeMsg], rounds := [{ treeRound 4 none with nodes := [] }] }, _, rfl, by decide⟩

/-- A result for a waiting RED and for a waiting REDX. -/
def resulting (k : RKind) (w : WaitOp) : State :=
  { duo [] with
      cx.status := .waiting, cx.wait := some w
      rounds := [⟨5, 2 * rich.lau.id, ⟨1, 0⟩, k, 0, 2, 10, [0, 1], none, [], [0, 1], [], some (nodeVal 0), []⟩] }

theorem witness_ReductionResultsArrive : ∀ x ∈ [(RKind.red, WaitOp.red ⟨1, 0⟩ 0 Desc.zero), (.redx, .redx ⟨1, 0⟩ 0 Desc.zero)],
    ∃ sc i v, (resulting x.1 x.2).cx.status = .waiting ∧
      (resulting x.1 x.2).scopeAt (resulting x.1 x.2).co.id 1 0 = some sc ∧ sc.key = ⟨1, 0⟩ ∧
      (resulting x.1 x.2).rootHeld (resulting x.1 x.2).co.id sc = false ∧ (resulting x.1 x.2).cx.wait = some x.2 ∧
      (resulting x.1 x.2).resultFor x.1 sc 0 = some (i, v) := by
  intro x h
  simp only [List.mem_cons, List.not_mem_nil, or_false] at h
  rcases h with rfl | rfl <;> exact ⟨_, 0, nodeVal 0, rfl, rfl, by decide⟩

/-- A word for the bitmap of a launch of `n` cores. -/
def bitmapped (n : Nat) : State :=
  { tensors [(1, flat .n32 0 0x1000)] with launches := rich.launches.map (fun l => { l with width := n }) }

/-- RSTAT .bm of a launch of two cores into one word, and a launch of 33, for which one word is too few. -/
theorem witness_CorrectionsAreReportedAndTaken_bm : ∀ x ∈ [(2, false), (33, true)], ∃ s : State, ∃ f : W2, ∃ sc, scopeOf s f = some sc ∧
    f.minor.toNat % 2 = 1 ∧ f.x2.toNat < 3 ∧ usable s f.dd .n32 true ∧ unpoisoned s ∧ sc.parts = x.1 ∧
    decide ((s.desc f.dd).count < (sc.parts + 31) / 32) = x.2 := by
  intro x h
  simp only [List.mem_cons, List.not_mem_nil, or_false] at h
  rcases h with rfl | rfl
  · refine ⟨bitmapped 2, { whole with minor := 1 }, _, rfl, ?_⟩
    unfold usable unpoisoned; decide
  · refine ⟨bitmapped 33, { whole with minor := 1 }, _, rfl, ?_⟩
    unfold usable unpoisoned; decide

/-- A correction that has come and one that has not, with time limits 0 and 3, and a wait whose limit is over. -/
theorem witness_CorrectionsAreReportedAndTaken : ∃ sc : Scp, ∃ f : W2, scopeOf sums f = some sc ∧ f.minor.toNat % 2 = 0 ∧
    unpoisoned sums ∧ (sums.desc f.dd).state = .ready ∧ (sums.desc f.dd).fmt = .f32 ∧ (sums.desc f.dd).fspace = .loc ∧
    (sums.desc f.dd).wr = true ∧ sums.co.vop = none ∧ sums.lau.det = false ∧ sums.undelivered sums.co.id sc = [] ∧
    sums.int f.gd = 0 ∧ sums.int 5 ≠ 0 ∧ (∃ s : State, s.lau.det = true) ∧
    (∃ s : State, ∃ r rest, scopeOf s f = some sc ∧ s.lau.det = false ∧ s.undelivered s.co.id sc = r :: rest) ∧
    ∃ s : State, s.cx.status = .waiting ∧ s.cx.wait = some (.corr ⟨1, 0⟩ Desc.zero 5 7 0) ∧ 7 ≤ s.tick := by
  refine ⟨_, whole, rfl, by decide, by unfold unpoisoned; decide, by decide, by decide, by decide, by decide, by decide, by decide,
    by decide, by decide, by decide, ⟨{ rich with launches := rich.launches.map (fun x => { x with det := true }) }, by decide⟩,
    ⟨{ sums with
        corrLog := [⟨2 * rich.lau.id, ⟨1, 0⟩, 0, nodeVal 1⟩]
        co.coll := [⟨⟨1, 0⟩, 0, 1, 0, some 0, [0], 0, 1⟩] }, ⟨2 * rich.lau.id, ⟨1, 0⟩, 0, nodeVal 1⟩, [], rfl, by decide, by decide⟩,
    ⟨{ rich with cx.status := .waiting, cx.wait := some (.corr ⟨1, 0⟩ Desc.zero 5 7 0), tick := 7 }, rfl, rfl, by decide⟩⟩

theorem base_mayIssue : mayIssue base .nop :=
  ⟨by decide, by unfold pcMapped; decide, by decide, by decide, by decide, by decide, by decide, by decide, by unfold readable; decide⟩

/-- A NOP at the PC of the context of slot 0. -/
theorem witness_AStepRunsTheDecodedInstruction : ∃ s : State, ∃ slot rest i, s.agenda = .slotVisit s.co.id slot :: rest ∧
    s.powered = true ∧ s.ir = none ∧ canVisit s slot ∧ s.comesFirst (.slotVisit s.co.id slot) = none ∧ mayIssue s i := by
  refine ⟨base, 0, [], .nop, rfl, by decide, by decide, ?_, by decide, base_mayIssue⟩
  unfold canVisit; decide

/-- The context of `base` at the last slot and at slot 0 may be visited; its page unmapped, a length of no word, a third word on an unmapped page, and an unused major. -/
theorem witness_FetchAndDecodingFailuresTrap : canVisit base 0 ∧ readable base ∧ canVisit { base with cx.slot := some 10 } 10 ∧
    (∃ s : State, canVisit s 0 ∧ readable s ∧ ¬ pcMapped s 0) ∧
    (∃ s : State, canVisit s 0 ∧ readable s ∧ pcMapped s 0 ∧ pcWords s = 0) ∧
    (∃ s : State, canVisit s 0 ∧ readable s ∧ pcMapped s 0 ∧ 2 < pcWords s ∧ pcMapped s 1 ∧ ¬ pcMapped s 2) ∧
    ∃ s : State, canVisit s 0 ∧ readable s ∧ pcWords s = 1 ∧ pcMapped s 0 ∧ decodeWords (pcWord s 0) 0 0 = .error .major := by
  refine ⟨?_, ?_, ?_, ⟨{ base with cx.pc := 0x600000 }, ?_⟩, ⟨State.reset.withFetchWord 32 3, ?_⟩,
    ⟨{ base with cx.pc := 0x3FFFF8, spaces := base.spaces.map (fun p => { p with imem := [(0x3FFFF8, 2)], ipages := [1] }) }, ?_⟩,
    ⟨State.reset.withFetchWord 32 0xFC, ?_⟩⟩
  all_goals try unfold canVisit
  all_goals try unfold readable
  all_goals try unfold pcMapped
  all_goals decide

/-- A helper whose first and last lines are on their way, in a space with poisoned lines. -/
def lineWanted (l : List Nat) : State :=
  { helper with cx.lineReq := 9, spaces := helper.spaces.map (fun p => { p with poison := l }) }

/-- A context whose first and last lines are on their way, a full core with one waiting helper, slot 11 with a line to write back, a helper that
has waited for exactly the threshold at its visit, the last tick of the last bank's refresh with an operation that reads the bank, and an arrival during a relock. -/
theorem witness_ContextsComeAndGo : rich.cx.status ≠ .free ∧ entered rich ∧ canVisit base 0 ∧ mayIssue base .nop ∧
    (∃ s : State, ∃ w rest, s.relocking = false ∧ s.nextVisit 11 = 11 ∧ s.co.wbq = w :: rest ∧ w.left = 1) ∧
    (∃ s : State, s.cx.status ≠ .free ∧ s.relocks s.co.id = true ∧ dieOf s.co.id < s.dies.length) ∧
    (∀ bad : Bool, ∃ s : State, s.cx.status = .resident ∧ s.cx.lineReq.getLsbD 0 = true ∧ s.cx.lineReq.getLsbD 3 = true ∧ s.cx.helper = true ∧
      s.co.ring.length < 64 ∧ entered s ∧ s.space.bad (s.war.recAddr s.lau s.co.id s.cx + 128 * 3) = bad ∧
      (bad = false → ∀ at_, s.space.bad at_ = false)) ∧
    (∃ s : State, s.packed.freeSlot = some 1 ∧ s.packed.queueHead s.lau.det = some 1 ∧ (s.ctxAt s.co.id 1).isSome = true) ∧
    (∃ s : State, (∀ r ∈ s.co.lru, ∀ w ∈ s.co.wbq, w.hid ≠ r.hid) ∧ s.co.lru.length = 65 ∧ s.co.wbq ≠ []) ∧
    (∃ s : State, ∃ k, s.cx.helper = true ∧ s.cx.status = .waiting ∧ s.cx.waitk ≠ 0 ∧ s.cx.wait ≠ some .detHold ∧ s.cx.slot = some k ∧ k < 11 ∧
      s.relocking = false ∧ s.lau.halted = false ∧ s.nextVisit k = k ∧ s.co.actthr.toNat = (visited s k).co.cycle - s.cx.waitSince ∧ s.packed.queueEmpty = false) ∧
    ∃ s : State, ∃ v, s.tick % 400 = 99 ∧ s.tick % 6400 / 400 = 15 ∧ s.co.mop = some v ∧ v.since = s.tick / 400 ∧ 15 ∈ v.banks ∧ s.co.cycle < v.cycles := by
  refine ⟨by decide, by unfold entered; decide, by unfold canVisit; decide,
    base_mayIssue,
    ⟨{ rich with co.cycle := 11, co.wbq := [{ slot := 1, hid := 0, left := 1 }] }, _, _, by decide, by decide, rfl, rfl⟩,
    ⟨{ rich with dies := List.replicate 8 { DieSt.reset with relock := some 9 } }, by decide⟩,
    fun bad => ?_,
    ⟨{ withHelper .queued with co.started := [1] }, by decide⟩,
    ⟨{ rich with co.lru := List.replicate 65 ⟨1, 0, 0⟩, co.wbq := [{ slot := 1, hid := 2, left := 1 }] }, by decide⟩,
    ⟨{ helper with cx.status := .waiting, cx.waitk := 2, co.cycle := 2052, co.started := [2], cx.waitSince := 5 }, 0, ?_⟩,
    ⟨{ rich with tick := 6099, co.mop := some ⟨0, 0, 0, [], 0, 2 ^ 40, [], [], false, 0, none, [15], 15⟩ }, _, by decide, by decide, rfl, by decide⟩⟩
  · cases bad
    · exact ⟨lineWanted [], by decide, by decide, by decide, by decide, by decide, by unfold entered; decide, rfl, fun _ _ => rfl⟩
    · refine ⟨lineWanted [(rich.war.recAddr rich.lau 0 helper.cx + 128 * 3) / 64], rfl, rfl, rfl, rfl, by decide, by unfold entered; decide, ?_, fun h => by cases h⟩
      have e : ∀ l, (lineWanted l).space.poison = l := fun l => rfl
      have w : ∀ l, (lineWanted l).war = rich.war := fun l => rfl
      have u : ∀ l, (lineWanted l).lau = rich.lau := fun l => rfl
      have c : ∀ l, rich.war.recAddr rich.lau (lineWanted l).co.id (lineWanted l).cx = rich.war.recAddr rich.lau 0 helper.cx := fun l => rfl
      rw [Space.bad, e, w, u, c]
      exact List.contains_iff_mem.mpr (List.mem_singleton.mpr rfl)
  · decide

/-- An operation of an ended context and one of a live context, for the vector unit; one of an ended context for the matrix unit; a helper whose
lines are on their way. -/
theorem witness_UncorrectableErrorsEndOperations : (∃ s : State, ∃ v, s.co.vop = some v ∧ v.reads = false ∧ v.hid = 65536) ∧
    (∃ s : State, ∃ v, s.co.vop = some v ∧ v.reads = false ∧ v.hid = s.cx.hid ∧ s.cx.status = .resident ∧ s.cx.hid < 65536 ∧ s.cx.pend = none ∧
      s.cx.wait = none ∧ s.cx.helper = false ∧ s.cx.intrap = false ∧ s.cx.tvec ≠ 0) ∧
    (∃ s : State, ∃ v, s.co.mop = some v ∧ v.hid = 65536 ∧ v.mmr = false) ∧
    (∃ s : State, s.cx.status = .resident ∧ s.cx.helper = true ∧ s.co.ring.length < 64 ∧ entered s ∧ s.cx.lineReq.getLsbD 0 = true ∧
      s.cx.lineReq.getLsbD 3 = true) ∧
    ∃ s : State, canVisit s 0 ∧ s.cx.helper = true ∧ s.space.fetchBad s.cx.pc.toNat = some 0x8000 :=
  ⟨⟨{ rich with co.vop := some ⟨65536, 0, 0, none, [], 0, [], 0, none, false⟩ }, _, rfl, rfl, rfl⟩,
    ⟨{ rich with co.vop := some ⟨0, 0, 0, none, [], 0, [], 0, none, false⟩, cx.tvec := 0x200040 }, _, rfl, by decide⟩,
    ⟨{ rich with co.mop := some ⟨65536, 0, 0, [], 0, 0, [], [], false, 0, none, [], 0⟩ }, _, rfl, by decide⟩,
    ⟨{ helper with cx.lineReq := 9 }, by unfold entered; decide⟩,
    ⟨{ helper with spaces := helper.spaces.map (fun p => { p with ipoison := [0x8000] }) }, by unfold canVisit; decide⟩⟩

/-- Core 0 of a checked launch and core 48 of its mirror with the hashes of one message, core 0 having sent `sent` of the two that it keeps. -/
def copies (h k : Word) (sent : Nat := 2) : State :=
  let s := { rich with
    tick := 9
    launches := rich.launches.map (fun l : Launch => { l with checked := true }) ++
      [{ Launch.zero with id := 77, war := rich.lau.war, width := 1, height := 1, px := 48, checked := true, mirror := true, mirrorOf := some rich.lau.id, state := .accepted, started := [48] }]
    cx.status := .waiting, cx.wait := some (.check h 9), cx.sent := sent, cx.hashes := [5, 6] }
  { s with cores := [{ Core.zero 48 with launch := some 77, ctxs := [{ Ctx.zero with status := .waiting, slot := some 0, wait := some (.check k 9) }] }] }

theorem witness_CheckedCopiesAgreeOrRestart : ∀ x ∈ [(7, 7), (7, 8)], (copies x.1 x.2).partner 0 = some 48 ∧ (copies x.1 x.2).tick = 9 ∧
    (∀ c ∈ (copies x.1 x.2).cores, c.id ≠ (copies x.1 x.2).co.id) ∧
    ctxIs (copies x.1 x.2) 0 0 (fun c => c.wait = some (.check x.1 9) ∧ c.status = .waiting ∧ c.restarted = false) ∧
    ctxIs (copies x.1 x.2) 48 0 (fun c => c.wait = some (.check x.2 9) ∧ c.status = .waiting ∧ c.restarted = false) ∧
    (copies x.1 x.2).relocks 0 = false ∧ ctxIs (copies x.1 x.2) 0 0 (fun c => ¬ c.sent < c.hashes.length) ∧
    ctxIs (copies x.1 x.2) 48 0 (fun c => ¬ c.sent < c.hashes.length) ∧
    ctxIs (copies x.1 x.2 1) 0 0 (fun c => c.wait = some (.check x.1 9) ∧ c.sent < c.hashes.length) := by
  intro x h
  simp only [List.mem_cons, List.not_mem_nil, or_false] at h
  rcases h with rfl | rfl
  · exact ⟨by decide, rfl, by decide, ⟨_, rfl, by decide⟩, ⟨_, rfl, by decide⟩, by decide, ⟨_, rfl, by decide⟩, ⟨_, rfl, by decide⟩, ⟨_, rfl, by decide⟩⟩
  · exact ⟨by decide, rfl, by decide, ⟨_, rfl, by decide⟩, ⟨_, rfl, by decide⟩, by decide, ⟨_, rfl, by decide⟩, ⟨_, rfl, by decide⟩, ⟨_, rfl, by decide⟩⟩

/-- The boundary of the first window, at the core's cycle that belongs to it. -/
theorem witness_GrantsFollowTheWindow : ∃ s : State, s.cores = [] ∧ s.launches = [] ∧ s.co.gramp = none ∧ s.gov.writes = [] ∧
    s.relocks s.co.id = false ∧ s.dies.length = 8 ∧ s.co.cycBase + s.mult * (s.gov.next - s.co.cycTick) = s.co.cycle ∧
    s.gov.overCnt < 3 ∧ s.gov.low < 63 ∧ ∀ d ∈ s.dies, d.hot < 63 ∧ d.cur = Min.min d.tgt d.ceil ∧ d.back = 0 :=
  ⟨{ State.reset with co.cycle := 1600, co.grant := 2048000, co.weightSum := 100 }, by decide⟩

/-- The management port answers, and the limits of each governor field. -/
theorem witness_GovernorRegistersAndSamples : (∃ s : State, manages s) ∧ State.reset.dies.length = 8 ∧
    limited 50 1000 49 = 50 ∧ limited 50 1000 50 = 50 ∧ limited 50 1000 1000 = 1000 ∧ limited 50 1000 1001 = 1000 :=
  ⟨⟨{ State.reset with ctrls := List.replicate 9 { Ctrl.reset with running := true } }, by unfold manages; decide⟩, by decide⟩

/-- The state that an answer gives. -/
def nextOf (r : Res) : State :=
  match r with
  | .next t => t
  | _ => State.reset

/-- `rich`, die 0 of which relocks until tick 9 while an instruction and a reply wait at its inputs. -/
def relocking : State :=
  { rich with
      cx.awaitFetch := true
      dies := rich.dies.modify 0 (fun d => { d with relock := some 9, inputs := [.fetch 0 0 false, .reply 0 0 .home false] }) }

/-- No message or correction, and no context that waits for a collective. -/
theorem witness_RelocksScrubsAndEvents : (∃ s t : State, ∃ die till, (s.dies.getD die DieSt.reset).relock = some till ∧ s.corrLog = [] ∧
      (∀ m ∈ s.net, die ∉ pathDies m.src m.dst) ∧ (s.dies.getD die DieSt.reset).inputs.length = 2 ∧
      enterInOrder (s.dies.getD die DieSt.reset).inputs { s with
        tick := Max.max s.tick till, dies := s.dies.modify die (fun d => { d with relock := none, inputs := [] }) } t ∧
      ∀ c ∈ t.allCores, c.mmr = [] ∧ ∀ x ∈ c.ctxs, ¬ ∃ k n, x.wait = some (.bar k n) ∨ ∃ d, x.wait = some (.red k n d) ∨ x.wait = some (.redx k n d)) ∧
    rich.spaces.any (·.id == rich.war.space) = true ∧ Tab.get 0 rich.sensors 0x60 ≠ 2 ∧
    Tab.get 0 rich.sensors (0x59 + scrubDie (.well 7 0)) ≠ 1 := by
  let u : State := { relocking with
    tick := Max.max relocking.tick 9, dies := relocking.dies.modify 0 (fun d => { d with relock := none, inputs := [] }) }
  let v := nextOf (exec (.instructionFetchArrival 0 0 false) u)
  refine ⟨⟨relocking, nextOf (exec (.globalReply 0 0 .home false) v), 0, 9, by decide, by decide, by decide, by decide,
    ⟨_, v, rfl, rfl, _, _, rfl, rfl, rfl⟩, ?_⟩, by decide, by decide, by decide⟩
  have idle : ∀ c ∈ (nextOf (exec (.globalReply 0 0 .home false) v)).allCores, c.mmr = [] ∧ ∀ x ∈ c.ctxs, x.wait = none := by decide
  intro c hc
  refine ⟨(idle c hc).1, fun x hx h => ?_⟩
  rw [(idle c hc).2 x hx] at h
  obtain ⟨k, n, h | ⟨d, h | h⟩⟩ := h <;> cases h

/-- A STANDBY launch on core 0 with its warrant, and what the field says of it. -/
def standby (f : Launch → Launch) (tick : Nat) : State :=
  { rich with
      tick := tick
      launches := rich.launches.map (fun l : Launch => f { l with cls := 2 })
      wars := rich.wars.map (fun w : Warrant => { w with rec_ := { w.rec_ with cls := 2 } }) }
/-- A RESERVED warrant holds core 0. -/
def claimed : State :=
  let s := standby (fun l => { l with granted := [0], started := [0] }) 0
  { s with wars := s.wars ++ [{ Warrant.zero with id := 99, rec_ := { WarRec.zero with width := 1, height := 1 } }] }

theorem witness_StandbyLaunchesMove : (let l := claimed.launchById rich.lau.id
    l.id = rich.lau.id ∧ l.cls = 2 ∧ l.state = .accepted ∧ l.mirrorOf = none ∧ (∀ x ∈ claimed.launches, x.mirrorOf ≠ some rich.lau.id) ∧
      l.granted ≠ [] ∧ quiet claimed l ∧ (∀ c ∈ l.live, c ∈ l.cores) ∧ claimed.leafQuiet (claimed.pairCores rich.lau.id) = false ∧
      ∃ c ∈ l.cores, claimed.heldCore c = true) ∧
    ∃ s : State, (s.launchById rich.lau.id).halted = true ∧ quiet s (s.launchById rich.lau.id) ∧ (s.launchById rich.lau.id).cls = 2 := by
  refine ⟨?_, ⟨standby (fun l => { l with granted := [0], started := [0], halted := true }) 0, ?_⟩⟩
  all_goals
  unfold quiet; decide

/-- The last free rectangle of one core, and the one before the first column outside. -/
theorem witness_StandbyLaunchesMove_restore : (let s := standby (fun l => { l with state := .evicted }) 0
    (s.launchById rich.lau.id).id = rich.lau.id ∧ (s.launchById rich.lau.id).state = .evicted ∧
      (s.launchById rich.lau.id).mirrorOf = none ∧ s.leafQuiet (blockCores 63 31 1 1) = false ∧ s.mirrorAway rich.lau.id = none ∧
      s.freeRect (s.launchById rich.lau.id) 63 31 = true ∧ s.freeRect (s.launchById rich.lau.id) 64 31 = false) := by decide

/-- An evicted launch with its mirror of a shape. -/
def pairAway (wd h : Nat) : State :=
  let s := standby (fun l => { l with state := .evicted, checked := true }) 0
  { s with
      launches := s.launches ++ [{ rich.lau with
        id := 77, cls := 2, width := wd, height := h, checked := true, mirror := true, mirrorOf := some rich.lau.id, state := .evicted }] }

/-- A mirror of one core finds a place; one of 64 by 17 cores, which touches every die wherever it stands, finds none. -/
theorem witness_StandbyLaunchesMove_mirror : ∀ x ∈ [(1, 1), (64, 17)], let s := pairAway x.1 x.2
    (s.launchById rich.lau.id).id = rich.lau.id ∧ (s.launchById rich.lau.id).state = .evicted ∧ (s.launchById rich.lau.id).mirrorOf = none ∧
      s.leafQuiet (blockCores 1 0 1 1) = false ∧ s.freeRect (s.launchById rich.lau.id) 1 0 = true ∧ 77 ≠ rich.lau.id ∧
      s.mirrorAway rich.lau.id = some (s.launchById 77) ∧ (s.launchById 77).id = 77 := by decide

theorem witness_StandbyLaunchesMove_mirrorPlaces : (pairAway 1 1).mirrorPlaces ((pairAway 1 1).launchById 77) 1 0 ≠ [] ∧
    (pairAway 64 17).mirrorPlaces ((pairAway 64 17).launchById 77) 1 0 = [] := by
  refine ⟨?_, ?_⟩
  · intro h
    have : (48, 0) ∈ (pairAway 1 1).mirrorPlaces ((pairAway 1 1).launchById 77) 1 0 :=
      List.mem_filter.mpr ⟨List.mem_map.mpr ⟨48, List.mem_range.mpr (by decide), rfl⟩, by decide⟩
    rw [h] at this; cases this
  · have hw : ((pairAway 64 17).launchById 77).width = 64 := rfl
    have hh : ((pairAway 64 17).launchById 77).height = 17 := rfl
    refine List.filter_eq_nil_iff.mpr fun p _ h => ?_
    rw [Bool.and_eq_true, Bool.and_eq_true, State.freeRect, hw, hh] at h
    simp only [Bool.and_eq_true, decide_eq_true_eq] at h
    obtain ⟨⟨h1, -⟩, ⟨⟨hx, hy⟩, -⟩, -⟩ := h
    have h2 : ∀ y, y < 16 → placesApart 64 17 (1, 0) (0, y) = false := by decide
    rw [show p = (0, p.2) from Prod.ext (by omega) rfl, h2 p.2 (by omega)] at h1
    cases h1

/-- The rotation takes a launch that has run for exactly 1 000 000 ticks. -/
theorem witness_StandbyLaunchesMove_rotation : ∃ s : State, ∃ out into, let a := s.launchById out
    let b := s.launchById into
    a.id = out ∧ b.id = into ∧ out ≠ into ∧ a.cls = 2 ∧ b.cls = 2 ∧ a.state = .accepted ∧ a.mirrorOf = none ∧ b.mirrorOf = none ∧
    (∀ x ∈ s.launches, x.mirrorOf ≠ some out) ∧ a.granted ≠ [] ∧ a.live ≠ [] ∧ quiet s a ∧ (∀ c ∈ a.live, c ∈ a.cores) ∧
    a.tick.toNat + 1000000 = s.tick ∧ s.nextSharer a = some into ∧ s.leafQuiet (s.pairCores out) = false ∧
    (∀ x ∈ s.launches, x.mirrorOf ≠ some into) ∧ s.leafQuiet (blockCores b.px b.py b.width b.height) = false ∧ b.state = .evicted ∧ (s.evict out).freeRect b b.px b.py = true := by
  let s := standby (fun l => { l with granted := [0], started := [0], tick := 0 }) 1000000
  refine ⟨{ s with launches := s.launches ++ [{ Launch.zero with id := 88, cls := 2, width := 1, height := 1, state := .evicted }] },
    rich.lau.id, 88, ?_⟩
  unfold quiet; decide

/-- NOTAFTER at the upper bound of the clock and one above it, the hold limit reached and one tick before it. -/
def expiring (hi : Int) (ev : Option Nat) (tick : Nat) : State :=
  { rich with
      tick := tick, clock := some ⟨1, tick, 0, hi⟩
      wars := rich.wars.map (fun w : Warrant => { w with evicted := ev, rec_ := { w.rec_ with cls := 2, notAfter := 500 } }) }

theorem witness_WarrantsExpire : ∀ s ∈ [expiring 500 none 0, expiring 499 (some 0) 360000000000, expiring 0 (some 1) 360000000000],
    (s.warById rich.lau.war).id = rich.lau.war ∧ (s.warById rich.lau.war).code = none ∧ (s.warById rich.lau.war).child = false ∧
    (s.warById rich.lau.war).nested = false ∧ s.clock.isSome = true ∧ s.pending (s.warById rich.lau.war) = false ∧
    (s.warById rich.lau.war).rec_.cls = 2 := by decide

theorem witness_WarrantsExpire_bounds : (⟨1, 0, 0, 500⟩ : Clock).hi 0 = 500 ∧ (0 + (expiring 0 none 0).cfg.stbyhold * 360000000000 = 360000000000) := by
  decide

/-- The module serves messages: one key of every role, a clock, an identity and one address. -/
def open' : State :=
  { State.reset with
      booted := true, clock := some ⟨1, 0, 1000, 2000⟩, idHash := 5, keys := [⟨9, 0x1F⟩], cfg := { Cfg.reset with vipool := [(1, 77)] } }
/-- A message of a body. -/
def msg (body : List Byte) : AdmMsg := ⟨3, 11, 1, false, body⟩
/-- A presentation of `n` objects of a warrant record. -/
def presn (r : WarRec) (n : Nat) : Presn := ⟨3, 11, r, [], n, 0, [], none, false⟩
/-- A record of one core that its identity is bound to. -/
def goodRec (digest : BitVec 256) : WarRec :=
  { WarRec.zero with
      version := 1, width := 1, height := 1, memGib := 1, fgsize := 1, notBefore := 1000, notAfter := 2001, issuer := 9, binding := 5,
      digest := digest, share := 65536, rsvZero := true }
/-- The module with one presentation open. -/
def presented (r : WarRec) (n : Nat) : State := { open' with presns := [presn r n] }

/-- A module in which no context waits. -/
theorem noSecond_of_idle {s : State} (h : ∀ c ∈ s.allCores, ∀ x ∈ c.ctxs, x.wait = none) : noSecond s := fun c hc x hx rd raw hw => by
  rw [h c hc x hx] at hw; cases hw

theorem witness_MessageHeadersAreChecked : (messageRow (.query (msg []))).isSome = true ∧ ¬ serving State.reset ∧ serving open' ∧
    (∃ m : AdmMsg, m.ver ≠ 1) ∧ (∃ m : AdmMsg, m.ver = 1 ∧ m.rsv = true) ∧
    (∃ m : AdmMsg, m.ver = 1 ∧ m.rsv = false ∧ m.at 4 4 ≠ 0) ∧
    ∃ s : State, ∃ m : AdmMsg, ∃ p, serving s ∧ m.ver = 1 ∧ m.rsv = false ∧ m.at 2 6 = 0 ∧ s.presns = [p] ∧ p.conn = m.conn ∧
      p.claimed = none ∧ noSecond s ∧ p.nobj ≤ m.at 0 2 := by
  refine ⟨rfl, by unfold serving; decide, by unfold serving; decide, ⟨⟨3, 11, 2, false, []⟩, by decide⟩, ⟨⟨3, 11, 1, true, []⟩, by decide⟩,
    ⟨msg [0, 0, 0, 0, 1], by decide⟩, ⟨presented (goodRec 0) 2, msg [2], presn (goodRec 0) 2, ⟨by decide, by decide⟩, by decide, by decide, by decide, rfl, rfl, rfl, noSecond_of_idle (by decide), by decide⟩⟩

/-- Object counts 0, 1, 16 and 17; the first object of two; an OBJECT where nothing is open. -/
theorem witness_PresentationsOpenAndGather : proper open' (msg (List.replicate 384 0 ++ [0])) ∧
    (msg (List.replicate 384 0 ++ [1])).at 384 2 = 1 ∧ (msg (List.replicate 384 0 ++ [16])).at 384 2 = 16 ∧
    (msg (List.replicate 384 0 ++ [17])).at 384 2 = 17 ∧ (msg (List.replicate 384 0 ++ [1])).at 388 4 = 0 ∧ open'.quiesced 8 = false ∧
    (∃ s : State, proper s (msg (List.replicate 384 0 ++ [17])) ∧ s.quiesced 8 = true) ∧
    (∃ s : State, ∃ m : AdmMsg, ∃ p, serving s ∧ m.ver = 1 ∧ m.rsv = false ∧ m.at 2 6 = 0 ∧ s.presns = [p] ∧ p.conn = m.conn ∧ p.claimed = none ∧
      noSecond s ∧ m.at 0 2 < p.nobj ∧ p.nobj ≤ 16 ∧ (∀ o ∈ p.objs, o.1 ≠ m.at 0 2) ∧ p.objs.length + 1 < p.nobj) := by
  refine ⟨?_, by decide, by decide, by decide, by decide, by decide,
    ⟨{ open' with ctrls := open'.ctrls.map (fun c => { c with quiet := some 9 }) }, ?_, by decide⟩, ⟨presented (goodRec 0) 2, msg [1], presn (goodRec 0) 2, ?_⟩⟩
  · unfold proper serving; decide
  · unfold proper serving; decide
  · exact ⟨⟨by decide, by decide⟩, by decide, by decide, by decide, rfl, rfl, rfl, noSecond_of_idle (by decide), by decide⟩

/-- An object of one instruction. -/
def objBytes : List Byte :=
  leBytes 4 0x314F4345 ++ leBytes 2 1 ++ leBytes 2 1 ++ leBytes 8 128 ++ leBytes 8 164 ++ List.replicate 104 0 ++
    leBytes 8 1 ++ leBytes 8 160 ++ leBytes 8 4 ++ leBytes 8 1 ++ leBytes 4 0x64
/-- What it reads as. -/
def objOf : List Obj := (([(0, objBytes)] : List (Nat × List Byte)).map (fun o => Obj.parse o.2)).mapM id |>.getD []
/-- The presentation when its object has come. -/
def gathered (r : WarRec) : Presn := { presn r 1 with objs := [(0, objBytes)] }

/-- The last OBJECT of a presentation; a record of VERSION 2 fails the first check, an unknown issuer the second. -/
theorem witness_AdmissionChecksComeInOrder : (∀ r : WarRec, ∃ m : AdmMsg, ∃ p q, serving (presented r 1) ∧ m.ver = 1 ∧ m.rsv = false ∧
      m.at 2 6 = 0 ∧ (presented r 1).presns = [p] ∧ p.conn = m.conn ∧ p.claimed = none ∧ p.past = false ∧
      noSecond (presented r 1) ∧ (presented r 1).quiesced 8 = false ∧ m.at 0 2 < p.nobj ∧ p.nobj ≤ 16 ∧ (∀ o ∈ p.objs, o.1 ≠ m.at 0 2) ∧ p.objs.length + 1 = p.nobj ∧ q = { p with objs := insObj (m.at 0 2) (m.body.drop 8) p.objs } ∧ q = gathered r ∧
      (presented r 1).redeem = [] ∧ (presented r 1).wars = []) ∧
    (∃ c, (admissionChecks open' (gathered { goodRec 0 with version := 2 }))[0]? = some (c, 1, 1) ∧ c) ∧
    (∃ c, (admissionChecks open' (gathered { goodRec 0 with issuer := 8 }))[1]? = some (c, 2, 0) ∧ c) := by
  refine ⟨fun r => ⟨msg (List.replicate 8 0 ++ objBytes), presn r 1, gathered r, ?_, rfl, rfl, by decide, rfl, rfl, rfl, rfl, noSecond_of_idle (show ∀ c ∈ open'.allCores, ∀ x ∈ c.ctxs, x.wait = none by decide),
    show open'.quiesced 8 = false by decide, by show (msg (List.replicate 8 0 ++ objBytes)).at 0 2 < 1; decide, by show (1 : Nat) ≤ 16; decide,
    fun o h => absurd h List.not_mem_nil, rfl, ?_, rfl, rfl, rfl⟩, ⟨_, rfl, ?_⟩, ⟨_, rfl, ?_⟩⟩
  · exact ⟨rfl, rfl⟩
  · rfl
  · exact Or.inl (by decide)
  · exact ⟨by decide, by decide⟩

/-- Where its signature holds, the record with the digest of the object passes every check. -/
theorem witness_AdmissionChecksComeInOrder_admitted : let r := goodRec (codeDigest objOf)
    Config.sm2Verify r.issuer (([] : List Byte).take 320) ((([] : List Byte).drop 320).take 64) = true →
    ∀ e ∈ admissionChecks open' (gathered r), ¬ e.1 := by
  intro r h
  have e1 : (((gathered r).objs.map (fun o => Obj.parse o.2)).mapM id) = some objOf := rfl
  have e2 : (link objOf).isSome = true := by decide
  intro e he
  simp only [admissionChecks, e1, List.mem_cons, List.not_mem_nil, or_false] at he
  rcases he with rfl | rfl | rfl | rfl | rfl | rfl | rfl | rfl | rfl | rfl | rfl | rfl | rfl | rfl | rfl | rfl | rfl | rfl | rfl | rfl | rfl | rfl
  · decide
  · decide
  · simpa [gathered, presn] using h
  · decide
  · rintro ⟨c, hc, hl⟩; cases hc; revert hl; decide
  · rintro ⟨c, hc, hl⟩; cases hc; revert hl; decide
  · decide
  · rintro ⟨hb, -⟩; exact hb rfl
  · rintro ⟨e, he, -⟩; cases he
  · rintro ⟨e, he⟩; cases he
  · decide
  · rintro (hn | ⟨os, ho, hx⟩)
    · cases hn
    · cases ho
      rcases hx with hx | hx | hx | hx
      · revert hx; decide
      · revert hx; decide
      · exact hx rfl
      · revert hx; decide
  · rintro ⟨os, ho, hx⟩; cases ho; revert hx; decide
  · intro hn
    simp only [Option.bind_some] at hn
    rw [hn] at e2; cases e2
  · decide
  · decide
  · decide
  · decide
  · rintro ⟨d, -, hd⟩
    have hh : open'.holders = [] := by decide
    have hw : ∀ x y, wellPart r x y = 0 := fun x y => Nat.zero_div _
    simp only [hh, gathered, presn, hw] at hd
    revert hd; simp
  · decide
  · decide
  · rintro ⟨hm, -⟩; revert hm; decide

/-- The module with one admitted warrant: job 4, key 6. -/
def running : State :=
  { open' with
      spaces := [loadSpace 7]
      wars := [{ loadWar 7 with job := 4, key := 6, conn := 3, rec_ := { (loadWar 7).rec_ with serial := 8, fgsize := 3 } }] }
/-- A body that names it. -/
def jobBody (rest : List Byte) : AdmMsg := msg (leBytes 4 4 ++ leBytes 4 0 ++ leBytes 8 6 ++ rest)
/-- A launch block of one core at entry 0x200000, and one of no core. -/
def goodBlock : List Byte := leBytes 8 (2 ^ 32 + 2 ^ 48) ++ leBytes 8 0x200000 ++ List.replicate 1008 0

/-- No warrant of the job, a running one, a block that passes and one that does not, and group counts 0, 1, the last that fits and one more. -/
theorem witness_RunningWarrantsAreServed : proper running (jobBody goodBlock) ∧ (jobBody goodBlock).at 4 4 = 0 ∧ open'.wars = [] ∧
    (∃ w, running.jobOf (jobBody goodBlock) = some w ∧ running.warById w.id = w ∧ w.nested = false ∧
      running.blockErr w.id (LBlock.ofBytes ((jobBody goodBlock).bytes 16 1024)) 0 0 = none ∧
      (running.blockErr w.id (LBlock.ofBytes ((jobBody []).bytes 16 1024)) 0 0).isSome = true ∧ w.rec_.fgsize = 0 + 3) ∧
    (jobBody [0, 0, 3]).at 18 2 = 3 ∧ (jobBody [0, 0, 4]).at 18 2 = 4 ∧ (jobBody [0, 0, 3]).at 20 4 = 0 ∧ (jobBody [0, 0, 0]).at 18 2 = 0 := by
  refine ⟨by unfold proper serving; decide, by decide, rfl, ⟨_, rfl, by decide⟩, by decide, by decide, by decide, by decide⟩

/-- A beacon of the known issuer at the bounds, and one of an unknown issuer. -/
def beaconOf (issuer : Nat) : AdmMsg :=
  msg (leBytes 8 1 ++ leBytes 8 2 ++ leBytes 8 2500 ++ leBytes 8 500 ++ leBytes 32 issuer)

theorem witness_BeaconsNarrowTheClock : proper open' (beaconOf 9) ∧ (beaconOf 9).at 2 6 = 0 ∧ (beaconOf 9).at 0 2 = 1 ∧
    (∃ k ∈ open'.keys, k.hash = BitVec.ofNat 256 ((beaconOf 9).at 32 32) ∧ k.mask.getLsbD 3 = true) ∧
    (∀ c, open'.clock = some c → c.seq < (beaconOf 9).at 8 8 ∧ c.lo open'.tick ≤ ((beaconOf 9).at 16 8 : Int) + (beaconOf 9).at 24 8 ∧
      ((beaconOf 9).at 16 8 : Int) - (beaconOf 9).at 24 8 = c.hi open'.tick) ∧
    ∀ k ∈ open'.keys, k.hash ≠ BitVec.ofNat 256 ((beaconOf 8).at 32 32) := by
  refine ⟨by unfold proper serving; decide, by decide, by decide, by decide, fun c h => ?_, by decide⟩
  cases h; decide

/-- A claim of serial 8 by module 6, at a home that does not hold it, that holds it for module 6, and that holds it for module 7. -/
theorem witness_HomesAnswerClaims : (let m := msg (leBytes 16 8 ++ leBytes 8 500 ++ leBytes 32 6 ++ leBytes 8 0)
    proper open' m ∧ m.at 57 7 = 0 ∧ m.at 56 1 ≤ 1 ∧ open'.inDirectory 6 = false ∧ open'.homeTab = [] ∧
    { open' with cfg := { open'.cfg with rdir := [(0, 6), (12, 1)] } : State }.inDirectory 6 = true ∧
    ∀ x : BitVec 256, ({ open' with homeTab := [⟨8, x, 500⟩] } : State).homeTab.find? (fun e => e.serial == BitVec.ofNat 128 (m.at 0 16)) =
      some ⟨8, x, 500⟩) := by
  refine ⟨by unfold proper serving; decide, by decide, by decide, by decide, rfl, by decide, fun x => rfl⟩

/-- A presentation that waits for its claim, with the answers of its home. -/
def claiming : State :=
  { open' with
      presns := [{ gathered { goodRec 0 with binding := 6, serial := 8 } with claimed := some 7 }]
      wars := [{ loadWar 7 with space := 7, rec_ := { goodRec 0 with binding := 6, serial := 8 } }]
      redeem := [⟨8, 2001, true, false, 0⟩], claims := [⟨8, 6, 70, 0, 0, 200000000, some 3, none⟩], tick := 200000000 }

theorem witness_ClaimsAreDecided : ∃ p w c im, claiming.claims = [c] ∧ c.serial = 8 ∧ c.conn = some p.conn ∧ claiming.presns = [p] ∧
    p.claimed = some w.id ∧ claiming.wars = [w] ∧ w.rec_ = p.rec_ ∧ p.rec_.serial = 8 ∧ w.code = none ∧ w.child = false ∧ w.space = w.id ∧
    claiming.pending w = true ∧ claiming.spaces = [] ∧ noSecond claiming ∧ ((p.objs.map (fun o => Obj.parse o.2)).mapM id).bind link = some im ∧
    claiming.tick = c.began + c.limit ∧ serving claiming ∧
    ∀ code ∈ [0, 1], (let m : AdmMsg := ⟨4, 0, 1, false, leBytes 8 code ++ leBytes 16 8 ++ leBytes 32 5⟩
      m.conn ≠ p.conn ∧ m.at 1 7 = 0 ∧ BitVec.ofNat 128 (m.at 8 16) = 8 ∧ BitVec.ofNat 256 (m.at 24 32) = claiming.idHash ∧ m.at 0 1 = code) := by
  have e1 : ([Obj.parse objBytes].mapM id) = some objOf := rfl
  have e2 : (link objOf).isSome = true := by decide
  obtain ⟨im, him⟩ := Option.isSome_iff_exists.mp e2
  refine ⟨_, _, _, im, rfl, rfl, rfl, rfl, rfl, rfl, rfl, rfl, rfl, rfl, rfl, by decide, rfl, noSecond_of_idle (by decide), ?_, by decide, ⟨rfl, rfl⟩, ?_⟩
  · exact him
  · decide

/-- A tick at which the announcement is due, and the first before it. -/
theorem witness_EntriesExpireAndModulesAnnounce : (∃ s : State, serving s ∧ s.annDone = false ∧ s.annAt + 100000000 = s.tick ∧ s.cfg.annaddr ≠ 0) ∧
    ∃ s : State, serving s ∧ s.annDone = false ∧ s.tick < s.annAt + 100000000 :=
  ⟨⟨{ open' with tick := 100000000, cfg := { open'.cfg with annaddr := 9 } }, by unfold serving; decide⟩,
    ⟨{ open' with tick := 99999999 }, by unfold serving; decide⟩⟩

/-- An order over serial 8, whose issuer the module knows; where the signature holds it names the warrant, and nothing of it runs. -/
def order : AdmMsg := msg (leBytes 16 8 ++ List.replicate 48 0 ++ leBytes 32 9)

theorem witness_MigrationMovesAWarrant : proper running order ∧ (proper running (msg (List.replicate 24 0))) ∧ (msg (List.replicate 24 0)).at 20 4 = 0 ∧
    running.orderOf (msg []) = none ∧ BitVec.ofNat 256 ((msg []).at 16 32) ≠ running.idHash ∧ running.launches = [] ∧
    (Config.sm2Verify 9 (order.bytes 0 96) (order.bytes 96 64) = true → ∃ w, running.orderOf order = some w ∧ running.movable w = [] ∧
      w.rec_.mode = 0 ∧ w.consumed = false ∧ running.wars = [w]) ∧
    (running.movedOf 77).isNone = true ∧ ({ running with movedVi := [(77, 78, 4, 5000)] } : State).movedOf 77 = some (78, 4) := by
  refine ⟨by unfold proper serving; decide, by unfold proper serving; decide, by decide, by decide, by decide, rfl, fun h => ?_, by decide, by decide⟩
  have h1 : running.hasRole 9 4 = true := by decide
  have h2 : (BitVec.ofNat 256 (order.at 64 32) : BitVec 256) = 9 := by decide
  refine ⟨{ loadWar 7 with job := 4, key := 6, conn := 3, rec_ := { (loadWar 7).rec_ with serial := 8, fgsize := 3 } }, ?_, ?_⟩
  · simp only [State.orderOf, State.validOrder, h2, h, h1]; decide
  · decide

/-- A launch of that warrant waits for a peer's reply. -/
def waitsForPeer : State :=
  { running with
      launches := [{ Launch.zero with id := 5, war := 7, width := 1, height := 1, state := .accepted, granted := [0], started := [0] }]
      co.launch := some 5, cx.status := .waiting, cx.wait := some (.accept (some 0)) }

theorem witness_MigrationMovesAWarrant_waits : Config.sm2Verify 9 (order.bytes 0 96) (order.bytes 96 64) = true →
    proper waitsForPeer order ∧ ∃ w l, waitsForPeer.orderOf order = some w ∧ waitsForPeer.movable w = [l] ∧ waitsForPeer.launchById l.id = l ∧
      l.mirrorOf = none ∧ (∀ x ∈ waitsForPeer.launches, x.mirrorOf ≠ some l.id) ∧ waitsForPeer.leafQuiet (waitsForPeer.pairCores l.id) = false ∧
      waitsForPeer.peersOut w = true ∧ l.live = [0] ∧ (waitsForPeer.coreAt 0).ctxs.map (·.wait) = [some (.accept (some 0))] ∧
      (let s : State := { waitsForPeer with ctrls := waitsForPeer.ctrls.map (fun c => { c with quiet := some 9 }) }
       ∀ l ∈ s.movable w, s.leafQuiet (s.pairCores (l.mirrorOf.getD l.id)) = true) := by
  intro h
  have h1 : waitsForPeer.hasRole 9 4 = true := by decide
  have h2 : (BitVec.ofNat 256 (order.at 64 32) : BitVec 256) = 9 := by decide
  refine ⟨by unfold proper serving; decide, { loadWar 7 with job := 4, key := 6, conn := 3, rec_ := { (loadWar 7).rec_ with serial := 8, fgsize := 3 } }, _, ?_, rfl, ?_⟩
  · simp only [State.orderOf, State.validOrder, h2, h, h1]; decide
  · decide

/-- An order to this module, its transfer come: a warrant of serial 8. -/
def orderHere : AdmMsg := msg (leBytes 16 8 ++ leBytes 32 5 ++ List.replicate 16 0 ++ leBytes 32 9)
def arrived (hi : Int) : State :=
  { open' with
      clock := some ⟨1, 0, 0, hi⟩
      arrivals := [⟨5, 3, 11, [{ loadWar 7 with rec_ := { goodRec 0 with serial := 8 } }], loadSpace 7, [], [], [], [], []⟩] }

/-- The clock's interval is within R407's bound or not. -/
theorem witness_MigrationMovesAWarrant_arrives : Config.sm2Verify 9 (orderHere.bytes 0 96) (orderHere.bytes 96 64) = true →
    ∀ hi ∈ [2000, 2 ^ 60], let s := arrived hi
      proper s orderHere ∧ s.orderOf orderHere = none ∧ s.validOrder orderHere = true ∧ BitVec.ofNat 256 (orderHere.at 16 32) = s.idHash ∧
        ∃ v w, s.arrivals = [v] ∧ v.dest = s.idHash ∧ v.wars = [w] ∧ w.rec_.serial = BitVec.ofNat 128 (orderHere.at 0 16) ∧ w.child = false ∧
          w.nested = false ∧ v.launches = [] ∧ v.corrs = [] ∧ s.corrLog = [] ∧ (∀ c ∈ s.allCores, c.corrWaiters = []) ∧
          s.trusted = decide (hi = 2000) := by
  intro h hi hh
  simp only [List.mem_cons, List.not_mem_nil, or_false] at hh
  have h1 : ∀ x, (arrived x).hasRole 9 4 = true := fun x => by show open'.hasRole 9 4 = true; decide
  have h2 : (BitVec.ofNat 256 (orderHere.at 64 32) : BitVec 256) = 9 := by decide
  have hv : ∀ x, (arrived x).validOrder orderHere = true := fun x => by simp only [State.validOrder, h2, h, h1]; rfl
  have ho : ∀ x, (arrived x).orderOf orderHere = none := fun x => by simp only [State.orderOf, hv]; rfl
  rcases hh with rfl | rfl
  · exact ⟨by unfold proper serving; decide, ho _, hv _, by decide, _, _, rfl, rfl, rfl, by decide⟩
  · exact ⟨by unfold proper serving; decide, ho _, hv _, by decide, _, _, rfl, rfl, rfl, by decide⟩

/-- Check 12 refuses a rectangle that does not fit, and admits one that does. -/
theorem witness_MigrationMovesAWarrant_check12 :
    (∃ e, (arrived 2000).check12 { goodRec 0 with width := 65 } none none (fun _ => true) = .inl e) ∧
    ∃ p, (arrived 2000).check12 (goodRec 0) none none (fun _ => true) = .inr p := by
  have hp : ∀ x y, wellPart (goodRec 0) x y = 0 := fun x y => Nat.zero_div _
  refine ⟨⟨_, by unfold State.check12; exact if_pos (by decide)⟩, ?_⟩
  simp only [State.check12, hp, show (arrived 2000).holders = [] by decide]
  rw [if_neg (by decide), if_neg (by decide), if_neg (by decide), if_neg (by decide), if_neg (by decide), if_neg (by simp), if_neg (by decide)]
  exact ⟨_, rfl⟩

/-- A STANDBY record of the whole module, of a class and a digest that the warrant of `detRich` may present. -/
def presRec : WarRec := { goodRec 0 with cls := 2, width := 64, height := 32, memGib := 7 }
/-- The record with a signature of zeros. -/
def presBytes : List Byte := presRec.body ++ List.replicate 64 0
/-- Its bytes that are not zero, at 0x10000 (R397). -/
def presMem : Memory :=
  [(0x10000, 1), (0x10003, 2), (0x10008, 0xE8), (0x10009, 3), (0x10010, 0xD1), (0x10011, 7), (0x10038, 9), (0x10058, 5), (0x10098, 64),
    (0x1009A, 32), (0x1009C, 7), (0x100A6, 1), (0x100C0, 1)]
/-- It stands there in a module that knows its issuer, with serials already presented. -/
def presenting (l : List Redeem) : State :=
  { detRich with
      clock := open'.clock, idHash := 5, keys := open'.keys, cfg := open'.cfg, redeem := l
      spaces := detRich.spaces.map (fun p => { p with mem := presMem, hist := [] }) }
theorem viewLoad_home (s : State) (a n : Nat) (hd : s.lau.det = true) (hv : s.cx.view = []) (hh : s.space.hist = []) :
    s.viewLoad a n = (List.range n).map (fun i => Memory.read s.space.mem (a + i)) := by
  unfold State.viewLoad
  simp [hv, viewByte, State.seen, hd, homeAt, hh]

/-- The state after WPRES has read it. -/
def noted (l : List Redeem) : State := (presenting l).noteRead 0x10000 presBytes none

theorem check1_passes (s : State) (h : Config.sm2Verify 9 (presBytes.take 320) (slice presBytes 320 64) = true) (hk : s.keys = open'.keys)
    (hc : s.clock = open'.clock) (ht : s.tick = 0) (hi : s.idHash = 5) : s.check1 presRec presBytes 0 = none := by
  have hn : s.knownIssuer presRec = true := by
    rw [State.knownIssuer, hk, show open'.keys.any (·.hash == presRec.issuer) = true from by decide]; rfl
  have hs : s.trusted = true := by rw [State.trusted, hc, ht]; decide
  unfold State.check1
  simp only []
  rw [if_neg (by decide), hn, if_neg (by decide), show presRec.issuer = 9 from rfl, h, if_neg (by decide), hc, ht, hi, hs]
  rfl

/-- Where the signature holds, the record is reserved; where another presentation of its serial is pending, it waits. -/
theorem witness_WarrantInstructionsAnswer_reserved : Config.sm2Verify 9 (presBytes.take 320) (slice presBytes 320 64) = true →
    ((presenting []).int 4).toNat % 2 ^ 48 = 0x10000 ∧ (presenting []).viewLoad 0x10000 384 = presBytes ∧ WarRec.ofBytes presBytes = presRec ∧
    presRec.mode = 0 ∧ (∃ p, Claim.presented (noted []) presRec presBytes = .reserved p) ∧
    Claim.presented (noted [⟨0, 2001, true, false, 0⟩]) presRec presBytes = .waits := by
  intro h
  refine ⟨by decide, ?_, by decide +kernel, rfl, ?_, ?_⟩
  · rw [viewLoad_home _ _ _ (by decide) (by decide) (by decide), show (presenting []).space.mem = presMem from rfl]
    decide +kernel
  · have os : (noted []).origins presRec.width presRec.height presRec.cls = [(0, 0)] := by decide +kernel
    have c9 : (noted []).check9 presRec [] (some (noted []).lau.war) = .inr none := by decide
    have c12 : ∃ p, (noted []).check12 presRec (some (noted []).lau.war) none (fun _ => true) = .inr p := by
      simp only [State.check12, os, List.filter, List.length, Nat.mod_one, Nat.max_self, Nat.zero_add]
      rw [if_neg (by decide), if_neg (by decide), if_neg (by decide), if_neg (by decide), if_neg (by decide), if_neg (by decide), if_neg (by decide)]
      exact ⟨_, rfl⟩
    obtain ⟨p, c12⟩ := c12
    refine ⟨p, ?_⟩
    unfold Claim.presented
    rw [check1_passes (noted []) h rfl rfl rfl rfl, show (noted []).redeem = [] from rfl]
    simp only [List.find?_nil, c9, c12]
    exact if_neg (by decide)
  · unfold Claim.presented
    rw [check1_passes (noted [⟨0, 2001, true, false, 0⟩]) h rfl rfl rfl rfl]
    rfl

/-- `running` with a data page at 0x10000 and the address 77. -/
def addressed : State :=
  { running with
      wars := running.wars.map (fun w : Warrant => { w with vi := 77 })
      spaces := [{ loadSpace 7 with pages := [⟨0x10000, false, .data, 7⟩] }] }

/-- No warrant of the job, an address left by a migration; the last bytes of the page, one byte past it, and a poisoned line. -/
theorem witness_RemoteMemoryAccessObeysTheMap : (∀ w ∈ addressed.wars, w.vi ≠ 77 ∨ w.job ≠ 5) ∧ addressed.movedOf 77 = none ∧
    (∃ s : State, s.wars = [] ∧ s.movedOf 77 = some (78, 4)) ∧
    ∃ w, addressed.viOf 77 4 = some w ∧ rmaReached addressed w 0x1FFF8 8 ∧ ¬ rmaReached addressed w 0x1FFF9 8 ∧
      ¬ rmaBad addressed w 0x1FFF8 8 ∧ rmaBad { addressed with spaces := addressed.spaces.map (fun p : Space => { p with poison := [0x7FF] }) } w 0x1FFF8 8 := by
  refine ⟨by decide, by decide, ⟨{ open' with movedVi := [(77, 78, 4, 5000)] }, by decide⟩, ⟨_, rfl, ?_, ?_, ?_, ?_⟩⟩
  · refine ⟨by decide, Or.inr fun k h1 h2 => Or.inl ⟨⟨0x10000, false, .data, 7⟩, by decide, Or.inl rfl, ?_⟩⟩
    have : k = 1 := by omega
    subst this; decide
  · rintro ⟨-, h | h⟩
    · cases h
    · rcases h 2 (by decide) (by decide) with ⟨p, hp, -, h1, h2⟩ | ⟨e, he, -⟩
      · have : p = ⟨0x10000, false, .data, 7⟩ := List.mem_singleton.mp hp
        subst this; revert h2; decide
      · exact absurd he List.not_mem_nil
  · rintro ⟨l, hl, -⟩; exact absurd hl List.not_mem_nil
  · exact ⟨0x7FF, List.mem_singleton.mpr rfl, by decide⟩

/-- The module with its controllers running. -/
def managed : State := { running with ctrls := List.replicate 9 { Ctrl.reset with running := true } }

/-- Every controller is quiesced until a tick. -/
def quietAt (n : Nat) : State := { managed with ctrls := managed.ctrls.map (fun c => { c with quiet := some n, switchedAt := some n }) }

theorem witness_StrayPacketsAndCommands : ¬ serving State.reset ∧ serving open' ∧ managed.ctrls.length = 9 ∧
    (managed.ctrls.getD 8 Ctrl.reset).running = true ∧ managed.quiesced 8 = false ∧ (quietAt 9).quiesced 8 = true ∧ (quietAt 9).ctrls.length = 9 ∧
    (open'.ctrls.getD 8 Ctrl.reset).running = false ∧ open'.ctrls.length = 9 := by
  unfold serving; decide

/-- Only the hub has an image, in its inactive bank. -/
def hubOnly : State :=
  { State.reset with ctrls := List.replicate 8 Ctrl.reset ++ [{ Ctrl.reset with bankB := { Bank.none with valid := true } }] }

/-- POWER_ON with a trained port and with none; a module in recovery mode, and one that has not booted. -/
theorem witness_PowerAndBoot : (∃ p : BitVec 16, p ≠ 0) ∧ (∃ s : State, s.recovery = true ∨ (s.ctrls.getD 8 Ctrl.reset).running = false) ∧
    ¬ (managed.recovery = true ∨ (managed.ctrls.getD 8 Ctrl.reset).running = false) ∧ managed.booted = true ∧
    ({ managed with booted := false } : State).booted = false ∧ (hubOnly.ctrls.getD 8 Ctrl.reset).bankB.valid = true :=
  ⟨⟨1, by decide⟩, ⟨State.reset, by decide⟩, by decide, rfl, rfl, by decide⟩

/-- Steps 2 and 3 of R414: no valid hub bank is recovery mode; no valid leaf bank fails the die. -/
theorem test_powerOn_recovery : (match exec (.powerOn true true 0 1) State.reset with
    | .next t => t.recovery && !t.booted
    | _ => false) = true := by decide

theorem test_powerOn_leaf : (match exec (.powerOn true true 0 0) hubOnly with
    | .next t => !t.recovery && (t.dies.getD 7 DieSt.reset).failed && (t.ctrls.getD 8 Ctrl.reset).bank
    | _ => false) = true := by decide

theorem witness_ModuleResets : (∃ s : State, s.recovery = true ∨ s.powered = false) ∧
    ¬ (managed.recovery = true ∨ managed.powered = false) ∧ managed.ports = 0 ∧ managed.dies.length = 8 ∧
    (∃ s : State, s.configured = true ∧ s.ports ≠ 0 ∧ ¬ (s.recovery = true ∨ s.powered = false)) ∧
    (∃ s : State, s.powered = false) ∧ ∃ s : State, s.powered = true ∧ s.recovery = true ∧ s.dies.length = 8 ∧ s.ports ≠ 0 :=
  ⟨⟨{ State.reset with powered := false }, by decide⟩, by decide, by decide, by decide, ⟨{ State.reset with configured := true, ports := 1 }, by decide⟩, ⟨{ State.reset with powered := false }, rfl⟩,
    ⟨{ State.reset with ports := 0x8000, recovery := true }, by decide⟩⟩

/-- A launch runs on core 0, and none on core 1. -/
theorem witness_PartialResets : rich.dies.length = 8 ∧ (∀ w ∈ rich.wars, rich.warById w.id = w) ∧
    (∃ l, (rich.coreAt 0).launch = some l ∧ (rich.warById (rich.launchById l).war).id = (rich.launchById l).war ∧
      (rich.warById (rich.launchById l).war).code = none) ∧ (rich.coreAt 1).launch = none ∧ ∀ c, noOps rich c :=
  ⟨by decide, by decide, ⟨_, rfl, by decide⟩, by decide, fun _ k hk _ => (show ∀ k ∈ rich.allCores, k.vop = none ∧ k.mop = none ∧ k.pumpq = [] by decide) k hk⟩

/-- A pump operation and a matrix operation of the control context, and a presentation whose objects have not all come. -/
theorem witness_EngineResets : (∃ s : State, ∃ o, s.co.pumpq = [o] ∧ o.hid = 0 ∧ s.cx.hid = 0 ∧ s.cx.status = .resident ∧ s.co.ctxs = [] ∧
      s.cx.pend = none ∧ s.cx.wait = none ∧ s.cx.helper = false ∧ s.cx.intrap = false ∧ s.cx.tvec ≠ 0) ∧
    (∃ s : State, ∃ v, s.co.mop = some v ∧ v.hid = 0 ∧ v.mmr = false ∧ s.cx.hid = 0 ∧ s.cx.status = .resident ∧ s.cx.pend = none ∧
      s.cx.wait = none ∧ s.cx.helper = false ∧ s.cx.intrap = false ∧ s.cx.tvec ≠ 0) ∧
    (∀ p ∈ (presented (goodRec 0) 2).presns, p.complete = false ∧ 1 ≤ p.nobj ∧ p.nobj ≤ 16) ∧ (∀ w ∈ (presented (goodRec 0) 2).wars, (presented (goodRec 0) 2).warById w.id = w) ∧
    ∃ s : State, s.presns = [] ∧ ∃ c ∈ s.claims, s.reservedFor c.serial ≠ none :=
  ⟨⟨{ pumping .xcopy .loc with cx.tvec := 0x200040 }, _, rfl, by decide⟩,
    ⟨{ rich with co.mop := some ⟨0, 0, 0, [], 0, 0, [], [], false, 0, none, [], 0⟩, cx.tvec := 0x200040 }, _, rfl, by decide⟩, by decide, by decide,
    ⟨{ claiming with presns := [] }, by decide⟩⟩

/-- A controller at its first, second and third event within 10 s, the oldest at the edge. -/
theorem witness_ControllersRestart : managed.ctrls.length = 9 ∧ managed.dies.length = 8 ∧ (managed.ctrls.getD 8 Ctrl.reset).running = true ∧
    (open'.ctrls.getD 8 Ctrl.reset).running = false ∧
    ([1, 2].filter (fun t : Nat => decide ((1000000000 : Nat) < t + 1000000000))).length = 2 ∧
    ([0, 2].filter (fun t : Nat => decide ((1000000000 : Nat) < t + 1000000000))).length = 1 := by decide

theorem secondsRun_of_idle {s : State} (h : ∀ c ∈ s.allCores, ∀ x ∈ c.ctxs, x.wait = none) : secondsRun s := fun c hc x hx rd raw hw => by
  rw [h c hc x hx] at hw; cases hw

/-- A sensor that nothing is fused for, one of level 2 and one beyond 3. -/
theorem witness_AlarmsEndWarrantsAndEraseKeys : (∀ w ∈ rich.wars, rich.warById w.id = w ∧ w.code = none ∧ rich.pending w = false) ∧ limited 1 3 (Tab.get 0 rich.fuses 5) = 1 ∧
    secondsRun rich ∧ limited 1 3 2 = 2 ∧ limited 1 3 3 = 3 ∧ limited 1 3 4 = 3 :=
  ⟨by decide, by decide, secondsRun_of_idle (by decide), by decide⟩

/-- The port that answers and the one that does not; the registers at the ends of their ranges. -/
theorem witness_ManagementReadsAndConfigures : manages managed ∧ ¬ manages State.reset ∧ ¬ cfgFixed managed 0 ∧ ¬ cfgFixed managed 0x1C ∧
    cfgFixed managed 0x20 ∧ cfgFixed managed 1 ∧ ¬ cfgFixed managed 0x2030 ∧ cfgFixed managed 0x2034 ∧ cfgFixed managed 0x42000 := by
  refine ⟨?_, ?_, ?_, ?_, ?_, ?_, ?_, ?_, ?_⟩
  all_goals first
    | unfold manages; decide
    | unfold cfgFixed; decide

/-- `managed` with the debug right. -/
def debugging : State := { managed with wars := managed.wars.map (fun w : Warrant => { w with rec_ := { w.rec_ with debug := true } }) }
/-- Its launch stands evicted: the image of core 0 with its contexts, and the bytes of its counters. -/
def debuggingAway : State :=
  { debugging with
      launches := [{ Launch.zero with
        id := 5, war := 7, width := 1, height := 1, state := .evicted, tails := [(0, List.replicate 176 0)]
        image := [{ Core.zero 0 with ctxs := [Ctx.zero] }] }] }

/-- A serial that no warrant has, one of a warrant without and with the debug right, on a core that is not its own and that it owns, and the
slots at the ends of their range. -/
theorem witness_DebugMessagesAnswer : (∀ w ∈ managed.wars, w.rec_.serial ≠ 9) ∧
    (∃ w, managed.debugged 8 = some w ∧ w.rec_.debug = false ∧ 0 < w.rec_.width ∧ 0 < w.rec_.height ∧ (∀ l ∈ managed.launches, l.war ≠ w.id) ∧
      managed.evictedAt w (0 + w.rec_.width * 0) = none) ∧
    (∃ w, debugging.debugged 8 = some w ∧ w.rec_.debug = true ∧ debugging.evictedAt w (0 + w.rec_.width * 0) = none ∧
      debugging.coreOfIndex w (0 + w.rec_.width * 0) = 0 ∧ (debugging.coreAt 0).owner ≠ w.space ∧ debugging.ctxAt 0 0 = none ∧
      ∀ r : Option Rec, let s : State := { debugging with co.owner := 7, co.last := r }
        (s.coreAt 0).owner = w.space ∧ (s.coreAt 0).last = r ∧ s.ctxAt 0 0 = none ∧ s.evictedAt w (0 + w.rec_.width * 0) = none) ∧
    managed.ctxAt 0 5 = none ∧ (rich.ctxAt 0 0).isSome = true := by
  refine ⟨by decide, ⟨_, rfl, by decide⟩, ⟨_, rfl, by decide, by decide, by decide, by decide, by decide, fun r => ⟨rfl, rfl, rfl, rfl⟩⟩, by decide, by decide⟩

theorem witness_DebugMessagesAnswer_evicted : ∃ w l p k, debuggingAway.debugged 8 = some w ∧ w.rec_.debug = true ∧
    debuggingAway.evictedAt w (0 + w.rec_.width * 0) = some l ∧ l.tails.find? (·.1 == l.ofIndex w (0 + w.rec_.width * 0)) = some p ∧
    l.image.find? (·.id == l.ofIndex w (0 + w.rec_.width * 0)) = some k ∧ (k.ctxs.find? (·.hid == 0)).isSome = true :=
  ⟨_, _, _, _, rfl, rfl, rfl, rfl, rfl, by decide⟩

/-- Banks that may and may not be activated, and a self-test within and after 1 s. -/
theorem witness_FirmwareIsUpdatedAndSwitched : managed.ctrls.length = 9 ∧ manages managed ∧ (managed.ctrls.getD 8 Ctrl.reset).bankB.valid = false ∧
    (managed.ctrls.getD 8 Ctrl.reset).switchedAt = none ∧ managed.quiesced 8 = false ∧ (quietAt 9).quiesced 8 = true ∧
    ((quietAt 9).ctrls.getD 8 Ctrl.reset).switchedAt = some 9 ∧ (quietAt 9).tick < 9 ∧
    (∃ s : State, (s.ctrls.getD 0 Ctrl.reset).bankB.valid = true ∧ (s.ctrls.getD 0 Ctrl.reset).active = false ∧ s.launches = [] ∧
      (s.ctrls.getD 0 Ctrl.reset).switchedAt = some 0 ∧ s.quiesced 0 = false ∧ s.tick = 0 + 100000000) := by
  refine ⟨by decide, by unfold manages; decide, by decide, by decide, by decide, by decide, by decide, by decide,
    ⟨{ managed with tick := 100000000, ctrls := List.replicate 9 { Ctrl.reset with bankB := { Bank.none with valid := true }, switchedAt := some 0 } }, by decide⟩⟩

theorem witness_DecodingUndoesEncoding : ∃ i : Instr, i.wf = true := ⟨.rol 31 31 31, rfl⟩

theorem witness_EncodingUndoesDecoding : ∃ bs i, 12 ≤ bs.length ∧ decodeBytes bs = .ok i := by
  refine ⟨[0x04, 0xA4, 0x18, 0, 0, 0, 0, 0, 0, 0, 0, 0], .add 4 5 6, by decide, ?_⟩
  unfold decodeBytes
  rw [show wordAt [0x04, 0xA4, 0x18, 0, 0, 0, 0, 0, 0, 0, 0, 0] 0 = 0x0018A404 by decide,
    show wordAt [0x04, 0xA4, 0x18, 0, 0, 0, 0, 0, 0, 0, 0, 0] 4 = 0 by decide,
    show wordAt [0x04, 0xA4, 0x18, 0, 0, 0, 0, 0, 0, 0, 0, 0] 8 = 0 by decide]
  decide

theorem witness_PoweredStepsComplete : ∃ s : State, s.powered = true := ⟨State.reset, rfl⟩

theorem witness_EveryStepKeepsMemoryCanonical : ∃ s t, State.memWf s = true ∧ step s = .next t := by
  have h : res (step base) (fun _ => true) = true := by decide
  revert h
  cases e : step base with
  | next t => exact fun _ => ⟨base, t, by decide, e⟩
  | fault _ => intro h; cases h
  | refused _ => intro h; cases h

/-! ## Single steps, with results worked out by hand from the rules -/

/-- The value of a register after `exec`. -/
def regOf (i : Instr) (s : State) (n : Reg) : Nat := match exec i s with
  | .next t => (t.g n).toNat
  | _ => 0
/-- Two integer sources in g5 and g6. -/
def two' (a b : Nat) : State := put (put rich 5 (BitVec.ofNat 128 a)) 6 (BitVec.ofNat 128 b)

/-- R197, R195: 2^64 − 1 + 1 wraps; −1 × −1 has the high half 0, unsigned 2^64 − 2. -/
theorem test_add_mul : regOf (.add 3 5 6) (two' (2 ^ 64 - 1) 1) 3 = 0 ∧ regOf (.mulh 3 5 6) (two' (2 ^ 64 - 1) (2 ^ 64 - 1)) 3 = 0 ∧
    regOf (.mulhn 3 5 6) (two' (2 ^ 64 - 1) (2 ^ 64 - 1)) 3 = 2 ^ 64 - 2 := by decide

/-- R198: the most negative number by −1 is itself, by 0 it is 0; the remainder of −7 by 2 is −1. -/
theorem test_div : regOf (.div 3 5 6) (two' (2 ^ 63) (2 ^ 64 - 1)) 3 = 2 ^ 63 ∧ regOf (.div 3 5 6) (two' (2 ^ 63) 0) 3 = 0 ∧
    regOf (.rem 3 5 6) (two' (2 ^ 64 - 7) 2) 3 = 2 ^ 64 - 1 := by decide

/-- R197: shift counts are taken modulo 64. -/
theorem test_shift : regOf (.sar 3 5 6) (two' (2 ^ 63) 67) 3 = 0xF000000000000000 ∧ regOf (.rol 3 5 6) (two' (2 ^ 63 + 1) 65) 3 = 3 := by decide

/-- R203: the last source bit of SEXT is copied upwards; BFI keeps what is around its field. -/
theorem test_fields : regOf (.sext 3 5 8) (two' 0x80 0) 3 = 0xFFFFFFFFFFFFFF80 ∧ regOf (.bfi 6 5 4 7) (two' 0xAB 0xFFFFF) 6 = 0xFFABF := by decide

/-- R207, R119: 1 + 2^−53 in FP64 ties to even, with NX; R211: −1.5 towards zero is −1. -/
theorem test_float : regOf (.fadd .rne .d 3 5 6) (two' 0x3FF0000000000000 0x3CA0000000000000) 3 = 0x3FF0000000000000 ∧
    regOf (.fcvtToInt .rtz .d .i64 3 5) (two' 0xBFF8000000000000 0) 3 = 2 ^ 64 - 1 ∧
    res (exec (.fadd .rne .d 3 5 6) (two' 0x3FF0000000000000 0x3CA0000000000000)) (fun t => t.co.fflags == 1) = true := by decide

/-- R204: a signed comparison sets bit 9 and keeps the others. -/
theorem test_cmp : regOf (.cmp .lt 9 7 5 6) (put (two' (2 ^ 64 - 1) 0) 7 5) 7 = 0x205 ∧
    regOf (.cmp .ltn 9 7 5 6) (put (two' (2 ^ 64 - 1) 0) 7 0x205) 7 = 5 := by decide

/-- R12: g0 discards what is written. -/
theorem test_g0 : regOf (.li 0 7) rich 0 = 0 := by decide

/-- R221: CSB of 0x1000 bytes from the cursor 0x10000: E 0, base 0x10000, top 0x11000. -/
theorem test_csb : regOf (.csb 3 4 5) (two' 0x1000 0) 3 = 0x10000 + 0x11000 * 2 ^ 64 + 0x10000 * 2 ^ 85 + 0xFFF * 2 ^ 112 := by decide

/-- R220, R217: a cursor below the base keeps its tag down to the end of the representable region and loses it beyond. -/
theorem test_cinc_tag : res (exec (.csa 3 4 5) (two' 0x20000 0)) (fun t => t.gtag 3) = true ∧
    res (exec (.csa 3 4 5) (two' 0x20001 0)) (fun t => t.gtag 3) = false := by decide

/-- R225, R15: BT goes back one word; CALL leaves the next address in g1. -/
theorem test_branches : res (exec (.bt 5 0 0x3FFF) rich) (fun t => t.cx.pc == 0x1FFFFC) = true ∧
    res (exec (.call 2) rich) (fun t => t.cx.pc == 0x200008 && t.int 1 == 0x200004) = true := by decide

/-- R230, R321: TRAP 7 goes to the handler with its number in st.tval. -/
theorem test_trap : res (exec (.trap 7) { rich with cx.tvec := 0x300000 }) (fun t => t.cx.pc == 0x300000 && t.cx.epc == 0x200000 &&
    t.cx.cause == 0x20 && t.cx.tval == 7 && t.cx.intrap) = true := by decide

/-- R235: a byte 0x80 at home comes back sign-extended. -/
theorem test_load : res (exec (.ldI8 3 4 0) { rich with spaces := rich.spaces.map (fun p => { p with mem := [(0x10000, 0x80)], seq := 0 }) })
    (fun t => res (exec (.globalReply 0 0 .home false) t) (fun u => u.int 3 == 0xFFFFFFFFFFFFFF80 && u.cx.pc == 0x200004)) = true := by decide

/-- R77: a store of 16 bits at an odd address traps ALIGN with the address. -/
theorem test_store_align : res (exec (.stI16 5 4 1) { two' 0x1234 0 with cx.tvec := 0x300000 }) (fun t => t.cx.cause == 0x10 &&
    t.cx.tval == 0x10001 && t.cx.epc == 0x200000) = true := by decide

/-- R73, R243: an offset past the window of 4 KiB wraps; its two low bits give the size. -/
theorem test_local : res (exec (.slW3 5 0 0x1FFD) (two' 0x11223344AABBCCDD 0)) (fun t => Memory.read t.co.store 0xFF8 == 0xDD &&
    Memory.read t.co.store 0xFFF == 0x11) = true := by decide

/-- R253: AMO.add of a word at its home gives the old value. -/
theorem test_amo : res (exec (.amoAdd false 3 4 5) { two' 2 0 with spaces := rich.spaces.map (fun p => { p with mem := [(0x10000, 0xFF)] }) })
    (fun t => Memory.read t.space.mem 0x10000 == 1 && Memory.read t.space.mem 0x10001 == 1 &&
      res (exec (.globalReply 0 0 .home false) t) (fun u => u.int 3 == 0xFF)) = true := by decide

/-- R244: SLF of an empty word stores it and leaves it full; LLF of an empty word waits. -/
theorem test_full_empty : res (exec (.slf 5 8 0) rich) (fun t => Memory.read t.co.store 0 == 3 && t.co.full == [0]) = true ∧
    res (exec (.llf 3 8 0) rich) (fun t => t.cx.status == .waiting && t.cx.waitk == 2) = true := by decide

/-- R327, R45: the first helper is 1 and takes slot 1. -/
theorem test_start : res (exec (.start 3 8 8) rich) (fun t => t.int 3 == 1 && t.co.ctxs.any (fun c => c.hid == 1 && c.helper &&
    c.slot == some 1 && c.status == .resident)) = true := by decide

/-- R333: st.window of a window of 8 KiB at 0x4000; R320: a size above 8 traps WINDOW. -/
theorem test_window : res (exec (.mts .window 5) (two' (2 ^ 32 + 0x4000) 0)) (fun t => t.cx.wbase == 0x4000 && t.cx.wsize == 1) = true ∧
    res (exec (.mts .window 5) { two' (9 * 2 ^ 32) 0 with cx.tvec := 0x300000 }) (fun t => t.cx.cause == 0x0B) = true := by decide

/-- R274, R273: INT8 sums of 100 + 100 wrap to −56 and with .sat end at 127. -/
theorem test_vadd : ∀ x ∈ [((0 : BitVec 2), (0xC8 : Byte)), (1, 0x7F)], res (exec (.vadd { fields 7 0 2 2 1 with ovf := x.1 })
    { tensors [(1, flat .i8 1 0x1000), (2, flat .i8 1 0x2000)] with co.store := [(0x2000, 100), (0x2001, 1)] })
    (fun t => Memory.read t.co.store 0x1000 == x.2 && Memory.read t.co.store 0x1001 == 2) = true := by decide

/-- R283: VRED sums 1 + 2 + 3 of FP32. -/
theorem test_vred : res (exec (.vred (fields 1 0 0 2 1)) { tensors [(1, flat .f32 0 0x1000), (2, flat .f32 2 0x2000)] with
      co.store := [(0x2002, 0x80), (0x2003, 0x3F), (0x2007, 0x40), (0x200A, 0x40), (0x200B, 0x40)] })
    (fun t => Memory.read t.co.store 0x1002 == 0xC0 && Memory.read t.co.store 0x1003 == 0x40) = true := by decide

/-- R130, R141: 2 × 3 + 4 × 5 of BF16 is 26 in the tile at the completion. -/
theorem test_mma : res (exec (.mma (fields 2 0 2 1 0)) { tensors [(1, mat .bf16 1 0 0x1000), (2, mat .bf16 1 0 0x2000)] with
      co.store := [(0x1001, 0x40), (0x1002, 0x80), (0x1003, 0x40), (0x2000, 0x40), (0x2001, 0x40), (0x2002, 0xA0), (0x2003, 0x40)] })
    (fun t => res (exec (.matrixCompletion 0) { t with co.cycle := t.co.cycle + 1 }) (fun u => Tab.get 0 u.co.acc 0 == 0x41D00000)) = true := by
  decide

/-- R139: PUB swaps the buffers of a completed fill. -/
theorem test_pub : res (exec (.pub (fields 0 0 0 0 1)) { tensors [(1, { flat .f32 7 0x1000 with state := .filling, back := 0x2000 })] with
      co.fills := [(1, 0, [])] }) (fun t => (t.desc 1).front == 0x2000 && (t.desc 1).back == 0x1000 && (t.desc 1).state == .ready) = true := by decide

/-- R161: at a boundary a grant of 2,000,000 with a weighted mean of 100 × 32 / 25 less falls by the gap, here by LDOWN at most. -/
theorem test_governor : res (exec .governorWindowBoundary { State.reset with co.cycle := 1600, co.grant := 1024 * 2048, co.weightSum := 0 })
    (fun t => t.gov.next == 200 && t.co.grant < 1024 * 2048) = true := by decide

/-- R423: CFGREAD of HOPALW is 2000; R443: GVREAD of GVRAMP is 300 in both halves. -/
theorem test_registers : res (exec (.cfgread 4) managed) (fun t => t.out.any (fun o => o.body == [0xD0, 7, 0, 0])) = true ∧
    res (exec (.gvread 0) managed) (fun t => t.out.any (fun o => o.body == [0x2C, 1, 0x2C, 1])) = true := by decide

/-- A step of the machine fetches, decodes and runs the word at the PC. -/
theorem test_step : res (step (State.reset.withFetchWord 32 0xFFFC0520)) (fun t => t.g 5 == 0xFFFFFFFFFFFFFFFF && t.cx.pc == 0x200004) = true := by
  decide

end Sys2Proof.Tests
end

section
namespace Sys2Proof.Machine

open Sys2Proof

/-! The canonical form of memory is kept by every step (R5, R71, assumption 3). Memory changes by the write operations alone, so the proof
is one lemma for each operation of the state, in the order of the model, and it follows the branches of the operation. A state's memories
lie in few of its parts (`CanonParts`), and an update of the other parts leaves them as they are. -/

/-! ## What canonical means for each part of the state -/

/-- The store and the weight buffer of a core are in canonical form. -/
abbrev Core.Canon (c : Core) : Prop := Memory.wf c.store = true ∧ Memory.wf c.wbuf = true

/-- The memories of a space are in canonical form. -/
abbrev Space.Canon (sp : Space) : Prop := Memory.wf sp.mem = true ∧ Memory.wf sp.imem = true

/-- The cores that an eviction saved in a launch are in canonical form. -/
abbrev Launch.Canon (l : Launch) : Prop := ∀ c ∈ l.image, c.Canon

/-- The memories of a transfer are in canonical form. -/
abbrev Moving.Canon (v : Moving) : Prop :=
  v.space.Canon ∧ (∀ w ∈ v.wells, Memory.wf w.2.2 = true) ∧ ∀ l ∈ v.launches, l.Canon

/-- The parts of a state that hold memories are in canonical form. It is stated over the parts, so that an update of any other field of
the state, of a core, of a space or of a launch leaves it unchanged by computation. -/
structure CanonParts (spaces : List Space) (store wbuf : Memory) (cores : List Core) (wells : List (Nat × Nat × Memory))
    (launches : List Launch) (arrivals : List Moving) : Prop where
  spaces : ∀ sp ∈ spaces, sp.Canon
  store : Memory.wf store = true
  wbuf : Memory.wf wbuf = true
  cores : ∀ c ∈ cores, c.Canon
  wells : ∀ w ∈ wells, Memory.wf w.2.2 = true
  launches : ∀ l ∈ launches, l.Canon
  arrivals : ∀ v ∈ arrivals, v.Canon

/-- Every memory of a state is in canonical form. -/
def State.Canon (s : State) : Prop := CanonParts s.spaces s.co.store s.co.wbuf s.cores s.wells s.launches s.arrivals

/-- The invariant of the obligation, as a proposition over the parts. -/
theorem State.memWf_iff {s : State} : State.memWf s = true ↔ s.Canon := by
  simp only [State.memWf, spaceWf, coreWf, movingWf, Bool.and_eq_true, List.all_eq_true]
  constructor
  · rintro ⟨⟨⟨⟨⟨hspaces, hco⟩, hcores⟩, hwells⟩, hlaunches⟩, harrivals⟩
    exact ⟨hspaces, hco.1, hco.2, hcores, hwells, hlaunches, fun v hv =>
      let ⟨⟨hspace, hwell⟩, hlaunch⟩ := harrivals v hv
      ⟨hspace, hwell, hlaunch⟩⟩
  · intro h
    exact ⟨⟨⟨⟨⟨h.spaces, h.store, h.wbuf⟩, h.cores⟩, h.wells⟩, h.launches⟩, fun v hv =>
      let ⟨hspace, hwell, hlaunch⟩ := h.arrivals v hv
      ⟨⟨hspace, hwell⟩, hlaunch⟩⟩

/-- The parts of a state that is written out, as a record update is: the fields that hold no memory do not count. -/
theorem State.Canon.update {cx co cores tick picks spaces wars launches net rounds corrLog wells gov dies cfg powered booted configured
    recovery wellheadOk announced annDone annAt bootcount lastReset clock presns redeem homeTab claims keys idHash naks sensors ctrls sump
    sumpSeq ports portsDown fwKey fwMin alarm fuses events beaconDrops ueDrops memUsed retired wellPoison nextId movedVi out agenda later
    arrivals departures ir}
    (h : CanonParts spaces co.store co.wbuf cores wells launches arrivals) :
    (State.mk cx co cores tick picks spaces wars launches net rounds corrLog wells gov dies cfg powered booted configured recovery
      wellheadOk announced annDone annAt bootcount lastReset clock presns redeem homeTab claims keys idHash naks sensors ctrls sump
      sumpSeq ports portsDown fwKey fwMin alarm fuses events beaconDrops ueDrops memUsed retired wellPoison nextId movedVi out agenda
      later arrivals departures ir).Canon := h

/-- If an outcome is a next state, the memories of that state are in canonical form. -/
def Canonical : Res → Prop
  | .next t => t.Canon
  | .fault _ => True
  | .refused _ => True

/-- A meaning keeps the canonical form. -/
def KeepsCanon (f : State → Res) : Prop := ∀ s, s.Canon → Canonical (f s)

theorem canonical_next {s : State} (h : s.Canon) : Canonical (.next s) := h

theorem canonical_ite {p : Prop} [Decidable p] {r q : Res} (hr : Canonical r) (hq : Canonical q) :
    Canonical (if p then r else q) := by
  split
  · exact hr
  · exact hq

theorem State.Canon.ite {p : Prop} [Decidable p] {s t : State} (hs : s.Canon) (ht : t.Canon) : (if p then s else t).Canon := by
  split
  · exact hs
  · exact ht

/-- A choice between two states, each beside another result. -/
theorem State.Canon.fst_ite {α : Type} {p : Prop} [Decidable p] {x y : State × α} (hx : x.1.Canon) (hy : y.1.Canon) :
    (if p then x else y).1.Canon := by
  split
  · exact hx
  · exact hy

/-- What every step of a fold keeps, the fold keeps. -/
theorem foldl_keeps {α β : Type} (P : β → Prop) {f : β → α → β} {l : List α} {b : β} (hb : P b)
    (hf : ∀ b a, P b → P (f b a)) : P (l.foldl f b) :=
  List.foldlRecOn l f hb fun b hb a _ => hf b a hb

theorem State.Canon.foldl {α : Type} {f : State → α → State} {s : State} {l : List α} (h : s.Canon)
    (hf : ∀ s a, s.Canon → (f s a).Canon) : (l.foldl f s).Canon :=
  foldl_keeps State.Canon h hf

/-- The state that an operation gives beside another result. -/
theorem State.Canon.of_eq {α : Type} {x : State × α} {t : State} {a : α} (h : x.1.Canon) (e : x = (t, a)) : t.Canon := by
  subst e
  exact h

/-- What holds of every entry of a list and of a default holds of the entry that is found. -/
theorem find_getD_of_forall {α : Type} {P : α → Prop} {l : List α} {p : α → Bool} {d : α} (hl : ∀ x ∈ l, P x) (hd : P d) :
    P ((l.find? p).getD d) := by
  cases e : l.find? p with
  | none => exact hd
  | some x => exact hl x (List.mem_of_find?_eq_some e)

/-- Changing some entries of a list keeps what holds of every entry. -/
theorem forall_mem_map_ite {α : Type} {P : α → Prop} {l : List α} {p : α → Prop} [DecidablePred p] {f : α → α}
    (hl : ∀ x ∈ l, P x) (hf : ∀ x, P x → P (f x)) : ∀ x ∈ l.map (fun x => if p x then f x else x), P x := by
  refine List.forall_mem_map.2 fun x hx => ?_
  split
  · exact hf x (hl x hx)
  · exact hl x hx

/-! ## Memories -/

theorem Memory.wf_eraseRange {lo hi : Nat} {m : Memory} (h : m.wf = true) : Memory.wf (eraseRange lo hi m) = true :=
  Tab.wf_filter _ _ _ h

theorem Memory.wf_freeBytes {p : Nat} {as : List Nat} {m : Memory} (h : m.wf = true) : Memory.wf (freeBytes p as m) = true :=
  Memory.wf_writeAt _ _ h

theorem Memory.wf_putElem {d : Desc} {base e v : Nat} {m : Memory} (h : m.wf = true) : Memory.wf (d.putElem base e v m) = true := by
  unfold Desc.putElem
  split
  split
  · dsimp only
    split
    · exact Memory.wf_writeAt _ _ h
    · exact h
  · exact Memory.wf_writeAt _ _ h

theorem Memory.wf_putAll {d : Desc} {base : Nat} {vs : List Nat} {e : Nat} {m : Memory} (h : m.wf = true) :
    Memory.wf (d.putAll base vs e m) = true := by
  induction vs generalizing e m with
  | nil => exact h
  | cons v vs ih => exact ih (Memory.wf_putElem h)

/-! ## Cores -/

namespace Core

theorem canon_zero {id : Nat} : (Core.zero id).Canon := ⟨rfl, rfl⟩

theorem canon_ite {p : Prop} [Decidable p] {c k : Core} (hc : c.Canon) (hk : k.Canon) : (if p then c else k).Canon := by
  split
  · exact hc
  · exact hk

theorem canon_pushFault {r : FaultRec} {c : Core} (h : c.Canon) : (c.pushFault r).Canon := by
  unfold Core.pushFault
  exact canon_ite h h

theorem canon_setWord {a : Nat} {v : W32} {c : Core} (h : c.Canon) : (c.setWord a v).Canon := ⟨Memory.wf_writeN _ _ _ h.1, h.2⟩

theorem canon_filledBy {a : Nat} {w : Option (Agent × Nat)} {c : Core} (h : c.Canon) : (c.filledBy a w).Canon := by
  cases w with
  | none => exact h
  | some p => exact h

theorem canon_fePerform {k : FeKind} {a : Nat} {v : W32} {w : Option (Agent × Nat)} {c : Core} (h : c.Canon) :
    (c.fePerform k a v w).1.Canon := by
  unfold Core.fePerform
  dsimp only [Core.setFull]
  split
  · exact canon_filledBy (canon_setWord h)
  · exact h

theorem canon_feServe {a : Nat} {l : List FeWaiter} {c : Core} (h : c.Canon) : (feServe a l c).1.Canon := by
  induction l generalizing c with
  | nil => exact h
  | cons w t ih =>
    unfold feServe
    split
    · exact ih h
    · split
      · exact ih (canon_fePerform h)
      · exact h

theorem canon_modDesc {d f} {c : Core} (h : c.Canon) : (c.modDesc d f).Canon := h

end Core

/-! ## Spaces -/

namespace Space

theorem canon_zero : Space.zero.Canon := ⟨rfl, rfl⟩

theorem canon_ite {p : Prop} [Decidable p] {sp sq : Space} (hp : sp.Canon) (hq : sq.Canon) : (if p then sp else sq).Canon := by
  split
  · exact hp
  · exact hq

theorem canon_putByte {w : Agent} {atomic : Bool} {a : Nat} {b : Byte} {sp : Space} (h : sp.Canon) :
    (sp.putByte w atomic a b).Canon :=
  ⟨Memory.wf_write _ _ _ h.1, h.2⟩

theorem canon_storeBy {w : Agent} {atomic : Bool} {a : Nat} {bs : List Byte} {tag : Bool} {sp : Space} (h : sp.Canon) :
    (sp.storeBy w atomic a bs tag).Canon :=
  foldl_keeps (fun p : Space × Nat => p.1.Canon) h fun _ _ hp => canon_putByte hp

theorem canon_store {w : Agent} {a : Nat} {bs : List Byte} {tag : Bool} {sp : Space} (h : sp.Canon) : (sp.store w a bs tag).Canon :=
  canon_storeBy h

theorem canon_storeMany {w : Agent} {l : List (Nat × Byte)} {sp : Space} (h : sp.Canon) : (sp.storeMany w l).Canon :=
  foldl_keeps Space.Canon h fun _ _ hsp => canon_putByte hsp

theorem canon_sync {det : Bool} {w : Agent} {scope : Nat} {hb : List (Agent × Nat)} {sp : Space} (h : sp.Canon) :
    (sp.sync det w scope hb).Canon := by
  unfold Space.sync
  exact canon_ite h h

theorem canon_released {w : Agent} {born scope : Nat} {sp : Space} (h : sp.Canon) : (sp.released w born scope).Canon := by
  unfold Space.released
  exact canon_ite h h

theorem canon_releaseView {w : Agent} {v : List ViewRec} {sp : Space} (h : sp.Canon) : (releaseView w v sp).Canon :=
  foldl_keeps Space.Canon h fun _ _ hsp => canon_ite (canon_store hsp) hsp

theorem canon_carryLine {w : Agent} {line : Nat} {v : List ViewRec} {sp : Space} (h : sp.Canon) : (carryLine w line v sp).Canon :=
  canon_releaseView h

theorem canon_dropView {w : Agent} {v : List ViewRec} {p : Nat} {sp : Space} (h : sp.Canon) : (dropView w v p sp).Canon :=
  foldl_keeps (fun q : Space × Nat => q.1.Canon) h fun _ _ hq => canon_ite (canon_releaseView hq) hq

end Space

theorem Launch.canon_ite {p : Prop} [Decidable p] {k l : Launch} (hk : k.Canon) (hl : l.Canon) : (if p then k else l).Canon := by
  split
  · exact hk
  · exact hl

/-- A launch with no saved cores. -/
theorem Launch.canon_of_image_nil {l : Launch} (h : l.image = []) : l.Canon := by
  intro c hc
  rw [h] at hc
  exact absurd hc List.not_mem_nil

end Sys2Proof.Machine
end

section
namespace Sys2Proof.Machine

open Sys2Proof

/-! ## Named operations over the state -/

namespace State.Canon

section
variable {s : State}

theorem focused (h : s.Canon) : s.co.Canon := ⟨h.store, h.wbuf⟩
theorem packed (h : s.Canon) : s.packed.Canon := h.focused
theorem allCores (h : s.Canon) : ∀ c ∈ s.allCores, c.Canon := List.forall_mem_cons.2 ⟨h.packed, h.cores⟩

theorem coreAt {id : Nat} (h : s.Canon) : (s.coreAt id).Canon := by
  unfold State.coreAt
  split
  · exact h.packed
  · exact find_getD_of_forall h.cores Core.canon_zero

theorem launchById {n : Nat} (h : s.Canon) : (s.launchById n).Canon :=
  find_getD_of_forall h.launches (Launch.canon_of_image_nil rfl)
theorem spaceById {n : Nat} (h : s.Canon) : (s.spaceById n).Canon := find_getD_of_forall h.spaces Space.canon_zero
theorem space (h : s.Canon) : s.space.Canon := h.spaceById

theorem wellOf {war die : Nat} (h : s.Canon) : Memory.wf (s.wellOf war die) = true := by
  unfold State.wellOf
  cases e : s.wells.find? (fun w => w.1 == war && w.2.1 == die) with
  | none => rfl
  | some w => exact h.wells w (List.mem_of_find?_eq_some e)

theorem setWell {war die : Nat} {m : Memory} (h : s.Canon) (hm : m.wf = true) : (s.setWell war die m).Canon :=
  { h with wells := List.forall_mem_cons.2 ⟨hm, fun w hw => h.wells w (List.mem_of_mem_filter hw)⟩ }

/-- Another core may take the place of the focused one. -/
theorem withCo {c : Core} (h : s.Canon) (hc : c.Canon) : State.Canon { s with co := c } := { h with store := hc.1, wbuf := hc.2 }

/-- Another memory may take the place of the focused core's store. -/
theorem withStore {m : Memory} (h : s.Canon) (hm : m.wf = true) :
    CanonParts s.spaces m s.co.wbuf s.cores s.wells s.launches s.arrivals := { h with store := hm }

/-- Another memory may take the place of the focused core's weight buffer. -/
theorem withWbuf {m : Memory} (h : s.Canon) (hm : m.wf = true) :
    CanonParts s.spaces s.co.store m s.cores s.wells s.launches s.arrivals := { h with wbuf := hm }

/-- A change of every core. -/
theorem mapCores {f : Core → Core} (h : s.Canon) (hf : ∀ c, c.Canon → (f c).Canon) :
    State.Canon { s with co := f s.co, cores := s.cores.map f } :=
  { h with
    store := (hf _ h.focused).1, wbuf := (hf _ h.focused).2
    cores := List.forall_mem_map.2 fun c hc => hf c (h.cores c hc) }

/-- A change of every core but the focused one. -/
theorem mapOthers {f : Core → Core} (h : s.Canon) (hf : ∀ c, c.Canon → (f c).Canon) :
    State.Canon { s with cores := s.cores.map f } :=
  { h with cores := List.forall_mem_map.2 fun c hc => hf c (h.cores c hc) }

/-- A change of every launch. -/
theorem mapLaunches {f : Launch → Launch} (h : s.Canon) (hf : ∀ l, l.Canon → (f l).Canon) :
    State.Canon { s with launches := s.launches.map f } :=
  { h with launches := List.forall_mem_map.2 fun l hl => hf l (h.launches l hl) }

theorem filterLaunches {p : Launch → Bool} (h : s.Canon) : State.Canon { s with launches := s.launches.filter p } :=
  { h with launches := fun l hl => h.launches l (List.mem_of_mem_filter hl) }

theorem modSpace {n : Nat} {f : Space → Space} (h : s.Canon) (hf : ∀ sp, sp.Canon → (f sp).Canon) : (s.modSpace n f).Canon :=
  { h with spaces := forall_mem_map_ite h.spaces hf }

theorem modMySpace {f : Space → Space} (h : s.Canon) (hf : ∀ sp, sp.Canon → (f sp).Canon) : (s.modMySpace f).Canon := h.modSpace hf

theorem modWar {n : Nat} {f : Warrant → Warrant} (h : s.Canon) : (s.modWar n f).Canon := h

theorem modLaunch {n : Nat} {f : Launch → Launch} (h : s.Canon) (hf : ∀ l, l.Canon → (f l).Canon) : (s.modLaunch n f).Canon :=
  { h with launches := forall_mem_map_ite h.launches hf }

theorem focusCore {id : Nat} (h : s.Canon) : (s.focusCore id).Canon := by
  have hrest : ∀ c ∈ s.cores.filter (·.id != id) ++ [s.packed], c.Canon := by
    simp only [List.forall_mem_append, List.forall_mem_singleton]
    exact ⟨fun c hc => h.cores c (List.mem_of_mem_filter hc), h.packed⟩
  have hc : ((s.cores.find? (·.id == id)).getD (Core.zero id)).Canon := find_getD_of_forall h.cores Core.canon_zero
  unfold State.focusCore
  dsimp only
  split
  · exact h
  · split
    · exact { h with store := hc.1, wbuf := hc.2, cores := hrest }
    · exact { h with store := hc.1, wbuf := hc.2, cores := hrest }

theorem focusOn {p : Ctx → Bool} (h : s.Canon) : (s.focusOn p).Canon := by
  unfold State.focusOn
  split
  · exact h
  · split
    · exact h
    · exact h

theorem focusCtx {id hid : Nat} (h : s.Canon) : (s.focusCtx id hid).Canon := h.focusCore.focusOn
theorem focusSlot {id k : Nat} (h : s.Canon) : (s.focusSlot id k).Canon := h.focusCore.focusOn

theorem modCore {id : Nat} {f : Core → Core} (h : s.Canon) (hf : ∀ c, c.Canon → (f c).Canon) : (s.modCore id f).Canon := by
  unfold State.modCore
  split
  · exact h.withCo (hf _ h.focused)
  · split
    · exact { h with cores := forall_mem_map_ite h.cores hf }
    · refine { h with cores := ?_ }
      simp only [List.forall_mem_append, List.forall_mem_singleton]
      exact ⟨h.cores, hf _ Core.canon_zero⟩

theorem modCtx {id hid : Nat} {f : Ctx → Ctx} (h : s.Canon) : (s.modCtx id hid f).Canon := by
  unfold State.modCtx
  split
  · split
    · exact h
    · exact h
  · exact { h with cores := forall_mem_map_ite h.cores fun _ hc => hc }

theorem setCap {n : Reg} {v : W128} {t : Bool} (h : s.Canon) : (s.setCap n v t).Canon := h
theorem setInt {n : Reg} {v : Word} (h : s.Canon) : (s.setInt n v).Canon := h
theorem count {ev : CtrEvent} (h : s.Canon) : (s.count ev).Canon := h
theorem issue (h : s.Canon) : s.issue.Canon := h
theorem retire {len : Nat} (h : s.Canon) : (s.retire len).Canon := h
theorem jump {target : Word} (h : s.Canon) : (s.jump target).Canon := h
theorem waitOn {k : BitVec 4} {op : WaitOp} {len : Nat} (h : s.Canon) : (s.waitOn k op len).Canon := h
theorem waitRe {k : BitVec 4} {op : WaitOp} (h : s.Canon) : (s.waitRe k op).Canon := h
theorem countSensor {id : Nat} (h : s.Canon) : (s.countSensor id).Canon := h
theorem send {m : Msg} (h : s.Canon) : (s.send m).Canon := h
theorem emit {dest opc : Nat} {tag : Word} {body : List Byte} (h : s.Canon) : (s.emit dest opc tag body).Canon := h

theorem catchUp {id : Nat} (h : s.Canon) : (s.catchUp id).Canon := h.modCore fun _ hc => hc

theorem enqueue {id hid : Nat} {f : Core → Core} (h : s.Canon) (hf : ∀ c, c.Canon → (f c).Canon) : (s.enqueue id hid f).Canon :=
  h.catchUp.modCtx.modCore fun c hc => hf c hc

theorem parkOut {id hid : Nat} {p : PendFault} (h : s.Canon) : (s.parkOut id hid p).Canon := by
  unfold State.parkOut
  split
  · exact h
  · exact h.modCtx.modCore fun _ hc => Core.canon_pushFault hc

theorem wake {id hid : Nat} {f : Ctx → Ctx} (h : s.Canon) : (s.wake id hid f).Canon := by
  unfold State.wake
  split
  · exact h
  · dsimp only
    split
    · exact h.modCtx
    · split
      · exact h.modCtx.enqueue fun _ hc => hc
      · exact h.modCtx.parkOut

theorem wakeAll {id : Nat} {p : WaitOp → Bool} (h : s.Canon) : (s.wakeAll id p).Canon := h.foldl fun _ _ hs => hs.wake

theorem localWrite {o : Word} {sz v : Nat} (h : s.Canon) :
    (s.localWrite o sz v).Canon := { h with store := Memory.wf_writeN _ _ _ h.store }
theorem localPut {o : Word} {align : Nat} {bs : List Byte} (h : s.Canon) : (s.localPut o align bs).Canon :=
  { h with store := Memory.wf_writeN _ _ _ h.store }

theorem observe {id hid : Nat} {w : Option (Agent × Nat)} (h : s.Canon) : (s.observe id hid w).Canon := by
  unfold State.observe
  split
  · exact h
  · exact h.modCtx

theorem feTell {id : Nat} {w : FeWaiter} {v : W32} {by_ : Option (Agent × Nat)} (h : s.Canon) : (s.feTell id w v by_).Canon :=
  ((h.observe).wake).ite h

theorem feService {id a : Nat} (h : s.Canon) : (s.feService id a).Canon := by
  refine foldl (modCore h fun _ hc => ?_) fun _ _ hs => hs.feTell
  exact ⟨(Core.canon_feServe h.coreAt).1, hc.2⟩

theorem feArrive {id a : Nat} {k : FeKind} {v : W32} {w : Option (Agent × Nat)} (h : s.Canon) : (s.feArrive id a k v w).1.Canon := by
  unfold State.feArrive
  dsimp only
  split
  · refine ite ?_ (feService ?_)
    all_goals exact modCore h fun _ hc => ⟨(Core.canon_fePerform h.coreAt).1, hc.2⟩
  · exact h

theorem carryAll (h : s.Canon) : s.carryAll.Canon := h.modMySpace fun _ hsp => Space.canon_releaseView hsp

theorem release {scope : Nat} (h : s.Canon) : (s.release scope).Canon :=
  h.modMySpace fun _ hsp => Space.canon_released (Space.canon_sync (Space.canon_releaseView hsp))

theorem acquire {scope : Nat} (h : s.Canon) : (s.acquire scope).Canon := h
theorem acquireAt {scope id hid : Nat} (h : s.Canon) : (s.acquireAt scope id hid).Canon := h.modCtx

theorem releaseAt {scope id hid : Nat} (h : s.Canon) : (s.releaseAt scope id hid).Canon := by
  unfold State.releaseAt
  split
  · exact h
  · exact (h.modSpace fun _ hsp =>
      Space.canon_released (Space.canon_sync (Space.canon_releaseView hsp))).modCtx

theorem freePages {sid : Nat} {l : List PageMap} (h : s.Canon) : (s.freePages sid l).Canon := h.modSpace fun _ hsp => hsp

/-- Bytes of a core's store become free values. -/
theorem freeStore {id p : Nat} {as : List Nat} {f : Core → Core} (h : s.Canon)
    (hf : ∀ k, (f k).store = freeBytes p as k.store ∧ (f k).wbuf = k.wbuf) : (s.modCore id f).Canon :=
  h.modCore fun k hk => by
    obtain ⟨hstore, hwbuf⟩ := hf k
    exact ⟨hstore ▸ Memory.wf_freeBytes hk.1, hwbuf ▸ hk.2⟩

theorem voidOps {c : Core} (h : s.Canon) : (s.voidOps c).Canon := by
  unfold State.voidOps
  refine modSpace (ite ?_ (setWell ?_ (Memory.wf_freeBytes (wellOf ?_)))) fun _ hsp =>
    Space.canon_ite hsp (Space.canon_storeMany hsp)
  all_goals exact freeStore h fun _ => ⟨rfl, rfl⟩

theorem dropCore {c : Core} (h : s.Canon) : (s.dropCore c).Canon :=
  h.foldl fun _ _ hs => hs.modSpace fun _ hsp => Space.canon_dropView hsp

theorem haltLaunches {ls : List Nat} (h : s.Canon) : (s.haltLaunches ls).Canon := by
  unfold State.haltLaunches
  extract_lets t u
  have ht : t.Canon := h.foldl fun _ _ hs => hs.dropCore.voidOps
  have hu : u.Canon := update (mapOthers ht fun _ hc => Core.canon_ite hc hc)
  exact ite (update hu) hu

theorem giveBack {w : Warrant} {code : BitVec 8} (h : s.Canon) : (s.giveBack w code).Canon := h.ite ((h.modWar).ite h)

theorem terminate {wid : Nat} {code : BitVec 8} (h : s.Canon) : (s.terminate wid code).Canon := by
  unfold State.terminate
  extract_lets w ls t u sp v x y z
  have ht : t.Canon := haltLaunches h
  have hu : u.Canon := update (mapLaunches ht fun _ hl => Launch.canon_ite (Launch.canon_of_image_nil rfl) hl)
  have hz : z.Canon := giveBack (modWar (modSpace (freePages hu) fun _ hsp => hsp))
  exact ite h (ite hz (emit hz))

theorem takeTrap {cause : BitVec 16} {tval epc : Word} (h : s.Canon) : (s.takeTrap cause tval epc).Canon := by
  unfold State.takeTrap
  split
  · exact h.terminate
  · exact h

theorem park {kind : BitVec 4} {cause : BitVec 16} {tval fpc pc : Word} (h : s.Canon) : (s.park kind cause tval fpc pc).Canon :=
  h.withCo (Core.canon_pushFault h.focused)

theorem trap {cause : BitVec 16} {tval : Word} (h : s.Canon) : (s.trap cause tval).Canon := by
  have h' : State.Canon { s with cx.agreed := false, cx.dropped := false } := h
  exact (h'.park).ite (h'.takeTrap)

theorem takeHelperFault (h : s.Canon) : s.takeHelperFault.Canon := by
  have h' : State.Canon { s with co.ringNews := false } := h
  exact h'.takeTrap

theorem withdraw {id hid : Nat} (h : s.Canon) : (s.withdraw id hid).Canon :=
  { h with cores := List.forall_mem_map.2 h.cores }

theorem abandonWait (h : s.Canon) : s.abandonWait.Canon := by
  unfold State.abandonWait
  split
  · exact h.withdraw
  · exact h.withdraw
  · exact h

theorem uncorrReg {line : Word} (h : s.Canon) : (s.uncorrReg line).Canon := by
  unfold State.uncorrReg
  exact ite (park h) (terminate h)

theorem readLocal {o : Word} {sz : Nat} {go : State → State} (h : s.Canon) (hgo : ∀ s, s.Canon → (go s).Canon) :
    (s.readLocal o sz go).Canon :=
  (h.uncorrReg).ite (hgo s h)

end

end State.Canon

end Sys2Proof.Machine
end

section
namespace Sys2Proof.Machine

open Sys2Proof

/-! ## Global memory, contexts, visits -/

theorem Core.canon_writeBacks {slot hid n} {c : Core} (h : c.Canon) : (c.writeBacks slot hid n).Canon := by
  unfold Core.writeBacks
  split
  · exact h
  · exact h

theorem Memory.wf_startStore {l g core tick} {m : Memory} (h : m.wf = true) : Memory.wf (startStore l g core tick m) = true := by
  have hm := Memory.wf_writeN _ l.wbase.toNat (identity l core tick ++ kWords l g)
    (Memory.wf_eraseRange (lo := l.wbase.toNat) (hi := l.wbase.toNat + 2 ^ (l.wsize.toNat + 12)) h)
  unfold startStore
  cases g with
  | none => exact hm
  | some g => exact foldl_keeps (fun m => Memory.wf m = true) hm fun _ _ hm => Memory.wf_writeN _ _ _ hm

namespace State.Canon

variable {s : State}

theorem tlbFill {a} (h : s.Canon) : (s.tlbFill a).Canon := by
  unfold State.tlbFill
  split
  · exact h
  · split
    · exact h
    · exact h

theorem noteRead {a bs tag} (h : s.Canon) : (s.noteRead a bs tag).Canon := ite h h
theorem carry {line} (h : s.Canon) : (s.carry line).Canon := h.modMySpace fun _ hsp => Space.canon_carryLine hsp
theorem viewStore {a bs tag} (h : s.Canon) : (s.viewStore a bs tag).Canon := ite (carry h) h

theorem atHome {a sz f} (h : s.Canon) : (s.atHome a sz f).1.Canon := by
  have hc : (s.carry (a / 64)).Canon := carry h
  unfold State.atHome
  dsimp only
  split
  · exact hc
  · exact hc.modMySpace fun _ hsp => Space.canon_storeBy hsp

theorem result {len d v} (h : s.Canon) : (s.result len d v).Canon := h
theorem moveCursor {len d a cur} (h : s.Canon) : (s.moveCursor len d a cur).Canon := h

theorem deactivate {id hid st} (h : s.Canon) : (s.deactivate id hid st).Canon := by
  unfold State.deactivate
  split
  · exact h
  · exact modCore (modCtx h) fun _ hc => Core.canon_writeBacks hc

theorem enterStarted {id hid} (h : s.Canon) : (s.enterStarted id hid).Canon := enqueue (modCtx h) fun _ hc => hc

theorem activateHead {id} (h : s.Canon) : (s.activateHead id).Canon := by
  unfold State.activateHead
  dsimp only
  split
  · exact modCore (foldl (modCtx (catchUp h)) fun _ _ hs => modCtx hs) fun _ hc => hc
  · exact h

theorem removeCtx {hid} (h : s.Canon) : (s.removeCtx hid).Canon := h
theorem noteEvicted {war} (h : s.Canon) : (s.noteEvicted war).Canon := ite h h

theorem launchEnds {id} (h : s.Canon) : (s.launchEnds id).Canon := by
  unfold State.launchEnds
  dsimp only
  split
  · exact h
  · refine ite ?_ (modCore ?_ fun _ hc => hc)
    all_goals exact noteEvicted (modLaunch h fun _ hl => hl)

/-- The start steps put a new core in the place of the focused one or of another. -/
theorem putCore {c k : Core} {cx id} {p : Prop} [Decidable p] (h : s.Canon) (hc : c.Canon) (hk : k.Canon) :
    (if p then { s with cx := cx, co := c } else { s with cores := s.cores.filter (·.id != id) ++ [k] } : State).Canon := by
  refine ite { h with store := hc.1, wbuf := hc.2 } { h with cores := ?_ }
  simp only [List.forall_mem_append, List.forall_mem_singleton]
  exact ⟨fun c hc => h.cores c (List.mem_of_mem_filter hc), hk⟩

/-- What a core's store holds at a start: what another space left is gone (R72). -/
theorem canon_ofOwner {id n} (h : s.Canon) : (if (s.coreAt id).owner = n then s.coreAt id
    else { s.coreAt id with store := [], full := [], poison := [], tlb := [] } : Core).Canon :=
  Core.canon_ite h.coreAt ⟨rfl, h.coreAt.2⟩

theorem startCore {lid id} (h : s.Canon) : (s.startCore lid id).Canon := by
  have hs : ∀ {n w a bs}, (s.modSpace n fun sp => (sp.store w a bs true).released w 0 0).Canon :=
    h.modSpace fun _ hsp => Space.canon_released (Space.canon_store hsp)
  unfold State.startCore
  refine putCore (modWar (modLaunch hs fun _ hl => hl)) ⟨?_, rfl⟩ ⟨?_, rfl⟩
  all_goals exact Memory.wf_startStore hs.canon_ofOwner.1

theorem branch {taken disp} (h : s.Canon) : (s.branch taken disp).Canon := ite (jump h) (retire h)

theorem suppress {i len} (h : s.Canon) : (s.suppress i len).Canon := by
  unfold State.suppress
  dsimp only
  split
  · exact update (retire (update (setInt h)))
  · exact update (retire h)

theorem gate {i len} {go : State → State} (h : s.Canon) (hgo : ∀ s, s.Canon → (go s).Canon) : (s.gate i len go).Canon := by
  unfold State.gate
  split
  · exact hgo s h
  · split
    · exact hgo s h
    · refine ite (trap h) ?_
      dsimp only
      split
      · exact ite h (ite (hgo _ h) (ite (hgo _ h) (suppress h)))
      · exact h

theorem mirrorLoad {len d} (h : s.Canon) : (s.mirrorLoad len d).Canon := h

theorem keepReply {core hid n f} (h : s.Canon) : (s.keepReply core hid n f).Canon := ite h (modLaunch h fun _ hl => hl)
theorem noteReply {core hid val tag} (h : s.Canon) : (s.noteReply core hid val tag).Canon := keepReply h
theorem noteRefusal {core hid va} (h : s.Canon) : (s.noteRefusal core hid va).Canon := keepReply h
theorem countLoad (h : s.Canon) : s.countLoad.Canon := ite h h
theorem dropReply {core r} (h : s.Canon) : (s.dropReply core r).Canon := modLaunch h fun _ hl => hl

theorem reach {n} (h : s.Canon) : (s.reach n).Canon := h

theorem serviceSlot (h : s.Canon) : s.serviceSlot.Canon := by
  unfold State.serviceSlot
  split
  · exact h
  · exact ite h h

theorem fireStop (h : s.Canon) : s.fireStop.Canon := park h

theorem pendingFault (h : s.Canon) : s.pendingFault.Canon := by
  unfold State.pendingFault
  split
  · exact h
  · exact ite (park h) (takeTrap h)

theorem waitVisit (h : s.Canon) : s.waitVisit.Canon := ite (deactivate h) h

theorem holdOrIssue {i} (h : s.Canon) : (s.holdOrIssue i).Canon := by
  unfold State.holdOrIssue
  split
  · exact h
  · exact ite h (ite h h)

theorem visitReady (h : s.Canon) : s.visitReady.Canon := by
  unfold State.visitReady
  refine ite h (ite (pendingFault h) (ite (takeHelperFault h) (ite (fireStop h) (ite h ?_))))
  split
  · exact uncorrReg h
  · exact trap h
  · exact trap h
  · exact ite h (ite h (gate (ite h h) fun _ hs => holdOrIssue hs))

theorem visitCtx (h : s.Canon) : s.visitCtx.Canon := ite (visitReady h) (ite (visitReady h) (waitVisit h))

theorem visitSlot {slot} (h : s.Canon) : (s.visitSlot slot).Canon :=
  ite (serviceSlot h) (ite (visitCtx (focusSlot h)) (focusSlot h))

theorem atInput {die e} (h : s.Canon) : (s.atInput die e).Canon := h

theorem inputOf {core e go} (h : s.Canon) (hgo : Canonical go) : Canonical (s.inputOf core e go) := canonical_ite h hgo

end State.Canon

/-! ## Scalar instructions, capabilities, control transfers -/

open State.Canon

theorem keepsCanon_execCmp {c bit d a b} : KeepsCanon (execCmp c bit d a b) := fun _ h => canonical_ite h.trap h
theorem keepsCanon_execLk {d k} : KeepsCanon (execLk d k) := fun _ h => h.readLocal fun _ hs => result hs

theorem keepsCanon_execCsb {d a b} : KeepsCanon (execCsb d a b) := fun _ h =>
  canonical_ite h.trap (canonical_ite h.trap (canonical_ite h.trap (canonical_ite h.trap h.setCap.retire)))

theorem keepsCanon_execCseal {d a b} : KeepsCanon (execCseal d a b) := fun _ h =>
  canonical_ite h.trap (canonical_ite h.trap (canonical_ite h.trap (canonical_ite h.trap h.setCap.retire)))

theorem keepsCanon_execCunseal {d a b} : KeepsCanon (execCunseal d a b) := fun _ h =>
  canonical_ite h.trap (canonical_ite h.trap (canonical_ite h.trap (canonical_ite h.trap h.setCap.retire)))

theorem keepsCanon_execLoop {r disp} : KeepsCanon (execLoop r disp) := fun _ h => h.setInt.branch
theorem keepsCanon_execRegion : KeepsCanon execRegion := fun _ h => canonical_ite h (State.Canon.retire (update h))
theorem keepsCanon_execRet {a} : KeepsCanon (execRet a) := fun _ h => canonical_ite h.trap h.jump
theorem keepsCanon_execCallc {a} : KeepsCanon (execCallc a) := fun _ h => canonical_ite h.trap h.setInt.jump
theorem keepsCanon_execYield : KeepsCanon execYield := fun _ h => canonical_ite h h.retire.deactivate.enterStarted
theorem keepsCanon_execTrap {code} : KeepsCanon (execTrap code) := fun _ h => h.trap

theorem keepsCanon_execSlotVisit {core slot} : KeepsCanon (execSlotVisit core slot) := fun _ h =>
  canonical_ite h.focusCore (State.Canon.ite h.focusCore.visitSlot (update h.focusCore.visitSlot))

theorem keepsCanon_execInstructionFetchArrival {core hid uncorrectable} :
    KeepsCanon (execInstructionFetchArrival core hid uncorrectable) := by
  intro s h
  refine h.inputOf ?_
  split
  · exact h
  · exact canonical_ite h.countSensor.focusCtx.uncorrReg h.modCtx

end Sys2Proof.Machine
end

section
namespace Sys2Proof.Machine

open Sys2Proof

/-! ## Global and local accesses, messages, what the engines share -/

theorem Core.canon_takeChan {ch : Fin 8} {tick : Nat} {c : Core} (h : c.Canon) : Core.Canon (
    let l := (c.chans.get ch).tail
    let c := { c.setChan ch l with chanBy := c.chanBy.set ch.val (c.chanBy.get ch).tail ch.isLt }
    if l.isEmpty then { c with emptyAt := c.emptyAt.set ch.val tick ch.isLt } else c) :=
  Core.canon_ite h h

namespace State.Canon

variable {s : State}

theorem clean (h : s.Canon) : s.clean.Canon := h
theorem askPeer {idx opc va data} (h : s.Canon) : (s.askPeer idx opc va data).Canon := h
theorem peerStore {va bs tag} (h : s.Canon) : (s.peerStore va bs tag).Canon := h

theorem gload {len d a off sz signed} (h : s.Canon) : (s.gload len d a off sz signed).Canon := by
  unfold State.gload
  split
  · exact trap h
  · exact ite (mirrorLoad h) (waitOn (update (noteRead (tlbFill (countLoad h)))))
  · exact ite (mirrorLoad h) (waitOn (askPeer (countLoad (update h))))

theorem gloadCap {len d a off} (h : s.Canon) : (s.gloadCap len d a off).Canon := by
  unfold State.gloadCap
  split
  · exact trap h
  · exact ite (mirrorLoad h) (waitOn (update (noteRead (tlbFill (countLoad h)))))
  · exact ite (mirrorLoad h) (waitOn (askPeer (countLoad (update h))))

theorem gstore {len d a off sz cap} (h : s.Canon) : (s.gstore len d a off sz cap).Canon := by
  unfold State.gstore
  dsimp only
  split
  · exact trap h
  · exact ite (waitOn h) (waitOn (viewStore (tlbFill h)))
  · exact ite h (waitOn (peerStore (askPeer (countLoad h))))

theorem gatomic {op w d a b} (h : s.Canon) : (s.gatomic op w d a b).Canon := by
  unfold State.gatomic
  dsimp only
  split
  · exact trap h
  · exact ite (mirrorLoad h) (waitOn (update (atHome (observe (tlbFill (countLoad h))))))
  · exact ite (mirrorLoad h) (waitOn (askPeer (countLoad (update h))))

theorem waitwDone {core hid rd va sz v} (h : s.Canon) : (s.waitwDone core hid rd va sz v).Canon :=
  ite (uncorrReg (focusCtx h)) (wake (noteReply h))

theorem waitwFound {core hid rd va sz v} (h : s.Canon) : (s.waitwFound core hid rd va sz v).Canon := waitwDone (observe h)

theorem tlbFresh {a} (h : s.Canon) : (s.tlbFresh a).Canon := tlbFill h

theorem phaseCheck {id} (h : s.Canon) : (s.phaseCheck id).Canon := foldl h fun _ _ hs => wake (acquireAt (releaseAt hs))

theorem peerUnmapped {core hid va} (h : s.Canon) : (s.peerUnmapped core hid va).Canon :=
  trap (update (focusCtx (noteRefusal h)))

theorem globalReplied {core c how} (h : s.Canon) : (s.globalReplied core c how).Canon := by
  unfold State.globalReplied
  dsimp only
  split
  · exact ite (uncorrReg (focusCtx h)) (wake (noteReply h))
  · exact wake (noteReply h)
  · exact wake (noteReply h)
  · exact ite h (ite (waitwDone h) (modCtx h))
  · exact peerUnmapped h
  · exact peerUnmapped h
  · exact ite (peerUnmapped h) h
  · exact peerUnmapped (modCtx h)
  · exact wake h
  · exact wake (noteReply h)
  · exact wake h
  · exact wake (noteReply h)
  · exact wake (noteReply h)
  · split
    · exact h
    · split
      · exact peerUnmapped (dropReply h)
      · exact wake (dropReply h)
  · exact ite (wake h) h
  · exact h

theorem globalUncorr {core c} (h : s.Canon) : (s.globalUncorr core c).Canon := by
  unfold State.globalUncorr
  split
  · exact uncorrReg (update (focusCtx (countSensor h)))
  · exact uncorrReg (update (focusCtx (countSensor h)))
  · exact uncorrReg (update (focusCtx (countSensor h)))
  · exact h

theorem lload {len d o} (h : s.Canon) : (s.lload len d o).Canon := readLocal h fun _ hs => ite (retire (setCap hs)) (result hs)
theorem lstore {len d o} (h : s.Canon) : (s.lstore len d o).Canon := retire (localWrite h)
theorem lamo {op d a b} (h : s.Canon) : (s.lamo op d a b).Canon := readLocal h fun _ hs => localWrite hs

theorem feOwn {k d a imm} (h : s.Canon) : (s.feOwn k d a imm).Canon := by
  unfold State.feOwn
  refine ite h ?_
  dsimp only
  split
  next e => exact ite (retire (of_eq (feArrive h) e)) (result (observe (of_eq (feArrive h) e)))
  next e => exact waitOn (update (of_eq (feArrive h) e))

theorem post {dst p} (h : s.Canon) : (s.post dst p).Canon := h

theorem feRemote {k d a b} (h : s.Canon) : (s.feRemote k d a b).Canon := by
  unfold State.feRemote
  split
  · exact trap h
  · exact h

theorem postWord {full d a b} (h : s.Canon) : (s.postWord full d a b).Canon := by
  unfold State.postWord
  split
  · exact trap h
  · exact ite h h

theorem serveSend {id ch} (h : s.Canon) : (s.serveSend id ch).Canon := by
  unfold State.serveSend
  dsimp only
  split
  · exact h
  · split
    · exact ite h (send (modCore h fun _ hc => hc))
    · exact h

theorem takeEntry {id hid ch} (h : s.Canon) : (s.takeEntry id hid ch).Canon :=
  serveSend (modCore (observe h) fun _ hc => Core.canon_takeChan hc)

theorem perform {m} (h : s.Canon) : (s.perform m).Canon := by
  unfold State.perform
  dsimp only
  split
  · refine ite (feService (modCore (modCore h fun _ hc => Core.canon_setWord hc) fun _ hc => Core.canon_filledBy hc)) ?_
    exact modCore h fun _ hc => Core.canon_setWord hc
  · split
    next e => exact send (of_eq (feArrive h) e)
    next e => exact modCore (of_eq (feArrive h) e) fun _ hc => hc
  · exact serveSend (modCore h fun _ hc => hc)
  · exact h
  · exact modCore h fun _ hc => hc
  · exact h
  · exact h
  · exact h

theorem routing {p n} (h : s.Canon) : (s.routing p n).Canon := by
  have hr : ∀ c : Core, c.Canon → (if p.contains c.id then { c with weightSum := c.weightSum + 200 * n } else c : Core).Canon :=
    fun _ hc => Core.canon_ite hc hc
  exact { h with store := (hr _ h.focused).1, wbuf := (hr _ h.focused).2, cores := List.forall_mem_map.2 fun c hc => hr c (h.cores c hc) }

theorem forwarded {n m} (h : s.Canon) : (s.forwarded n m).Canon := routing h

theorem performHeld {id} (h : s.Canon) : (s.performHeld id).Canon := foldl (modCore h fun _ hc => hc) fun _ _ hs => perform hs

theorem refuseWait {core hid tval} (h : s.Canon) : (s.refuseWait core hid tval).Canon := trap (abandonWait (focusCtx h))

theorem takeReply {m v refused appended} (h : s.Canon) : (s.takeReply m v refused appended).Canon := by
  unfold State.takeReply
  split
  · exact h
  · dsimp only
    split
    · exact ite (refuseWait (observe h)) (ite (observe h) (wake (observe h)))
    · exact ite (refuseWait (observe h)) (ite (wake (observe h)) (observe h))
    · exact observe h

theorem underGrant {mw} {go : State → State} (h : s.Canon) (hgo : ∀ s, s.Canon → (go s).Canon) : (s.underGrant mw go).Canon :=
  ite (hgo s h) (ite (ite (hgo _ h) (trap h)) h)

theorem markBad {mw line} (h : s.Canon) : (s.markBad mw line).Canon := by
  unfold State.markBad
  split
  · exact h
  · exact h
  · exact h

theorem checks {ops bad busy mw} {go : State → State} (h : s.Canon) (hgo : ∀ s, s.Canon → (go s).Canon) :
    (s.checks ops bad busy mw go).Canon := by
  unfold State.checks
  split
  · exact trap h
  · exact h
  · split
    · exact trap h
    · refine ite h ?_
      split
      · exact underGrant h hgo
      · exact hgo s h

theorem engine {ops bad busy mw} {go : State → State} (h : s.Canon) (hgo : ∀ s, s.Canon → (go s).Canon) :
    (s.engine ops bad busy mw go).Canon :=
  checks h fun s hs => markBad (hgo s hs)

theorem longFault {id hid cause tval fpc region} (h : s.Canon) : (s.longFault id hid cause tval fpc region).Canon := by
  unfold State.longFault
  refine ite h (ite (modCore h fun _ hc => Core.canon_ite (Core.canon_pushFault hc) hc) ?_)
  split
  · exact h
  · refine ite (modCtx h) (ite (modCtx h) (modCore (pendingFault (update ?_)) fun _ hc => hc))
    exact ite (abandonWait (focusCtx h)) (focusCtx h)

theorem wakePubs {id d} (h : s.Canon) : (s.wakePubs id d).Canon := foldl h fun _ _ hs => wake hs
theorem descReady {id d} (h : s.Canon) : (s.descReady id d).Canon := ite h (wakePubs (wakeAll h))
theorem sendAgain {id hid n} (h : s.Canon) : (s.sendAgain id hid n).Canon := modCtx h

theorem abandonMmr (h : s.Canon) : s.abandonMmr.Canon := by
  unfold State.abandonMmr
  split
  · exact h
  · extract_lets rdy c k t
    have hc : c.Canon := Core.canon_modDesc (Core.canon_modDesc h.focused)
    have ht : t.Canon := withCo h hc
    exact sendAgain (descReady (descReady ht))

theorem vecFault {v line} (h : s.Canon) : (s.vecFault v line).Canon :=
  longFault (update { h with store := Memory.wf_freeBytes h.store })

theorem matFault {v line} (h : s.Canon) : (s.matFault v line).Canon := by
  refine longFault (ite (abandonMmr (update ?_)) (update ?_))
  all_goals exact { h with store := Memory.wf_freeBytes h.store }

theorem orFlags {f} (h : s.Canon) : (s.orFlags f).Canon := update h
theorem fresult {d r} (h : s.Canon) : (s.fresult d r).Canon := retire (orFlags (setInt h))

end State.Canon

open State.Canon

theorem keepsCanon_execWaitw {w d a b} : KeepsCanon (execWaitw w d a b) := by
  intro s h
  unfold execWaitw
  dsimp only
  split
  · exact h.trap
  · refine canonical_ite (mirrorLoad h) ?_
    have ht : ∀ {x y}, ((s.countLoad.tlbFill x).carry y).Canon := carry (tlbFill (countLoad h))
    split
    · exact waitwFound (State.Canon.waitOn (update ht))
    · exact canonical_ite (waitwDone (State.Canon.waitOn (update ht))) (State.Canon.waitOn (update ht))
  · exact canonical_ite (mirrorLoad h) (State.Canon.waitOn (askPeer (countLoad (update h))))

theorem keepsCanon_execPref {d a} : KeepsCanon (execPref d a) := by
  intro s h
  unfold execPref
  dsimp only
  split
  · exact canonical_ite (State.Canon.waitOn (tlbFresh (clean h))) (State.Canon.waitOn (clean h))
  · exact canonical_ite (mirrorLoad h) (State.Canon.waitOn (askPeer (countLoad h)))
  · exact State.Canon.waitOn (clean h)

theorem keepsCanon_execPhase {sc} : KeepsCanon (execPhase sc) := fun _ h => canonical_ite h.waitOn h.release.acquire.retire

theorem keepsCanon_execGlobalReply {core hid how uncorrectable} : KeepsCanon (execGlobalReply core hid how uncorrectable) := by
  intro s h
  refine h.inputOf ?_
  split
  · exact h
  · have hs : (if how = .corrected then s.countSensor 0x40 else s).Canon := State.Canon.ite h h
    exact State.Canon.ite hs.globalUncorr hs.globalReplied

theorem keepsCanon_execWaitwWake {core hid spurious} : KeepsCanon (execWaitwWake core hid spurious) := by
  intro s h
  refine h.inputOf ?_
  split
  · split
    · dsimp only
      refine canonical_ite ?_ (canonical_ite ?_ h)
      · split
        · exact State.Canon.ite h.waitwDone h
        · exact h
      · split
        · exact h.waitwFound
        · exact h
    · exact h
  · exact h

theorem keepsCanon_execWaitwTimeout {core hid} : KeepsCanon (execWaitwTimeout core hid) := by
  intro s h
  unfold execWaitwTimeout
  split
  · split
    · split
      · exact State.Canon.ite h.waitwDone h
      · exact h
    · exact h
  · exact h

theorem keepsCanon_execTlbLeaseExpiry {core page} : KeepsCanon (execTlbLeaseExpiry core page) := fun _ h => h.modCore fun _ hc => hc

theorem keepsCanon_execSend {ch a b} : KeepsCanon (execSend ch a b) := by
  intro s h
  unfold execSend
  split
  · exact h.trap
  · exact h.post.waitOn

theorem keepsCanon_execRecv {ch d a} : KeepsCanon (execRecv ch d a) := by
  intro s h
  unfold execRecv
  split
  · exact canonical_next (result (takeEntry (localPut h)))
  · split
    · exact canonical_next (result (count (update h)))
    · exact h.waitOn

theorem keepsCanon_execRecvCompletion {core hid} : KeepsCanon (execRecvCompletion core hid) := by
  intro s h
  unfold execRecvCompletion
  split
  · split
    · dsimp only
      split
      · exact canonical_next (State.Canon.wake (takeEntry (modCore h fun _ hc => ⟨Memory.wf_writeN _ _ _ hc.1, hc.2⟩)))
      · exact h
    · exact h
  · exact h

theorem keepsCanon_execRecvDry {core hid} : KeepsCanon (execRecvDry core hid) := by
  intro s h
  unfold execRecvDry
  split
  · split
    · split
      · exact State.Canon.wake (modCore h fun _ hc => hc)
      · exact h
    · exact h
  · exact h

theorem keepsCanon_execRemoteMessageArrival {n} : KeepsCanon (execRemoteMessageArrival n) := by
  intro s h
  unfold execRemoteMessageArrival
  split
  · exact h
  · have hf : ∀ {m}, (s.forwarded n m).Canon := h.forwarded
    exact canonical_ite h (canonical_ite (State.Canon.ite h hf.perform) (canonical_ite (State.Canon.ite hf hf)
      (canonical_ite (hf.modCore fun _ hc => hc) h)))

theorem keepsCanon_execRemoteReplyArrival {n} : KeepsCanon (execRemoteReplyArrival n) := by
  intro s h
  unfold execRemoteReplyArrival
  split
  · exact h
  · split
    · exact canonical_ite h h.forwarded.takeReply
    · exact h

theorem keepsCanon_execSendCompletion {core hid} : KeepsCanon (execSendCompletion core hid) := by
  intro s h
  unfold execSendCompletion
  split
  · exact h
  · exact canonical_ite h h.forwarded.takeReply

theorem keepsCanon_execFcmp {p c bit d a b} : KeepsCanon (execFcmp p c bit d a b) := fun _ h => canonical_ite h.trap h

end Sys2Proof.Machine
end

section
namespace Sys2Proof.Machine

open Sys2Proof

/-! ## Vector instructions -/

theorem Memory.wf_vgroups {L N f put} {m : Memory} (h : m.wf = true)
    (hput : ∀ e v m, Memory.wf m = true → Memory.wf (put e v m) = true) : Memory.wf (vgroups L N f put m).1 = true :=
  foldl_keeps (fun p : Memory × FlagSet => Memory.wf p.1 = true) h fun _ _ hp =>
    foldl_keeps (fun p : Memory × FlagSet => Memory.wf p.1 = true) hp fun _ _ hq => hput _ _ _ hq

namespace State.Canon

variable {s : State}

theorem vtake {cyc m fl pred dest caps} (h : s.Canon) (hm : Memory.wf m = true) : (s.vtake cyc m fl pred dest caps).Canon :=
  { h with store := hm }

theorem elementwise {w ops bad bitsw mul f} (h : s.Canon) : (s.elementwise w ops bad bitsw mul f).Canon :=
  engine h fun _ hs => vtake hs (Memory.wf_vgroups hs.store fun _ _ _ hm => Memory.wf_putElem hm)

theorem vec2 {w op} (h : s.Canon) : (s.vec2 w op).Canon := elementwise h
theorem vec1 {w mul op} (h : s.Canon) : (s.vec1 w mul op).Canon := elementwise h
theorem stepLfsr {w n} (h : s.Canon) : (s.stepLfsr w n).Canon := ite h h
theorem vspecial {w op} (h : s.Canon) : (s.vspecial w op).Canon := vec1 h

theorem vmove {w ops part ok n bitsw perCycle dest} {write : Memory → Memory} (h : s.Canon)
    (hw : ∀ m, Memory.wf m = true → Memory.wf (write m) = true) :
    (s.vmove w ops part ok n bitsw perCycle dest write).Canon :=
  checks h fun _ hs => update (markBad (vtake hs (hw _ hs.store)))

theorem reachOn {core n} (h : s.Canon) : (s.reachOn core n).Canon := ite (focusCore h) (focusCore h)

end State.Canon

open State.Canon

theorem keepsCanon_execVfma {f} : KeepsCanon (execVfma f) := fun _ h => h.elementwise
theorem keepsCanon_execVsel {f} : KeepsCanon (execVsel f) := fun _ h => h.elementwise
theorem keepsCanon_execVdqnt {f} : KeepsCanon (execVdqnt f) := fun _ h => h.elementwise
theorem keepsCanon_execVnr {f} : KeepsCanon (execVnr f) := fun _ h => h.elementwise
theorem keepsCanon_execVbcast {f} : KeepsCanon (execVbcast f) := fun _ h => h.elementwise
theorem keepsCanon_execVfill {f} : KeepsCanon (execVfill f) := fun _ h => h.elementwise

theorem keepsCanon_execVcmp {f} : KeepsCanon (execVcmp f) := by
  intro s h
  refine canonical_next (engine h fun t ht => vtake ht ?_)
  exact foldl_keeps (fun p : Memory × FlagSet × Bool => Memory.wf p.1 = true) ht.store fun _ _ hp =>
    foldl_keeps (fun p : Memory × FlagSet × Bool => Memory.wf p.1 = true) hp fun _ _ hq => Memory.wf_putElem hq

theorem keepsCanon_execVcvt {f} : KeepsCanon (execVcvt f) := fun _ h =>
  engine h fun _ hs => vtake (stepLfsr hs) (Memory.wf_vgroups hs.store fun _ _ _ hm => Memory.wf_putElem hm)

theorem keepsCanon_execVqnt {f} : KeepsCanon (execVqnt f) := by
  intro s h
  refine canonical_next (engine h fun t ht => vtake (State.Canon.ite ht (stepLfsr ht)) ?_)
  refine foldl_keeps (fun p : Memory × FlagSet => Memory.wf p.1 = true) ht.store fun p b hp => ?_
  dsimp only
  split
  · exact Memory.wf_write _ _ _ hp
  · exact foldl_keeps (fun m => Memory.wf m = true) (Memory.wf_write _ _ _ hp) fun _ _ hm => Memory.wf_putElem hm

theorem keepsCanon_execVscan {f} : KeepsCanon (execVscan f) := by
  intro s h
  refine canonical_next (engine h fun t ht => vtake ht ?_)
  exact foldl_keeps (fun p : Memory × FlagSet => Memory.wf p.1 = true) ht.store fun _ _ hp =>
    foldl_keeps (fun m => Memory.wf m = true) hp fun _ _ hm => Memory.wf_putElem hm

theorem keepsCanon_execVred {f} : KeepsCanon (execVred f) := by
  intro s h
  refine canonical_next (engine h fun t ht => vtake ht ?_)
  exact foldl_keeps (fun p : Memory × FlagSet => Memory.wf p.1 = true) ht.store fun _ _ hp => Memory.wf_putElem hp

theorem keepsCanon_execVcopy {f} : KeepsCanon (execVcopy f) := by
  intro s h
  refine canonical_next (engine h fun t ht => ?_)
  extract_lets n r m
  have hr : Memory.wf r.1 = true := Memory.wf_vgroups ht.store fun _ _ _ hm => Memory.wf_putElem hm
  have hm : Memory.wf m = true := by
    dsimp only [m]
    split
    · exact Memory.wf_writeN _ _ _ hr
    · exact hr
  exact vtake ht hm

theorem keepsCanon_execVtran {f} : KeepsCanon (execVtran f) := fun _ h => h.vmove fun _ hm => Memory.wf_putAll hm
theorem keepsCanon_execVgath {f} : KeepsCanon (execVgath f) := fun _ h => h.vmove fun _ hm => Memory.wf_putAll hm
theorem keepsCanon_execVlut {f} : KeepsCanon (execVlut f) := fun _ h => h.vmove fun _ hm => Memory.wf_putAll hm

theorem keepsCanon_execVscat {f} : KeepsCanon (execVscat f) := fun _ h =>
  h.vmove fun _ hm => foldl_keeps (fun m => Memory.wf m = true) hm fun _ _ hm => Memory.wf_putElem hm

theorem keepsCanon_execVectorCompletion {core} : KeepsCanon (execVectorCompletion core) := by
  intro s h
  unfold execVectorCompletion
  split
  · exact h
  · dsimp only
    split
    · exact vecFault (reachOn h)
    · split
      · exact modCtx (update (reachOn h))
      · exact update (reachOn h)

end Sys2Proof.Machine
end

section
namespace Sys2Proof.Machine

open Sys2Proof

/-! ## Matrix and pump instructions -/

theorem Core.canon_unmark {o} {c : Core} (h : c.Canon) : (c.unmark o).Canon := Core.canon_ite h (Core.canon_ite h h)

/-- The destination of a fill is marked, or the source of a DRAIN (R138). -/
theorem Core.canon_marked {p q : Prop} [Decidable p] [Decidable q] {d e f g} {c : Core} (h : c.Canon) :
    (if p then c.modDesc d f else if q then c.modDesc e g else c).Canon :=
  Core.canon_ite (Core.canon_modDesc h) (Core.canon_ite (Core.canon_modDesc h) h)

theorem Space.canon_noteKeys {det key l} {sp : Space} (h : sp.Canon) : (sp.noteKeys det key l).Canon := Space.canon_ite h h

theorem Space.canon_publish {w l} {sp : Space} (h : sp.Canon) : (sp.publish w l).Canon := Space.canon_storeMany h

namespace State.Canon

variable {s : State}

theorem mtake {cyc tile w fl dest caps banks mmr} (h : s.Canon) : (s.mtake cyc tile w fl dest caps banks mmr).Canon := h

theorem mmrSent {o} (h : s.Canon) : (s.mmrSent o).Canon := foldl h fun _ _ hs => modCore hs fun _ hc => hc

theorem tlbRows {rows} (h : s.Canon) : (s.tlbRows rows).Canon := by
  refine foldl h fun _ _ hs => ?_
  split
  · exact tlbFill hs
  · exact hs

theorem pumpRead {o store rd} (h : s.Canon) : (s.pumpRead o store rd).1.Canon := fst_ite (update (tlbRows h)) h
theorem peerRead {o bs} (h : s.Canon) : (s.peerRead o bs).1.Canon := h

theorem drainStore {key l} (h : s.Canon) : (s.drainStore key l).Canon := by
  refine modMySpace (foldl (update h) fun _ _ hs => ?_) fun _ hsp => Space.canon_noteKeys hsp
  exact ite (carry (update hs)) (update hs)

theorem peerStores {i l} (h : s.Canon) : (s.peerStores i l).Canon := foldl h fun _ _ hs => hs

theorem drainGo {o data} (h : s.Canon) : (s.drainGo o data).1.Canon := by
  unfold State.drainGo
  refine fst_ite h ?_
  split
  · exact h
  · exact drainStore (tlbRows h)
  · exact peerStores h

theorem pumpSource {o} (h : s.Canon) : (s.pumpSource o).1.Canon := by
  unfold State.pumpSource
  refine fst_ite h (fst_ite h ?_)
  split
  · exact pumpRead h
  · exact foldl h fun _ _ hs => hs
  · exact h

theorem askPages {o} (h : s.Canon) : (s.askPages o).Canon := by
  unfold State.askPages
  refine ite h ?_
  split
  · exact foldl h fun _ _ hs => hs
  · exact h

theorem pumpIssue {k dd da} (h : s.Canon) : (s.pumpIssue k dd da).Canon := by
  have hg : ∀ {p : Prop} [Decidable p] {o o'}, (((if p then s.countLoad else s).askPages o).pumpSource o').1.Canon :=
    pumpSource (askPages (ite (countLoad h) h))
  unfold State.pumpIssue
  dsimp only
  split
  · exact retire (withCo (fst_ite (drainGo hg) hg) (Core.canon_marked (focused (fst_ite (drainGo hg) hg))))
  · exact retire (withCo hg (Core.canon_marked hg.focused))

theorem pump {k ops bad dd da} (h : s.Canon) : (s.pump k ops bad dd da).Canon := checks h fun _ hs => pumpIssue hs

theorem pubSwap {d} (h : s.Canon) : (s.pubSwap d).Canon := by
  unfold State.pubSwap
  refine descReady (update ?_)
  split
  · exact h
  · refine ite h ?_
    split
    · exact peerStores h
    · exact ite h (modMySpace h fun _ hsp => Space.canon_sync (Space.canon_noteKeys (Space.canon_publish hsp)))

theorem drainCheck {id} (h : s.Canon) : (s.drainCheck id).Canon := foldl h fun _ _ hs => wake hs

theorem pumpAfter {o} (h : s.Canon) : (s.pumpAfter o).Canon := drainCheck (phaseCheck (ite h (descReady h)))

theorem pumpUndefined {o} (h : s.Canon) : (s.pumpUndefined o).Canon := by
  unfold State.pumpUndefined
  dsimp only
  split
  · exact { h with store := Memory.wf_writeAt _ _ h.store }
  · exact { h with wbuf := Memory.wf_freeBytes h.wbuf }
  · exact update (setWell h (Memory.wf_freeBytes (wellOf h)))
  · exact ite h (update (modMySpace h fun _ hsp => Space.canon_ite hsp (Space.canon_storeMany hsp)))

theorem pumpReply {o f} (h : s.Canon) : (s.pumpReply o f).Canon := ite (keepReply h) h

theorem pumpDrop {o} (h : s.Canon) : (s.pumpDrop o).Canon :=
  descReady (descReady (withCo (pumpUndefined h) (Core.canon_unmark (pumpUndefined h).focused)))

theorem pumpFault {o cause tval} (h : s.Canon) : (s.pumpFault o cause tval).Canon := drainCheck (phaseCheck (longFault (pumpDrop h)))

theorem pumpDone {o data} (h : s.Canon) : (s.pumpDone o data).Canon := by
  have hp : ∀ {f}, (s.pumpReply o f).Canon := pumpReply h
  unfold State.pumpDone
  dsimp only
  split
  · exact pumpAfter (withCo (update hp) (Core.canon_unmark hp.focused))
  · exact pumpAfter (update (modWar (setWell (update hp) (Memory.wf_writeAt _ _ (wellOf (update hp))))))
  · refine pumpAfter ?_
    split
    case' h_1 => refine ite (wakePubs (update (ite (tlbRows ?_) ?_))) (pubSwap (focusCtx (update (ite (tlbRows ?_) ?_))))
    case' h_2 => refine update (ite (tlbRows ?_) ?_)
    all_goals
      split
      · exact update (withStore hp (Memory.wf_writeAt _ _ hp.store))
      · exact update (withWbuf hp (Memory.wf_writeAt _ _ hp.wbuf))
      · exact update hp

theorem asOwner {hid} (h : s.Canon) : (s.asOwner hid).Canon := ite (focusCtx h) (update h)

theorem pumpPage {o a} (h : s.Canon) : (s.pumpPage o a).Canon := pumpFault (pumpReply h)

theorem pumpData {o how} (h : s.Canon) : (s.pumpData o how).1.Canon := by
  unfold State.pumpData
  refine fst_ite ?_ ?_
  · split
    · exact h
    · dsimp only
      split
      · exact dropReply h
      · exact dropReply h
  · split
    · exact h
    · split
      · exact h
      · exact peerRead h
      · exact h
      · exact h
      · exact pumpRead h

theorem pumpWrite {o d how} (h : s.Canon) : (s.pumpWrite o d how).Canon := by
  have hg : (s.drainGo o d).1.Canon := drainGo h
  unfold State.pumpWrite
  refine ite (pumpDone h) ?_
  split
  · exact ite (pumpDone h) (pumpPage h)
  · exact ite (pumpDone (ite (carryAll hg) hg)) (pumpDone h)
  · refine ite (pumpDone h) (ite (update hg) ?_)
    split
    · exact pumpDone h
    · exact pumpPage h
    · exact h

end State.Canon

open State.Canon

theorem keepsCanon_execMma {f} : KeepsCanon (execMma f) := fun _ h => engine h fun _ hs => mtake hs
theorem keepsCanon_execMmag {f} : KeepsCanon (execMmag f) := fun _ h => engine h fun _ hs => mtake hs
theorem keepsCanon_execMzero {f} : KeepsCanon (execMzero f) := fun _ h => engine h fun _ hs => mtake hs
theorem keepsCanon_execMwr {f} : KeepsCanon (execMwr f) := fun _ h => engine h fun _ hs => mtake hs

theorem keepsCanon_execMrd {f} : KeepsCanon (execMrd f) := fun _ h =>
  engine h fun _ hs => mtake (update { hs with store := Memory.wf_putAll hs.store })

theorem keepsCanon_execMmr {f} : KeepsCanon (execMmr f) := fun _ h =>
  checks h fun _ hs => State.Canon.ite (markBad (mtake hs)) (markBad (mtake (update hs)))

theorem keepsCanon_execMmrTransfer {core north} : KeepsCanon (execMmrTransfer core north) := by
  intro s h
  unfold execMmrTransfer
  dsimp only
  split
  · exact h
  · split
    · exact h
    · refine canonical_ite h (update (routing (modCore h fun _ hc => ?_)))
      exact ⟨Memory.wf_freeBytes (Memory.wf_writeAt _ _ hc.1), hc.2⟩

theorem keepsCanon_execMmrRelease {core} : KeepsCanon (execMmrRelease core) := by
  intro s h
  unfold execMmrRelease
  dsimp only
  split
  · exact h
  · exact canonical_ite h (descReady (descReady (modCore (mmrSent h) fun _ hc => hc)))

theorem keepsCanon_execWellRefresh {bank} : KeepsCanon (execWellRefresh bank) := fun _ h =>
  canonical_ite (update { h with cores := List.forall_mem_map.2 h.cores }) h

theorem keepsCanon_execMatrixCompletion {core} : KeepsCanon (execMatrixCompletion core) := by
  intro s h
  unfold execMatrixCompletion
  split
  · exact h
  · dsimp only
    split
    · exact matFault (reachOn h)
    · exact canonical_ite (update (reachOn h)) (update (reachOn h))

theorem keepsCanon_execDset {f} : KeepsCanon (execDset f) := by
  intro s h
  unfold execDset
  refine canonical_ite h ?_
  split
  · exact h.trap
  · split
    · exact h.trap
    · exact h

theorem keepsCanon_execDclr {f} : KeepsCanon (execDclr f) := by
  intro s h
  unfold execDclr
  split
  · exact waitRe h
  · exact waitRe h
  · exact State.Canon.retire (withCo h (Core.canon_modDesc h.focused))
  · exact State.Canon.retire (withCo h (Core.canon_modDesc h.focused))

theorem keepsCanon_execPub {f} : KeepsCanon (execPub f) := by
  intro s h
  unfold execPub
  split
  · exact h.trap
  · exact h.retire
  · refine canonical_ite ?_ (canonical_ite h.waitRe h.waitOn)
    split
    · exact h.trap
    · exact canonical_next (State.Canon.retire (pubSwap h))
  · exact h.waitOn

theorem keepsCanon_execPumpOperationCompletion {core how} : KeepsCanon (execPumpOperationCompletion core how) := by
  intro s h
  have ho : ∀ {hid}, ((if how = .corrected then (s.focusCore core).countSensor 0x40 else s.focusCore core).catchUp core
      |>.asOwner hid).Canon :=
    asOwner (catchUp (State.Canon.ite h.focusCore h.focusCore))
  unfold execPumpOperationCompletion
  dsimp only
  split
  · exact h.focusCore
  · refine canonical_ite h.focusCore ?_
    split
    · exact pumpFault ho
    · split
      next e => exact canonical_next (pumpPage (of_eq (pumpData ho) e))
      next e => exact canonical_next (of_eq (pumpData ho) e)
      next e => exact canonical_next (pumpWrite (of_eq (pumpData ho) e))

theorem keepsCanon_execLongOperationFault {core u line} : KeepsCanon (execLongOperationFault core u line) := by
  intro s h
  have hc : (((s.focusCore core).countSensor 0x41).catchUp core).Canon := catchUp (State.Canon.countSensor h.focusCore)
  unfold execLongOperationFault
  dsimp only
  split
  · split
    · exact h.focusCore
    · exact pumpFault (asOwner hc)
  · split
    · exact h.focusCore
    · exact canonical_ite h.focusCore (vecFault hc)
  · split
    · exact h.focusCore
    · exact matFault hc

end Sys2Proof.Machine
end

section
namespace Sys2Proof.Machine

open Sys2Proof

/-! ## Helpers, the fault ring, register lines -/

theorem Core.canon_popFault {c : Core} (h : c.Canon) : c.popFault.Canon := by
  unfold Core.popFault
  split
  · exact h
  · exact h

namespace State.Canon

variable {s : State}

theorem control {go : State → State} (h : s.Canon) (hgo : ∀ s, s.Canon → (go s).Canon) : (s.control go).Canon :=
  ite (trap h) (hgo s h)

theorem enter {c} (h : s.Canon) : (s.enter c).Canon := by
  unfold State.enter
  dsimp only
  split
  · exact ite (update h) (enqueue (update h) fun _ hc => hc)
  · exact enqueue (update h) fun _ hc => hc

theorem helperExit (h : s.Canon) : s.helperExit.Canon := by
  have hr : (s.release 2).issue.Canon := issue (release h)
  exact wakeAll (withCo (update hr) (Core.canon_writeBacks hr.focused))

theorem collect {hid} (h : s.Canon) : (s.collect hid).Canon := removeCtx (ite (observe h) h)

theorem disown {id hid} (h : s.Canon) : (s.disown id hid).Canon :=
  update { withdraw h with cores := List.forall_mem_map.2 (withdraw h).cores }

theorem kill {c} (h : s.Canon) : (s.kill c).Canon :=
  removeCtx (disown (update (modMySpace h fun _ hsp => Space.canon_dropView hsp)))

theorem resume {c pc} (h : s.Canon) : (s.resume c pc).Canon := enterStarted (ite (deactivate (modCtx h)) (modCtx h))

theorem regFault {b} (h : s.Canon) : (s.regFault b).Canon := ite (park h) (terminate h)

theorem lineArrives {b} (h : s.Canon) : (s.lineArrives b).Canon := modCore (modCtx h) fun _ hc => hc

end State.Canon

open State.Canon

theorem keepsCanon_execStart {d a b} : KeepsCanon (execStart d a b) := by
  intro s h
  refine canonical_next (control h fun t ht => State.Canon.ite ht.trap (State.Canon.ite ht.trap ?_))
  split
  · exact ht.trap
  · exact result (enter (release ht))

theorem keepsCanon_execExit : KeepsCanon execExit := fun _ h =>
  canonical_ite h (canonical_ite h (canonical_ite (helperExit h) (canonical_next (launchEnds (update (release h))))))

theorem keepsCanon_execJoin {d a} : KeepsCanon (execJoin d a) := by
  intro s h
  refine canonical_next (control h fun t ht => State.Canon.ite (State.Canon.ite ht ?_) ?_)
  · exact result (acquire (State.Canon.foldl ht fun _ _ hu => collect hu))
  · split
    · exact ht.trap
    · exact State.Canon.ite (result (acquire (collect ht))) ht

theorem keepsCanon_execKill {a} : KeepsCanon (execKill a) := by
  intro s h
  refine canonical_next (control h fun t ht => ?_)
  split
  · exact ht.trap
  · exact State.Canon.retire (State.Canon.wakeAll (kill ht))

theorem keepsCanon_execResume {a b} : KeepsCanon (execResume a b) := by
  intro s h
  refine canonical_next (control h fun t ht => ?_)
  dsimp only
  split
  · exact ht.trap
  · split
    · exact State.Canon.retire (resume ht)
    · exact State.Canon.retire (resume ht)
    · exact State.Canon.ite ht.trap (State.Canon.retire (resume ht))
    · exact ht.trap

theorem keepsCanon_execTrapret : KeepsCanon execTrapret := fun _ h =>
  control h fun _ hs => State.Canon.ite hs.trap (State.Canon.ite hs.trap hs)

theorem keepsCanon_execFaultq {d a} : KeepsCanon (execFaultq d a) := by
  intro s h
  refine canonical_next (control h fun t ht => ?_)
  split
  · exact ht
  · exact result (withCo (localPut ht) (Core.canon_popFault (localPut ht).focused))

theorem keepsCanon_execSlotRelease {core} : KeepsCanon (execSlotRelease core) := fun _ h => h.activateHead

theorem keepsCanon_execHelperDeactivation {core hid} : KeepsCanon (execHelperDeactivation core hid) := by
  intro s h
  unfold execHelperDeactivation
  dsimp only
  split
  · exact h
  · split
    · exact canonical_ite (keepsCanon_execSlotVisit s h) h
    · exact h

theorem keepsCanon_execRegisterLineFill {core hid line how} : KeepsCanon (execRegisterLineFill core hid line how) := by
  intro s h
  have hf : (s.focusCtx core hid).Canon := focusCtx h
  refine inputOf h ?_
  split
  · exact h
  · refine canonical_ite h ?_
    split
    · exact canonical_ite (regFault hf) (canonical_next (lineArrives (State.Canon.ite (State.Canon.countSensor hf) hf)))
    · exact canonical_ite (regFault hf) (canonical_next (lineArrives (State.Canon.ite (State.Canon.countSensor hf) hf)))
    · exact regFault hf
    · exact canonical_next (uncorrReg (update hf))

theorem keepsCanon_execHelperfaultTrap {core} : KeepsCanon (execHelperfaultTrap core) := by
  intro s h
  have hf : (s.focusCtx core 0).Canon := focusCtx h
  exact canonical_ite hf (canonical_ite (takeHelperFault hf) (canonical_ite (takeHelperFault (abandonWait hf)) hf))

end Sys2Proof.Machine
end

section
namespace Sys2Proof.Machine

open Sys2Proof

/-! ## System registers, counters, mappings -/

theorem Space.canon_clear {lo hi sp} (h : Space.Canon sp) : (sp.clear lo hi).Canon := ⟨Memory.wf_eraseRange h.1, h.2⟩

namespace State.Canon

variable {s : State}

theorem swrite {r v} (h : s.Canon) : (s.swrite r v).Canon := by
  unfold State.swrite
  split <;> exact h

theorem ctrRead {e} {go : Word → State → State} (h : s.Canon) (hgo : ∀ v s, s.Canon → (go v s).Canon) : (s.ctrRead e go).Canon :=
  ite (hgo _ s h) (ite (trap h) (hgo 0 s h))

theorem latchLow {d v} (h : s.Canon) : (s.latchLow d v).Canon := update (result h)

theorem dropRange {sid lo hi} (h : s.Canon) : (s.dropRange sid lo hi).Canon := by
  unfold State.dropRange
  extract_lets t drop cx
  have ht : t.Canon := modSpace h fun _ hsp => Space.canon_clear hsp
  have hd : ∀ c, c.Canon → (drop c).Canon := fun _ hc => Core.canon_ite hc hc
  exact mapCores (update ht) hd

theorem refund {l} (h : s.Canon) : (s.refund l).Canon := foldl h fun _ _ hs => modWar hs

end State.Canon

open State.Canon

theorem keepsCanon_execTime {d a} : KeepsCanon (execTime d a) := by
  intro s h
  unfold execTime
  split
  · exact result h
  · exact result h
  · exact result h
  · exact result h
  · exact trap h

theorem keepsCanon_execMfs {d r} : KeepsCanon (execMfs d r) := fun _ h => canonical_ite h (State.Canon.retire (setCap h))

theorem keepsCanon_execMts {r a} : KeepsCanon (execMts r a) := fun _ h =>
  canonical_ite (trap h) (canonical_ite (trap h) (canonical_ite (trap h) (State.Canon.retire (swrite h))))

theorem keepsCanon_execCtr {d e} : KeepsCanon (execCtr d e) := fun _ h => ctrRead h fun _ _ ht => result ht

theorem keepsCanon_execCtrl {d e} : KeepsCanon (execCtrl d e) := fun _ h => ctrRead h fun _ _ ht => latchLow ht

theorem keepsCanon_execCtrh {d e} : KeepsCanon (execCtrh d e) := fun _ h => ctrRead h fun _ _ ht => result ht

theorem keepsCanon_execCtrsel {d a b} : KeepsCanon (execCtrsel d a b) := by
  intro s h
  unfold execCtrsel
  dsimp only
  split
  · exact trap h
  · split
    · exact trap h
    · exact canonical_ite (trap h) (canonical_ite (State.Canon.waitOn (post h)) (canonical_ite (trap h)
        (canonical_next (State.Canon.waitOn (clean (State.Canon.ite (update h) h))))))

theorem keepsCanon_execStop {d a b} : KeepsCanon (execStop d a b) := by
  intro s h
  refine canonical_next (control h fun t ht => State.Canon.ite ht.trap ?_)
  split
  · exact ht.trap
  · exact State.Canon.ite ht.trap ht.post.waitOn

theorem keepsCanon_execVmap {d a b} : KeepsCanon (execVmap d a b) := by
  intro s h
  refine canonical_next (control h fun t ht => State.Canon.ite ht.trap ?_)
  split
  · exact ht.trap
  · exact State.Canon.ite ht.trap (State.Canon.ite ht
      (State.Canon.waitOn (modWar (modMySpace (dropRange ht) fun _ hsp => hsp))))

theorem keepsCanon_execVmapCompletion {core} : KeepsCanon (execVmapCompletion core) := by
  intro s h
  refine inputOf h ?_
  split
  · exact h
  · split
    · exact canonical_next (State.Canon.wake h)
    · exact h

theorem keepsCanon_execVunmap {a} : KeepsCanon (execVunmap a) := by
  intro s h
  refine canonical_next (control h fun t ht =>
    State.Canon.ite ht.trap (State.Canon.ite ht.trap (State.Canon.ite ht.trap (State.Canon.ite ht.trap ?_))))
  split
  · exact ht.trap
  · exact State.Canon.waitOn (modMySpace ht fun _ hsp => hsp)

theorem keepsCanon_execVunmapCompletion {core} : KeepsCanon (execVunmapCompletion core) := by
  intro s h
  refine inputOf h ?_
  split
  · exact h
  · split
    · exact canonical_ite h (canonical_next (State.Canon.wake (refund (modSpace (dropRange (freePages h)) fun _ hsp => hsp))))
    · exact h

end Sys2Proof.Machine
end

section
namespace Sys2Proof.Machine

open Sys2Proof

/-! ## Collectives -/

theorem Memory.wf_putWords {dd : Desc} {ws m} (h : Memory.wf m = true) : Memory.wf (dd.putWords ws m) = true := Memory.wf_putAll h

theorem Core.canon_putFront {dd ws} {c : Core} (h : c.Canon) : (c.putFront dd ws).Canon :=
  Core.canon_ite ⟨Memory.wf_putWords h.1, h.2⟩ ⟨Memory.wf_putWords h.1, h.2⟩

namespace State.Canon

variable {s : State}

theorem modRound {i f} (h : s.Canon) : (s.modRound i f).Canon := h

theorem emitFab {i fab} (h : s.Canon) : (s.emitFab i fab).Canon := h

theorem toRouter {r src i p fab} (h : s.Canon) : (s.toRouter r src i p fab).Canon := by
  unfold State.toRouter
  split
  · exact send h
  · exact emitFab h

theorem rootResult {i v} (h : s.Canon) : (s.rootResult i v).Canon := by
  unfold State.rootResult
  split
  · exact h
  · dsimp only
    split
    · exact modRound h
    · exact foldl (modRound h) fun _ _ hs => toRouter hs

theorem forward {i l j} (h : s.Canon) : (s.forward i l j).Canon := by
  unfold State.forward
  split
  · exact h
  · refine ite h ?_
    split
    · exact modRound h
    · exact ite (rootResult (modRound h)) (toRouter (modRound h))

theorem countMiss {r v} (h : s.Canon) : (s.countMiss r v).Canon := by
  refine foldl h fun t _ ht => ?_
  split
  · exact modCore ht fun _ hc => hc
  · exact ht

theorem late {r l j v} (h : s.Canon) : (s.late r l j v).Canon := ite h (toRouter (countMiss h))

theorem arriveNode {i l j right v} (h : s.Canon) : (s.arriveNode i l j right v).Canon := by
  unfold State.arriveNode
  split
  · exact h
  · exact ite (late h) (ite (late (forward (modRound h))) (ite (forward (modRound h)) (modRound h)))

theorem joinRound {kind sc k} (h : s.Canon) : (s.joinRound kind sc k).1.Canon := by
  unfold State.joinRound
  dsimp only
  split
  · exact modRound h
  · exact h

theorem takesPart {i idx} (h : s.Canon) : (s.takesPart i idx).Canon := ite (modRound h) h

theorem observeAll {core hid l} (h : s.Canon) : (s.observeAll core hid l).Canon := foldl h fun _ _ hs => observe hs

theorem contribute {kind sc k v core} (h : s.Canon) : (s.contribute kind sc k v core).Canon := by
  unfold State.contribute
  extract_lets q r
  have hj : r.1.Canon := takesPart (modRound (joinRound h))
  split
  · exact hj
  · exact ite (rootResult hj) (toRouter hj)

theorem retireRounds (h : s.Canon) : s.retireRounds.Canon := h

theorem takeRound {i idx} (h : s.Canon) : (s.takeRound i idx).Canon := h

theorem deliverRed {core k sc dd t} (h : s.Canon) (e : s.deliverRed core k sc dd = some t) : t.Canon := by
  unfold State.deliverRed at e
  split at e
  · cases e
  · obtain ⟨r, -, rfl⟩ := Option.map_eq_some_iff.1 e
    exact takeRound (modCore h fun _ hc => Core.canon_putFront hc)

theorem corrsReach {m core key} (h : s.Canon) : (s.corrsReach m core key).Canon := by
  unfold State.corrsReach
  split
  · exact h
  · exact ite h (ite h (modCore h fun _ hc => hc))

theorem takeCorr {core sc dd r} (h : s.Canon) : (s.takeCorr core sc dd r).Canon := modCore h fun _ hc => Core.canon_putFront hc

theorem serveCorr {core hid} (h : s.Canon) : (s.serveCorr core hid).Canon := by
  unfold State.serveCorr
  split
  · exact h
  · split
    · split
      · exact h
      · split
        · exact h
        · exact wake (acquireAt (takeCorr h))
    · exact h

theorem serveFirst {m} (h : s.Canon) : (s.serveFirst m).Canon :=
  foldl (foldl h fun _ _ ht => ite (foldl ht fun _ _ hu => corrsReach hu) ht) fun _ _ ht => foldl ht fun _ _ hu => serveCorr hu

theorem serveCorrs (h : s.Canon) : s.serveCorrs.Canon := serveFirst h

theorem collective {f ops ok busy mw} {go : Scp → State → State} (h : s.Canon) (hgo : ∀ sc s, s.Canon → (go sc s).Canon) :
    (s.collective f ops ok busy mw go).Canon := by
  refine checks h fun t ht => ?_
  split
  · exact ht.trap
  · next sc _ =>
    have hgo' : ∀ u : State, u.Canon →
        (match u.badOperand ops with
          | some n => u.uncorrReg (BitVec.ofNat 64 n)
          | none => go sc u).Canon := by
      intro u hu
      split
      · exact hu.uncorrReg
      · exact hgo sc u hu
    refine ite ht ?_
    split
    · exact underGrant ht hgo'
    · exact hgo' t ht

theorem readUnit {t da} (h : s.Canon) : (s.readUnit t da).Canon := h

theorem redDropped {t dd da} (h : s.Canon) : (s.redDropped t dd da).Canon :=
  retire (update { readUnit h with store := Memory.wf_freeBytes h.store })

theorem logCorr {r} (h : s.Canon) : (s.logCorr r).Canon := serveCorrs h

theorem rootCorr {r} (h : s.Canon) : (s.rootCorr r).Canon := ite (foldl (logCorr h) fun _ _ hs => emitFab hs) (logCorr h)

theorem treeMessage {m} (h : s.Canon) : (s.treeMessage m).Canon := by
  unfold State.treeMessage
  split
  · split
    · exact retireRounds (arriveNode h)
    · exact h
  · exact rootCorr h
  · exact h

theorem fabMessage {f} (h : s.Canon) : (s.fabMessage f).Canon := by
  unfold State.fabMessage
  extract_lets w core key owner v sc c wants pick r t held waits
  have ht : t.Canon := by
    dsimp only [t]
    split
    · exact modRound (joinRound h)
    · exact modRound (joinRound h)
    · exact h
  split
  · exact ite (send ht) (arriveNode ht)
  · exact modRound ht
  · exact ite (send ht) (rootCorr ht)
  · exact logCorr ht
  · exact ht

end State.Canon

open State.Canon

theorem keepsCanon_execBar {f} : KeepsCanon (execBar f) := fun _ h =>
  canonical_next (collective h fun _ _ hs => State.Canon.waitOn (takesPart (joinRound (update (release hs)))))

theorem keepsCanon_execRed {f} : KeepsCanon (execRed f) := by
  intro s h
  refine canonical_next (collective h fun sc t ht => State.Canon.ite (redDropped ht) ?_)
  dsimp only
  split
  · next e =>
    refine State.Canon.retire (acquire (observeAll (deliverRed ?_ (Option.ite_none_left_eq_some.1 e).2)))
    exact contribute (update (release (readUnit ht)))
  · exact State.Canon.waitOn (contribute (update (release (readUnit ht))))

theorem keepsCanon_execRedx {f} : KeepsCanon (execRedx f) := fun _ h =>
  canonical_next (collective h fun _ _ ht => State.Canon.ite (redDropped ht)
    (State.Canon.waitOn (contribute (update (release (readUnit ht))))))

theorem keepsCanon_execRstat {f} : KeepsCanon (execRstat f) := fun _ h =>
  canonical_next (collective h fun _ _ ht => State.Canon.ite ht.trap
    (result (State.Canon.ite (withCo ht (Core.canon_putFront ht.focused)) ht)))

theorem keepsCanon_execCorr {f} : KeepsCanon (execCorr f) := by
  intro s h
  refine canonical_next (collective h fun sc t ht => State.Canon.ite (result ht) ?_)
  split
  · exact result (acquire (takeCorr ht))
  · exact State.Canon.ite (result ht) (State.Canon.waitOn ht)

theorem keepsCanon_execRedNodeArrival {n ext} : KeepsCanon (execRedNodeArrival n ext) := by
  intro s h
  unfold execRedNodeArrival
  split
  · exact inputOf h (fabMessage h)
  · split
    · exact h
    · split
      · exact canonical_ite h (treeMessage (forwarded h))
      · exact canonical_ite h (treeMessage (forwarded h))
      · exact h

theorem keepsCanon_execRedNodeCutoff {round level j} : KeepsCanon (execRedNodeCutoff round level j) := by
  intro s h
  unfold execRedNodeCutoff
  split
  · exact h
  · dsimp only
    split
    · exact canonical_ite (forward h) h
    · exact h

theorem keepsCanon_execRedResultDelivery {core hid} : KeepsCanon (execRedResultDelivery core hid) := by
  intro s h
  unfold execRedResultDelivery
  split
  · exact h
  · split
    · split
      · exact h
      · refine canonical_ite h ?_
        split
        · exact h
        · next e => exact canonical_next (State.Canon.wake (acquireAt (observeAll (deliverRed h e))))
    · exact h

theorem keepsCanon_execCorrTimeout {core hid} : KeepsCanon (execCorrTimeout core hid) := by
  intro s h
  unfold execCorrTimeout
  split
  · exact h
  · split
    · exact canonical_ite (State.Canon.wake h) h
    · exact h

theorem keepsCanon_execBarRelease {core hid} : KeepsCanon (execBarRelease core hid) := by
  intro s h
  unfold execBarRelease
  split
  · exact h
  · split
    · split
      · exact h
      · split
        · exact h
        · exact canonical_ite h (canonical_next (State.Canon.wake (acquireAt (observeAll (takeRound h)))))
    · exact h

theorem keepsCanon_execRedxRelease {core hid} : KeepsCanon (execRedxRelease core hid) := by
  intro s h
  unfold execRedxRelease
  split
  · exact h
  · split
    · split
      · exact h
      · split
        · exact h
        · exact canonical_ite h (canonical_next (State.Canon.wake (acquireAt (observeAll (takeRound
            (modCore h fun _ hc => Core.canon_putFront hc))))))
    · exact h

end Sys2Proof.Machine
end

section
namespace Sys2Proof.Machine

open Sys2Proof

/-! ## Launches and checked pairs -/

theorem Core.canon_mmrReady {o} {c : Core} (h : c.Canon) : (c.mmrReady o).Canon := Core.canon_modDesc (Core.canon_modDesc h)

namespace State.Canon

variable {s : State}

theorem withHandle {a live} {go : Nat → State → State} (h : s.Canon) (hgo : ∀ n s, s.Canon → (go n s).Canon) :
    (s.withHandle a live go).Canon := by
  refine ite (trap h) (ite (trap h) ?_)
  split
  · exact trap h
  · exact ite (trap h) (hgo _ s h)

theorem addLaunch {wid b conn} (h : s.Canon) : (s.addLaunch wid b conn).1.Canon := by
  unfold State.addLaunch
  extract_lets id base l ms m mirror l2 t
  have hl : l.Canon := Launch.canon_of_image_nil rfl
  have hl2 : ∀ k ∈ l2, k.Canon := by
    intro k hk
    dsimp only [l2] at hk
    split at hk
    · rw [List.mem_singleton.1 hk]
      exact Launch.canon_of_image_nil rfl
    · exact absurd hk List.not_mem_nil
  exact noteEvicted { h with launches := List.forall_mem_append.2 ⟨h.launches, List.forall_mem_cons.2 ⟨hl, hl2⟩⟩ }

theorem answerImage {lid lseq ok} (h : s.Canon) : (s.answerImage lid lseq ok).Canon := by
  unfold State.answerImage
  split
  · exact h
  · exact ite (modLaunch h fun l hl => List.forall_mem_map.2 fun c hc => hl c hc) (terminate h)

theorem answerWaiter {lid lseq ok} (h : s.Canon) : (s.answerWaiter lid lseq ok).Canon := by
  unfold State.answerWaiter
  split
  · exact answerImage h
  · exact ite (atInput h) (ite (wake h) (trap (focusCtx (wake h))))

theorem answerLaunch {l ok} (h : s.Canon) : (s.answerLaunch l ok).Canon := by
  unfold State.answerLaunch
  split
  · exact emit h
  · exact answerWaiter h

theorem dropLaunch {l} (h : s.Canon) : (s.dropLaunch l).Canon := modWar (filterLaunches h)

theorem claimStarts {lid need} (h : s.Canon) : (s.claimStarts lid need).Canon :=
  update (mapLaunches (foldl h fun _ _ hs => modCore hs fun _ hc => hc) fun _ hl => Launch.canon_ite hl hl)

theorem setAccepted {lid} (h : s.Canon) : (s.setAccepted lid).Canon := mapLaunches h fun _ hl => Launch.canon_ite hl hl

theorem abandonVop {p} (h : s.Canon) : (s.abandonVop p).Canon := by
  unfold State.abandonVop
  split
  · exact ite (update { h with store := Memory.wf_freeBytes h.store }) h
  · exact h

theorem abandonMop {p} (h : s.Canon) : (s.abandonMop p).Canon := by
  unfold State.abandonMop
  split
  · exact ite (update { h with store := Memory.wf_freeBytes h.store }) h
  · exact h

theorem abandonMmrs {p} (h : s.Canon) : (s.abandonMmrs p).Canon := by
  unfold State.abandonMmrs
  extract_lets l co t
  have hc : co.Canon := foldl_keeps Core.Canon h.focused fun _ _ hk => Core.canon_mmrReady hk
  have ht : t.Canon := withCo h hc
  exact foldl ht fun _ _ hu => sendAgain hu

theorem abandonPump {p} (h : s.Canon) : (s.abandonPump p).Canon := by
  refine update (foldl h fun t o ht => ?_)
  exact withCo (pumpUndefined ht) (Core.canon_unmark (pumpUndefined ht).focused)

theorem abandonOps {id p} (h : s.Canon) : (s.abandonOps id p).Canon :=
  foldl (abandonPump (abandonMmrs (abandonMop (abandonVop (focusCore h))))) fun _ _ ht => descReady ht

theorem dropWait {id hid} (h : s.Canon) : (s.dropWait id hid).Canon := wake (modCore (withdraw h) fun _ hc => hc)

theorem mismatchAt {id hid again} (h : s.Canon) : (s.mismatchAt id hid again).Canon := by
  have ha : (s.abandonOps id (· == hid)).Canon := abandonOps h
  unfold State.mismatchAt
  dsimp only
  split
  · exact ha
  · next c _ =>
    have hd : (if c.heldHash.isSome || c.awaitsPrimary || (s.abandonOps id (· == hid)).canAbandon id c then
        (s.abandonOps id (· == hid)).dropWait id hid else s.abandonOps id (· == hid)).Canon := ite (dropWait ha) ha
    exact ite (modCtx hd) (ite (modCtx hd) (modCore (trap (focusCtx hd)) fun _ hk => hk))

theorem mismatch {p m hid} (h : s.Canon) : (s.mismatch p m hid).Canon := by
  unfold State.mismatch
  extract_lets again l n t
  have ht : t.Canon := modLaunch (countSensor h) fun _ hl => hl
  exact mismatchAt (mismatchAt ht)

end State.Canon

open State.Canon

theorem keepsCanon_execLaunch {d a b} : KeepsCanon (execLaunch d a b) := by
  intro s h
  refine canonical_next (control h fun t ht => withHandle ht fun n u hu => ?_)
  dsimp only
  split
  · exact hu.trap
  · exact State.Canon.waitOn (addLaunch (release hu))

theorem keepsCanon_execLaunchAcceptance {lid} : KeepsCanon (execLaunchAcceptance lid) := fun _ h =>
  canonical_ite h (canonical_ite (answerLaunch (setAccepted h)) (canonical_ite h
    (canonical_ite (answerLaunch (setAccepted (claimStarts h))) (answerLaunch (dropLaunch h)))))

theorem keepsCanon_execCoreStart {lid core} : KeepsCanon (execCoreStart lid core) := fun _ h =>
  canonical_ite (performHeld (startCore (State.Canon.ite (modLaunch h fun _ hl => hl) h))) h

theorem keepsCanon_execCheckedHashArrival {core hid differs} : KeepsCanon (execCheckedHashArrival core hid differs) := by
  intro s h
  refine inputOf h ?_
  split
  · exact h
  · split
    · exact canonical_ite (State.Canon.wake (State.Canon.wake h)) (mismatch h)
    · exact h

theorem keepsCanon_execCheckedHashTimeout {core hid} : KeepsCanon (execCheckedHashTimeout core hid) := by
  intro s h
  unfold execCheckedHashTimeout
  split
  · exact canonical_ite (mismatch h) h
  · exact h

end Sys2Proof.Machine
end

section
namespace Sys2Proof.Machine

open Sys2Proof

/-! ## The governor -/

theorem Core.canon_endDecl {b} {c : Core} (h : c.Canon) : (c.endDecl b).Canon := Core.canon_ite h h

namespace State.Canon

variable {s : State}

theorem modDie {d f} (h : s.Canon) : (s.modDie d f).Canon := h

theorem govWrite {off v} (h : s.Canon) : (s.govWrite off v).Canon := ite h (ite h (ite h h))

theorem govWrites (h : s.Canon) : s.govWrites.Canon := by
  refine foldl ?_ fun _ _ ht => govWrite ht
  exact h

theorem reachAll {b} (h : s.Canon) : (s.reachAll b).Canon :=
  foldl h fun _ _ ht => ite (focusCore ht) (ite (focusCore ht) (reach (focusCore ht)))

theorem govEstimate (h : s.Canon) : s.govEstimate.Canon := h

theorem sampleSensors {b} (h : s.Canon) : (s.sampleSensors b).Canon := h

theorem decay {b} (h : s.Canon) : (s.decay b).1.Canon := { h with cores := List.forall_mem_map.2 h.cores }

theorem spendDecls {b up} (h : s.Canon) : (s.spendDecls b up).1.Canon := by
  refine foldl_keeps (fun p : State × Option Nat => p.1.Canon) h fun p c hp => ?_
  split
  · exact hp
  · extract_lets t r
    have hm : t.Canon := modCore hp fun _ hc => hc
    exact fst_ite (modCore hm fun _ hc => hc) hm

theorem openLaunches (h : s.Canon) : s.openLaunches.Canon := foldl h fun _ _ ht => ite (modLaunch ht fun _ hl => hl) ht

theorem spendStarts {up} (h : s.Canon) : (s.spendStarts up).1.Canon := by
  refine foldl_keeps (fun p : State × Option Nat => p.1.Canon) h fun p q hp => ?_
  split
  · exact hp
  · exact fst_ite (modLaunch (modCore hp fun _ hc => hc) fun _ hl => hl) hp

theorem spendRequests {up} (h : s.Canon) : (s.spendRequests up).1.Canon := by
  refine foldl_keeps (fun p : State × Option Nat => p.1.Canon) h fun p q hp => ?_
  split
  · exact hp
  · exact fst_ite (update (modCore hp fun _ hc => hc)) hp

theorem spend {b} (h : s.Canon) : (s.spend b).Canon := by
  unfold State.spend
  extract_lets up stop left
  have hstop : ∀ p f, p.1.Canon → (∀ t u, State.Canon t → (f t u).1.Canon) → (stop p f).1.Canon := by
    intro p f hp hf
    dsimp only [stop]
    split
    · exact hp
    · exact hf _ _ hp
  exact update (hstop _ _ (hstop _ _ (spendDecls h) fun _ _ ht => spendStarts ht) fun _ _ ht => spendRequests ht)

theorem lowerCeil {d} (h : s.Canon) : (s.lowerCeil d).1.Canon := fst_ite h h

theorem adjustCeil {e} (h : s.Canon) : (s.adjustCeil e).Canon := by
  unfold State.adjustCeil
  extract_lets at_ t cool g u g' v
  have hu : u.Canon := h
  have hv : v.Canon := h
  split
  next w _ hw =>
  have hw : w.Canon := of_eq (fst_ite (lowerCeil hv) hu) hw
  split
  next x _ hx =>
  have hx : x.Canon := by
    refine of_eq (fst_ite hw ?_) hx
    dsimp only
    split
    · exact hw
    · exact lowerCeil hw
  refine ite hx ?_
  split
  · exact hx
  · exact hx

theorem beginStep {d m b} (h : s.Canon) : (s.beginStep d m b).Canon := by
  unfold State.beginStep
  extract_lets old after f
  have hf : ∀ c, c.Canon → (f c).Canon := fun _ hc => Core.canon_ite hc hc
  exact update (mapCores h hf)

theorem stepOne {b down} (h : s.Canon) : (s.stepOne b down).Canon := by
  unfold State.stepOne
  dsimp only
  split
  · exact h
  · exact beginStep h

end State.Canon

open State.Canon

theorem keepsCanon_execGovernorWindowBoundary : KeepsCanon execGovernorWindowBoundary := by
  intro s h
  unfold execGovernorWindowBoundary
  extract_lets b t u v e
  have hu : u.Canon := govWrites (reachAll h)
  have hv : v.Canon := mapCores hu fun _ hc => Core.canon_endDecl hc
  split
  next w down hw =>
  have hw : w.Canon := of_eq (decay (sampleSensors (govEstimate hv))) hw
  extract_lets x y z
  have hx : x.Canon := spend (openLaunches hw)
  have hy : y.Canon := update hx
  have hz : z.Canon := stepOne (adjustCeil hy)
  exact canonical_next (update (mapCores hz fun _ hc => hc))

end Sys2Proof.Machine
end

section
namespace Sys2Proof.Machine

open Sys2Proof

/-! ## Admission and warrants -/

/-- An image's bytes are written into an empty memory. -/
theorem Space.canon_imageSpace {id im} : (imageSpace id im).Canon :=
  ⟨foldl_keeps (fun m => Memory.wf m = true) rfl fun _ _ hm => Memory.wf_writeN _ _ _ hm,
    foldl_keeps (fun m => Memory.wf m = true) rfl fun _ _ hm => Memory.wf_writeN _ _ _ hm⟩

namespace State.Canon

variable {s : State}

theorem mapStacks {wid} (h : s.Canon) : (s.mapStacks wid).Canon :=
  update (modWar (modSpace h fun _ hsp => Space.canon_clear hsp))

theorem reserve {r pres conn peeridx im p} (h : s.Canon) : (s.reserve r pres conn peeridx im p).1.Canon := h

theorem admitWarrant {wid im} (h : s.Canon) : (s.admitWarrant wid im).Canon := by
  unfold State.admitWarrant
  extract_lets w t u
  have ht : t.Canon := by
    dsimp only [t]
    split
    · exact { h with spaces := List.forall_mem_cons.2 ⟨Space.canon_imageSpace, h.spaces⟩ }
    · exact h
  have hu : u.Canon := ht
  exact mapStacks hu

theorem unreserve {wid} (h : s.Canon) : (s.unreserve wid).Canon := h

theorem judge {past r raw objs pres conn peeridx} (h : s.Canon) : (s.judge past r raw objs pres conn peeridx).1.Canon := by
  unfold State.judge
  split
  · exact h
  · split
    · exact h
    · split
      · exact h
      · split
        · exact h
        · exact fst_ite h (reserve (ite h h))

theorem warrantWait {d v} (h : s.Canon) : (s.warrantWait d v).Canon := h

theorem sendModule {h' opc body} (h : s.Canon) : (s.sendModule h' opc body).Canon := h

theorem beginClaim {r home conn core} (h : s.Canon) : (s.beginClaim r home conn core).Canon := h

theorem present {d raw} (h : s.Canon) : (s.present d raw).Canon := by
  unfold State.present
  dsimp only
  split
  · next e => exact warrantWait (of_eq (judge h) e)
  · next e => exact waitOn (of_eq (judge h) e)
  · next e => exact warrantWait (admitWarrant (of_eq (judge h) e))
  · next e => exact waitOn (beginClaim (of_eq (judge h) e))

theorem windowPut {o bs} (h : s.Canon) : (s.windowPut o bs).Canon := { h with store := Memory.wf_writeAt _ _ h.store }

theorem split {p x y r} (h : s.Canon) : (s.split p x y r).1.Canon := mapStacks (update (modWar h))

theorem consume {w} (h : s.Canon) : (s.consume w).Canon := update (modSpace (modWar (freePages h)) fun _ hsp => hsp)

theorem learnsEnd {wid} (h : s.Canon) : (s.learnsEnd wid).Canon := ite h h

end State.Canon

open State.Canon

theorem keepsCanon_execWpres {d a b} : KeepsCanon (execWpres d a b) := by
  intro s h
  refine canonical_next (control h fun t ht => State.Canon.ite ht.trap ?_)
  split
  · exact ht.trap
  · split
    · exact ht.trap
    · exact present ht
    · split
      · exact ht.uncorrReg
      · exact present (noteRead ht)

theorem keepsCanon_execWsplit {d a b} : KeepsCanon (execWsplit d a b) := fun _ h =>
  canonical_next (control h fun _ ht => withHandle ht fun _ _ hu =>
    State.Canon.ite (warrantWait hu) (warrantWait (windowPut (State.Canon.split hu))))

theorem keepsCanon_execWdeleg {d a b} : KeepsCanon (execWdeleg d a b) := fun _ h =>
  canonical_next (control h fun _ ht => withHandle ht fun _ _ hu => State.Canon.ite (result hu) (result (windowPut (consume hu))))

theorem keepsCanon_execWsurr {d a} : KeepsCanon (execWsurr d a) := fun _ h =>
  canonical_next (control h fun _ ht => withHandle ht fun _ _ hu =>
    State.Canon.ite (terminate hu) (warrantWait (learnsEnd (terminate hu))))

theorem keepsCanon_execWqry {d a b} : KeepsCanon (execWqry d a b) := fun _ h =>
  canonical_next (withHandle h fun _ _ hu => warrantWait (learnsEnd (localPut hu)))

theorem keepsCanon_execWarrantInstructionCompletion {core} : KeepsCanon (execWarrantInstructionCompletion core) := by
  intro s h
  refine inputOf h ?_
  split
  · exact canonical_next (State.Canon.wake h)
  · exact h

theorem keepsCanon_execWarrantExpiry {war} : KeepsCanon (execWarrantExpiry war) := by
  intro s h
  unfold execWarrantExpiry
  dsimp only
  split
  · exact h
  · exact canonical_ite (terminate h) h

end Sys2Proof.Machine
end

section
namespace Sys2Proof.Machine

open Sys2Proof

/-! ## The end of a relock, sensors and scrubbing -/

theorem Res.canon_state {s : State} {r : Res} (h : s.Canon) (hr : Canonical r) : (r.state s).Canon := by
  unfold Res.state
  split
  · exact hr
  · exact h

namespace State.Canon

variable {s : State}

theorem deliverMsg {m} (h : s.Canon) : (s.deliverMsg m).Canon := by
  unfold State.deliverMsg
  split
  · exact h
  · split
    · exact Res.canon_state h (keepsCanon_execSendCompletion s h)
    · exact Res.canon_state h (keepsCanon_execRemoteReplyArrival s h)
    · exact Res.canon_state h (keepsCanon_execRedNodeArrival s h)
    · exact Res.canon_state h (keepsCanon_execRedNodeArrival s h)
    · exact Res.canon_state h (keepsCanon_execRemoteMessageArrival s h)

theorem deliverRoot {id c} (h : s.Canon) : (s.deliverRoot id c).Canon := by
  unfold State.deliverRoot
  split
  · exact Res.canon_state h (keepsCanon_execRedResultDelivery s h)
  · exact Res.canon_state h (keepsCanon_execBarRelease s h)
  · exact Res.canon_state h (keepsCanon_execRedxRelease s h)
  · exact h

theorem deliverMmr {c} (h : s.Canon) : (s.deliverMmr c).Canon := by
  have hw : (Res.state s (execMmrTransfer c.id false s)).Canon := Res.canon_state h (keepsCanon_execMmrTransfer s h)
  have hn := Res.canon_state hw (keepsCanon_execMmrTransfer (core := c.id) (north := true) _ hw)
  exact ite h (Res.canon_state hn (keepsCanon_execMmrRelease _ hn))

theorem deliverInput {e} (h : s.Canon) : (s.deliverInput e).Canon := by
  cases e with
  | reply => exact Res.canon_state h (keepsCanon_execGlobalReply s h)
  | waitwWake => exact Res.canon_state h (keepsCanon_execWaitwWake s h)
  | fetch => exact Res.canon_state h (keepsCanon_execInstructionFetchArrival s h)
  | line => exact Res.canon_state h (keepsCanon_execRegisterLineFill s h)
  | fabric => exact Res.canon_state h (keepsCanon_execRedNodeArrival s h)
  | mapped => exact Res.canon_state h (keepsCanon_execVmapCompletion s h)
  | unmapped => exact Res.canon_state h (keepsCanon_execVunmapCompletion s h)
  | warrant => exact Res.canon_state h (keepsCanon_execWarrantInstructionCompletion s h)
  | hash => exact Res.canon_state h (keepsCanon_execCheckedHashArrival s h)
  | launched => exact answerWaiter h
  | message => exact deliverMsg h
  | corrections => exact serveFirst h

theorem platformEvent {id value} (h : s.Canon) : (s.platformEvent id value).Canon := update h

theorem stateSensor {id value} (h : s.Canon) : (s.stateSensor id value).Canon := ite h (platformEvent (update h))

theorem crash {ctrl kind cause pc addr} (h : s.Canon) : (s.crash ctrl kind cause pc addr).Canon := platformEvent (update h)

theorem poisonLine {l} (h : s.Canon) : (s.poisonLine l).Canon := by
  cases l with
  | hbm => exact modSpace h fun _ hsp => hsp
  | well => exact update h
  | instruction => exact modSpace h fun _ hsp => hsp
  | localStore => exact modCore h fun _ hc => hc

end State.Canon

open State.Canon

theorem keepsCanon_execRelockEnd {die} : KeepsCanon (execRelockEnd die) := by
  intro s h
  unfold execRelockEnd
  split
  · exact h
  · refine canonical_next (State.Canon.foldl ?_ fun _ _ ht => deliverMmr ht)
    refine State.Canon.foldl ?_ fun _ _ ht => State.Canon.foldl ht fun _ _ hu => deliverRoot hu
    refine State.Canon.foldl ?_ fun _ _ ht => deliverInput ht
    exact modDie h

theorem keepsCanon_execPlatformEventAcknowledge : KeepsCanon execPlatformEventAcknowledge := fun _ h => h

theorem keepsCanon_execDieTemperatureSample {die degrees} : KeepsCanon (execDieTemperatureSample die degrees) := fun _ h =>
  canonical_ite (update h) (platformEvent (update h))

theorem keepsCanon_execScrubLine {l found behind} : KeepsCanon (execScrubLine l found behind) := by
  intro s h
  cases found with
  | clean => exact stateSensor h
  | corrected => exact countSensor (stateSensor h)
  | uncorrectable => exact poisonLine (countSensor (stateSensor h))

theorem keepsCanon_execScrubPassLate {die} : KeepsCanon (execScrubPassLate die) := fun _ h => stateSensor h

end Sys2Proof.Machine
end

section
namespace Sys2Proof.Machine

open Sys2Proof

/-! ## Standby: eviction and restoration -/

theorem iterate_keeps {α : Type} (P : α → Prop) {f : Nat → α → α} {n : Nat} {x : α} (hx : P x)
    (hf : ∀ k x, P x → P (f k x)) : P (iterate f n x) := by
  induction n with
  | zero => exact hx
  | succ n ih => exact hf n _ ih

theorem keepsCanon_heldOp {i go} (e : heldOp i = some go) : KeepsCanon go := by
  unfold heldOp at e
  split at e
  all_goals cases e
  case h_1 | h_2 | h_3 | h_4 | h_5 | h_6 | h_7 => exact fun _ h => State.Canon.gstore h
  all_goals exact fun _ h => State.Canon.gatomic h

namespace State.Canon

variable {s : State}

theorem settle {id} (h : s.Canon) : (s.settle id).Canon := by
  refine foldl h fun t c ht => ?_
  split
  · exact globalReplied ht
  · exact globalReplied ht
  · exact globalReplied ht
  · exact globalReplied ht
  · exact wake ht
  · exact ht

theorem finishHeld {id hid} (h : s.Canon) : (s.finishHeld id hid).Canon := by
  have hf : (s.focusCtx id hid).Canon := focusCtx h
  unfold State.finishHeld
  dsimp only
  split
  · split
    · next e => exact Res.canon_state hf (keepsCanon_heldOp e _ (update hf))
    · exact hf
  · exact hf

theorem settleAll {cs} (h : s.Canon) : (s.settleAll cs).Canon :=
  foldl (foldl h fun _ _ ht => settle ht) fun _ _ ht => settle (finishHeld ht)

theorem finishMmrs {lid id} (h : s.Canon) : (s.finishMmrs lid id).Canon := by
  refine iterate_keeps State.Canon h fun _ t ht => ?_
  dsimp only
  split
  · exact ht
  · exact ite ht (modCore (mmrSent ht) fun _ hc => hc)

theorem dropMmrs {lid id} (h : s.Canon) : (s.dropMmrs lid id).Canon := by
  refine foldl (modCore h fun c hc => ?_) fun _ _ ht => descReady (descReady ht)
  exact foldl_keeps Core.Canon (f := fun c o => c.mmrReady o) hc fun _ _ hk => Core.canon_mmrReady hk

theorem canon_imageOf {l id} (h : s.Canon) : (s.imageOf l id).Canon := coreAt h

theorem clearCore {id} (h : s.Canon) : (s.clearCore id).Canon := by
  have hm : (s.modCore id Core.halt).Canon := modCore h fun _ hc => hc
  exact ite (update hm) hm

theorem evictCore {scope id} (h : s.Canon) : (s.evictCore scope id).Canon :=
  foldl (foldl (abandonOps h) fun _ _ ht => modCtx ht) fun _ _ ht => acquireAt (releaseAt ht)

theorem evictOne {scope lid} (h : s.Canon) : (s.evictOne scope lid).Canon := by
  unfold State.evictOne
  extract_lets l t u v held img tails w drop x
  have ht : t.Canon := foldl h fun _ _ ht => finishMmrs ht
  have hu : u.Canon := foldl ht fun _ _ ht => evictCore ht
  have hv : v.Canon := foldl hu fun _ _ ht => dropMmrs ht
  have hw : w.Canon := foldl hv fun _ _ ht => clearCore ht
  have hx : x.Canon := update { hw with cores := List.forall_mem_map.2 hw.cores }
  exact ite h (noteEvicted (modLaunch hx fun _ _ => List.forall_mem_map.2 fun _ _ => canon_imageOf hv))

theorem stopIssue {lid} (h : s.Canon) : (s.stopIssue lid).Canon := settleAll (foldl h fun _ _ ht => modLaunch ht fun _ hl => hl)

theorem evictAt {scope lid} (h : s.Canon) : (s.evictAt scope lid).Canon :=
  ite h (ite (stopIssue h) (foldl (stopIssue h) fun _ _ ht => evictOne ht))

theorem evict {lid} (h : s.Canon) : (s.evict lid).Canon := evictAt h

theorem restoreImage {mv img tail} (h : s.Canon) (hi : img.Canon) : (s.restoreImage mv img tail).Canon := by
  unfold State.restoreImage
  extract_lets id now q k k'
  have hk : k'.Canon := hi
  split
  · split
    · exact withCo (update h) hk
    · exact withCo (update h) hk
  · have hcores : ∀ c ∈ s.cores.filter (·.id != id), c.Canon := fun c hc => h.cores c (List.mem_of_mem_filter hc)
    exact { h with cores := List.forall_mem_append.2 ⟨hcores, List.forall_mem_singleton.2 hk⟩ }

theorem joinAgain {scope old id} (h : s.Canon) : (s.joinAgain scope old id).Canon :=
  foldl h fun _ _ ht => modCtx (acquireAt (releaseAt ht))

theorem rearm {id} (h : s.Canon) : (s.rearm id).Canon := by
  refine foldl h fun t c ht => ?_
  split
  · exact ite (askPeer ht) ht
  · exact ht

theorem restoreAt {scope lid x y} (h : s.Canon) : (s.restoreAt scope lid x y).Canon := by
  unfold State.restoreAt
  extract_lets l mv dep tail t u
  have ht : t.Canon := update (mapLaunches h fun _ hl => Launch.canon_ite hl hl)
  have hu : u.Canon := List.foldlRecOn l.image _ ht fun _ hv c hc => rearm (joinAgain (restoreImage hv (launchById h c hc)))
  exact noteEvicted (modLaunch hu fun _ _ => Launch.canon_of_image_nil rfl)

theorem restore {lid x y} (h : s.Canon) : (s.restore lid x y).Canon := restoreAt h

theorem restorePair {lid x y} (h : s.Canon) : (s.restorePair lid x y).Canon := by
  refine ite h ?_
  split
  · exact serveCorrs (restore h)
  · split
    · exact h
    · exact serveCorrs (restore (restore h))

end State.Canon

open State.Canon

theorem keepsCanon_execStandbyEviction {lid} : KeepsCanon (execStandbyEviction lid) := fun _ h => canonical_ite (evict h) h

theorem keepsCanon_execStandbyRestore {lid x y} : KeepsCanon (execStandbyRestore lid x y) := fun _ h => canonical_ite (restorePair h) h

theorem keepsCanon_execStandbyRotation {out into} : KeepsCanon (execStandbyRotation out into) := fun _ h =>
  canonical_ite (restorePair (evict h)) h

theorem keepsCanon_execStandbyHoldExpiry {war} : KeepsCanon (execStandbyHoldExpiry war) := by
  intro s h
  unfold execStandbyHoldExpiry
  dsimp only
  split
  · exact canonical_ite (terminate h) h
  · exact h

end Sys2Proof.Machine
end

section
namespace Sys2Proof.Machine

open Sys2Proof

/-! ## The wellhead's messages, claims and transfers -/

theorem findSome_getD_of_forall {α β : Type} {P : β → Prop} {l : List α} {f : α → Option β} {d : β}
    (hf : ∀ a b, f a = some b → P b) (hd : P d) : P ((l.findSome? f).getD d) := by
  cases e : l.findSome? f with
  | none => exact hd
  | some b =>
    obtain ⟨a, -, ha⟩ := List.exists_of_findSome?_eq_some e
    exact hf a b ha

theorem Core.canon_claimEnd {serial tick v} {c : Core} (h : c.Canon) : (c.claimEnd serial tick v).Canon := h

theorem Core.canon_shift {k} {c : Core} (h : c.Canon) : (c.shift k).Canon := h

theorem Space.canon_shift {k} {sp : Space} (h : sp.Canon) : (sp.shift k).Canon := h

theorem Launch.canon_mapImage {l k : Launch} {f : Core → Core} (h : l.Canon) (e : k.image = l.image.map f)
    (hf : ∀ c, c.Canon → (f c).Canon) : k.Canon := by
  unfold Launch.Canon
  rw [e]
  exact List.forall_mem_map.2 fun c hc => hf c (h c hc)

theorem Launch.canon_shift {k} {l : Launch} (h : l.Canon) : (l.shift k).Canon :=
  Launch.canon_mapImage h rfl fun _ hc => Core.canon_shift hc

theorem Moving.canon_shift {k} {v : Moving} (h : v.Canon) : (v.shift k).Canon := by
  obtain ⟨hspace, hwells, hlaunches⟩ := h
  exact ⟨Space.canon_shift hspace, List.forall_mem_map.2 hwells,
    List.forall_mem_map.2 fun l hl => Launch.canon_shift (hlaunches l hl)⟩

theorem Moving.canon_launch {v : Moving} {placed corrs} {l : Launch} (h : l.Canon) : (v.launch placed corrs l).Canon := by
  have hb : ∀ k : Launch, k.image = l.image.map (fun c => { c with corrBase := c.corrBase + corrs }) → k.Canon :=
    fun _ e => Launch.canon_mapImage h e fun _ hc => hc
  exact Launch.canon_ite (hb _ rfl) (hb _ rfl)

/-- The state of an arrival that was settled, if it was. -/
def Settled : Refused ⊕ (State × List (Nat × Warrant)) → Prop
  | .inl _ => True
  | .inr p => p.1.Canon

namespace State.Canon

variable {s : State}

theorem nak {code opc m} (h : s.Canon) : (s.nak code opc m).Canon := emit (countSensor (update h))

theorem verdict {p code detail w} (h : s.Canon) : (s.verdict p code detail w).Canon := h

theorem dropPresn {conn} (h : s.Canon) : (s.dropPresn conn).Canon := h

theorem decidePresn {p t} (h : s.Canon) (e : s.decidePresn p = some t) : t.Canon := by
  unfold State.decidePresn at e
  split at e
  · next hj =>
    split at e
    · cases e
    · cases e
      exact update (of_eq (judge h) hj)
  · next hj =>
    cases e
    exact verdict (dropPresn (of_eq (judge h) hj))
  · next hj =>
    cases e
    exact verdict (admitWarrant (dropPresn (of_eq (judge h) hj)))
  · next hj =>
    cases e
    exact beginClaim (update (of_eq (judge h) hj))

theorem settleOne (h : s.Canon) : s.settleOne.Canon := by
  refine ite h (findSome_getD_of_forall (fun p t e => ?_) h)
  split at e
  · cases e
    exact verdict (dropPresn h)
  · split at e
    · exact decidePresn h e
    · cases e

theorem decideSecond {core c} (h : s.Canon) : (s.decideSecond core c).Canon := by
  unfold State.decideSecond
  split
  · dsimp only
    split
    · exact h
    · next hj => exact wake (of_eq (judge h) hj)
    · next hj => exact wake (admitWarrant (of_eq (judge h) hj))
    · next hj => exact modCtx (beginClaim (of_eq (judge h) hj))
  · exact h

theorem settlePresns (h : s.Canon) : s.settlePresns.Canon :=
  foldl (iterate_keeps State.Canon h fun _ _ ht => settleOne ht) fun _ _ ht => foldl ht fun _ _ hu => decideSecond hu

theorem hubBack (h : s.Canon) : s.hubBack.Canon := settlePresns (update h)

theorem serialDecided {serial v} (h : s.Canon) : (s.serialDecided serial v).Canon :=
  update { h with
    cores := List.forall_mem_map.2 h.cores
    launches := List.forall_mem_map.2 fun l hl => Launch.canon_mapImage (h.launches l hl) rfl fun _ hc => Core.canon_claimEnd hc }

theorem resolveClaim {c r} (h : s.Canon) : (s.resolveClaim c r).Canon := by
  unfold State.resolveClaim
  extract_lets t
  have ht : t.Canon := update h
  split
  · exact ht
  · refine settlePresns (serialDecided ?_)
    split
    · split
      · exact unreserve ht
      · split
        · exact verdict (unreserve (dropPresn ht))
        · exact verdict (admitWarrant (dropPresn ht))
    · split
      · exact serialDecided (unreserve ht)
      · exact ite (unreserve ht) (serialDecided (admitWarrant ht))

theorem abandonPresn {p} (h : s.Canon) : (s.abandonPresn p).Canon := by
  refine settlePresns ?_
  dsimp only
  split
  · exact dropPresn h
  · exact serialDecided (unreserve (update (dropPresn h)))

theorem receive {opc m rsv} {go : State → State} (h : s.Canon) (hgo : ∀ s, s.Canon → (go s).Canon) :
    Canonical (s.receive opc m rsv go) := by
  refine canonical_ite h (canonical_ite (nak h) (canonical_ite (nak h) ?_))
  split
  · exact nak (abandonPresn h)
  · exact hgo s h

theorem forJob {opc m rsv} {go : Warrant → State → State} (h : s.Canon) (hgo : ∀ w s, s.Canon → (go w s).Canon) :
    Canonical (s.forJob opc m rsv go) := by
  refine receive h fun t ht => ?_
  split
  · exact nak ht
  · exact hgo _ t ht

theorem leave {w} (h : s.Canon) : (s.leave w).Canon := by
  unfold State.leave
  extract_lets fam ids t u
  have ht : t.Canon := haltLaunches h
  have hu : u.Canon := foldl ht fun _ _ hu => giveBack (modWar hu)
  exact update { hu with
    launches := fun l hl => hu.launches l (List.mem_of_mem_filter hl)
    spaces := fun sp hsp => hu.spaces sp (List.mem_of_mem_filter hsp)
    wells := fun x hx => hu.wells x (List.mem_of_mem_filter hx) }

theorem tellMoved {w vi job} (h : s.Canon) : (s.tellMoved w vi job).Canon := foldl (emit h) fun _ _ ht => emit ht

theorem transfer {w dest} (h : s.Canon) : (s.transfer w dest).Canon := ite h (ite h (sendModule h))

theorem settleIn {v} (h : s.Canon) : Settled (s.settleIn v) := by
  refine foldl_keeps Settled h fun p w hp => ?_
  split
  · trivial
  · split
    · exact hp
    · split
      · trivial
      · exact hp

theorem arrive {v placed} (h : s.Canon) (hv : v.Canon) : (s.arrive v placed).Canon := by
  obtain ⟨hspace, hwells, hlaunches⟩ := hv
  unfold State.arrive
  extract_lets rids at_ kids well round msg ids
  have hwell : ∀ x ∈ v.wells.filterMap well, Memory.wf x.2.2 = true := by
    intro x hx
    obtain ⟨y, hy, e⟩ := List.mem_filterMap.1 hx
    obtain ⟨d, -, rfl⟩ := Option.map_eq_some_iff.1 e
    exact hwells y hy
  exact update { h with
    spaces := List.forall_mem_cons.2 ⟨hspace, h.spaces⟩
    wells := List.forall_mem_append.2 ⟨hwell, h.wells⟩
    launches := List.forall_mem_append.2 ⟨h.launches, List.forall_mem_map.2 fun l hl => Moving.canon_launch (hlaunches l hl)⟩ }

theorem restoreMoved {v placed} (h : s.Canon) : (s.restoreMoved v placed).Canon :=
  foldl h fun _ _ ht => ite ht (ite ht (foldl ht fun _ _ hu => ite (restoreAt hu) hu))

theorem takeArrival {m} (h : s.Canon) : (s.takeArrival m).Canon := by
  unfold State.takeArrival
  dsimp only
  split
  · exact h
  · next v hv =>
    have hm : v.Canon := h.arrivals v (List.mem_of_find?_eq_some hv)
    have ht : State.Canon { s with arrivals := s.arrivals.erase v } :=
      { h with arrivals := fun u hu => h.arrivals u (List.mem_of_mem_erase hu) }
    refine ite (emit ht) ?_
    have hs := settleIn (v := v.shift s.nextId) ht
    split
    · exact emit ht
    · next e =>
      rw [e] at hs
      exact emit (serveCorrs (restoreMoved (arrive hs (Moving.canon_shift hm))))

theorem announce (h : s.Canon) : s.announce.Canon := by
  refine ite (update h) (update ?_)
  exact foldl (update h) fun _ _ ht => ite (emit ht) ht

end State.Canon

open State.Canon

theorem keepsCanon_execPresent {m} : KeepsCanon (execPresent m) :=
  fun _ h => receive h fun _ ht => State.Canon.ite (verdict ht) (update ht)

theorem keepsCanon_execObject {m} : KeepsCanon (execObject m) := by
  intro s h
  refine canonical_ite h (canonical_ite (nak h) (canonical_ite (nak h) ?_))
  split
  · exact nak h
  · exact canonical_ite (nak (abandonPresn h)) (canonical_next (settlePresns (update h)))

theorem keepsCanon_execLaunchMessage {m} : KeepsCanon (execLaunchMessage m) := by
  intro s h
  refine forJob h fun w t ht => ?_
  dsimp only
  split
  · exact emit ht
  · exact addLaunch ht

theorem keepsCanon_execQuery {m} : KeepsCanon (execQuery m) := fun _ h => forJob h fun _ _ ht => emit ht

theorem keepsCanon_execSurrender {m} : KeepsCanon (execSurrender m) := fun _ h => forJob h fun _ _ ht => emit (terminate ht)

theorem keepsCanon_execGroup {m} : KeepsCanon (execGroup m) :=
  fun _ h => forJob h fun _ _ ht => State.Canon.ite (emit ht) (emit (update ht))

theorem keepsCanon_execBeacon {m} : KeepsCanon (execBeacon m) := by
  intro s h
  refine receive h fun t ht => ?_
  split
  · exact update ht
  · exact update ht

theorem keepsCanon_execClaim {m} : KeepsCanon (execClaim m) := fun _ h => receive h fun _ ht => State.Canon.ite ht (emit (update ht))

theorem keepsCanon_execClaimed {m} : KeepsCanon (execClaimed m) := by
  intro s h
  refine receive h fun t ht => ?_
  dsimp only
  split
  · exact ht
  · exact State.Canon.ite ht (resolveClaim ht)

theorem keepsCanon_execClaimResend {serial} : KeepsCanon (execClaimResend serial) := by
  intro s h
  unfold execClaimResend
  split
  · exact canonical_ite h (canonical_next (emit (update h)))
  · exact h

theorem keepsCanon_execClaimTimeout {serial} : KeepsCanon (execClaimTimeout serial) := by
  intro s h
  unfold execClaimTimeout
  split
  · exact h
  · exact canonical_ite h (resolveClaim h)

theorem keepsCanon_execRedemptionEntryExpiry {serial} : KeepsCanon (execRedemptionEntryExpiry serial) := by
  intro s h
  unfold execRedemptionEntryExpiry
  split
  · exact h
  · exact canonical_next (update h)

theorem keepsCanon_execMigrate {m accepted newJob} : KeepsCanon (execMigrate m accepted newJob) := by
  intro s h
  refine receive h fun t ht => ?_
  split
  · exact State.Canon.ite (takeArrival ht) ht
  · extract_lets ls u v
    have hu : u.Canon := State.Canon.foldl ht fun _ _ hu => State.Canon.ite hu (evictAt hu)
    have hv : v.Canon := update hu
    refine State.Canon.ite (update hu) (State.Canon.ite ?_ ?_)
    · exact emit (State.Canon.foldl hv fun _ _ hw => State.Canon.ite (restoreAt hw) hw)
    · exact tellMoved (emit (update (leave (transfer (update hv)))))

theorem keepsCanon_execMoved {m was} : KeepsCanon (execMoved m was) := by
  intro s h
  refine receive h fun t ht => ?_
  extract_lets e old put which f u
  have hu : u.Canon := update { ht with cores := List.forall_mem_map.2 ht.cores }
  split
  · exact hu
  · split
    · exact hu
    · exact State.Canon.ite (emit hu) hu

theorem keepsCanon_execOldViPacket {vi sender} : KeepsCanon (execOldViPacket vi sender) := by
  intro s h
  unfold execOldViPacket
  split
  · exact h
  · exact emit h

theorem keepsCanon_execAnnounceRepeat : KeepsCanon execAnnounceRepeat := fun _ h => canonical_ite (announce h) h

end Sys2Proof.Machine
end

section
namespace Sys2Proof.Machine

open Sys2Proof

/-! ## Remote memory access -/

namespace State.Canon

variable {s : State}

theorem nicFill {w va n} (h : s.Canon) : (s.nicFill w va n).Canon := by
  refine foldl h fun t a ht => ?_
  refine ite ht ?_
  split
  · exact ht
  · exact modSpace ht fun _ hsp => hsp

theorem complete {vi code va data} (h : s.Canon) : (s.complete vi code va data).Canon := h

theorem strayPacket {vi va} (h : s.Canon) : (s.strayPacket vi va).Canon := by
  unfold State.strayPacket
  split
  · exact complete h
  · exact emit h

end State.Canon

open State.Canon

theorem keepsCanon_execRmaWrite {vi job va data} : KeepsCanon (execRmaWrite vi job va data) := by
  intro s h
  unfold execRmaWrite
  split
  · exact strayPacket h
  · exact canonical_ite (complete h)
      (canonical_next (complete (modSpace (nicFill h) fun _ hsp => Space.canon_released (Space.canon_store hsp))))

theorem keepsCanon_execRmaRead {vi job va len} : KeepsCanon (execRmaRead vi job va len) := by
  intro s h
  unfold execRmaRead
  split
  · exact strayPacket h
  · exact canonical_ite (complete h) (canonical_next (complete (nicFill h)))

theorem keepsCanon_execInboundPeerAtomic {vi job va op w operand expect} :
    KeepsCanon (execInboundPeerAtomic vi job va op w operand expect) := by
  intro s h
  unfold execInboundPeerAtomic
  dsimp only
  split
  · exact strayPacket h
  · refine canonical_ite (complete h) (canonical_next (complete ?_))
    split
    · exact nicFill h
    · exact modSpace (nicFill h) fun _ hsp => Space.canon_storeBy hsp

theorem keepsCanon_execUeUnsupportedPacket {sender dest} : KeepsCanon (execUeUnsupportedPacket sender dest) := by
  intro s h
  refine canonical_ite h ?_
  split
  · exact nak h
  · exact canonical_next (emit (update h))

end Sys2Proof.Machine
end

section
namespace Sys2Proof.Machine

open Sys2Proof

/-! ## Power, resets and controllers -/

/-- With every memory empty, only the transfers on their way count. -/
theorem CanonParts.empty {arrivals} (h : ∀ v ∈ arrivals, Moving.Canon v) : CanonParts [] [] [] [] [] [] arrivals :=
  ⟨List.forall_mem_nil _, rfl, rfl, List.forall_mem_nil _, List.forall_mem_nil _, List.forall_mem_nil _, h⟩

theorem Core.canon_newLease {lease} {c : Core} (h : c.Canon) : (c.newLease lease).Canon := h

theorem Core.canon_wiped {c : Core} : c.wiped.Canon := ⟨rfl, rfl⟩

namespace State.Canon

variable {s : State}

theorem setLease {v} (h : s.Canon) : (s.setLease v).Canon :=
  update { h with
    cores := List.forall_mem_map.2 h.cores
    launches := List.forall_mem_map.2 fun l hl => Launch.canon_mapImage (h.launches l hl) rfl fun _ hc => Core.canon_newLease hc }

theorem cfgPut {off v} (h : s.Canon) : (s.cfgPut off v).Canon :=
  ite h (ite (setLease h) (ite (update h) (ite (update h) (ite (update h) (ite (update h)
    (ite (ite h (update h)) (ite (ite (update h) (ite h (update h))) h)))))))

theorem storedConfig (h : s.Canon) : s.storedConfig.Canon := ite h (update (foldl h fun _ _ ht => cfgPut ht))

theorem bootOn (h : s.Canon) : s.bootOn.Canon := ite h (ite (update h) (announce (update (storedConfig h))))

theorem nonVolatile (h : s.Canon) : s.nonVolatile.Canon := update (CanonParts.empty h.arrivals)

theorem failDies {m} (h : s.Canon) : (s.failDies m).Canon := foldl h fun _ _ ht => ite (stateSensor (modDie ht)) ht

theorem boot {failed ports} (h : s.Canon) : (s.boot failed ports).Canon := ite (update h) (bootOn (failDies (update h)))

theorem resetRequest {ctrl level} (h : s.Canon) : (s.resetRequest ctrl level).Canon := crash h

theorem clearModule {level} (h : s.Canon) : (s.clearModule level).Canon := update (CanonParts.empty h.arrivals)

theorem diesBack {m} (h : s.Canon) : (s.diesBack m).Canon := foldl h fun _ _ ht => ite ht (ite (stateSensor ht) ht)

theorem warmReset (h : s.Canon) : s.warmReset.Canon := bootOn (failDies (clearModule (diesBack (resetRequest h))))

theorem wipeCores {p} (h : s.Canon) : (s.wipeCores p).Canon := by
  have hm : State.Canon { s with cores := s.cores.map (fun c => if p c.id then c.wiped else c) } :=
    mapOthers h fun _ hc => Core.canon_ite Core.canon_wiped hc
  exact ite (withCo (update hm) Core.canon_wiped) hm

theorem failWarrants {p} (h : s.Canon) : (s.failWarrants p).Canon := foldl h fun _ _ ht => terminate ht

theorem resetDie {d} (h : s.Canon) : (s.resetDie d).Canon := by
  unfold State.resetDie
  extract_lets t u v
  have hu : u.Canon := wipeCores (failWarrants (resetRequest h))
  have hw : ∀ x ∈ u.wells.filter (fun x => x.2.1 != d), Memory.wf x.2.2 = true := fun x hx => hu.wells x (List.mem_of_mem_filter hx)
  have hv : v.Canon := update { hu with wells := hw }
  exact stateSensor (modDie hv)

theorem resetPumpOp {core} {p : State × List Nat} (h : p.1.Canon) : (State.resetPumpOp core p).1.Canon := by
  unfold State.resetPumpOp
  extract_lets t
  have ht : t.Canon := focusCore h
  split
  · exact ht
  · next o _ _ =>
    have hu : (t.asOwner o.hid).Canon := asOwner ht
    dsimp only
    split
    · dsimp only
      exact drainCheck (phaseCheck (pumpDrop hu))
    · exact pumpFault hu

theorem resetPump {core} (h : s.Canon) : (s.resetPump core).Canon :=
  foldl_keeps (fun p : State × List Nat => p.1.Canon) h fun _ _ hp => resetPumpOp hp

theorem resetMatrix {core} (h : s.Canon) : (s.resetMatrix core).Canon := by
  have hf : (s.focusCore core).Canon := focusCore h
  unfold State.resetMatrix
  dsimp only
  split
  · exact hf
  · exact matFault (update hf)

theorem resetGovernor (h : s.Canon) : s.resetGovernor.Canon := update { h with cores := List.forall_mem_map.2 h.cores }

theorem resetCrypto (h : s.Canon) : s.resetCrypto.Canon := by
  unfold State.resetCrypto
  extract_lets f t u
  have ht : t.Canon := update { h with
    cores := List.forall_mem_map.2 h.cores
    launches := List.forall_mem_map.2 fun l hl => Launch.canon_mapImage (f := f) (h.launches l hl) rfl fun _ hc => hc }
  have hu : u.Canon := by
    refine foldl ht fun v c hv => ?_
    split
    · exact hv
    · exact serialDecided (unreserve hv)
  exact settlePresns (update hu)

theorem ctrlEvent {c} (h : s.Canon) : (s.ctrlEvent c).Canon := ite (ite (warmReset h) (resetDie h)) (update h)

theorem eraseKeys (h : s.Canon) : s.eraseKeys.Canon := by
  refine settlePresns (foldl ?_ fun _ _ ht => resolveClaim ht)
  exact update h

end State.Canon

open State.Canon

theorem keepsCanon_execPowerOn {okHub okWellhead failed ports} : KeepsCanon (execPowerOn okHub okWellhead failed ports) := by
  intro s h
  unfold execPowerOn
  extract_lets t
  have ht : t.Canon := update (nonVolatile h)
  exact State.Canon.ite (boot ht) (update ht)

theorem keepsCanon_execPowerLoss : KeepsCanon execPowerLoss := fun _ h => canonical_next (update (nonVolatile h))

theorem keepsCanon_execPortLinkTraining {port} : KeepsCanon (execPortLinkTraining port) := fun _ h =>
  canonical_ite h (canonical_next (bootOn (update h)))

theorem keepsCanon_execModuleColdReset : KeepsCanon execModuleColdReset := by
  intro s h
  refine canonical_ite h ?_
  extract_lets failed ports t u v
  have ht : t.Canon := update h
  have hv : v.Canon := clearModule (diesBack (State.Canon.ite (resetRequest ht) ht))
  exact canonical_next (boot (update hv))

theorem keepsCanon_execModuleWarmReset : KeepsCanon execModuleWarmReset := fun _ h => canonical_ite h (warmReset h)

theorem keepsCanon_execDieReset {die} : KeepsCanon (execDieReset die) := fun _ h => resetDie h

theorem keepsCanon_execDieResetCompletion {die} : KeepsCanon (execDieResetCompletion die) := fun _ h =>
  canonical_ite (stateSensor (modDie h)) h

theorem keepsCanon_execCoreReset {core} : KeepsCanon (execCoreReset core) := by
  intro s h
  refine canonical_next (wipeCores ?_)
  split
  · exact resetRequest h
  · exact terminate (resetRequest h)

theorem keepsCanon_execEngineReset {e} : KeepsCanon (execEngineReset e) := by
  intro s h
  cases e with
  | pump => exact resetPump (resetRequest h)
  | matrix => exact resetMatrix (resetRequest h)
  | governor => exact resetGovernor (resetRequest h)
  | crypto => exact resetCrypto (resetRequest h)

theorem keepsCanon_execPortReset {port} : KeepsCanon (execPortReset port) := fun _ h => canonical_next (update (resetRequest h))

theorem keepsCanon_execWatchdogExpiry {ctrl pc} : KeepsCanon (execWatchdogExpiry ctrl pc) :=
  fun _ h => canonical_ite h (ctrlEvent (crash h))

theorem keepsCanon_execControllerException {ctrl cause pc addr} : KeepsCanon (execControllerException ctrl cause pc addr) := fun _ h =>
  canonical_ite h (ctrlEvent (crash h))

theorem keepsCanon_execSecurityAlarm {sensor} : KeepsCanon (execSecurityAlarm sensor) := by
  intro s h
  unfold execSecurityAlarm
  extract_lets level t u v
  have hu : u.Canon := update (stateSensor (crash h))
  have hv : v.Canon := State.Canon.foldl hu fun _ _ ht => terminate ht
  exact canonical_ite hu (State.Canon.ite hv (eraseKeys hv))

end Sys2Proof.Machine
end

section
namespace Sys2Proof.Machine

open Sys2Proof

/-! ## Management messages and firmware -/

theorem Core.canon_armStop {slot arm pc} {c : Core} (h : c.Canon) : (c.armStop slot arm pc).1.Canon := by
  unfold Core.armStop
  split
  · split
    · exact h
    · exact h
  · split
    · exact h
    · exact h

namespace State.Canon

variable {s : State}

theorem reply {opc tag body} (h : s.Canon) : (s.reply opc tag body).Canon := h

theorem stopAt {w n slot arm pc r} (h : s.Canon) (e : s.stopAt w n slot arm pc = some r) : r.1.Canon := by
  unfold State.stopAt at e
  split at e
  · next l hl =>
    obtain ⟨c, hc, rfl⟩ := Option.map_eq_some_iff.1 e
    have hi : l.Canon := h.launches l (List.mem_of_find?_eq_some hl)
    have hr := Core.canon_armStop (slot := slot) (arm := arm) (pc := pc) (hi c (List.mem_of_find?_eq_some hc))
    exact modLaunch h fun k hk => List.forall_mem_map.2 fun x hx => Core.canon_ite hr (hk x hx)
  · cases e
    exact modCore h fun _ hc => hc

end State.Canon

open State.Canon

theorem keepsCanon_execControllerCommand {die toLeaf consume cmd} : KeepsCanon (execControllerCommand die toLeaf consume cmd) :=
  fun _ h =>
  canonical_ite h (canonical_next (update h))

theorem keepsCanon_execSumpread {idx} : KeepsCanon (execSumpread idx) := fun _ h => canonical_ite h (reply h)

theorem keepsCanon_execCfgread {off} : KeepsCanon (execCfgread off) := fun _ h => canonical_ite h (reply h)

theorem keepsCanon_execCfgwrite {off val} : KeepsCanon (execCfgwrite off val) := fun _ h => canonical_ite h (cfgPut h)

theorem keepsCanon_execRdirEntryWrite {e val} : KeepsCanon (execRdirEntryWrite e val) := fun _ h => canonical_ite h (cfgPut h)

theorem keepsCanon_execGvread {off} : KeepsCanon (execGvread off) := fun _ h => canonical_ite h (reply h)

theorem keepsCanon_execGvwrite {off val} : KeepsCanon (execGvwrite off val) := fun _ h => canonical_ite h (canonical_next (update h))

theorem keepsCanon_execDbgreadCounters {serial core} : KeepsCanon (execDbgreadCounters serial core) := by
  intro s h
  refine canonical_ite h ?_
  split
  · exact reply h
  · exact reply h

theorem keepsCanon_execDbgreadRecord {serial core hid} : KeepsCanon (execDbgreadRecord serial core hid) := by
  intro s h
  refine canonical_ite h ?_
  split
  · exact reply h
  · refine canonical_ite (reply h) ?_
    split
    · exact reply h
    · exact reply h

theorem keepsCanon_execDbgstop {serial core pc} : KeepsCanon (execDbgstop serial core pc) := by
  intro s h
  refine canonical_ite h ?_
  split
  · exact reply h
  · refine canonical_ite (reply h) (canonical_ite (reply h) ?_)
    split
    · exact reply h
    · next e =>
      obtain ⟨n, -, he⟩ := Option.bind_eq_some_iff.1 e
      exact reply (stopAt h he)

theorem keepsCanon_execSpdmMeasurements {ctrl} : KeepsCanon (execSpdmMeasurements ctrl) := fun _ h => canonical_ite h (reply h)

theorem keepsCanon_execPldmFirmwareUpdate {ctrl image} : KeepsCanon (execPldmFirmwareUpdate ctrl image) :=
  fun _ h => canonical_next (update h)

theorem keepsCanon_execFirmwareActivation {ctrl} : KeepsCanon (execFirmwareActivation ctrl) := fun _ h =>
  canonical_ite h (canonical_next (update h))

theorem keepsCanon_execFirmwareSelfTestFailure {ctrl} : KeepsCanon (execFirmwareSelfTestFailure ctrl) := by
  intro s h
  unfold execFirmwareSelfTestFailure
  split
  · exact h
  · exact canonical_ite h (canonical_next (update (crash h)))

end Sys2Proof.Machine
end

section
namespace Sys2Proof.Machine

open Sys2Proof

/-! ## Every step -/

open State.Canon

/-- Each instruction and each event, by its own lemma or by the operation that is its whole meaning. -/
theorem keepsCanon_exec {i} : KeepsCanon (exec i) := by
  cases i with
  | add | sub | mul | mulh | mulhn | div | divn | rem | remn | and | or | xor | andn | shl | shr | sar | rol | min | max | minn | maxn |
    clz | ctz | popc | abs | addi | andi | ori | xori | addiW3 | andiW3 | oriW3 | xoriW3 | li | liW3 | sext | zext | bfx | bfi | cgb | cgl
    | cgp | cga | ctag | chq | role | ifl | wellq | dsta => exact fun _ h => result h
  | mov | sel | cap | cct | dget => exact fun _ h => State.Canon.retire (setCap h)
  | fadd | fsub | fmul | fma | fmin | fmax | fabs | fneg | fcls | frcp | frsq | fnr | fnrs | fcvtToInt | fcvtFromInt | fcvtSTod | fcvtDTos
    | fcvtWrapToInt => exact fun _ h => fresult h
  | csa | cinc | cincImm | cincW3 => exact fun _ h => moveCursor h
  | b | bt | bf | bz | bnz => exact fun _ h => branch h
  | call | callW3 => exact fun _ h => jump (setInt h)
  | j => exact fun _ h => jump h
  | nop => exact fun _ h => State.Canon.retire h
  | ldI8 | ldN8 | ldI16 | ldN16 | ldI32 | ldN32 | ld | ldW3 => exact fun _ h => gload h
  | stI8 | stI16 | stI32 | st | stc | stW3 | stcW3 => exact fun _ h => gstore h
  | ldc | ldcW3 => exact fun _ h => gloadCap h
  | ll | llW3 => exact fun _ h => lload h
  | sl | slW3 => exact fun _ h => lstore h
  | llf | slf | sle | feq => exact fun _ h => feOwn h
  | post | postf => exact fun _ h => postWord h
  | llfRemote | slfRemote | sleRemote | feqRemote => exact fun _ h => feRemote h
  | amoAdd | amoAnd | amoOr | amoXor | amoMin | amoMax | amoMinn | amoMaxn | amoSwap | cas => exact fun _ h => gatomic h
  | lamoAdd | lamoAnd | lamoOr | lamoXor | lamoMin | lamoMax | lamoMinn | lamoMaxn | lamoSwap => exact fun _ h => lamo h
  | gramp | gpin => exact fun _ h => State.Canon.retire (update h)
  | vadd | vsub | vmul | vmin | vmax | vand | vor | vxor | vshl | vshr | vsar => exact fun _ h => vec2 h
  | vabs | vneg => exact fun _ h => vec1 h
  | vrcp | vrsq | vexp2 | vlog2 => exact fun _ h => vspecial h
  | wld | tld | xcopy | drain | wellw => exact fun _ h => pump h
  | cmp => exact keepsCanon_execCmp
  | lk => exact keepsCanon_execLk
  | fcmp => exact keepsCanon_execFcmp
  | csb => exact keepsCanon_execCsb
  | cseal => exact keepsCanon_execCseal
  | cunseal => exact keepsCanon_execCunseal
  | loop => exact keepsCanon_execLoop
  | region => exact keepsCanon_execRegion
  | ret => exact keepsCanon_execRet
  | yield => exact keepsCanon_execYield
  | callc => exact keepsCanon_execCallc
  | trap => exact keepsCanon_execTrap
  | phase => exact keepsCanon_execPhase
  | waitw => exact keepsCanon_execWaitw
  | pref => exact keepsCanon_execPref
  | send => exact keepsCanon_execSend
  | recv => exact keepsCanon_execRecv
  | start => exact keepsCanon_execStart
  | exit => exact keepsCanon_execExit
  | join => exact keepsCanon_execJoin
  | kill => exact keepsCanon_execKill
  | resume => exact keepsCanon_execResume
  | launch => exact keepsCanon_execLaunch
  | trapret => exact keepsCanon_execTrapret
  | faultq => exact keepsCanon_execFaultq
  | ctrsel => exact keepsCanon_execCtrsel
  | time => exact keepsCanon_execTime
  | stop => exact keepsCanon_execStop
  | vmap => exact keepsCanon_execVmap
  | vunmap => exact keepsCanon_execVunmap
  | mfs => exact keepsCanon_execMfs
  | mts => exact keepsCanon_execMts
  | ctr => exact keepsCanon_execCtr
  | ctrl => exact keepsCanon_execCtrl
  | ctrh => exact keepsCanon_execCtrh
  | wpres => exact keepsCanon_execWpres
  | wsplit => exact keepsCanon_execWsplit
  | wdeleg => exact keepsCanon_execWdeleg
  | wsurr => exact keepsCanon_execWsurr
  | wqry => exact keepsCanon_execWqry
  | vfma => exact keepsCanon_execVfma
  | vcmp => exact keepsCanon_execVcmp
  | vsel => exact keepsCanon_execVsel
  | vcvt => exact keepsCanon_execVcvt
  | vqnt => exact keepsCanon_execVqnt
  | vdqnt => exact keepsCanon_execVdqnt
  | vnr => exact keepsCanon_execVnr
  | vscan => exact keepsCanon_execVscan
  | vred => exact keepsCanon_execVred
  | vbcast => exact keepsCanon_execVbcast
  | vfill => exact keepsCanon_execVfill
  | vcopy => exact keepsCanon_execVcopy
  | vtran => exact keepsCanon_execVtran
  | vgath => exact keepsCanon_execVgath
  | vscat => exact keepsCanon_execVscat
  | vlut => exact keepsCanon_execVlut
  | mma => exact keepsCanon_execMma
  | mmag => exact keepsCanon_execMmag
  | mmr => exact keepsCanon_execMmr
  | mzero => exact keepsCanon_execMzero
  | mrd => exact keepsCanon_execMrd
  | mwr => exact keepsCanon_execMwr
  | dset => exact keepsCanon_execDset
  | pub => exact keepsCanon_execPub
  | dclr => exact keepsCanon_execDclr
  | bar => exact keepsCanon_execBar
  | red => exact keepsCanon_execRed
  | redx => exact keepsCanon_execRedx
  | rstat => exact keepsCanon_execRstat
  | corr => exact keepsCanon_execCorr
  | slotVisit => exact keepsCanon_execSlotVisit
  | instructionFetchArrival => exact keepsCanon_execInstructionFetchArrival
  | globalReply => exact keepsCanon_execGlobalReply
  | remoteMessageArrival => exact keepsCanon_execRemoteMessageArrival
  | remoteReplyArrival => exact keepsCanon_execRemoteReplyArrival
  | vectorCompletion => exact keepsCanon_execVectorCompletion
  | matrixCompletion => exact keepsCanon_execMatrixCompletion
  | pumpOperationCompletion => exact keepsCanon_execPumpOperationCompletion
  | redNodeArrival => exact keepsCanon_execRedNodeArrival
  | launchAcceptance => exact keepsCanon_execLaunchAcceptance
  | registerLineFill => exact keepsCanon_execRegisterLineFill
  | slotRelease => exact keepsCanon_execSlotRelease
  | sendCompletion => exact keepsCanon_execSendCompletion
  | recvCompletion => exact keepsCanon_execRecvCompletion
  | waitwWake => exact keepsCanon_execWaitwWake
  | governorWindowBoundary => exact keepsCanon_execGovernorWindowBoundary
  | helperfaultTrap => exact keepsCanon_execHelperfaultTrap
  | helperDeactivation => exact keepsCanon_execHelperDeactivation
  | longOperationFault => exact keepsCanon_execLongOperationFault
  | recvDry => exact keepsCanon_execRecvDry
  | waitwTimeout => exact keepsCanon_execWaitwTimeout
  | tlbLeaseExpiry => exact keepsCanon_execTlbLeaseExpiry
  | vunmapCompletion => exact keepsCanon_execVunmapCompletion
  | wellRefresh => exact keepsCanon_execWellRefresh
  | coreStart => exact keepsCanon_execCoreStart
  | redNodeCutoff => exact keepsCanon_execRedNodeCutoff
  | redResultDelivery => exact keepsCanon_execRedResultDelivery
  | corrTimeout => exact keepsCanon_execCorrTimeout
  | barRelease => exact keepsCanon_execBarRelease
  | redxRelease => exact keepsCanon_execRedxRelease
  | mmrTransfer => exact keepsCanon_execMmrTransfer
  | mmrRelease => exact keepsCanon_execMmrRelease
  | relockEnd => exact keepsCanon_execRelockEnd
  | standbyEviction => exact keepsCanon_execStandbyEviction
  | standbyRestore => exact keepsCanon_execStandbyRestore
  | standbyRotation => exact keepsCanon_execStandbyRotation
  | standbyHoldExpiry => exact keepsCanon_execStandbyHoldExpiry
  | warrantExpiry => exact keepsCanon_execWarrantExpiry
  | checkedHashArrival => exact keepsCanon_execCheckedHashArrival
  | checkedHashTimeout => exact keepsCanon_execCheckedHashTimeout
  | scrubLine => exact keepsCanon_execScrubLine
  | scrubPassLate => exact keepsCanon_execScrubPassLate
  | present => exact keepsCanon_execPresent
  | object => exact keepsCanon_execObject
  | launchMessage => exact keepsCanon_execLaunchMessage
  | query => exact keepsCanon_execQuery
  | surrender => exact keepsCanon_execSurrender
  | group => exact keepsCanon_execGroup
  | beacon => exact keepsCanon_execBeacon
  | claim => exact keepsCanon_execClaim
  | claimed => exact keepsCanon_execClaimed
  | claimResend => exact keepsCanon_execClaimResend
  | claimTimeout => exact keepsCanon_execClaimTimeout
  | migrate => exact keepsCanon_execMigrate
  | moved => exact keepsCanon_execMoved
  | oldViPacket => exact keepsCanon_execOldViPacket
  | announceRepeat => exact keepsCanon_execAnnounceRepeat
  | rmaWrite => exact keepsCanon_execRmaWrite
  | rmaRead => exact keepsCanon_execRmaRead
  | ueUnsupportedPacket => exact keepsCanon_execUeUnsupportedPacket
  | controllerCommand => exact keepsCanon_execControllerCommand
  | powerOn => exact keepsCanon_execPowerOn
  | moduleColdReset => exact keepsCanon_execModuleColdReset
  | moduleWarmReset => exact keepsCanon_execModuleWarmReset
  | dieReset => exact keepsCanon_execDieReset
  | coreReset => exact keepsCanon_execCoreReset
  | engineReset => exact keepsCanon_execEngineReset
  | portReset => exact keepsCanon_execPortReset
  | watchdogExpiry => exact keepsCanon_execWatchdogExpiry
  | controllerException => exact keepsCanon_execControllerException
  | securityAlarm => exact keepsCanon_execSecurityAlarm
  | sumpread => exact keepsCanon_execSumpread
  | cfgread => exact keepsCanon_execCfgread
  | cfgwrite => exact keepsCanon_execCfgwrite
  | rdirEntryWrite => exact keepsCanon_execRdirEntryWrite
  | gvread => exact keepsCanon_execGvread
  | gvwrite => exact keepsCanon_execGvwrite
  | dbgreadCounters => exact keepsCanon_execDbgreadCounters
  | dbgreadRecord => exact keepsCanon_execDbgreadRecord
  | dbgstop => exact keepsCanon_execDbgstop
  | spdmMeasurements => exact keepsCanon_execSpdmMeasurements
  | pldmFirmwareUpdate => exact keepsCanon_execPldmFirmwareUpdate
  | firmwareActivation => exact keepsCanon_execFirmwareActivation
  | firmwareSelfTestFailure => exact keepsCanon_execFirmwareSelfTestFailure
  | powerLoss => exact keepsCanon_execPowerLoss
  | vmapCompletion => exact keepsCanon_execVmapCompletion
  | warrantInstructionCompletion => exact keepsCanon_execWarrantInstructionCompletion
  | inboundPeerAtomic => exact keepsCanon_execInboundPeerAtomic
  | portLinkTraining => exact keepsCanon_execPortLinkTraining
  | dieTemperatureSample => exact keepsCanon_execDieTemperatureSample
  | platformEventAcknowledge => exact keepsCanon_execPlatformEventAcknowledge
  | redemptionEntryExpiry => exact keepsCanon_execRedemptionEntryExpiry
  | dieResetCompletion => exact keepsCanon_execDieResetCompletion

/-! The steps that the model takes by itself are drawn from lists of meanings, and each of them keeps the canonical form. -/

/-- Each meaning of a list keeps the canonical form. -/
def AllKeep (l : List (State → Res)) : Prop := ∀ f ∈ l, KeepsCanon f

/-- Each meaning of a list with due times keeps the canonical form. -/
def AllKeepAt (l : List (Nat × (State → Res))) : Prop := ∀ x ∈ l, KeepsCanon x.2

theorem allKeep_nil : AllKeep [] := List.forall_mem_nil _

theorem allKeep_cons {f l} (hf : KeepsCanon f) (hl : AllKeep l) : AllKeep (f :: l) := List.forall_mem_cons.2 ⟨hf, hl⟩

theorem allKeep_one {f} (hf : KeepsCanon f) : AllKeep [f] := allKeep_cons hf allKeep_nil

theorem allKeep_append {l k} (hl : AllKeep l) (hk : AllKeep k) : AllKeep (l ++ k) := List.forall_mem_append.2 ⟨hl, hk⟩

theorem allKeep_map {α : Type} {l : List α} {f : α → State → Res} (hf : ∀ a, KeepsCanon (f a)) : AllKeep (l.map f) :=
  List.forall_mem_map.2 fun a _ => hf a

theorem allKeep_flatMap {α : Type} {l : List α} {f : α → List (State → Res)} (hf : ∀ a, AllKeep (f a)) : AllKeep (l.flatMap f) :=
  List.forall_mem_flatMap.2 fun a _ => hf a

theorem allKeep_ite {p : Prop} [Decidable p] {l k} (hl : AllKeep l) (hk : AllKeep k) : AllKeep (if p then l else k) := by
  split
  · exact hl
  · exact hk

theorem allKeep_arrivalSteps {s id c} : AllKeep (arrivalSteps s id c) := by
  refine allKeep_ite allKeep_nil (allKeep_append (allKeep_append ?_ ?_) ?_)
  · exact allKeep_ite (allKeep_one keepsCanon_execInstructionFetchArrival) allKeep_nil
  · exact allKeep_ite allKeep_nil (allKeep_map fun _ => keepsCanon_execRegisterLineFill)
  · cases c.wait with
    | none => exact allKeep_nil
    | some w =>
      cases w with
      | reply | pref | accept | detHold | mirror => exact allKeep_one keepsCanon_execGlobalReply
      | waitw => exact allKeep_one keepsCanon_execWaitwWake
      | check => exact allKeep_one keepsCanon_execCheckedHashArrival
      | vmap => exact allKeep_one keepsCanon_execVmapCompletion
      | vunmap => exact allKeep_one keepsCanon_execVunmapCompletion
      | warrant => exact allKeep_one keepsCanon_execWarrantInstructionCompletion
      | peerAtomic | phase | fe | remote | send | recv | drain | bar | red | redx | corr | join | desc | pub | launch | claim | second =>
        exact allKeep_nil

theorem allKeep_ctxSteps {s id c} : AllKeep (ctxSteps s id c) := by
  refine allKeep_append allKeep_arrivalSteps ?_
  split
  · exact allKeep_one keepsCanon_execWaitwTimeout
  · exact allKeep_one keepsCanon_execSendCompletion
  · exact allKeep_one keepsCanon_execSendCompletion
  · exact allKeep_cons keepsCanon_execRecvCompletion (allKeep_one keepsCanon_execRecvDry)
  · exact allKeep_one keepsCanon_execBarRelease
  · exact allKeep_one keepsCanon_execRedResultDelivery
  · exact allKeep_one keepsCanon_execRedxRelease
  · exact allKeep_one keepsCanon_execCorrTimeout
  · exact allKeep_one keepsCanon_execCheckedHashTimeout
  · exact allKeep_nil

theorem allKeep_coreSteps {s c} : AllKeep (coreSteps s c) := by
  refine allKeep_append (allKeep_append (allKeep_append ?_ ?_) ?_) ?_
  · exact allKeep_flatMap fun _ => allKeep_ctxSteps
  · exact allKeep_ite allKeep_nil (allKeep_one keepsCanon_execSlotRelease)
  · exact allKeep_ite (allKeep_one keepsCanon_execHelperfaultTrap) allKeep_nil
  · exact allKeep_ite allKeep_nil
      (allKeep_cons keepsCanon_execMmrTransfer (allKeep_cons keepsCanon_execMmrTransfer (allKeep_one keepsCanon_execMmrRelease)))

theorem allKeep_netSteps {s} : AllKeep (netSteps s) := allKeep_flatMap fun _ => allKeep_ite allKeep_nil
  (allKeep_cons keepsCanon_execRemoteMessageArrival
    (allKeep_cons keepsCanon_execRemoteReplyArrival (allKeep_one keepsCanon_execRedNodeArrival)))

theorem allKeep_treeSteps {s} : AllKeep (treeSteps s) := allKeep_flatMap fun _ => allKeep_map fun _ => keepsCanon_execRedNodeCutoff

theorem allKeep_launchSteps {l} : AllKeep (launchSteps l) := by
  unfold launchSteps
  cases l.state with
  | waiting => exact allKeep_one keepsCanon_execLaunchAcceptance
  | accepted =>
    exact allKeep_append (allKeep_map fun _ => keepsCanon_execCoreStart)
      (allKeep_ite (allKeep_one keepsCanon_execStandbyEviction) allKeep_nil)
  | evicted => exact allKeep_cons keepsCanon_execStandbyRestore (allKeep_map fun _ => keepsCanon_execStandbyRestore)
  | done => exact allKeep_nil

theorem allKeep_rotationSteps {s} : AllKeep (rotationSteps s) := by
  intro f hf
  obtain ⟨a, -, ha⟩ := List.mem_filterMap.1 hf
  obtain ⟨b, -, rfl⟩ := Option.map_eq_some_iff.1 ha
  exact keepsCanon_execStandbyRotation

theorem allKeep_tableSteps {s} : AllKeep (tableSteps s) := by
  refine allKeep_append (allKeep_append (allKeep_append ?_ ?_) ?_) ?_
  · exact allKeep_flatMap fun _ => allKeep_cons keepsCanon_execWarrantExpiry (allKeep_one keepsCanon_execStandbyHoldExpiry)
  · exact allKeep_map fun _ => keepsCanon_execRedemptionEntryExpiry
  · exact allKeep_flatMap fun _ => allKeep_cons keepsCanon_execClaimTimeout (allKeep_one keepsCanon_execClaimResend)
  · exact allKeep_one keepsCanon_execAnnounceRepeat

/-- The state of a meaning that gives a next state. -/
theorem canon_of_next {f s t} (h : State.Canon s) (hf : KeepsCanon f) (e : f s = .next t) : t.Canon := by
  have hc := hf s h
  rw [e] at hc
  exact hc

namespace State.Canon

variable {s : State}

theorem progress {f t} (h : s.Canon) (hf : KeepsCanon f) (e : s.progress f = some t) : t.Canon := by
  unfold State.progress at e
  split at e
  · next hu =>
    split at e
    · cases e
    · cases e
      exact canon_of_next h hf hu
  · cases e

theorem pumpStep {c t} (h : s.Canon) (e : pumpStep s c = some t) : t.Canon := by
  unfold Machine.pumpStep at e
  split at e
  · cases e
  · split at e
    · next hu =>
      split at e
      · cases e
      · cases e
        exact canon_of_next h keepsCanon_execPumpOperationCompletion hu
    · cases e

theorem laterStep {t} (h : s.Canon) (e : laterStep s = some t) : t.Canon := by
  unfold Machine.laterStep at e
  split at e
  · split at e
    · exact progress h (fun u hu => keepsCanon_execMigrate _ (update hu)) (Option.filter_eq_some_iff.1 e).1
    · cases e
      exact update h
  · cases e

theorem allKeep_dueSteps : AllKeep (s.allCores.flatMap (coreSteps s) ++ netSteps s ++ treeSteps s ++ s.launches.flatMap launchSteps ++
    rotationSteps s ++ tableSteps s) := by
  refine allKeep_append (allKeep_append (allKeep_append (allKeep_append (allKeep_append ?_ ?_) ?_) ?_) ?_) ?_
  · exact allKeep_flatMap fun _ => allKeep_coreSteps
  · exact allKeep_netSteps
  · exact allKeep_treeSteps
  · exact allKeep_flatMap fun _ => allKeep_launchSteps
  · exact allKeep_rotationSteps
  · exact allKeep_tableSteps

theorem dueStep {t} (h : s.Canon) (e : s.dueStep = some t) : t.Canon := by
  unfold State.dueStep at e
  split at e
  · cases e
    exact hubBack h
  · split at e
    · next hu =>
      cases e
      obtain ⟨f, hf, hft⟩ := List.exists_of_findSome?_eq_some hu
      exact progress h (allKeep_dueSteps f hf) hft
    · split at e
      · next hu =>
        cases e
        exact laterStep h hu
      · obtain ⟨c, -, hc⟩ := List.exists_of_findSome?_eq_some e
        exact pumpStep h hc

end State.Canon

theorem allKeepAt_append {l k} (hl : AllKeepAt l) (hk : AllKeepAt k) : AllKeepAt (l ++ k) := List.forall_mem_append.2 ⟨hl, hk⟩

theorem allKeepAt_map {α : Type} {l : List α} {f : α → Nat × (State → Res)} (hf : ∀ a, KeepsCanon (f a).2) :
    AllKeepAt (l.map f) :=
  List.forall_mem_map.2 fun a _ => hf a

theorem allKeepAt_flatMap {α : Type} {l : List α} {f : α → List (Nat × (State → Res))} (hf : ∀ a, AllKeepAt (f a)) :
    AllKeepAt (l.flatMap f) :=
  List.forall_mem_flatMap.2 fun a _ => hf a

theorem allKeepAt_toList {o : Option (Nat × (State → Res))} (ho : ∀ x, o = some x → KeepsCanon x.2) : AllKeepAt o.toList :=
  fun x hx => ho x (Option.mem_toList.1 hx)

theorem allKeepAt_coreAhead {s c} : AllKeepAt (coreAhead s c) := by
  unfold coreAhead
  split
  · exact List.forall_mem_nil _
  · refine allKeepAt_append (allKeepAt_append (allKeepAt_append ?_ ?_) ?_) ?_
    · refine allKeepAt_toList fun x hx => ?_
      obtain ⟨v, -, rfl⟩ := Option.map_eq_some_iff.1 hx
      exact keepsCanon_execVectorCompletion
    · refine allKeepAt_toList fun x hx => ?_
      obtain ⟨v, -, hv⟩ := Option.bind_eq_some_iff.1 hx
      obtain ⟨i, -, rfl⟩ := Option.map_eq_some_iff.1 hv
      exact fun t ht => keepsCanon_execWellRefresh _ (update ht)
    · refine allKeepAt_toList fun x hx => ?_
      obtain ⟨v, -, rfl⟩ := Option.map_eq_some_iff.1 hx
      exact keepsCanon_execMatrixCompletion
    · exact allKeepAt_map fun _ => keepsCanon_execSlotVisit

theorem allKeepAt_ahead {s : State} : AllKeepAt s.ahead := by
  refine allKeepAt_append (allKeepAt_append (allKeepAt_append ?_ ?_) ?_) ?_
  · exact allKeepAt_map fun _ _ ht => canonical_next (update ht)
  · intro x hx
    obtain ⟨d, -, hd⟩ := List.mem_filterMap.1 hx
    obtain ⟨t, -, rfl⟩ := Option.map_eq_some_iff.1 hd
    exact keepsCanon_execRelockEnd
  · exact List.forall_mem_singleton.2 keepsCanon_execGovernorWindowBoundary
  · exact allKeepAt_flatMap fun _ => allKeepAt_coreAhead

theorem allKeepAt_visitsBefore {e} {s : State} : AllKeepAt (s.visitsBefore e) := by
  refine allKeepAt_flatMap fun c x hx => ?_
  obtain ⟨k, -, rfl⟩ := List.mem_map.1 (List.mem_of_mem_filter hx)
  exact keepsCanon_execSlotVisit

theorem mem_of_earliest {l x} (e : earliest l = some x) : x ∈ l := by
  induction l with
  | nil => cases e
  | cons y t ih =>
    unfold earliest at e
    split at e
    · cases e
      exact List.mem_cons_self
    · next z hz =>
      split at e
      · cases e
        exact List.mem_cons_of_mem _ (ih hz)
      · cases e
        exact List.mem_cons_self

theorem keepsCanon_autoStep : KeepsCanon autoStep := by
  intro s h
  unfold autoStep
  split
  · next e => exact dueStep h e
  · split
    · next e => exact allKeepAt_ahead _ (mem_of_earliest e) s h
    · exact h

theorem keepsCanon_comesFirst {e f} {s : State} (hf : s.comesFirst e = some f) : KeepsCanon f := by
  unfold State.comesFirst at hf
  split at hf
  · cases hf
    exact fun _ h => hubBack h
  · obtain ⟨x, hx, rfl⟩ := Option.map_eq_some_iff.1 hf
    exact allKeepAt_visitsBefore x (mem_of_earliest hx)

theorem canonical_issueIr {r} (h : Canonical r) : Canonical (issueIr r) := by
  unfold issueIr
  split
  · split
    · exact h
    · exact keepsCanon_exec _ (update h)
  · trivial
  · trivial

theorem keepsCanon_step : KeepsCanon step := by
  intro s h
  unfold step
  split
  · refine canonical_ite (canonical_ite (canonical_issueIr (keepsCanon_exec _ (update h))) trivial) ?_
    split
    · exact canonical_issueIr (keepsCanon_exec _ (update h))
    · split
      · next hf => exact canonical_issueIr (keepsCanon_comesFirst hf s h)
      · exact canonical_issueIr (keepsCanon_exec _ (update h))
  · exact canonical_ite (canonical_issueIr (keepsCanon_autoStep s h)) trivial

/-- Settles O60: each memory of a state changes by writes alone, and the writes of `Memory` keep its canonical form. -/
theorem everyStepKeepsMemoryCanonical : Obligations.EveryStepKeepsMemoryCanonical := by
  unfold Obligations.EveryStepKeepsMemoryCanonical
  intro s t hs e
  exact State.memWf_iff.2 (canon_of_next (State.memWf_iff.1 hs) keepsCanon_step e)

end Sys2Proof.Machine
end

section
namespace Sys2Proof.Machine

open Sys2Proof Sys2Proof.Claim

/-! Which context an identifier names on a core, after each operation on contexts and cores (R41, R42). -/

/-! ## Lists of contexts -/

/-- A context is looked for in the focused one first, if that is alive. -/
theorem find_keepCtx (c : Ctx) (l : List Ctx) (p : Ctx → Bool) :
    (keepCtx c l).find? p = if c.status ≠ .free ∧ p c = true then some c else l.find? p := by
  by_cases hfree : c.status = .free
  · simp [keepCtx, hfree]
  · cases hp : p c <;> simp [keepCtx, hfree, hp]

/-- A change of contexts of another identifier. -/
theorem find_modCtxIn_of_ne {h hid : Nat} {f : Ctx → Ctx} (l : List Ctx) (hne : hid ≠ h) (hf : ∀ c, (f c).hid = c.hid) :
    (modCtxIn h f l).find? (·.hid == hid) = l.find? (·.hid == hid) := by
  induction l with
  | nil => rfl
  | cons c l ih =>
    rw [modCtxIn, List.map_cons, ← modCtxIn]
    by_cases hc : c.hid = h
    · have hother : (c.hid == hid) = false := beq_false_of_ne (by rw [hc]; exact hne.symm)
      rw [if_pos (beq_iff_eq.2 hc), List.find?_cons_of_neg (by rw [hf, hother]; decide), List.find?_cons_of_neg (by rw [hother]; decide), ih]
    · rw [if_neg (by simpa using hc), List.find?_cons, List.find?_cons, ih]

/-- A change of the contexts of an identifier. -/
theorem find_modCtxIn_self {hid : Nat} {f : Ctx → Ctx} {l : List Ctx} {c : Ctx} (hc : l.find? (·.hid == hid) = some c)
    (hf : (f c).hid = c.hid) : (modCtxIn hid f l).find? (·.hid == hid) = some (f c) := by
  induction l with
  | nil => cases hc
  | cons d l ih =>
    rw [modCtxIn, List.map_cons, ← modCtxIn]
    by_cases hd : d.hid = hid
    · rw [List.find?_cons_of_pos (p := fun d : Ctx => d.hid == hid) (beq_iff_eq.2 hd), Option.some.injEq] at hc
      subst hc
      rw [if_pos (beq_iff_eq.2 hd), List.find?_cons_of_pos (by rw [hf]; exact beq_iff_eq.2 hd)]
    · have hd' : ¬ (d.hid == hid) = true := by simpa using hd
      rw [List.find?_cons_of_neg (p := fun d : Ctx => d.hid == hid) hd'] at hc
      rw [if_neg hd', List.find?_cons_of_neg (p := fun d : Ctx => d.hid == hid) hd', ih hc]

/-- A core is found after a change that keeps the identifiers. -/
theorem find_map_of_id {f : Core → Core} (hf : ∀ c, (f c).id = c.id) (l : List Core) (x : Nat) :
    (l.map f).find? (·.id == x) = (l.find? (·.id == x)).map f := by
  rw [List.find?_map]
  exact congrArg (Option.map f) (congrArg (l.find? ·) (funext fun c => by simp [hf]))

/-! ## The contexts of cores -/

namespace State

variable {s : State}

/-- A context of the focused core. -/
theorem ctxAt_own (s : State) (hid : Nat) : s.ctxAt s.co.id hid =
    if s.cx.status ≠ .free ∧ (s.cx.hid == hid) = true then some s.cx else s.co.ctxs.find? (·.hid == hid) := by
  rw [State.ctxAt, State.coreAt, if_pos rfl]
  exact find_keepCtx _ _ _

/-- A context of another core. -/
theorem ctxAt_away {x : Nat} (hx : s.co.id ≠ x) (hid : Nat) :
    s.ctxAt x hid = ((s.cores.find? (·.id == x)).getD (Core.zero x)).ctxs.find? (·.hid == hid) := by
  rw [State.ctxAt, State.coreAt, if_neg hx]

/-- The focused context, alive, is the first of its core. -/
theorem ctxAt_focused (h : s.cx.status ≠ .free) : s.ctxAt s.co.id s.cx.hid = some s.cx := by
  rw [ctxAt_own, if_pos ⟨h, beq_self_eq_true _⟩]

/-- Which context an identifier names depends on few parts of the state. -/
theorem ctxAt_congr {t : State} {x hid : Nat} (hcx : t.cx = s.cx) (hco : t.co.id = s.co.id) (hctxs : t.co.ctxs = s.co.ctxs)
    (hcores : t.cores = s.cores) : t.ctxAt x hid = s.ctxAt x hid := by
  rw [State.ctxAt, State.ctxAt, State.coreAt, State.coreAt, State.packed, State.packed, hcx, hco, hctxs, hcores]
  split <;> rfl

/-- A change of a context leaves every other context as it was. -/
theorem ctxAt_modCtx_of_ne {x id hid h : Nat} {f : Ctx → Ctx} (hne : x = id → hid ≠ h) (hf : ∀ c, (f c).hid = c.hid) :
    (s.modCtx id h f).ctxAt x hid = s.ctxAt x hid := by
  unfold State.modCtx
  by_cases hid' : s.co.id = id
  · subst hid'
    rw [if_pos rfl]
    by_cases hx : s.co.id = x
    · subst hx
      have hne := hne rfl
      split
      · next hcx =>
        have hother : (s.cx.hid == hid) = false := beq_false_of_ne (by rw [hcx.1]; exact hne.symm)
        rw [ctxAt_own, if_neg (by simp [hother]), ctxAt_own (s := { s with cx := f s.cx }), if_neg (by simp [hf, hother])]
      · rw [ctxAt_own, ctxAt_own (s := { s with co := { s.co with ctxs := modCtxIn h f s.co.ctxs } }), find_modCtxIn_of_ne _ hne hf]
    · split
      · rw [ctxAt_away hx, ctxAt_away (s := { s with cx := f s.cx }) hx]
      · rw [ctxAt_away hx, ctxAt_away (s := { s with co := { s.co with ctxs := modCtxIn h f s.co.ctxs } }) hx]
  · rw [if_neg hid']
    let g (c : Core) : Core := if c.id == id then { c with ctxs := modCtxIn h f c.ctxs } else c
    have hg : ∀ c, (g c).id = c.id := fun c => by dsimp only [g]; split <;> rfl
    by_cases hx : s.co.id = x
    · subst hx
      rw [ctxAt_own, ctxAt_own (s := { s with cores := s.cores.map g })]
    · rw [ctxAt_away hx, ctxAt_away (s := { s with cores := s.cores.map g }) hx, find_map_of_id hg]
      cases e : s.cores.find? (·.id == x) with
      | none => rfl
      | some c =>
        have hc : c.id = x := by simpa using List.find?_some e
        dsimp only [Option.map_some, Option.getD_some, g]
        split
        · next heq => exact find_modCtxIn_of_ne _ (hne (hc.symm.trans (by simpa using heq))) hf
        · rfl

/-- A change of a context, which stays alive. -/
theorem ctxAt_modCtx_self {id hid : Nat} {f : Ctx → Ctx} {c : Ctx} (hc : s.ctxAt id hid = some c) (hf : (f c).hid = c.hid)
    (halive : (f c).status ≠ .free) : (s.modCtx id hid f).ctxAt id hid = some (f c) := by
  unfold State.modCtx
  by_cases hid' : s.co.id = id
  · subst hid'
    rw [ctxAt_own] at hc
    rw [if_pos rfl]
    by_cases hcx : s.cx.hid = hid ∧ s.cx.status ≠ .free
    · rw [if_pos ⟨hcx.2, beq_iff_eq.2 hcx.1⟩, Option.some.injEq] at hc
      subst hc
      rw [if_pos hcx, ctxAt_own (s := { s with cx := f s.cx }), if_pos ⟨halive, by rw [hf]; exact beq_iff_eq.2 hcx.1⟩]
    · have hcx' : ¬ (s.cx.status ≠ .free ∧ (s.cx.hid == hid) = true) := fun h => hcx ⟨beq_iff_eq.1 h.2, h.1⟩
      rw [if_neg hcx'] at hc
      rw [if_neg hcx, ctxAt_own (s := { s with co := { s.co with ctxs := modCtxIn hid f s.co.ctxs } }), if_neg hcx', find_modCtxIn_self hc hf]
  · rw [ctxAt_away hid'] at hc
    rw [if_neg hid']
    let g (c : Core) : Core := if c.id == id then { c with ctxs := modCtxIn hid f c.ctxs } else c
    have hg : ∀ c, (g c).id = c.id := fun c => by dsimp only [g]; split <;> rfl
    rw [ctxAt_away (s := { s with cores := s.cores.map g }) hid', find_map_of_id hg]
    cases e : s.cores.find? (·.id == id) with
    | none => rw [e] at hc; cases hc
    | some k =>
      rw [e] at hc
      have hk : (k.id == id) = true := List.find?_some (p := fun k : Core => k.id == id) e
      dsimp only [Option.map_some, Option.getD_some, g]
      rw [if_pos hk]
      exact find_modCtxIn_self hc hf

/-- A change of a core that leaves its contexts. -/
theorem ctxAt_modCore {x id hid : Nat} {f : Core → Core} (hf : ∀ c, (f c).id = c.id) (hctxs : ∀ c, (f c).ctxs = c.ctxs) :
    (s.modCore id f).ctxAt x hid = s.ctxAt x hid := by
  unfold State.modCore
  split
  · exact ctxAt_congr rfl (hf _) (hctxs _) rfl
  · next hid' =>
    by_cases hx : s.co.id = x
    · subst hx
      split
      · rw [ctxAt_own, ctxAt_own (s := { s with cores := s.cores.map (fun c => if c.id == id then f c else c) })]
      · rw [ctxAt_own, ctxAt_own (s := { s with cores := s.cores ++ [f (Core.zero id)] })]
    · split
      · let g (c : Core) : Core := if c.id == id then f c else c
        have hg : ∀ c, (g c).id = c.id := fun c => by dsimp only [g]; split <;> simp [hf]
        rw [ctxAt_away hx, ctxAt_away (s := { s with cores := s.cores.map g }) hx, find_map_of_id hg]
        cases s.cores.find? (·.id == x) with
        | none => rfl
        | some c => dsimp only [Option.map_some, Option.getD_some, g]; split <;> simp [hctxs]
      · rw [ctxAt_away hx, ctxAt_away (s := { s with cores := s.cores ++ [f (Core.zero id)] }) hx, List.find?_append]
        cases s.cores.find? (·.id == x) with
        | some c => rfl
        | none =>
          by_cases hzero : id = x
          · subst hzero; simp [hf, hctxs, Core.zero]
          · simp [hf, Core.zero, hzero]

/-- The core that a focus finds has the identifier asked for. -/
theorem focused_id (s : State) (id : Nat) : ((s.cores.find? (·.id == id)).getD (Core.zero id)).id = id := by
  cases e : s.cores.find? (·.id == id) with
  | none => rfl
  | some c => simpa using List.find?_some e

/-- The core of a focus. -/
@[simp] theorem focusCore_co_id (s : State) (id : Nat) : (s.focusCore id).co.id = id := by
  unfold State.focusCore
  split
  · assumption
  · dsimp only
    split <;> exact focused_id s id

/-- The other cores after a change of focus. -/
theorem focusCore_cores {id : Nat} (h : s.co.id ≠ id) : (s.focusCore id).cores = s.cores.filter (·.id != id) ++ [s.packed] := by
  unfold State.focusCore
  rw [if_neg h]
  dsimp only
  split <;> rfl

/-- No other core has the identifier of the core of a focus, if none had before. -/
theorem focusCore_alone (id : Nat) (h : ∀ k ∈ s.cores, k.id ≠ s.co.id) : ∀ k ∈ (s.focusCore id).cores, k.id ≠ id := by
  by_cases hid : s.co.id = id
  · rw [State.focusCore, if_pos hid]
    exact hid ▸ h
  · rw [focusCore_cores hid]
    intro k hk
    rcases List.mem_append.1 hk with hk | hk
    · simpa using (List.mem_filter.1 hk).2
    · rw [List.mem_singleton.1 hk]
      exact hid

/-- A context that is alive is found after a change of focus, where no other core has the identifier of the focused one. -/
theorem ctxAt_focusCore {x hid : Nat} {c : Ctx} (id : Nat) (halone : ∀ k ∈ s.cores, k.id ≠ s.co.id) (hc : s.ctxAt x hid = some c)
    (halive : c.status ≠ .free) : (s.focusCore id).ctxAt x hid = some c := by
  by_cases hid' : s.co.id = id
  · rw [State.focusCore, if_pos hid']
    exact hc
  by_cases hx : id = x
  · subst hx
    rw [ctxAt_away hid'] at hc
    unfold State.focusCore
    rw [if_neg hid']
    dsimp only
    split
    · next h => rw [h] at hc; cases hc
    · next y ys h =>
      rw [h, List.find?_cons] at hc
      rw [State.ctxAt, State.coreAt, if_pos (focused_id s id)]
      refine (find_keepCtx _ _ _).trans ?_
      cases hy : y.hid == hid with
      | true =>
        rw [hy] at hc
        cases hc
        exact if_pos ⟨halive, rfl⟩
      | false =>
        rw [hy] at hc
        rw [if_neg (by simp)]
        exact hc
  · rw [ctxAt_away (by rw [focusCore_co_id]; exact hx), focusCore_cores hid', List.find?_append]
    have hother : ∀ p : Core → Bool, (∀ k, p k = true → k.id = x) → (s.cores.filter (·.id != id)).find? p = s.cores.find? p := by
      intro p hp
      rw [List.find?_filter]
      refine congrArg (s.cores.find? ·) (funext fun k => ?_)
      cases hk : p k with
      | false => simp
      | true => simp [hp k hk, Ne.symm hx]
    rw [hother _ fun k hk => by simpa using hk]
    by_cases hown : s.co.id = x
    · subst hown
      have hnone : s.cores.find? (·.id == s.co.id) = none := List.find?_eq_none.2 fun k hk => by simpa using halone k hk
      rw [hnone]
      rw [State.ctxAt, State.coreAt, if_pos rfl] at hc
      simpa [State.packed] using hc
    · rw [ctxAt_away hown] at hc
      have hpacked : [s.packed].find? (·.id == x) = none := List.find?_eq_none.2 fun k hk => by
        rw [List.mem_singleton.1 hk]
        simpa [State.packed] using hown
      rw [hpacked, Option.or_none]
      exact hc

end State

end Sys2Proof.Machine
end

section
namespace Sys2Proof.Machine

open Sys2Proof Sys2Proof.Claim

/-! The visits of slots (R34 to R36, R44, R187): what the cycles that pass leave alone, the visit of a slot that holds the focused context, and the
visit in which an instruction issues. -/

/-! ## Cycles that pass -/

/-- Of the counters, the passing of cycles moves those of waiting and of ballast alone (R334). -/
theorem Core.pass_counter (n : Nat) (c : Core) {e : Nat} (h2 : e ≠ 2) (h3 : e ≠ 3) : Tab.get 0 (c.pass n).counters e = Tab.get 0 c.counters e := by
  dsimp only [Core.pass]
  split <;> split <;> simp only [Tab.get_set, h2, h3, if_false]

/-! ## The focused context -/

/-- The focused core is its own focus. -/
@[simp] theorem State.focusCore_self (s : State) : s.focusCore s.co.id = s := if_pos rfl

/-- The focused context, alive, is its own focus. -/
theorem State.focusCtx_self {s : State} (h : s.cx.status ≠ .free) : s.focusCtx s.co.id s.cx.hid = s := by
  simp [State.focusCtx, State.focusOn, h]

/-- A change of the focused context, which is alive. -/
theorem State.modCtx_focused {s : State} (f : Ctx → Ctx) (h : s.cx.status ≠ .free) :
    s.modCtx s.co.id s.cx.hid f = { s with cx := f s.cx } := by
  simp [State.modCtx, h]

/-- A change of the focused core. -/
@[simp] theorem State.modCore_focused (s : State) (f : Core → Core) : s.modCore s.co.id f = { s with co := f s.co } := if_pos rfl

/-! ## The visit of a slot -/

/-- The visit of the slot of the focused context, whose cycle is the next that may do something. -/
theorem execSlotVisit_focused {s : State} {slot : Nat} (hslot : slot < 11) (hrelock : s.relocking = false) (hhalt : s.lau.halted = false)
    (hnext : s.nextVisit slot = slot) (hcx : s.cx.slot = some slot) (halive : s.cx.status ≠ .free) :
    execSlotVisit s.co.id slot s = .next (visited s slot).visitCtx := by
  have hfocus : (visited s slot).focusSlot (visited s slot).co.id slot = visited s slot := by
    rw [State.focusSlot, State.focusCore_self]
    exact if_pos ⟨halive, decide_eq_true hcx⟩
  have hne : slot ≠ 11 := Nat.ne_of_lt hslot
  have hvisit : s.visitSlot slot = (visited s slot).visitCtx := by
    dsimp only [State.visitSlot]
    rw [if_neg hne, show s.reach (s.slotCycle slot + 1) = visited s slot from rfl, hfocus, if_pos]
    exact ⟨hcx, halive, by rw [show (visited s slot).lau = s.lau from rfl, hhalt]; rfl⟩
  dsimp only [execSlotVisit]
  rw [State.focusCore_self, hrelock, hnext, if_neg Bool.false_ne_true, if_pos rfl, hvisit]

/-- The visit of slot 11, whose cycle is the next that may do something. -/
theorem execSlotVisit_service {s : State} (hrelock : s.relocking = false) (hnext : s.nextVisit 11 = 11) :
    execSlotVisit s.co.id 11 s = .next (visited s 11).serviceSlot := by
  dsimp only [execSlotVisit]
  rw [State.focusCore_self, hrelock, hnext, if_neg Bool.false_ne_true, if_pos rfl]
  rfl

/-- The visit of a context that may be visited goes to its instruction. -/
theorem execSlotVisit_of_canVisit {s : State} {slot : Nat} (h : canVisit s slot) :
    execSlotVisit s.co.id slot s = .next (visited s slot).visitReady := by
  obtain ⟨hslot, hrelock, hhalt, hnext, hcx, hres, -⟩ := h
  have hvisit : (visited s slot).visitCtx = (visited s slot).visitReady := if_pos hres
  rw [execSlotVisit_focused hslot hrelock hhalt hnext hcx (by rw [hres]; decide), hvisit]

/-- The visit of a context whose instruction lies in a poisoned line (R325, R446). -/
theorem State.visitReady_of_fetchBad {s : State} {slot n : Nat} (h : canVisit s slot) (hbad : s.space.fetchBad s.cx.pc.toNat = some n) :
    (visited s slot).visitReady = (visited s slot).uncorrReg (BitVec.ofNat 64 n) := by
  obtain ⟨-, -, -, -, -, -, hrewind, hpend, hfetched, hasync, hstop⟩ := h
  unfold State.visitReady
  rw [show (visited s slot).cx = s.cx from rfl, show (visited s slot).asyncDue = s.asyncDue from rfl,
    show (visited s slot).stopHit = s.stopHit from rfl, show (visited s slot).space = s.space from rfl]
  simp only [hrewind, hpend, hfetched, hasync, hstop, hbad, Option.isSome_none, Bool.false_eq_true, if_false]

/-- The bytes at the PC of a context whose instruction may issue decode to it (R187). -/
theorem State.fetch_of_mayIssue {s : State} {i : Instr} (h : mayIssue s i) : s.space.fetch s.cx.pc.toNat = .ok i (pcWord s 0) := by
  obtain ⟨hlen, hmap, hdec, -⟩ := h
  have hword : ∀ k, k < pcWords s → s.space.imapped (s.cx.pc.toNat + 4 * k) = true := hmap
  have h0 : s.space.imapped s.cx.pc.toNat = true := hword 0 (Nat.pos_of_ne_zero hlen)
  have h1 : 2 ≤ pcWords s → s.space.imapped (s.cx.pc.toNat + 4) = true := hword 1
  have h2 : 3 ≤ pcWords s → s.space.imapped (s.cx.pc.toNat + 8) = true := hword 2
  have e0 : s.space.iword s.cx.pc.toNat = pcWord s 0 := rfl
  have e1 : s.space.iword (s.cx.pc.toNat + 4) = pcWord s 1 := rfl
  have e2 : s.space.iword (s.cx.pc.toNat + 8) = pcWord s 2 := rfl
  have en : wordCount (pcWord s 0) = pcWords s := rfl
  have d1 : (if 2 ≤ pcWords s then pcWord s 1 else 0) = pcWordIf s 1 := rfl
  have d2 : (if 3 ≤ pcWords s then pcWord s 2 else 0) = pcWordIf s 2 := rfl
  unfold Space.fetch
  simp only [h0, e0, e1, e2, en, hlen, d1, d2, ge_iff_le, hdec, Bool.not_true, Bool.false_eq_true, if_false]
  rw [if_neg (by rintro ⟨hn, hm⟩; simp [h1 hn] at hm), if_neg (by rintro ⟨hn, hm⟩; simp [h2 hn] at hm)]

/-- The visit in which an instruction issues leaves it in `ir` (R35, R44, R45). -/
theorem execSlotVisit_of_mayIssue {s : State} {slot : Nat} {i : Instr} (hv : canVisit s slot) (hi : mayIssue s i) :
    execSlotVisit s.co.id slot s = .next { issuing s slot with ir := some i } := by
  have hfetch := State.fetch_of_mayIssue hi
  obtain ⟨-, -, -, hlines, hheld, hfirst, hdet, hchecked, hbad⟩ := hi
  rw [execSlotVisit_of_canVisit hv]
  obtain ⟨-, -, -, -, -, -, hrewind, hpend, hfetched, hasync, hstop⟩ := hv
  have hacquired : (s.cx.helper && s.cx.retired == 0) = false := by
    cases hh : s.cx.helper with
    | false => rfl
    | true => simpa using hfirst hh
  have hunheld : (!checksHeld i && s.heldReg (namedRegs (pcWord s 0))) = false := by
    rcases hheld with h | h <;> simp [h]
  have hgo : State.gate i (4 * wordCount (pcWord s 0)) (State.holdOrIssue i) (issuing s slot) = { issuing s slot with ir := some i } := by
    have hopen : State.gate i (4 * wordCount (pcWord s 0)) (State.holdOrIssue i) (issuing s slot) = State.holdOrIssue i (issuing s slot) :=
      if_pos (by rw [show (issuing s slot).lau = s.lau from rfl, hchecked]; rfl)
    rw [hopen, State.holdOrIssue, show (issuing s slot).lau = s.lau from rfl, hdet]
    rfl
  refine congrArg Host.Outcome.next (Eq.trans ?_ hgo)
  unfold State.visitReady
  rw [show (visited s slot).cx = s.cx from rfl, show (visited s slot).asyncDue = s.asyncDue from rfl,
    show (visited s slot).stopHit = s.stopHit from rfl, show (visited s slot).space = s.space from rfl, hbad, hfetch]
  simp only [hrewind, hpend, hfetched, hasync, hstop, hlines, Option.isSome_none, Bool.false_eq_true, if_false, ne_eq, not_true_eq_false]
  rw [show (visited s slot).heldReg (namedRegs (pcWord s 0)) = s.heldReg (namedRegs (pcWord s 0)) from rfl, hunheld, if_neg Bool.false_ne_true]
  exact congrArg (State.gate i (4 * wordCount (pcWord s 0)) (State.holdOrIssue i)) (if_neg (Bool.eq_false_iff.1 hacquired))

/-- A step runs the head of the agenda when nothing comes before it. -/
theorem step_of_agenda {s : State} {e : Instr} {rest : List Instr} (hagenda : s.agenda = e :: rest) (hpowered : s.powered = true)
    (halarm : alarmFirst e rest = none) (hfirst : s.comesFirst e = none) : step s = issueIr (exec e { s with agenda := rest }) := by
  unfold step
  rw [hagenda]
  dsimp only
  rw [if_neg (by rw [hpowered]; decide), halarm]
  dsimp only
  rw [hfirst]

/-- Settles O39: the visit leaves the decoded instruction in `ir`, and the same step runs it. -/
theorem aStepRunsTheDecodedInstruction : Obligations.AStepRunsTheDecodedInstruction := by
  unfold Obligations.AStepRunsTheDecodedInstruction
  intro s slot rest i hagenda hpowered hir hv hfirst hi
  have hvisit : exec (.slotVisit s.co.id slot) { s with agenda := rest } =
      .next { { issuing s slot with agenda := rest } with ir := some i } :=
    execSlotVisit_of_mayIssue (s := { s with agenda := rest }) hv hi
  have hrun : { issuing s slot with agenda := rest, ir := none } = { issuing s slot with agenda := rest } := by
    rw [← hir]
    rfl
  rw [step_of_agenda hagenda hpowered rfl hfirst, hvisit]
  exact congrArg (exec i) hrun

end Sys2Proof.Machine
end

section
namespace Sys2Proof.Machine

open Sys2Proof Sys2Proof.Claim

/-! The life of contexts (R39 to R52, R79, R150): write-backs, arrivals of instructions and register lines, activation, deactivation, expired
translations, refreshes. -/

/-! ## Arrivals at a core -/

/-- An arrival at a core whose die does not relock has its effect. -/
theorem State.inputOf_enters {s : State} {core : Nat} (e : DieInput) (go : Res) (h : s.relocks core = false) : s.inputOf core e go = go :=
  if_neg (Bool.eq_false_iff.1 h)

/-- An arrival at a core whose die relocks waits. -/
theorem State.inputOf_waits {s : State} {core : Nat} (e : DieInput) (go : Res) (h : s.relocks core = true) :
    s.inputOf core e go = .next (s.atInput (dieOf core) e) := if_pos h

/-- What has come to a die waits at its inputs. -/
theorem State.mem_atInput {s : State} {die : Nat} (e : DieInput) (h : die < s.dies.length) :
    ∃ d, (s.atInput die e).dies[die]? = some d ∧ e ∈ d.inputs := by
  refine ⟨_, (List.getElem?_modify_eq _ _ _).trans (congrArg _ (List.getElem?_eq_getElem h)), ?_⟩
  exact List.mem_append_right _ (List.mem_singleton.2 rfl)

/-! ## Slot 11 -/

/-- Slot 11 issues the next write-back (R39, R49). -/
theorem State.serviceSlot_of_writeBack {s : State} {w : WriteBack} {rest : List WriteBack} (h : s.co.wbq = w :: rest) :
    s.serviceSlot.cx = s.cx ∧ elsewhereKept s s.serviceSlot ∧
      s.serviceSlot.co.wbq = (if w.left ≤ 1 then rest else { w with left := w.left - 1 } :: rest) ∧
      Tab.get 0 s.serviceSlot.co.counters 27 = Tab.get 0 s.co.counters 27 + 1 := by
  let u : State := { s with co.wbq := if w.left ≤ 1 then rest else { w with left := w.left - 1 } :: rest }
  have hserve : s.serviceSlot = u.count (.issued 11) := by
    unfold State.serviceSlot
    rw [h]
  rw [hserve]
  exact ⟨rfl, rfl, rfl, State.count_counter u (.issued 11) 27⟩

/-! ## Register lines -/

/-- The mask of a line of an event is that of the line. -/
theorem lineMask_eq : ∀ i : Fin 4, ((1 <<< (i.val % 4) : Nat) : BitVec 4) = (1 : BitVec 4) <<< i.val := by decide

theorem and_lineMask_ne_zero : ∀ (l : BitVec 4) (i : Fin 4), l.getLsbD i.val = true → l &&& (1 : BitVec 4) <<< i.val ≠ 0 := by decide

theorem leastUsed_eq_none {l : List LineRec} (h : leastUsed l = none) : l = [] := by
  cases l with
  | nil => rfl
  | cons r t =>
    rw [leastUsed] at h
    split at h
    · cases h
    · split at h <;> cases h

/-- The least recently used line of a list. -/
theorem leastUsed_eq_some {l : List LineRec} {r : LineRec} (h : leastUsed l = some r) : r ∈ l ∧ ∀ q ∈ l, r.use ≤ q.use := by
  induction l generalizing r with
  | nil => cases h
  | cons a t ih =>
    rw [leastUsed] at h
    split at h
    · next hnone =>
      cases h
      simp [leastUsed_eq_none hnone]
    · next m hm =>
      obtain ⟨hmem, hmin⟩ := ih hm
      split at h
      · next hlt =>
        cases h
        exact ⟨List.mem_cons_of_mem _ hmem, List.forall_mem_cons.2 ⟨hlt.le, hmin⟩⟩
      · next hge =>
        cases h
        exact ⟨List.mem_cons_self, List.forall_mem_cons.2 ⟨le_rfl, fun q hq => (Nat.le_of_not_lt hge).trans (hmin q hq)⟩⟩

/-- No write-back of the line's context is outstanding (R45, R49). -/
def Core.clean (c : Core) (r : LineRec) : Prop := ∀ w ∈ c.wbq, w.hid ≠ r.hid

/-- The register cache holds no more than its 64 lines (R2). -/
def Core.linesFit (c : Core) : Prop := ((c.ctxs.filter (·.slot.isSome)).map (fun x => lineCount x.lines)).sum + c.lru.length ≤ 64

/-- A cache with room keeps its lines. -/
theorem Core.trimLines_of_fit {c : Core} (h : c.linesFit) : c.trimLines = c := if_pos h

/-- In a full cache the least recently used of the lines that may be replaced makes room (R45, R49). -/
theorem Core.trimLines_of_full {c : Core} (hfull : ¬ c.linesFit) (h : ∃ r ∈ c.lru, c.clean r) :
    ∃ r ∈ c.lru, c.clean r ∧ c.trimLines.lru = c.lru.erase r ∧ ∀ q ∈ c.lru, c.clean q → r.use ≤ q.use := by
  have hclean : ∀ r, r ∈ c.lru.filter (fun r => !c.wbq.any (·.hid == r.hid)) ↔ r ∈ c.lru ∧ c.clean r := by
    intro r
    simp [List.mem_filter, Core.clean]
  cases e : leastUsed (c.lru.filter (fun r => !c.wbq.any (·.hid == r.hid))) with
  | none =>
    obtain ⟨r, hr, hc⟩ := h
    have hmem := (hclean r).2 ⟨hr, hc⟩
    rw [leastUsed_eq_none e] at hmem
    cases hmem
  | some r =>
    obtain ⟨hmem, hmin⟩ := leastUsed_eq_some e
    obtain ⟨hr, hc⟩ := (hclean r).1 hmem
    refine ⟨r, hr, hc, ?_, fun q hq hqc => hmin q ((hclean q).2 ⟨hq, hqc⟩)⟩
    have htrim : c.trimLines = { c with lru := c.lru.erase r } := by
      refine (if_neg hfull).trans ?_
      rw [e]
    rw [htrim]

section
variable {s : State} {line : Fin 4}

/-- The answer to a requested line of the focused context, read at the address of its record (R44, R46). -/
theorem execRegisterLineFill_arrives (halive : s.cx.status ≠ .free) (hreq : s.cx.lineReq.getLsbD line.val = true) (hent : entered s)
    (hgood : (s.space.bad (s.war.recAddr s.lau s.co.id s.cx + 128 * line.val) ||
      s.space.bad (s.war.recAddr s.lau s.co.id s.cx + 128 * line.val + 64)) = false) :
    execRegisterLineFill s.co.id s.cx.hid line.val .arrives s = .next (s.lineArrives ((1 : BitVec 4) <<< line.val)) := by
  unfold execRegisterLineFill
  rw [State.inputOf_enters _ _ hent, State.ctxAt_focused halive]
  dsimp only
  rw [lineMask_eq, if_neg (and_lineMask_ne_zero _ _ hreq), State.focusCtx_self halive, Nat.mod_eq_of_lt line.isLt, hgood]
  rfl

/-- A line whose record cannot be read, or lies in a poisoned line, is a register fault (R46). -/
theorem execRegisterLineFill_faults {how : LineFill} (halive : s.cx.status ≠ .free) (hreq : s.cx.lineReq.getLsbD line.val = true)
    (hent : entered s) (hhow : how = .untranslated ∨ (how = .arrives ∧
      (s.space.bad (s.war.recAddr s.lau s.co.id s.cx + 128 * line.val) = true ∨
        s.space.bad (s.war.recAddr s.lau s.co.id s.cx + 128 * line.val + 64) = true))) :
    execRegisterLineFill s.co.id s.cx.hid line.val how s = .next (s.regFault ((1 : BitVec 4) <<< line.val)) := by
  unfold execRegisterLineFill
  rw [State.inputOf_enters _ _ hent, State.ctxAt_focused halive]
  dsimp only
  rw [lineMask_eq, if_neg (and_lineMask_ne_zero _ _ hreq), State.focusCtx_self halive, Nat.mod_eq_of_lt line.isLt]
  rcases hhow with rfl | ⟨rfl, hbad⟩
  · rfl
  · dsimp only
    rw [if_pos (by rcases hbad with h | h <;> simp [h])]

/-- A line with an uncorrectable error ends its context (R325, R446). -/
theorem execRegisterLineFill_uncorrectable (halive : s.cx.status ≠ .free) (hreq : s.cx.lineReq.getLsbD line.val = true) (hent : entered s) :
    execRegisterLineFill s.co.id s.cx.hid line.val .uncorrectable s = .next (({ s.countSensor 0x41 with cx.lineReq := 0 }).uncorrReg
      (BitVec.ofNat 64 ((s.war.recAddr s.lau s.co.id s.cx + 128 * line.val) / 64))) := by
  unfold execRegisterLineFill
  rw [State.inputOf_enters _ _ hent, State.ctxAt_focused halive]
  dsimp only
  rw [lineMask_eq, if_neg (and_lineMask_ne_zero _ _ hreq), State.focusCtx_self halive, Nat.mod_eq_of_lt line.isLt]

end

/-! ## Activation and deactivation -/

theorem State.coreAt_own (s : State) : s.coreAt s.co.id = s.packed := if_pos rfl

@[simp] theorem State.modCtx_co_id (s : State) (id hid : Nat) (f : Ctx → Ctx) : (s.modCtx id hid f).co.id = s.co.id := by
  unfold State.modCtx
  split
  · split <;> rfl
  · rfl

@[simp] theorem State.catchUp_co_id (s : State) (id : Nat) : (s.catchUp id).co.id = s.co.id := by
  unfold State.catchUp State.modCore
  split
  · rfl
  · split <;> rfl

@[simp] theorem State.ctxAt_catchUp (s : State) (id x hid : Nat) : (s.catchUp id).ctxAt x hid = s.ctxAt x hid :=
  State.ctxAt_modCore (fun _ => rfl) fun _ => rfl

theorem mem_insByReady (ready : Nat → Nat) (h x : Nat) (l : List Nat) : x ∈ insByReady ready h l ↔ x = h ∨ x ∈ l := by
  induction l with
  | nil => simp [insByReady]
  | cons y l ih =>
    rw [insByReady]
    split
    · simp
    · rw [List.mem_cons, ih, List.mem_cons]
      tauto

/-- The members of a list that is put in the order of readiness (R51). -/
theorem mem_foldl_insByReady (ready : Nat → Nat) (x : Nat) (l q : List Nat) :
    x ∈ l.foldl (fun q y => insByReady ready y q) q ↔ x ∈ l ∨ x ∈ q := by
  induction l generalizing q with
  | nil => simp
  | cons y l ih =>
    rw [List.foldl_cons, ih, mem_insByReady, List.mem_cons]
    tauto

/-- The changes of contexts of a core other than context `h`. -/
theorem State.foldl_modCtx_of_ne {s : State} {id h : Nat} {f : Ctx → Ctx} {l : List Nat} (hl : h ∉ l) (hf : ∀ c, (f c).hid = c.hid) :
    (l.foldl (fun s x => s.modCtx id x f) s).ctxAt id h = s.ctxAt id h ∧ (l.foldl (fun s x => s.modCtx id x f) s).co.id = s.co.id := by
  induction l generalizing s with
  | nil => exact ⟨rfl, rfl⟩
  | cons x l ih =>
    obtain ⟨hx, hl⟩ := List.ne_and_not_mem_of_not_mem_cons hl
    obtain ⟨hctx, hco⟩ := ih (s := s.modCtx id x f) hl
    exact ⟨hctx.trans (State.ctxAt_modCtx_of_ne (fun _ => hx) hf), hco.trans (s.modCtx_co_id id x f)⟩

/-- The contexts after an activation: the head is resident, those passed over are older (R51, R52). -/
def State.headActivated (n h : Nat) (s : State) : State :=
  ((s.packed.promoted ++ s.packed.woken ++ s.packed.started).filter (· != h)).foldl
    (fun t x => t.modCtx s.co.id x (fun c => { c with age := c.age + 1 }))
    ((s.catchUp s.co.id).modCtx s.co.id h (Ctx.activate n s.tick (keptLines s.packed.lru h)))

/-- An activation changes the contexts, and then the bands of the queue, which the head leaves. -/
theorem State.activateHead_eq {s : State} {n h : Nat} (hfree : s.packed.freeSlot = some n)
    (hhead : s.packed.queueHead s.lau.det = some h) :
    ∃ g : Core → Core, s.activateHead s.co.id = (s.headActivated n h).modCore s.co.id g ∧ (∀ k, (g k).id = k.id) ∧
      (∀ k, (g k).ctxs = k.ctxs) ∧ ∀ k, h ∉ (g k).promoted ∧ h ∉ (g k).woken ∧ h ∉ (g k).started := by
  unfold State.activateHead
  rw [State.coreAt_own]
  dsimp only
  rw [hfree, show (s.launchOn s.packed).det = s.lau.det from rfl, hhead]
  exact ⟨_, rfl, fun _ => rfl, fun _ => rfl, fun k => ⟨by simp [mem_foldl_insByReady], by simp, by simp⟩⟩

/-- A free slot takes the head of the queue, which leaves its band (R51, R52). -/
theorem State.activateHead_of_free {s : State} {n h : Nat} (hfree : s.packed.freeSlot = some n) (hhead : s.packed.queueHead s.lau.det = some h)
    (hc : (s.ctxAt s.co.id h).isSome = true) :
    ctxIs (s.activateHead s.co.id) s.co.id h (fun c => c.status = .resident ∧ c.slot = some n ∧ c.act = BitVec.ofNat 64 s.tick ∧
      c.awaitFetch = true) ∧ h ∉ (s.activateHead s.co.id).co.promoted ∧ h ∉ (s.activateHead s.co.id).co.woken ∧
      h ∉ (s.activateHead s.co.id).co.started := by
  obtain ⟨c, hc⟩ := Option.isSome_iff_exists.1 hc
  obtain ⟨g, hact, hid, hctxs, hleft⟩ := State.activateHead_eq hfree hhead
  have hhead' : ((s.catchUp s.co.id).modCtx s.co.id h (Ctx.activate n s.tick (keptLines s.packed.lru h))).ctxAt s.co.id h =
      some (c.activate n s.tick (keptLines s.packed.lru h)) :=
    State.ctxAt_modCtx_self ((s.ctxAt_catchUp _ _ _).trans hc) rfl (by simp [Ctx.activate])
  obtain ⟨hctx, hco⟩ := State.foldl_modCtx_of_ne
    (s := (s.catchUp s.co.id).modCtx s.co.id h (Ctx.activate n s.tick (keptLines s.packed.lru h)))
    (l := (s.packed.promoted ++ s.packed.woken ++ s.packed.started).filter (· != h)) (id := s.co.id) (h := h)
    (f := fun c => { c with age := c.age + 1 }) (by simp) fun _ => rfl
  have hown : (s.headActivated n h).co.id = s.co.id := by rw [State.headActivated, hco, State.modCtx_co_id, State.catchUp_co_id]
  have hmod : (s.headActivated n h).modCore s.co.id g = { s.headActivated n h with co := g (s.headActivated n h).co } := if_pos hown
  refine ⟨⟨c.activate n s.tick (keptLines s.packed.lru h), ?_, rfl, rfl, rfl, rfl⟩, ?_⟩
  · rw [hact, State.ctxAt_modCore hid hctxs]
    exact hctx.trans hhead'
  · rw [hact, hmod]
    exact hleft _

/-- A context leaves its slot: its record and its dirty lines are to be written back, its registers and its wait stay (R41, R49). -/
theorem State.deactivate_focused {s : State} {k : Nat} (st : Status) (halive : s.cx.status ≠ .free) (hslot : s.cx.slot = some k) :
    let t := s.deactivate s.co.id s.cx.hid st
    t.cx = s.cx.vacate st ∧ t.co.wbq = s.co.wbq ++ [{ slot := k, hid := s.cx.hid, left := lineCount s.cx.dirty + 1 }] ∧
      elsewhereKept s t := by
  have hout : s.deactivate s.co.id s.cx.hid st = { s with
      cx := s.cx.vacate st
      co := { s.co.writeBacks (some k) s.cx.hid (lineCount s.cx.dirty + 1) with
        lru := s.co.lru.filter (·.hid != s.cx.hid) ++ s.cx.lineRecs } } := by
    unfold State.deactivate
    rw [State.ctxAt_focused halive]
    dsimp only
    rw [State.modCtx_focused _ halive, hslot]
    exact State.modCore_focused { s with cx := s.cx.vacate st } _
  dsimp only
  rw [hout]
  exact ⟨rfl, rfl, rfl⟩

/-- The event of a helper's deactivation is a visit of its slot (R48). -/
theorem execHelperDeactivation_focused {s : State} {k : Nat} (hhelper : s.cx.helper = true) (hwait : s.cx.status = .waiting)
    (hslot : s.cx.slot = some k) (hqueue : s.packed.queueEmpty = false) :
    execHelperDeactivation s.co.id s.cx.hid s = execSlotVisit s.co.id k s := by
  have halive : s.cx.status ≠ .free := by rw [hwait]; decide
  have hfind : (s.coreAt s.co.id).ctxs.find? (·.hid == s.cx.hid) = some s.cx := State.ctxAt_focused halive
  unfold execHelperDeactivation
  dsimp only
  rw [hfind, State.coreAt_own]
  dsimp only
  rw [hslot]
  exact if_pos ⟨hhelper, hwait, by rw [hqueue]; rfl⟩

/-- The visit of a helper that has waited long enough takes it out of its slot. -/
theorem State.visitCtx_of_waitedOut {s : State} (hhelper : s.cx.helper = true) (hwait : s.cx.status = .waiting) (hkind : s.cx.waitk ≠ 0)
    (hheld : s.cx.wait ≠ some .detHold) (hlong : s.co.actthr.toNat ≤ s.co.cycle - s.cx.waitSince) (hqueue : s.co.queueEmpty = false) :
    s.visitCtx = s.deactivate s.co.id s.cx.hid .waitingOut := by
  unfold State.visitCtx
  rw [if_neg (by rw [hwait]; decide), if_neg fun h => hheld h.2.1]
  exact if_pos ⟨hhelper, hwait, hkind, hlong, by rw [hqueue]; rfl⟩

/-! ## What a visit lets happen, clause by clause -/

/-- Slot 11 makes the pending write-back (R39, R49). -/
theorem exec_writeBack {s : State} {w : WriteBack} {rest : List WriteBack} (hrelock : s.relocking = false) (hnext : s.nextVisit 11 = 11)
    (hwbq : s.co.wbq = w :: rest) :
    Next (exec (.slotVisit s.co.id 11) s) fun t => t.cx = s.cx ∧ elsewhereKept (visited s 11) t ∧
      t.co.wbq = (if w.left ≤ 1 then rest else { w with left := w.left - 1 } :: rest) ∧
      Tab.get 0 t.co.counters 27 = Tab.get 0 s.co.counters 27 + 1 := by
  obtain ⟨hcx, helse, hleft, hcount⟩ := State.serviceSlot_of_writeBack (s := visited s 11) hwbq
  exact ⟨_, execSlotVisit_service hrelock hnext, hcx, helse, hleft,
    hcount.trans (congrArg (· + 1) (Core.pass_counter _ _ (by decide) (by decide)))⟩

/-- An instruction arrives, or waits at the inputs of a die that relocks (R35, R40). -/
theorem exec_fetchArrival {s : State} (halive : s.cx.status ≠ .free) :
    (entered s → Next (exec (.instructionFetchArrival s.co.id s.cx.hid false) s) fun t =>
      t.cx = { s.cx with awaitFetch := false } ∧ t.co = s.co ∧ elsewhereKept s t) ∧
    (∀ bad, s.relocks s.co.id = true → Next (exec (.instructionFetchArrival s.co.id s.cx.hid bad) s) fun t =>
      t.cx = s.cx ∧ t.co = s.co ∧ ({ t with dies := s.dies } : State) = s ∧ (dieOf s.co.id < s.dies.length →
        ∃ d, t.dies[dieOf s.co.id]? = some d ∧ .fetch s.co.id s.cx.hid bad ∈ d.inputs)) := by
  refine ⟨fun hent => ?_, fun bad hrelock => ⟨_, State.inputOf_waits _ _ hrelock, rfl, rfl, rfl, State.mem_atInput _⟩⟩
  refine ⟨{ s with cx := { s.cx with awaitFetch := false } }, ?_, rfl, rfl, rfl⟩
  refine (State.inputOf_enters _ _ hent).trans ?_
  rw [State.ctxAt_focused halive]
  exact congrArg Host.Outcome.next (State.modCtx_focused _ halive)

/-- A requested register line arrives; in a full cache the least recently used line makes room (R44, R45). -/
theorem exec_lineArrives {s : State} {line : Fin 4} (halive : s.cx.status ≠ .free) (hreq : s.cx.lineReq.getLsbD line.val = true)
    (hent : entered s) (hlow : s.space.bad (s.war.recAddr s.lau s.co.id s.cx + 128 * line.val) = false)
    (hhigh : s.space.bad (s.war.recAddr s.lau s.co.id s.cx + 128 * line.val + 64) = false) :
    Next (exec (.registerLineFill s.co.id s.cx.hid line.val .arrives) s) fun t => t.cx.lines = s.cx.lines ||| (1 : BitVec 4) <<< line.val ∧
      t.cx.lineReq = s.cx.lineReq &&& ~~~((1 : BitVec 4) <<< line.val) ∧ regsKept s t ∧ elsewhereKept s t ∧
      ({ t.co with lru := s.co.lru } : Core) = s.co ∧
      if ((t.packed.ctxs.filter (·.slot.isSome)).map (fun x => lineCount x.lines)).sum + s.co.lru.length ≤ 64 then t.co.lru = s.co.lru
      else (∃ r ∈ s.co.lru, s.co.clean r) → ∃ r ∈ s.co.lru, s.co.clean r ∧ t.co.lru = s.co.lru.erase r ∧
        ∀ q ∈ s.co.lru, s.co.clean q → r.use ≤ q.use := by
  let b : BitVec 4 := (1 : BitVec 4) <<< line.val
  let u : State := { s with cx := { s.cx with lines := s.cx.lines ||| b, lineReq := s.cx.lineReq &&& ~~~b }.useLines b s.co.cycle }
  have harrive : s.lineArrives b = { u with co := { u.co with lru := u.packed.trimLines.lru } } := by
    unfold State.lineArrives
    dsimp only
    rw [State.modCtx_focused _ halive]
    exact State.modCore_focused u _
  refine ⟨_, (execRegisterLineFill_arrives halive hreq hent (by rw [hlow, hhigh]; rfl)).trans (congrArg _ harrive), rfl, rfl,
    fun _ => ⟨rfl, rfl⟩, rfl, rfl, ?_⟩
  split
  · next hfit =>
    have hkeep : u.packed.trimLines.lru = u.packed.lru := by rw [Core.trimLines_of_fit (c := u.packed) hfit]
    exact hkeep
  · next hfull => exact Core.trimLines_of_full (c := u.packed) hfull

/-- A fault record enters a ring with room (R324). -/
theorem Core.pushFault_of_room {r : FaultRec} {c : Core} (h : c.ring.length < 64) :
    c.pushFault r = { c with ring := c.ring ++ [r], ringNews := true } := if_pos h

/-- A helper takes a fault while the ring has room (R324). -/
theorem State.park_of_room {s : State} (kind : BitVec 4) (cause : BitVec 16) (tval fpc pc : Word) (h : s.co.ring.length < 64) :
    s.park kind cause tval fpc pc = { s with
      cx := s.cx.parkAt fpc pc
      co := { s.co with ring := s.co.ring ++ [faultRec s.cx s.tick kind cause tval fpc pc], ringNews := true } } := by
  unfold State.park
  rw [Core.pushFault_of_room h]

/-- A register fault parks its helper with REGFAULT (R46). -/
theorem exec_lineFaults {s : State} {line : Fin 4} {how : LineFill} (halive : s.cx.status ≠ .free)
    (hreq : s.cx.lineReq.getLsbD line.val = true) (hent : entered s) (hhow : how = .untranslated ∨ (how = .arrives ∧
      (s.space.bad (s.war.recAddr s.lau s.co.id s.cx + 128 * line.val) = true ∨
        s.space.bad (s.war.recAddr s.lau s.co.id s.cx + 128 * line.val + 64) = true)))
    (hhelper : s.cx.helper = true) (hroom : s.co.ring.length < 64) :
    Next (exec (.registerLineFill s.co.id s.cx.hid line.val how) s) fun t => t.cx.status = .parked ∧ regsKept s t ∧
      Tab.get 0 t.co.counters 8 = Tab.get 0 s.co.counters 8 + 1 ∧
      ∃ r : FaultRec, t.co.ring = s.co.ring ++ [r] ∧ r.cause = 0x24 ∧ r.kind = 3 ∧ r.hid = s.cx.hid ∧ r.pc = s.cx.pc := by
  let u : State := { s.count .failact with cx.lineReq := s.cx.lineReq &&& ~~~((1 : BitVec 4) <<< line.val) }
  have hpark : s.regFault ((1 : BitVec 4) <<< line.val) = u.park 3 cRegFault (BitVec.ofNat 64 (u.war.recAddr u.lau u.co.id u.cx)) u.cx.pc
      u.cx.pc := if_pos hhelper
  refine ⟨_, (execRegisterLineFill_faults halive hreq hent hhow).trans
    (congrArg _ (hpark.trans (State.park_of_room _ _ _ _ _ (s := u) hroom))), rfl, fun _ => ⟨rfl, rfl⟩, ?_, _, rfl, rfl, rfl, rfl, rfl⟩
  exact State.count_counter s .failact 8

/-- A helper that has waited for the threshold while others are ready leaves its slot at its visit (R48, R49). -/
theorem exec_deactivation {s : State} {k : Nat} (hhelper : s.cx.helper = true) (hwait : s.cx.status = .waiting) (hkind : s.cx.waitk ≠ 0)
    (hheld : s.cx.wait ≠ some .detHold) (hslot : s.cx.slot = some k) (hk : k < 11) (hrelock : s.relocking = false)
    (hhalt : s.lau.halted = false) (hnext : s.nextVisit k = k) (hlong : s.co.actthr.toNat ≤ (visited s k).co.cycle - s.cx.waitSince)
    (hqueue : s.packed.queueEmpty = false) :
    Next (exec (.helperDeactivation s.co.id s.cx.hid) s) fun t => t.cx.status = .waitingOut ∧ t.cx.slot = none ∧ t.cx.wait = s.cx.wait ∧
      regsKept s t ∧ t.co.wbq = s.co.wbq ++ [{ slot := k, hid := s.cx.hid, left := lineCount s.cx.dirty + 1 }] ∧
      elsewhereKept (visited s k) t := by
  have halive : s.cx.status ≠ .free := by rw [hwait]; decide
  have hvisit : exec (.helperDeactivation s.co.id s.cx.hid) s = .next (visited s k).visitCtx :=
    (execHelperDeactivation_focused hhelper hwait hslot hqueue).trans (execSlotVisit_focused hk hrelock hhalt hnext hslot halive)
  have hout : (visited s k).visitCtx = (visited s k).deactivate (visited s k).co.id (visited s k).cx.hid .waitingOut :=
    State.visitCtx_of_waitedOut hhelper hwait hkind hheld hlong hqueue
  obtain ⟨hcx, hwbq, helse⟩ := State.deactivate_focused (s := visited s k) .waitingOut halive hslot
  rw [← hout] at hcx hwbq helse
  refine ⟨_, hvisit, ?_, ?_, ?_, fun n => ?_, hwbq, helse⟩
  · rw [hcx]; rfl
  · rw [hcx]; rfl
  · rw [hcx]; rfl
  · rw [State.g, State.gtag, hcx]; exact ⟨rfl, rfl⟩

/-- Translations of a page whose lease has run out are no longer used (R79). -/
theorem exec_leaseExpiry (s : State) (page : Nat) :
    Next (exec (.tlbLeaseExpiry s.co.id page) s) fun t => t.cx = s.cx ∧ elsewhereKept s t ∧
      ∀ e, e ∈ t.co.tlb ↔ e ∈ s.co.tlb ∧ ¬ (e.base = page ∧ e.till ≤ s.tick) := by
  refine ⟨_, congrArg Host.Outcome.next (State.modCore_focused s _), rfl, rfl, fun e => ?_⟩
  simp [List.mem_filter, imp_iff_not_or]

/-- A refresh of a bank that the matrix operation reads is waited out (R150). -/
theorem exec_refresh (s : State) (bank : Fin 16) :
    (¬ (s.tick % 400 < 100 ∧ s.tick % 6400 / 400 = bank.val) → exec (.wellRefresh bank) s = .next s) ∧
    (s.tick % 400 < 100 → s.tick % 6400 / 400 = bank.val → Next (exec (.wellRefresh bank) s) fun t => t.cx = s.cx ∧
      t.spaces = s.spaces ∧ ({ t.co with mop := s.co.mop } : Core) = s.co ∧
      ∀ v, s.co.mop = some v → v.since = s.tick / 400 → t.co.mop = if bank.val ∈ v.banks ∧ s.co.cycle < v.cycles then some { v with
        cycles := v.cycles + (100 - s.tick % 400) * s.mult, since := s.tick / 400 + 1 } else some v) := by
  have hnow : refreshing s.tick = some bank.val ↔ s.tick % 400 < 100 ∧ s.tick % 6400 / 400 = bank.val := by
    unfold refreshing
    split <;> simp [*]
  refine ⟨fun h => if_neg (mt hnow.1 h), fun hin hbank => ⟨_, if_pos (hnow.2 ⟨hin, hbank⟩), rfl, rfl, rfl, fun v hv hsince => ?_⟩⟩
  have hstart : refreshed v.banks s.mult s.co.cycBase s.co.cycTick (s.tick / 400 - v.since) v.since v.cycles = v.cycles := by
    rw [hsince, Nat.sub_self]
    rfl
  change s.co.mop.map _ = _
  rw [hv, Option.map_some]
  dsimp only
  rw [show s.multOf s.co.id = s.mult from rfl, hstart, hsince]
  by_cases hbusy : bank.val ∈ v.banks ∧ s.co.cycle < v.cycles
  · rw [if_pos hbusy, if_pos (by simp [hbusy])]
  · rw [if_neg hbusy, if_neg (by simpa using hbusy)]

/-- Settles O41: one theorem for each clause, each from the lemma that says what its event does. -/
theorem contextsComeAndGo : Obligations.ContextsComeAndGo := by
  unfold Obligations.ContextsComeAndGo
  refine ⟨fun s slot i hv hi => execSlotVisit_of_mayIssue hv hi, fun s w rest => exec_writeBack, fun s => exec_fetchArrival, ?_, ?_, ?_,
    exec_leaseExpiry, exec_refresh⟩
  · intro s line halive hreq hent
    exact ⟨exec_lineArrives halive hreq hent, fun how hhow => exec_lineFaults halive hreq hent hhow⟩
  · intro s n h hfree hhead hc
    exact ⟨_, rfl, State.activateHead_of_free hfree hhead hc⟩
  · intro s k hhelper hwait hkind hheld hslot hk hrelock hhalt hnext hlong hqueue
    exact exec_deactivation hhelper hwait hkind hheld hslot hk hrelock hhalt hnext hlong hqueue

end Sys2Proof.Machine
end

section
namespace Sys2Proof.Machine

open Sys2Proof Sys2Proof.Claim

/-! Uncorrectable errors in the operation of a unit, an instruction word or a register line (R56, R269, R317, R321, R325, R446). -/

/-! ## Free values -/

/-- Free values go to the listed bytes alone (R59, R269). -/
theorem Memory.read_freeBytes_of_not_mem {p a : Nat} {as : List Nat} {m : Memory} (h : a ∉ as) :
    Memory.read (freeBytes p as m) a = Memory.read m a := by
  refine Memory.read_writeAt_of_not_mem _ _ _ fun q hq e => h ?_
  obtain ⟨x, hx, rfl⟩ := List.mem_map.1 hq
  exact e ▸ List.fst_mem_of_mem_zipIdx hx

/-- Free values go to the listed accumulator elements alone (R59, R417). -/
theorem Tab.get_freeTile_of_not_mem {p a : Nat} {as : List Nat} {t : Tab W32} (h : a ∉ as) :
    Tab.get 0 (freeTile p as t) a = Tab.get 0 t a := by
  refine List.foldlRecOn (motive := fun t' => Tab.get 0 t' a = Tab.get 0 t a) as.zipIdx _ rfl fun t' ht x hx => ?_
  have hne : a ≠ x.1 := fun e => h (e ▸ List.fst_mem_of_mem_zipIdx hx)
  rw [Tab.get_set, if_neg hne, ht]

/-! ## Faults of long operations -/

/-- Of an operation of an ended control context nothing is reported (R56). -/
theorem State.longFault_ended (s : State) (id : Nat) (cause : BitVec 16) (tval fpc region : Word) :
    s.longFault id 65536 cause tval fpc region = s := if_pos rfl

/-- A control context with a handler, outside it, takes a trap (R321). -/
theorem State.takeTrap_of_handler {s : State} (cause : BitVec 16) (tval epc : Word) (hintrap : s.cx.intrap = false) (htvec : s.cx.tvec ≠ 0) :
    s.takeTrap cause tval epc = { s with
      cx := { s.cx with epc := epc, cause := cause, tval := tval, intrap := true, pc := s.cx.tvec } } := by
  have htrapped : s.cx.trapped cause tval epc = some { s.cx with
      epc := epc, cause := cause, tval := tval, intrap := true, pc := s.cx.tvec } :=
    if_neg (not_or.2 ⟨Bool.eq_false_iff.1 hintrap, htvec⟩)
  unfold State.takeTrap
  rw [htrapped]

/-- The fault of a long operation, but CHECK, is taken by a control context at its region entry (R56). -/
theorem State.pendingFault_of_control {s : State} {p : PendFault} (hpend : s.cx.pend = some p) (hhelper : s.cx.helper = false)
    (hcause : p.cause ≠ cCheck) :
    s.pendingFault = ({ s with cx := { s.cx.restart with pend := none } } : State).takeTrap p.cause p.tval s.cx.region := by
  unfold State.pendingFault
  rw [hpend]
  refine (if_neg (Bool.eq_false_iff.1 hhelper)).trans ?_
  rw [PendFault.pc, if_neg hcause]
  rfl

/-- A live control context that does not wait resumes at its region entry and takes the trap of its operation's fault (R56, R321). -/
theorem State.longFault_trapped {s : State} {cause : BitVec 16} (tval fpc region : Word) (hid : s.cx.hid < 65536)
    (hstatus : s.cx.status = .resident) (hpend : s.cx.pend = none) (hwait : s.cx.wait = none) (hhelper : s.cx.helper = false)
    (hintrap : s.cx.intrap = false) (htvec : s.cx.tvec ≠ 0) (hcause : cause ≠ cCheck) :
    let t := s.longFault s.co.id s.cx.hid cause tval fpc region
    t.co.vop = s.co.vop ∧ t.co.store = s.co.store ∧ regsKept s t ∧ t.cx.cause = cause ∧ t.cx.tval = tval ∧ t.cx.epc = s.cx.region ∧
      t.cx.pc = s.cx.tvec ∧ t.cx.intrap = true := by
  have halive : s.cx.status ≠ .free := by rw [hstatus]; decide
  let p : PendFault := { cause := cause, tval := tval, fpc := fpc }
  let u : State := { s with cx.pend := some p }
  let w : State := { s with cx := { s.cx.restart with pend := none } }
  have htrap : u.pendingFault = w.takeTrap cause tval s.cx.region := State.pendingFault_of_control (s := u) (p := p) rfl hhelper hcause
  rw [State.takeTrap_of_handler (s := w) cause tval s.cx.region hintrap htvec] at htrap
  have hfault : s.longFault s.co.id s.cx.hid cause tval fpc region = u.pendingFault.modCore s.co.id (fun k => { k with
      promoted := delNat k.promoted s.cx.hid, woken := delNat k.woken s.cx.hid, started := delNat k.started s.cx.hid }) := by
    unfold State.longFault
    rw [if_neg (by omega), if_neg (by omega), State.ctxAt_focused halive]
    dsimp only
    rw [if_neg (by simp [hstatus, hpend]), if_neg (by simp [hwait]), State.focusCtx_self halive, hwait]
    rfl
  dsimp only
  rw [hfault, htrap]
  have hmod : ∀ f, State.modCore s.co.id f { w with
      cx := { w.cx with epc := s.cx.region, cause := cause, tval := tval, intrap := true, pc := w.cx.tvec } } = { w with
      cx := { w.cx with epc := s.cx.region, cause := cause, tval := tval, intrap := true, pc := w.cx.tvec }, co := f s.co } := fun _ => if_pos rfl
  rw [hmod]
  exact ⟨rfl, rfl, fun _ => ⟨rfl, rfl⟩, rfl, rfl, rfl, rfl, rfl⟩

/-- The focused core reaches the present tick. -/
theorem State.catchUp_own (s : State) : s.catchUp s.co.id = { s with co := s.co.pass (s.cyclesOf (s.coreAt s.co.id)) } :=
  State.modCore_focused s _

/-- The state in which the fault of a unit's operation on the focused core is taken: the error is counted, the core has reached the tick. -/
def State.errorCounted (s : State) : State := (s.countSensor 0x41).catchUp s.co.id

theorem State.errorCounted_eq (s : State) : s.errorCounted = { s with
    sensors := Tab.set 0 s.sensors 0x41 ((Tab.get 0 s.sensors 0x41 + 1) % 2 ^ 32)
    co := s.co.pass ((s.countSensor 0x41).cyclesOf ((s.countSensor 0x41).coreAt s.co.id)) } :=
  (s.countSensor 0x41).catchUp_own

/-- The state in which the vector operation is abandoned, its destination bytes undefined (R269). -/
def State.vopFreed (v : VecOp) (s : State) : State :=
  { s with co.vop := none, co.store := freeBytes s.picks v.dest s.co.store, picks := s.picks + v.dest.length }

/-- The state in which the matrix operation is abandoned, its tile and its destination bytes undefined (R317). -/
def State.mopFreed (v : MatOp) (s : State) : State :=
  { s with
    co.mop := none
    co.store := freeBytes s.picks v.dest s.co.store
    co.acc := freeTile (s.picks + v.dest.length) (v.writes.map (·.1)) s.co.acc
    picks := s.picks + v.dest.length + (v.writes.map (·.1)).length }

/-- An uncorrectable error in the vector operation of the focused core (R317). -/
theorem execLongOperationFault_vector {s : State} {v : VecOp} (line : Word) (hv : s.co.vop = some v) (hreads : v.reads = false) :
    execLongOperationFault s.co.id .vector line s =
      .next ((s.errorCounted.vopFreed v).longFault (s.errorCounted.vopFreed v).co.id v.hid cUncorr line v.fpc v.region) := by
  unfold execLongOperationFault
  rw [State.focusCore_self]
  dsimp only
  rw [hv]
  exact if_neg (Bool.eq_false_iff.1 hreads)

/-- An uncorrectable error in the matrix operation of the focused core, which is none of MMR (R317). -/
theorem execLongOperationFault_matrix {s : State} {v : MatOp} (line : Word) (hv : s.co.mop = some v) (hmmr : v.mmr = false) :
    execLongOperationFault s.co.id .matrix line s =
      .next ((s.errorCounted.mopFreed v).longFault (s.errorCounted.mopFreed v).co.id v.hid cUncorr line v.fpc v.region) := by
  unfold execLongOperationFault
  rw [State.focusCore_self]
  dsimp only
  rw [hv]
  dsimp only [State.matFault]
  rw [hmmr]
  rfl

/-- An error in the vector operation of an ended context: nothing is reported. -/
theorem exec_vectorFault_ended {s : State} {v : VecOp} (line : Word) (hv : s.co.vop = some v) (hreads : v.reads = false)
    (hended : v.hid = 65536) :
    Next (exec (.longOperationFault s.co.id .vector line) s) fun t => t.co.vop = none ∧ destFree s t v.dest ∧ t.cx = s.cx ∧
      Tab.get 0 t.sensors 0x41 = (Tab.get 0 s.sensors 0x41 + 1) % 2 ^ 32 ∧
      elsewhereKept s { t with picks := s.picks, sensors := s.sensors } := by
  have hexec := execLongOperationFault_vector line hv hreads
  rw [hended, State.longFault_ended, State.errorCounted_eq] at hexec
  exact ⟨_, hexec, rfl, fun a ha => Memory.read_freeBytes_of_not_mem ha, rfl, (Tab.get_set _ _ _ _ _).trans (if_pos rfl), rfl⟩

/-- An error in the vector operation of a control context: it resumes at its region entry and takes the trap. -/
theorem exec_vectorFault_trapped {s : State} {v : VecOp} (line : Word) (hv : s.co.vop = some v) (hreads : v.reads = false)
    (hid : v.hid = s.cx.hid) (hstatus : s.cx.status = .resident) (hlive : s.cx.hid < 65536) (hpend : s.cx.pend = none)
    (hwait : s.cx.wait = none) (hhelper : s.cx.helper = false) (hintrap : s.cx.intrap = false) (htvec : s.cx.tvec ≠ 0) :
    Next (exec (.longOperationFault s.co.id .vector line) s) fun t => t.co.vop = none ∧ destFree s t v.dest ∧ regsKept s t ∧
      t.cx.cause = 0x25 ∧ t.cx.tval = line ∧ t.cx.epc = s.cx.region ∧ t.cx.pc = s.cx.tvec ∧ t.cx.intrap = true := by
  have hexec := execLongOperationFault_vector line hv hreads
  rw [hid, State.errorCounted_eq] at hexec
  refine ⟨_, hexec, ?_⟩
  obtain ⟨hvop, hstore, hregs, htrap⟩ := State.longFault_trapped (cause := cUncorr) line v.fpc v.region hlive hstatus hpend hwait hhelper
    hintrap htvec (by decide) (s := State.vopFreed v { s with
      sensors := Tab.set 0 s.sensors 0x41 ((Tab.get 0 s.sensors 0x41 + 1) % 2 ^ 32)
      co := s.co.pass ((s.countSensor 0x41).cyclesOf ((s.countSensor 0x41).coreAt s.co.id)) })
  refine ⟨hvop, fun a ha => ?_, hregs, htrap⟩
  exact (congrArg (Memory.read · a) hstore).trans (Memory.read_freeBytes_of_not_mem ha)

/-- An error in the matrix operation of an ended context. -/
theorem exec_matrixFault_ended {s : State} {v : MatOp} (line : Word) (hv : s.co.mop = some v) (hended : v.hid = 65536) (hmmr : v.mmr = false) :
    Next (exec (.longOperationFault s.co.id .matrix line) s) fun t => t.co.mop = none ∧ destFree s t v.dest ∧ t.cx = s.cx ∧
      ∀ a, (∀ w, (a, w) ∉ v.writes) → Tab.get 0 t.co.acc a = Tab.get 0 s.co.acc a := by
  have hexec := execLongOperationFault_matrix line hv hmmr
  rw [hended, State.longFault_ended, State.errorCounted_eq] at hexec
  refine ⟨_, hexec, rfl, fun a ha => Memory.read_freeBytes_of_not_mem ha, rfl, fun a ha => Tab.get_freeTile_of_not_mem fun hmem => ?_⟩
  obtain ⟨⟨b, w⟩, hw, rfl⟩ := List.mem_map.1 hmem
  exact ha w hw

/-! ## Helpers that an error ends -/

/-- The focused helper of `s` is parked with its registers zero and a record of KIND 4 (R325, R446). -/
def uncorrEnds (s t : State) : Prop :=
  t.cx.status = .parked ∧ (∀ n : Reg, t.g n = 0 ∧ t.gtag n = false) ∧
    ∃ r : FaultRec, t.co.ring = s.co.ring ++ [r] ∧ r.cause = 0x25 ∧ r.kind = 4 ∧ r.hid = s.cx.hid ∧ r.pc = s.cx.pc

/-- A helper that consumes an uncorrectable error is parked with its registers zero and a record of KIND 4 (R325). -/
theorem State.uncorrReg_ends {s : State} (line : Word) (hhelper : s.cx.helper = true) (hroom : s.co.ring.length < 64) :
    uncorrEnds s (s.uncorrReg line) := by
  have hpark := State.park_of_room 4 cUncorr line s.cx.pc s.cx.pc hroom
  have huncorr : s.uncorrReg line = { s.park 4 cUncorr line s.cx.pc s.cx.pc with
      cx := (s.park 4 cUncorr line s.cx.pc s.cx.pc).cx.scrub } := if_pos hhelper
  rw [hpark] at huncorr
  rw [huncorr]
  refine ⟨rfl, fun n => ⟨?_, ?_⟩, _, rfl, rfl, rfl, rfl, rfl⟩
  · simp [State.g, Ctx.reg, Ctx.scrub, Vector.get]
  · simp [State.gtag, Ctx.tag, Ctx.scrub]

/-- An instruction word with an uncorrectable error ends the helper that reads it when it arrives. -/
theorem exec_fetchArrival_uncorrectable {s : State} (hres : s.cx.status = .resident) (hhelper : s.cx.helper = true)
    (hroom : s.co.ring.length < 64) (hent : entered s) :
    Next (exec (.instructionFetchArrival s.co.id s.cx.hid true) s) (uncorrEnds s) := by
  have halive : s.cx.status ≠ .free := by rw [hres]; decide
  refine ⟨(s.countSensor 0x41).uncorrReg (BitVec.ofNat 64 (s.cx.pc.toNat / 64)), ?_,
    State.uncorrReg_ends (s := s.countSensor 0x41) _ hhelper hroom⟩
  refine (State.inputOf_enters _ _ hent).trans ?_
  rw [State.ctxAt_focused halive]
  refine (if_pos ⟨rfl, hres⟩).trans ?_
  have hfocus : (s.countSensor 0x41).focusCtx s.co.id s.cx.hid = s.countSensor 0x41 := State.focusCtx_self (s := s.countSensor 0x41) halive
  rw [hfocus]

/-- An instruction word in a poisoned line ends the helper at its visit. -/
theorem exec_visit_fetchBad {s : State} {slot n : Nat} (hv : canVisit s slot) (hbad : s.space.fetchBad s.cx.pc.toNat = some n)
    (hhelper : s.cx.helper = true) (hroom : s.co.ring.length < 64) :
    Next (exec (.slotVisit s.co.id slot) s) (uncorrEnds s) := by
  refine ⟨(visited s slot).uncorrReg (BitVec.ofNat 64 n), ?_, State.uncorrReg_ends (s := visited s slot) _ hhelper hroom⟩
  exact (execSlotVisit_of_canVisit hv).trans (congrArg Host.Outcome.next (State.visitReady_of_fetchBad hv hbad))

/-- A register line with an uncorrectable error ends the helper whose line it is. -/
theorem exec_lineFill_uncorrectable {s : State} {line : Fin 4} (hres : s.cx.status = .resident) (hhelper : s.cx.helper = true)
    (hroom : s.co.ring.length < 64) (hent : entered s) (hreq : s.cx.lineReq.getLsbD line.val = true) :
    Next (exec (.registerLineFill s.co.id s.cx.hid line.val .uncorrectable) s) (uncorrEnds s) :=
  ⟨_, execRegisterLineFill_uncorrectable (by rw [hres]; decide) hreq hent,
    State.uncorrReg_ends (s := { s.countSensor 0x41 with cx.lineReq := 0 }) _ hhelper hroom⟩

/-- Uncorrectable errors end the operations and the helpers that consume them. -/
theorem uncorrectableErrorsEndOperations : UncorrectableErrorsEndOperations := by
  unfold UncorrectableErrorsEndOperations
  refine ⟨fun s v line hv hreads => ⟨exec_vectorFault_ended line hv hreads, exec_vectorFault_trapped line hv hreads⟩,
    fun s v line hv => exec_matrixFault_ended line hv, fun s hres hhelper hroom hent => ?_⟩
  exact ⟨exec_fetchArrival_uncorrectable hres hhelper hroom hent,
    fun slot n hv hbad => exec_visit_fetchBad hv hbad hhelper hroom, fun line => exec_lineFill_uncorrectable hres hhelper hroom hent⟩

end Sys2Proof.Machine
end

section
namespace Sys2Proof.Machine

open Sys2Proof Sys2Proof.Claim

/-! Checked copies (R449 to R452): both go on when their hashes agree, else both restart. Between the mismatch and the restart each copy's operations
are abandoned, which wakes other contexts of its core; the context of the copy itself is watched through these operations. -/

/-! ## The end of a wait -/

@[simp] theorem Ctx.wakeUp_hid (c : Ctx) (tick : Nat) : (c.wakeUp tick).hid = c.hid := by
  unfold Ctx.wakeUp
  dsimp only
  split <;> rfl

/-- The wait of a context that holds its slot, or the renewed end of one, has no effect but that of the wait. -/
theorem State.wake_of_status {s : State} {id hid : Nat} {g : Ctx → Ctx} {c : Ctx} (hc : s.ctxAt id hid = some c)
    (hstatus : c.status ≠ .waitingOut) : s.wake id hid g = s.modCtx id hid (fun c => (g c).wakeUp s.tick) := by
  unfold State.wake
  rw [hc]
  exact if_pos hstatus

/-- The context of a copy whose message is held, or whose wait has ended. -/
def Ctx.Holds (c : Ctx) : Prop :=
  (c.status = .waiting ∧ ∃ h till, c.wait = some (.check h till)) ∨ (c.status = .resident ∧ c.wait = none)

/-- The context of a copy whose wait has ended. -/
def Ctx.Free (c : Ctx) : Prop := c.status = .resident ∧ c.wait = none

/-- The context of a copy that restarts at its region entry. -/
def Ctx.Restarted (c : Ctx) : Prop := c.restarted = true ∧ c.rewind = true ∧ c.sent = 0 ∧ c.wait = none ∧ c.status = .resident

theorem Ctx.Restarted.alive {c : Ctx} (h : c.Restarted) : c.status ≠ .free := by
  obtain ⟨-, -, -, -, hres⟩ := h
  rw [hres]
  decide

theorem Ctx.Holds.alive {c : Ctx} (h : c.Holds) : c.status ≠ .free := by
  rcases h with ⟨h, -⟩ | ⟨h, -⟩ <;> rw [h] <;> decide

theorem Ctx.Holds.inSlot {c : Ctx} (h : c.Holds) : c.status ≠ .waitingOut := by
  rcases h with ⟨h, -⟩ | ⟨h, -⟩ <;> rw [h] <;> decide

/-- The end of the wait frees the context of a copy. -/
theorem Ctx.Holds.wakeUp {c : Ctx} (h : c.Holds) (tick : Nat) : (c.wakeUp tick).Free := by
  unfold Ctx.wakeUp
  rcases h with ⟨h, -⟩ | ⟨h, -⟩ <;> dsimp only <;> rw [h] <;> exact ⟨rfl, rfl⟩

/-- The restart of a copy at its region entry. -/
def Ctx.rewound (c : Ctx) : Ctx := { c.restart with rewind := true }

/-- A mismatch at one copy that has passed a REGION since its last restart: what it has in flight is abandoned, the wait that can end does, and
the copy restarts. -/
theorem State.mismatchAt_first {s : State} {id hid : Nat} {c : Ctx} (hc : (s.abandonOps id (· == hid)).ctxAt id hid = some c) :
    s.mismatchAt id hid false = (if c.heldHash.isSome || c.awaitsPrimary || (s.abandonOps id (· == hid)).canAbandon id c then
      (s.abandonOps id (· == hid)).dropWait id hid else s.abandonOps id (· == hid)).modCtx id hid Ctx.rewound := by
  unfold State.mismatchAt
  dsimp only
  rw [hc]
  exact if_pos rfl

/-- A mismatch at a copy without context. -/
theorem State.mismatchAt_of_none {s : State} {id hid : Nat} {again : Bool} (hc : (s.abandonOps id (· == hid)).ctxAt id hid = none) :
    s.mismatchAt id hid again = s.abandonOps id (· == hid) := by
  unfold State.mismatchAt
  dsimp only
  rw [hc]

/-! ## A context watched through the operations on cores -/

/-- Context `hid` of core `x` is there with property `P`, while core `f`, the only one of its identifier, is focused and the sensors stand
at `σ`. -/
structure Watched (σ : Tab Nat) (f x hid : Nat) (P : Ctx → Prop) (s : State) : Prop where
  focus : s.co.id = f
  alone : ∀ k ∈ s.cores, k.id ≠ f
  sensors : s.sensors = σ
  ctx : ctxIs s x hid P

/-- A change of cores that keeps their identifiers. -/
theorem forall_id_ne_map {g : Core → Core} (hg : ∀ c, (g c).id = c.id) {l : List Core} {f : Nat} (h : ∀ k ∈ l, k.id ≠ f) :
    ∀ k ∈ l.map g, k.id ≠ f := List.forall_mem_map.2 fun k hk => by rw [hg]; exact h k hk

theorem State.modCtx_frame (s : State) (id h : Nat) (g : Ctx → Ctx) :
    (s.modCtx id h g).sensors = s.sensors ∧ ∀ f, (∀ k ∈ s.cores, k.id ≠ f) → ∀ k ∈ (s.modCtx id h g).cores, k.id ≠ f := by
  unfold State.modCtx
  split
  · split <;> exact ⟨rfl, fun f h => h⟩
  · exact ⟨rfl, fun f h => forall_id_ne_map (fun c => by split <;> rfl) h⟩

theorem State.modCore_frame (s : State) (id : Nat) {g : Core → Core} (hg : ∀ c, (g c).id = c.id) :
    (s.modCore id g).sensors = s.sensors ∧ (s.modCore id g).co.id = s.co.id ∧
      ((∀ k ∈ s.cores, k.id ≠ s.co.id) → ∀ k ∈ (s.modCore id g).cores, k.id ≠ s.co.id) := by
  unfold State.modCore
  split
  · exact ⟨rfl, hg _, fun h => h⟩
  · next hne =>
    split
    · exact ⟨rfl, rfl, fun h => forall_id_ne_map (fun c => by split <;> simp [hg]) h⟩
    · refine ⟨rfl, rfl, fun h k hk => ?_⟩
      rcases List.mem_append.1 hk with hk | hk
      · exact h k hk
      · rw [List.mem_singleton.1 hk, hg]
        exact Ne.symm hne

namespace Watched

section
variable {σ : Tab Nat} {f x hid : Nat} {P : Ctx → Prop} {s : State}

/-- A change of a context: the watched one keeps its property. -/
theorem modCtx {id h : Nat} {g : Ctx → Ctx} (hw : Watched σ f x hid P s) (hg : ∀ c, (g c).hid = c.hid)
    (hP : x = id → hid = h → ∀ c, P c → P (g c) ∧ (g c).status ≠ .free) : Watched σ f x hid P (s.modCtx id h g) := by
  obtain ⟨hfocus, halone, hsensors, c, hc, hp⟩ := hw
  obtain ⟨hs, ha⟩ := s.modCtx_frame id h g
  refine ⟨(s.modCtx_co_id id h g).trans hfocus, ha f halone, hs.trans hsensors, ?_⟩
  by_cases hx : x = id ∧ hid = h
  · obtain ⟨hpg, halive⟩ := hP hx.1 hx.2 c hp
    obtain ⟨rfl, rfl⟩ := hx
    exact ⟨g c, State.ctxAt_modCtx_self hc (hg c) halive, hpg⟩
  · exact ⟨c, (State.ctxAt_modCtx_of_ne (fun hid' hh => hx ⟨hid', hh⟩) hg).trans hc, hp⟩

/-- A change of the watched context. -/
theorem modCtx_self {Q : Ctx → Prop} {g : Ctx → Ctx} (hw : Watched σ f x hid P s) (hg : ∀ c, P c → (g c).hid = c.hid)
    (hQ : ∀ c, P c → Q (g c) ∧ (g c).status ≠ .free) : Watched σ f x hid Q (s.modCtx x hid g) := by
  obtain ⟨hfocus, halone, hsensors, c, hc, hp⟩ := hw
  obtain ⟨hs, ha⟩ := s.modCtx_frame x hid g
  obtain ⟨hqg, halive⟩ := hQ c hp
  exact ⟨(s.modCtx_co_id x hid g).trans hfocus, ha f halone, hs.trans hsensors, g c, State.ctxAt_modCtx_self hc (hg c hp) halive, hqg⟩

/-- A change of a core that leaves its contexts. -/
theorem modCore {id : Nat} {g : Core → Core} (hw : Watched σ f x hid P s) (hg : ∀ c, (g c).id = c.id) (hctxs : ∀ c, (g c).ctxs = c.ctxs) :
    Watched σ f x hid P (s.modCore id g) := by
  obtain ⟨rfl, halone, hsensors, c, hc, hp⟩ := hw
  obtain ⟨hs, hco, ha⟩ := s.modCore_frame id hg
  exact ⟨hco, ha halone, hs.trans hsensors, c, (State.ctxAt_modCore hg hctxs).trans hc, hp⟩

/-- A change of the state that leaves the contexts, the identifiers of the cores and the sensors. -/
theorem congr {t : State} (hw : Watched σ f x hid P s) (hcx : t.cx = s.cx) (hco : t.co.id = s.co.id) (hctxs : t.co.ctxs = s.co.ctxs)
    (hcores : t.cores = s.cores) (hsensors : t.sensors = s.sensors) : Watched σ f x hid P t := by
  obtain ⟨hfocus, halone, hs, c, hc, hp⟩ := hw
  exact ⟨hco.trans hfocus, hcores ▸ halone, hsensors.trans hs, c, (State.ctxAt_congr hcx hco hctxs hcores).trans hc, hp⟩

/-- A change of focus. -/
theorem focusCore (id : Nat) (hw : Watched σ f x hid P s) (hP : ∀ c, P c → c.status ≠ .free) : Watched σ id x hid P (s.focusCore id) := by
  obtain ⟨rfl, halone, hsensors, c, hc, hp⟩ := hw
  have hs : (s.focusCore id).sensors = s.sensors := by
    unfold State.focusCore
    split
    · rfl
    · dsimp only
      split <;> rfl
  exact ⟨State.focusCore_co_id s id, State.focusCore_alone id halone, hs.trans hsensors, c,
    State.ctxAt_focusCore id halone hc (hP c hp), hp⟩

/-- A change of the focused context's view. -/
theorem withView {v : List ViewRec} (hw : Watched σ f x hid P s) (hP : x = f → P = Ctx.Holds) :
    Watched σ f x hid P { s with cx := { s.cx with view := v } } := by
  obtain ⟨rfl, halone, hsensors, c, hc, hp⟩ := hw
  refine ⟨rfl, halone, hsensors, ?_⟩
  by_cases hx : s.co.id = x
  · subst hx
    rw [hP rfl] at hp ⊢
    rw [State.ctxAt_own] at hc
    split at hc
    · next hcx =>
      cases hc
      exact ⟨{ s.cx with view := v }, (State.ctxAt_own { s with cx := { s.cx with view := v } } hid).trans (if_pos hcx), hp⟩
    · next hcx => exact ⟨c, (State.ctxAt_own { s with cx := { s.cx with view := v } } hid).trans ((if_neg hcx).trans hc), hp⟩
  · refine ⟨c, ?_, hp⟩
    rw [State.ctxAt_away hx] at hc
    exact (State.ctxAt_away (s := { s with cx := { s.cx with view := v } }) hx hid).trans hc

theorem foldl {α : Type} {l : List α} {g : State → α → State} (hw : Watched σ f x hid P s)
    (hg : ∀ s a, Watched σ f x hid P s → Watched σ f x hid P (g s a)) : Watched σ f x hid P (l.foldl g s) :=
  foldl_keeps (Watched σ f x hid P) hw hg

/-- Operations on other contexts of the core, or on another core. -/
theorem catchUp (id : Nat) (hw : Watched σ f x hid P s) : Watched σ f x hid P (s.catchUp id) :=
  hw.modCore (fun _ => rfl) fun _ => rfl

theorem enqueue {id h : Nat} {g : Core → Core} (hw : Watched σ f x hid P s) (hne : x = id → hid ≠ h) (hg : ∀ c, (g c).id = c.id)
    (hctxs : ∀ c, (g c).ctxs = c.ctxs) : Watched σ f x hid P (s.enqueue id h g) :=
  have hother : ∀ n, Watched σ f x hid P ((s.catchUp id).modCtx id h (fun c => { c with readyNo := n })) := fun n =>
    (hw.catchUp id).modCtx (g := fun c => { c with readyNo := n }) (fun _ => rfl) fun hx hh => absurd hh (hne hx)
  (hother _).modCore (g := fun k => { g k with readySeq := ((s.catchUp id).coreAt id).readySeq + 1 }) hg hctxs

theorem pushFault {id : Nat} (r : FaultRec) (hw : Watched σ f x hid P s) : Watched σ f x hid P (s.modCore id (Core.pushFault r)) :=
  hw.modCore (fun c => by unfold Core.pushFault; split <;> rfl) fun c => by unfold Core.pushFault; split <;> rfl

theorem parkOut {id h : Nat} (p : PendFault) (hw : Watched σ f x hid P s) (hne : x = id → hid ≠ h) :
    Watched σ f x hid P (s.parkOut id h p) := by
  unfold State.parkOut
  split
  · exact hw
  · refine pushFault _ (hw.modCtx ?_ fun hx hh => absurd hh (hne hx))
    exact fun _ => rfl

theorem withdraw (id h : Nat) (hw : Watched σ f x hid P s) : Watched σ f x hid P (s.withdraw id h) := by
  obtain ⟨hfocus, halone, hsensors, c, hc, hp⟩ := hw
  have hcores : ∀ k ∈ (s.withdraw id h).cores, k.id ≠ f := by
    refine forall_id_ne_map ?_ halone
    exact fun _ => rfl
  refine ⟨hfocus, hcores, hsensors, c, ?_, hp⟩
  by_cases hx : s.co.id = x
  · subst hx
    rw [State.ctxAt_own] at hc
    rw [show s.co.id = (s.withdraw id h).co.id from rfl, State.ctxAt_own]
    exact hc
  · rw [State.ctxAt_away hx] at hc
    rw [State.ctxAt_away (s := s.withdraw id h) hx]
    unfold State.withdraw
    dsimp only
    rw [find_map_of_id]
    swap
    · exact fun _ => rfl
    cases e : s.cores.find? (·.id == x) with
    | none => rw [e] at hc; exact hc
    | some k => rw [e] at hc; exact hc

end

/-! ## The operations of a core that abandons what a copy has in flight -/

section
variable {σ : Tab Nat} {f x hid : Nat} {P : Ctx → Prop} {s : State}

/-- The end of a wait of the focused core's contexts: the context of a copy keeps its slot. -/
theorem wake {h : Nat} {g : Ctx → Ctx} (hw : Watched σ f x hid P s) (hP : x = f → P = Ctx.Holds) (hg : ∀ c, (g c).hid = c.hid)
    (hhold : ∀ c, c.Holds → (g c).Holds) : Watched σ f x hid P (s.wake f h g) := by
  have hmod : Watched σ f x hid P (s.modCtx f h (fun c => (g c).wakeUp s.tick)) :=
    hw.modCtx (fun c => by rw [Ctx.wakeUp_hid, hg]) fun hx _ c hp => by
      rw [hP hx] at hp ⊢
      have hfree := (hhold c hp).wakeUp s.tick
      exact ⟨Or.inr hfree, by rw [hfree.1]; decide⟩
  unfold State.wake
  split
  · exact hw
  · next c hc =>
    dsimp only
    split
    · exact hmod
    · next hout =>
      have hne : x = f → hid ≠ h := by
        rintro hx rfl
        obtain ⟨d, hd, hp⟩ := hw.ctx
        rw [hP hx] at hp
        rw [hx, hc, Option.some.injEq] at hd
        exact hout (hd ▸ hp.inSlot)
      split
      · exact hmod.enqueue hne (fun _ => rfl) fun _ => rfl
      · exact hmod.parkOut _ hne

theorem descReady (d : Nat) (hw : Watched σ f x hid P s) (hP : x = f → P = Ctx.Holds) : Watched σ f x hid P (s.descReady f d) := by
  unfold State.descReady
  dsimp only
  split
  · exact hw
  · refine foldl (foldl hw fun s c hs => hs.wake hP (fun _ => rfl) fun _ h => h) fun s c hs => hs.wake hP (fun _ => rfl) fun _ h => h

theorem abandonVop (p : Nat → Bool) (hw : Watched σ f x hid P s) : Watched σ f x hid P (s.abandonVop p) := by
  unfold State.abandonVop
  split
  · split
    · exact hw.congr rfl rfl rfl rfl rfl
    · exact hw
  · exact hw

theorem abandonMop (p : Nat → Bool) (hw : Watched σ f x hid P s) : Watched σ f x hid P (s.abandonMop p) := by
  unfold State.abandonMop
  split
  · split
    · exact hw.congr rfl rfl rfl rfl rfl
    · exact hw
  · exact hw

theorem abandonMmrs (p : Nat → Bool) (hw : Watched σ f x hid P s) (hP : x = f → P = Ctx.Holds) :
    Watched σ f x hid P (s.abandonMmrs p) := by
  have hready : ∀ l : List MmrOp, (l.foldl (fun c o => c.mmrReady o) s.co).id = s.co.id ∧
      (l.foldl (fun c o => c.mmrReady o) s.co).ctxs = s.co.ctxs := fun l =>
    foldl_keeps (fun c : Core => c.id = s.co.id ∧ c.ctxs = s.co.ctxs) ⟨rfl, rfl⟩ fun c o h => h
  unfold State.abandonMmrs
  refine foldl (hw.congr rfl (hready _).1 (hready _).2 rfl rfl) fun s o hs => ?_
  exact hs.modCtx (fun _ => rfl) fun hx _ c hp => by
    rw [hs.focus] at hx
    rw [hP hx] at hp ⊢
    exact ⟨hp, hp.alive⟩

/-- An abandoned pump operation: of the contexts of its core it changes the focused one's view alone. -/
theorem pumpUndefined (o : PumpOp) (hw : Watched σ f x hid P s) (hP : x = f → P = Ctx.Holds) :
    Watched σ f x hid P (s.pumpUndefined o) := by
  unfold State.pumpUndefined
  dsimp only
  split
  · exact hw.congr rfl rfl rfl rfl rfl
  · exact hw.congr rfl rfl rfl rfl rfl
  · exact hw.congr rfl rfl rfl rfl rfl
  · split
    · exact hw
    · exact (hw.withView hP).congr rfl rfl rfl rfl rfl

theorem abandonPump (p : Nat → Bool) (hw : Watched σ f x hid P s) (hP : x = f → P = Ctx.Holds) :
    Watched σ f x hid P (s.abandonPump p) := by
  have hmark : ∀ (c : Core) (o : PumpOp), (c.unmark o).id = c.id ∧ (c.unmark o).ctxs = c.ctxs := by
    intro c o
    unfold Core.unmark
    split
    · exact ⟨rfl, rfl⟩
    · split <;> exact ⟨rfl, rfl⟩
  unfold State.abandonPump
  refine congr (foldl hw fun s o hs => ?_) rfl rfl rfl rfl rfl
  exact (hs.pumpUndefined o hP).congr rfl (hmark _ _).1 (hmark _ _).2 rfl rfl

/-- A core abandons the long operations of some of its contexts. -/
theorem abandonOps (id : Nat) (p : Nat → Bool) (hw : Watched σ f x hid P s) (hlive : ∀ c, P c → c.status ≠ .free)
    (hP : x = id → P = Ctx.Holds) : Watched σ id x hid P (s.abandonOps id p) := by
  unfold State.abandonOps
  dsimp only
  refine foldl ?_ fun s d hs => hs.descReady d hP
  exact ((((hw.focusCore id hlive).abandonVop p).abandonMop p).abandonMmrs p hP).abandonPump p hP

/-- The wait of a context ends without effect. -/
theorem dropWait {h : Nat} (hw : Watched σ f x hid P s) (hP : x = f → P = Ctx.Holds) : Watched σ f x hid P (s.dropWait f h) :=
  wake ((hw.withdraw f h).modCore (fun _ => rfl) fun _ => rfl) hP (fun _ => rfl) fun _ h => h

/-- The wait of a copy's held message ends without effect. -/
theorem dropWait_self (hw : Watched σ f f hid Ctx.Holds s) : Watched σ f f hid Ctx.Free (s.dropWait f hid) := by
  have hdrop := (hw.withdraw f hid).modCore (id := f) (g := fun k => { k with waiters := k.waiters.filter (fun w => !(w.own && w.hid == hid)) })
    (fun _ => rfl) fun _ => rfl
  obtain ⟨c, hc, hhold⟩ := hdrop.ctx
  unfold State.dropWait
  dsimp only
  rw [State.wake_of_status hc hhold.inSlot]
  refine hdrop.modCtx_self (fun c _ => Ctx.wakeUp_hid c _) fun c hc => ?_
  have hfree := hc.wakeUp (State.tick (State.modCore f (fun k => { k with
    waiters := k.waiters.filter (fun w => !(w.own && w.hid == hid)) }) (s.withdraw f hid)))
  exact ⟨hfree, by rw [hfree.1]; decide⟩

end

/-! ## A mismatch (R451) -/

section
variable {σ : Tab Nat} {f x id hid : Nat} {P : Ctx → Prop} {s : State}

/-- A mismatch at one copy, the first since its region entry, restarts the copy whose message is held. -/
theorem mismatchAt_self (hw : Watched σ f id hid Ctx.Holds s) : Watched σ id id hid Ctx.Restarted (s.mismatchAt id hid false) := by
  have habandon : Watched σ id id hid Ctx.Holds (s.abandonOps id (· == hid)) := hw.abandonOps id _ (fun _ h => h.alive) fun _ => rfl
  obtain ⟨c, hc, hhold⟩ := habandon.ctx
  have hrestart : ∀ {t : State}, Watched σ id id hid Ctx.Free t →
      Watched σ id id hid Ctx.Restarted (t.modCtx id hid Ctx.rewound) := fun ht =>
    ht.modCtx_self (fun _ _ => rfl) fun c hfree => ⟨⟨rfl, rfl, rfl, hfree.2, hfree.1⟩, fun h => by
      have hres := hfree.1
      exact absurd (hres.symm.trans h) (by decide)⟩
  rw [State.mismatchAt_first hc]
  split
  · exact hrestart habandon.dropWait_self
  · next hends =>
    refine hrestart { habandon with ctx := ⟨c, hc, ?_⟩ }
    rcases hhold with ⟨-, h, till, hwait⟩ | hfree
    · exact absurd (by rw [Ctx.heldHash, hwait]; rfl) hends
    · exact hfree

/-- A mismatch at one copy leaves the context of the other. -/
theorem mismatchAt_other (hw : Watched σ f x hid P s) (hne : x ≠ id) (hlive : ∀ c, P c → c.status ≠ .free) :
    Watched σ id x hid P (s.mismatchAt id hid false) := by
  have habandon : Watched σ id x hid P (s.abandonOps id (· == hid)) := hw.abandonOps id _ hlive fun h => absurd h hne
  have hrestart : ∀ {t : State}, Watched σ id x hid P t → Watched σ id x hid P (t.modCtx id hid Ctx.rewound) :=
    fun ht => ht.modCtx (fun _ => rfl) fun h => absurd h hne
  cases hc : (s.abandonOps id (· == hid)).ctxAt id hid with
  | none =>
    rw [State.mismatchAt_of_none hc]
    exact habandon
  | some c =>
    rw [State.mismatchAt_first hc]
    split
    · exact hrestart (habandon.dropWait fun h => absurd h hne)
    · exact hrestart habandon

/-- A mismatch at both copies restarts both. -/
theorem mismatchAt_both {core m : Nat} (hcore : Watched σ f core hid Ctx.Holds s) (hm : Watched σ f m hid Ctx.Holds s) (hne : core ≠ m) :
    ((s.mismatchAt core hid false).mismatchAt m hid false).sensors = σ ∧
      ∀ x, x = core ∨ x = m → ctxIs ((s.mismatchAt core hid false).mismatchAt m hid false) x hid Ctx.Restarted := by
  have hcore' := hcore.mismatchAt_self.mismatchAt_other hne fun c hc => hc.alive
  have hm' := (hm.mismatchAt_other hne.symm fun c hc => hc.alive).mismatchAt_self
  refine ⟨hcore'.sensors, ?_⟩
  rintro x (rfl | rfl)
  · exact hcore'.ctx
  · exact hm'.ctx

end

end Watched

/-- What is said of a context by what is known of it. -/
theorem ctxIs.imp {s : State} {x hid : Nat} {P Q : Ctx → Prop} (h : ctxIs s x hid P) (hpq : ∀ c, P c → Q c) : ctxIs s x hid Q := by
  obtain ⟨c, hc, hp⟩ := h
  exact ⟨c, hc, hpq c hp⟩

/-- A copy whose message is held, for the first time since its region entry. -/
def Ctx.HoldsFirst (h : Word) (till : Nat) (c : Ctx) : Prop := c.wait = some (.check h till) ∧ c.status = .waiting ∧ c.restarted = false

theorem Ctx.HoldsFirst.holds {h : Word} {till : Nat} {c : Ctx} (hc : c.HoldsFirst h till) : c.Holds := Or.inl ⟨hc.2.1, h, till, hc.1⟩

/-- The hash of a copy whose message is held. -/
theorem heldHash_of_ctxIs {s : State} {x hid : Nat} {h : Word} {till : Nat} (hc : ctxIs s x hid (Ctx.HoldsFirst h till)) :
    (s.ctxAt x hid).bind Ctx.heldHash = some (h, till) := by
  obtain ⟨c, hc, hwait, -, -⟩ := hc
  rw [hc, Option.bind_some, Ctx.heldHash, hwait]

theorem any_restarted_of_ctxIs {s : State} {x hid : Nat} {h : Word} {till : Nat} (hc : ctxIs s x hid (Ctx.HoldsFirst h till)) :
    (s.ctxAt x hid).any (·.restarted) = false := by
  obtain ⟨c, hc, -, -, hfirst⟩ := hc
  rw [hc, Option.any_some, hfirst]

/-- Whether a copy sends again what its kept hash does not match. -/
theorem State.resentWrong_iff {s : State} {x hid : Nat} :
    s.resentWrong x hid = true ↔ ctxIs s x hid (fun c => c.sent < c.hashes.length) := by
  unfold State.resentWrong ctxIs
  rw [Option.any_eq_true]
  exact exists_congr fun c => and_congr_right fun _ => decide_eq_true_iff

/-- A mismatch of two copies whose messages are held is counted and restarts both (R451, R455). -/
theorem State.mismatch_restarts {s : State} {core m hid : Nat} {h k : Word} {till tk : Nat} (hne : core ≠ m)
    (halone : ∀ c ∈ s.cores, c.id ≠ s.co.id) (hcore : ctxIs s core hid (Ctx.HoldsFirst h till)) (hm : ctxIs s m hid (Ctx.HoldsFirst k tk)) :
    Tab.get 0 (s.mismatch core m hid).sensors 0x42 = (Tab.get 0 s.sensors 0x42 + 1) % 2 ^ 32 ∧
      ∀ x, x = core ∨ x = m → ctxIs (s.mismatch core m hid) x hid Ctx.Restarted := by
  have hagain : ((s.ctxAt core hid).any (·.restarted) || (s.ctxAt m hid).any (·.restarted)) = false := by
    rw [any_restarted_of_ctxIs hcore, any_restarted_of_ctxIs hm]
    rfl
  have hcounted : ∀ {x h till}, ctxIs s x hid (Ctx.HoldsFirst h till) → ∀ l g,
      Watched (s.countSensor 0x42).sensors s.co.id x hid Ctx.Holds ((s.countSensor 0x42).modLaunch l g) := fun hx l g =>
    ⟨rfl, halone, rfl, ctxIs.imp hx fun _ hc => hc.holds⟩
  unfold State.mismatch
  dsimp only
  rw [hagain]
  refine And.imp_left (fun hs => ?_) (Watched.mismatchAt_both (hcounted hcore _ _) (hcounted hm _ _) hne)
  rw [hs]
  exact (Tab.get_set ..).trans (if_pos rfl)

/-! ## The events -/

/-- The context of a copy whose message is forwarded. -/
def Ctx.Forwarded (c : Ctx) : Prop := c.agreed = true ∧ c.wait = none ∧ c.status = .resident

section
variable {s : State} {core m x y hid : Nat} {h h' k : Word} {till tk : Nat}

/-- The forwarding of a held message ends the wait of its context. -/
theorem Ctx.HoldsFirst.forwarded {c : Ctx} (hc : c.HoldsFirst h till) (tick : Nat) : ((c.agree k).wakeUp tick).Forwarded := by
  obtain ⟨-, hwaits, -⟩ := hc
  unfold Ctx.wakeUp Ctx.agree
  dsimp only
  rw [hwaits]
  exact ⟨rfl, rfl, rfl⟩

theorem ctxIs_agree_self (hx : ctxIs s x hid (Ctx.HoldsFirst h till)) : ctxIs (s.wake x hid (Ctx.agree k)) x hid Ctx.Forwarded := by
  obtain ⟨c, hc, hheld⟩ := hx
  rw [State.wake_of_status hc hheld.holds.inSlot]
  obtain ⟨hagreed, hwait, hres⟩ := hheld.forwarded (k := k) s.tick
  exact ⟨_, State.ctxAt_modCtx_self hc (Ctx.wakeUp_hid _ _) (by rw [hres]; decide), hagreed, hwait, hres⟩

theorem ctxIs_agree_other {P : Ctx → Prop} (hx : ctxIs s x hid P) (hy : ctxIs s y hid (Ctx.HoldsFirst h till)) (hne : x ≠ y) :
    ctxIs (s.wake y hid (Ctx.agree k)) x hid P := by
  obtain ⟨c, hc, hheld⟩ := hy
  obtain ⟨d, hd, hp⟩ := hx
  rw [State.wake_of_status hc hheld.holds.inSlot]
  refine ⟨d, ?_, hp⟩
  rw [State.ctxAt_modCtx_of_ne (fun hxy => absurd hxy hne) fun c => Ctx.wakeUp_hid (c.agree k) s.tick]
  exact hd

/-- Both copies of a launch hold a message of context `hid`, for the first time since their region entries. -/
structure CopiesHold (s : State) (core m hid : Nat) (h : Word) (till : Nat) (k : Word) (tk : Nat) : Prop where
  partner : s.partner core = some m
  apart : core ≠ m
  alone : ∀ c ∈ s.cores, c.id ≠ s.co.id
  primary : ctxIs s core hid (Ctx.HoldsFirst h till)
  mirror : ctxIs s m hid (Ctx.HoldsFirst k tk)

/-- The mismatch of two copies is counted, and both restart. -/
def copiesRestart (s : State) (core m hid : Nat) (t : State) : Prop :=
  Tab.get 0 t.sensors 0x42 = (Tab.get 0 s.sensors 0x42 + 1) % 2 ^ 32 ∧ ∀ x, x = core ∨ x = m → ctxIs t x hid Ctx.Restarted

theorem CopiesHold.mismatch (hp : CopiesHold s core m hid h till k tk) : copiesRestart s core m hid (s.mismatch core m hid) :=
  State.mismatch_restarts hp.apart hp.alone hp.primary hp.mirror

/-- Copies that agree go on (R450). -/
theorem CopiesHold.exec_agree (hp : CopiesHold s core m hid h till h tk) (hlock : s.relocks core = false)
    (hcore : s.resentWrong core hid = false) (hm : s.resentWrong m hid = false) :
    Next (exec (.checkedHashArrival core hid false) s) fun t => ∀ x, x = core ∨ x = m → ctxIs t x hid Ctx.Forwarded := by
  refine ⟨(s.wake core hid (Ctx.agree h)).wake m hid (Ctx.agree h), ?_, ?_⟩
  · change execCheckedHashArrival core hid false s = _
    unfold execCheckedHashArrival
    rw [State.inputOf_enters _ _ hlock, hp.partner]
    dsimp only
    rw [heldHash_of_ctxIs hp.primary, heldHash_of_ctxIs hp.mirror]
    dsimp only
    rw [hcore, hm]
    simp
  · rintro x (rfl | rfl)
    · exact ctxIs_agree_other (ctxIs_agree_self hp.primary) (ctxIs_agree_other hp.mirror hp.primary hp.apart.symm) hp.apart
    · exact ctxIs_agree_self (ctxIs_agree_other hp.mirror hp.primary hp.apart.symm)

/-- Copies that differ, and one that sends again what its kept hash does not match (R451). -/
theorem CopiesHold.exec_differ {differs : Bool} (hp : CopiesHold s core m hid h till k tk) (hlock : s.relocks core = false)
    (hdiffer : h ≠ k ∨ differs = true ∨ s.resentWrong core hid = true ∨ s.resentWrong m hid = true) :
    Next (exec (.checkedHashArrival core hid differs) s) (copiesRestart s core m hid) := by
  refine ⟨s.mismatch core m hid, ?_, hp.mismatch⟩
  change execCheckedHashArrival core hid differs s = _
  unfold execCheckedHashArrival
  rw [State.inputOf_enters _ _ hlock, hp.partner]
  dsimp only
  rw [heldHash_of_ctxIs hp.primary, heldHash_of_ctxIs hp.mirror]
  dsimp only
  refine if_neg fun hagree => ?_
  rcases hdiffer with hne | hd | hre | hre <;> simp_all

/-- A hash that is late counts as a mismatch (R450). -/
theorem CopiesHold.exec_late (hp : CopiesHold s core m hid h till k tk) (hlate : till ≤ s.tick) :
    Next (exec (.checkedHashTimeout core hid) s) (copiesRestart s core m hid) := by
  refine ⟨s.mismatch core m hid, ?_, hp.mismatch⟩
  change execCheckedHashTimeout core hid s = _
  unfold execCheckedHashTimeout
  rw [hp.partner, heldHash_of_ctxIs hp.primary]
  exact if_pos hlate

end

theorem checkedCopiesAgreeOrRestart : CheckedCopiesAgreeOrRestart := by
  intro s core m hid h k till tk hpartner hne halone hcore hm resent restarts
  have hp : CopiesHold s core m hid h till k tk := ⟨hpartner, hne, halone, hcore, hm⟩
  have hresent : ∀ x, resent x ↔ s.resentWrong x hid = true := fun x => State.resentWrong_iff.symm
  refine ⟨?_, ?_, hp.exec_late⟩
  · rintro hlock rfl hr hr'
    rw [hresent, Bool.not_eq_true] at hr hr'
    exact hp.exec_agree hlock hr hr'
  · intro differs hlock hdiffer
    rw [hresent, hresent] at hdiffer
    exact hp.exec_differ hlock hdiffer

/-- Settles O42: an uncorrectable error ends the operation of its unit, and checked copies are watched through the operations that a mismatch
abandons. -/
theorem errorsAndCheckedCopies : Obligations.ErrorsAndCheckedCopies := ⟨uncorrectableErrorsEndOperations, checkedCopiesAgreeOrRestart⟩

end Sys2Proof.Machine
end

section
namespace Sys2Proof.Machine

open Sys2Proof Sys2Proof.Claim

/-! STANDBY evictions (R58, R59). The statement does not say that identifiers of launches are unique. The model takes every launch of one identifier
for the launch or its mirror, so that the eviction of a launch waits for the peer of another of its identifier. -/

/-- A STANDBY launch of one core that runs on core 0, where an eviction has stopped its slots. -/
def haltedLaunch : Launch :=
  { Launch.zero with id := 5, cls := 2, width := 1, height := 1, state := .accepted, granted := [0], started := [0], halted := true }

/-- A launch of the same identifier that runs on core 1. -/
def namesakeLaunch : Launch := { haltedLaunch with px := 1, granted := [1], started := [1] }

/-- Core 1 has a context that waits for the reply of a peer. -/
def peerWaitingCore : Core :=
  { Core.zero 1 with ctxs := [{ Ctx.zero with status := .waiting, wait := some (.accept (some 0)) }] }

/-- The module runs two launches of one identifier; the second waits for a peer. -/
def namesakes : State :=
  { State.reset with co := { Core.zero 0 with launch := some 5 }, cores := [peerWaitingCore], launches := [haltedLaunch, namesakeLaunch] }

theorem quiet_namesakes : quiet namesakes haltedLaunch := by
  unfold quiet
  decide

theorem exec_standbyEviction_namesakes :
    exec (.standbyEviction 5) namesakes = .next (namesakes.evict 5) := by
  change execStandbyEviction 5 namesakes = _
  unfold execStandbyEviction
  refine if_pos ?_
  decide

theorem launchById_evict_namesakes : ((namesakes.evict 5).launchById 5).state = .accepted := by decide

/-- Refutes O44: the first clause of `StandbyLaunchesMove` fails where two launches have one identifier. -/
theorem not_standbyAndUpkeep : ¬ Obligations.StandbyAndUpkeep := by
  rintro ⟨-, hmoves, -⟩
  obtain ⟨t, ht, hevicted, -⟩ := hmoves namesakes 5 rfl rfl rfl rfl (by decide) (by decide) quiet_namesakes (by decide) (Or.inl rfl) (by decide)
  rw [exec_standbyEviction_namesakes] at ht
  cases ht
  exact absurd (launchById_evict_namesakes.symm.trans hevicted) (by decide)

end Sys2Proof.Machine
end

section
namespace Sys2Proof.Machine

open Sys2Proof Sys2Proof.Claim Sys2Proof.Laws

/-! Scalar floating point (R207 to R214). The statement gives the integers of a conversion as bit vectors of the integer type's width, the model gives
them as naturals with a width. The two agree because a pattern that a conversion delivers fits the width. -/

/-! ## Integers of a width as bit vectors (R109, R122) -/

theorem intOfBits_unsigned (w c : Nat) : intOfBits false w c = (BitVec.ofNat w c).toNat := by
  simp [intOfBits]

theorem intOfBits_signed (w c : Nat) : intOfBits true w c = (BitVec.ofNat w c).toInt := by
  cases w with
  | zero => simp [intOfBits, Nat.mod_one, BitVec.of_length_zero]
  | succ k =>
    have hpow : 2 ^ (k + 1) = 2 * 2 ^ k := by ring
    simp only [intOfBits, BitVec.toInt_eq_toNat_cond, BitVec.toNat_ofNat, Nat.add_sub_cancel, Bool.true_and,
      decide_eq_true_eq]
    by_cases hneg : 2 ^ k ≤ c % 2 ^ (k + 1)
    · rw [if_pos hneg, if_neg (by omega)]
      push_cast
      rfl
    · rw [if_neg hneg, if_pos (by omega)]

/-- SignExt of R194 is the sign extension of the low bits. -/
theorem signExt_eq_signExtend (c w : Nat) : signExt c w = (BitVec.ofNat w c).signExtend 64 := by
  rw [BitVec.signExtend, ← intOfBits_signed]
  cases w with
  | zero => simp [signExt, intOfBits, Nat.mod_one]
  | succ k =>
    by_cases hneg : 2 ^ k ≤ c % 2 ^ (k + 1)
    · simp [signExt, intOfBits, hneg, Nat.not_lt.mpr hneg]
    · simp [signExt, intOfBits, hneg, Nat.lt_of_not_le hneg, ← BitVec.ofInt_natCast]

theorem bitsOfInt_lt (w : Nat) (v : Int) : bitsOfInt w v < 2 ^ w := by
  have hpos : (0 : Int) < 2 ^ w := by positivity
  have hlt : v % 2 ^ w < 2 ^ w := Int.emod_lt_of_pos v hpos
  have hnonneg : 0 ≤ v % 2 ^ w := Int.emod_nonneg v hpos.ne'
  exact (Int.toNat_lt hnonneg).2 (mod_cast hlt)

theorem fitInt_lt (signed : Bool) (w : Nat) (wrap : Bool) (v : Int) : (fitInt signed w wrap v).1 < 2 ^ w := by
  unfold fitInt
  split <;> exact bitsOfInt_lt w _

/-- A conversion into an integer format delivers a pattern of the format's width. -/
theorem numToInt_lt (r : Rnd) (signed : Bool) (w : Nat) (wrap : Bool) (x : Num) :
    (numToInt r signed w wrap x).1 < 2 ^ w := by
  cases x with
  | nan => exact Nat.two_pow_pos w
  | inf neg =>
    cases wrap with
    | true => exact Nat.two_pow_pos w
    | false => exact bitsOfInt_lt w _
  | fin neg m e => exact fitInt_lt signed w wrap _

/-! ## Sources and results of floating-point instructions (R126, R196, R211) -/

theorem fval_eq_fsrc (s : State) (p : Prec) (n : Reg) : s.fval p n = fsrc s p n := by cases p <;> rfl

theorem fcode_eq_fpat (s : State) (p : Prec) (n : Reg) : s.fcode p n = fpat s p n := by cases p <;> rfl

/-- FCVT from an integer type rounds the integer that the low bits of its source encode. -/
theorem fopRow_fcvtFromInt (s : State) (r : Rnd) (p : Prec) (t : IntTy) (d a : Reg) :
    fopRow s (.fcvtFromInt r p t d a) =
      some (d, roundNum (precFmt p) .ieee r (Num.ofInt (intOfBits (intTySigned t) (intTyWidth t) (s.int a).toNat))) := by
  cases t <;> simp [fopRow, intTySigned, intTyWidth, intOfBits_signed, intOfBits_unsigned]

/-- What FCVT to an integer type writes, the pattern extended to 64 bits with its flags, is the row of R211. The unsigned 32-bit pattern
needs no extension as it fits its width. -/
theorem toInt_eq_conv (s : State) (r : Rnd) (p : Prec) (t : IntTy) (wrap : Bool) (a : Reg) :
    (BitVec.ofNat 64 (s.toInt r p t wrap a).1, (s.toInt r p t wrap a).2) = toIntRow.conv s r p t wrap a := by
  simp only [State.toInt, fval_eq_fsrc, intTyExt, toIntRow.conv]
  cases t with
  | i32 | i64 =>
    simp only [intTySigned, intTyWidth, if_true, signExt_eq_signExtend, BitVec.ofNat_toNat, BitVec.setWidth_eq,
      BitVec.signExtend_eq]
  | n32 =>
    have hlt := numToInt_lt r false 32 wrap (fsrc s p a)
    refine Prod.ext (BitVec.eq_of_toNat_eq ?_) rfl
    simp only [BitVec.toNat_setWidth, BitVec.toNat_ofNat, intTySigned, intTyWidth, Nat.mod_eq_of_lt hlt,
      Bool.false_eq_true, if_false]
  | n64 => rfl

/-- Flags that an instruction ORs into st.fflags when it ends change nothing else. -/
theorem writesReg_orFlags {s t : State} {len : Nat} {d : Reg} {v : W128} {tag : Bool} (fl : FlagSet)
    (h : writesReg s t len d v tag 0) : writesReg s (t.orFlags fl) len d v tag fl := by
  obtain ⟨⟨hpc, hflags, hissued, hctx, hcore, helsewhere⟩, hregs, hmem⟩ := h
  have hor : (t.orFlags fl).co.fflags = s.co.fflags ||| fl := by simp [hflags]
  exact ⟨⟨hpc, hor, hissued, hctx, hcore, helsewhere⟩, hregs, hmem⟩

/-- A floating-point result is a register written and flags set. -/
theorem fresult_writesReg (s : State) (d : Reg) (r : Nat × FlagSet) :
    writesReg s (s.fresult d r) 4 d (intBits (BitVec.ofNat 64 r.1)) false r.2 :=
  writesReg_orFlags r.2 (result_writesReg s 4 d (BitVec.ofNat 64 r.1))

/-- An instruction with a row of R207 ends with the result of its row. FCVT from an integer type has a lemma of its own, and the last
case is that of an instruction with no row. -/
theorem exec_of_fopRow {s : State} {i : Instr} {d : Reg} {x : Nat × FlagSet} (h : fopRow s i = some (d, x)) :
    exec i s = .next (s.fresult d x) := by
  unfold fopRow at h
  split at h
  case h_9 r p t d a =>
    cases (fopRow_fcvtFromInt s r p t d a).symm.trans h
    rfl
  case h_12 => cases h
  all_goals
    cases h
    simp only [← fval_eq_fsrc, ← fcode_eq_fpat]
    rfl

/-- A conversion to an integer ends with the row of R211 in its destination. -/
theorem exec_of_toIntRow {s : State} {i : Instr} {d : Reg} {x : Word × FlagSet} (h : toIntRow s i = some (d, x)) :
    ∃ c : Nat × FlagSet, x = (BitVec.ofNat 64 c.1, c.2) ∧ exec i s = .next (s.fresult d c) := by
  unfold toIntRow at h
  split at h
  case h_1 r p t d' a =>
    cases h
    exact ⟨s.toInt r p t false a, (toInt_eq_conv s r p t false a).symm, rfl⟩
  case h_2 r p t d' a =>
    cases h
    exact ⟨s.toInt r p t true a, (toInt_eq_conv s r p t true a).symm, rfl⟩
  case h_3 => cases h

/-- Settles O6: each form ends with `State.fresult` of the result that its row gives, which writes one register and ORs the flags. -/
theorem floatingFormsRoundAndConvert : Obligations.FloatingFormsRoundAndConvert := by
  refine ⟨fun s i d c fl h => ?_, fun s i d v fl h => ?_⟩
  · rw [exec_of_fopRow h]
    exact next_of (fresult_writesReg s d (c, fl))
  · obtain ⟨c, hpair, hexec⟩ := exec_of_toIntRow h
    obtain ⟨rfl, rfl⟩ := Prod.mk.inj hpair
    rw [hexec]
    exact next_of (fresult_writesReg s d c)

end Sys2Proof.Machine
end

section
namespace Sys2Proof.Machine

open Sys2Proof Sys2Proof.Claim Sys2Proof.Laws

/-! CTRSEL, STOP, IFL, GRAMP and WELLQ (R149, R307, R315, R336, R338, R341). -/

/-! ## Requests to a core of the launch (R233, R234) -/

/-- The core that a register names is the target of its request. -/
theorem target_of_named {s : State} {v : Word} {c : Nat} (h : named s v = some c) : s.lau.target v = some c := by
  unfold named at h
  split at h
  · next hin =>
    obtain ⟨hlow, hx, hy⟩ := hin
    have hrow : v.toNat / 65536 % 65536 = v.toNat / 65536 := Nat.mod_eq_of_lt (by omega)
    rw [← h]
    refine (if_pos ⟨Nat.div_eq_of_lt hlow, hx, by rw [hrow]; exact hy⟩).trans ?_
    dsimp only [Launch.coreAt]
    rw [hrow]
  · cases h

theorem eventOf_eventCode (e : CtrEvent) : eventOf (eventCode e) = some e := by
  cases e with
  | issued n => revert n; decide
  | _ => rfl

/-- The bit of an event in the bitmap of a warrant. -/
theorem State.allows_eq (s : State) (e : CtrEvent) : s.allows e = allowed s e := by
  cases e with
  | issued n => exact congrArg _ (Nat.min_eq_right (Nat.le_add_right 16 n.val)).symm
  | _ => rfl

/-- A context sends a request and waits for the reply. -/
theorem post_waitOn_sent (s : State) (c : Nat) (p : Payload) (k : BitVec 4) (op : WaitOp) (len : Nat) :
    sent s ((s.post c p).waitOn k op len) c p := by
  refine ⟨rfl, fun _ => ⟨rfl, rfl⟩, ?_, ?_, ?_⟩ <;> simp only [State.waitOn, State.issue, State.count, State.post, State.send]

theorem post_waitOn_issued (s : State) (c : Nat) (p : Payload) (k : BitVec 4) (op : WaitOp) (len : Nat) :
    issued s ((s.post c p).waitOn k op len) := by
  refine ⟨fun e => ?_, rfl, rfl, rfl, rfl⟩
  exact State.issue_counter (s.post c p) e

/-- CTRSEL of an allowed event (R336). -/
theorem exec_ctrsel {s : State} (d : Reg) {a b : Reg} {c : Nat} {e : CtrEvent} {k : Nat} (hcore : named s (s.int a) = some c)
    (hsel : (s.int b).toNat = eventCode e + 4096 * k) (hk : k < 3) (hallow : allowed s e = true) :
    exec (.ctrsel d a b) s =
      .next ((s.post c (.ctrsel e (s.int a))).waitOn 1 (.remote d (BitVec.ofNat 4 (4 + k)) (s.int a)) 4) := by
  have hcode : eventCode e < 4096 := by
    cases e with
    | issued n => exact Nat.lt_of_lt_of_le (Nat.add_lt_add_left n.isLt 16) (by decide)
    | _ => decide
  have hevent : eventOf ((s.int b).toNat % 4096) = some e := by
    rw [hsel, Nat.add_mul_mod_self_left, Nat.mod_eq_of_lt hcode, eventOf_eventCode]
  have hform : (s.int b).toNat / 4096 = k := by omega
  change execCtrsel d a b s = _
  unfold execCtrsel
  dsimp only
  rw [target_of_named hcore, hevent, hform]
  dsimp only
  rw [if_neg (by omega), State.allows_eq, hallow, if_pos rfl]

/-- STOP of a slot of a core of the launch (R338). -/
theorem exec_stop {s : State} (d : Reg) {a b : Reg} {c slot : Nat} {arm : Bool} (hctl : s.cx.helper = false)
    (hdebug : s.war.rec_.debug = true) (hcore : named s (BitVec.ofNat 64 ((s.int a).toNat % 2 ^ 32)) = some c) (hlo : 1 ≤ slot)
    (hhi : slot ≤ 10) (hslot : (s.int a).toNat / 2 ^ 32 = slot + (if arm then 16 else 0)) (halign : (s.int b).toNat % 4 = 0) :
    exec (.stop d a b) s = .next ((s.post c (.stop slot arm (s.int b) (s.int a))).waitOn 1 (.remote d 7 (s.int a)) 4) := by
  have htarget : s.lau.stopTarget (s.int a) = some (c, slot, arm) := by
    have hfields : (s.int a).toNat / 2 ^ 37 = 0 ∧ (s.int a).toNat / 2 ^ 32 % 16 = slot ∧ (s.int a).toNat / 2 ^ 36 % 2 = arm.toNat := by
      cases arm <;> simp only [Bool.toNat_false, Bool.toNat_true, if_true, Bool.false_eq_true, if_false] at hslot ⊢ <;> omega
    obtain ⟨hhigh, hlow, harm⟩ := hfields
    unfold Launch.stopTarget
    dsimp only
    rw [hlow, if_pos ⟨hhigh, hlo, hhi⟩, target_of_named hcore, harm]
    cases arm <;> rfl
  change execStop d a b s = _
  unfold execStop State.control
  rw [if_neg (by rw [hctl]; decide)]
  dsimp only
  rw [hdebug, htarget]
  exact congrArg _ (if_neg (not_not.2 halign))

/-! ## The object of an address (R341) -/

/-- The first entry of a list that a property picks, with its number. -/
theorem find_zipIdx_of_first {α : Type} {p : α → Bool} {l : List α} {i : Nat} {x : α} (hi : l[i]? = some x) (hx : p x = true)
    (hfirst : ∀ j y, j < i → l[j]? = some y → p y = false) : l.zipIdx.find? (fun o => p o.1) = some (x, i) := by
  obtain ⟨hlt, rfl⟩ := List.getElem?_eq_some_iff.1 hi
  refine List.find?_eq_some_iff_getElem.2 ⟨hx, i, by simpa using hlt, by simp, fun j hj => ?_⟩
  simpa using hfirst j _ hj (List.getElem?_eq_getElem (hj.trans hlt))

/-- Whether an address lies in the pages of an object (R377, R380). -/
def ObjInfo.holds (n : Nat) (o : ObjInfo) : Bool := decide (o.base ≤ n) && decide (n < o.base + max 1 (ceilDiv o.len 0x200000) * 0x200000)

theorem ObjInfo.holds_iff (n : Nat) (o : ObjInfo) : o.holds n = true ↔
    o.base ≤ n ∧ n < o.base + Max.max 1 ((o.len + 0x1FFFFF) / 0x200000) * 0x200000 := by
  have hpages : ceilDiv o.len 0x200000 = (o.len + 0x1FFFFF) / 0x200000 := by
    unfold ceilDiv
    omega
  rw [ObjInfo.holds, Bool.and_eq_true, decide_eq_true_eq, decide_eq_true_eq, hpages]

/-- IFL of an address whose page is not mapped. -/
theorem exec_ifl_unmapped {s : State} (d : Reg) {a : Reg} (h : s.space.imapped (s.int a).toNat = false) :
    exec (.ifl d a) s = .next (s.result 4 d 0) := by
  change execIfl d a s = _
  unfold execIfl
  simp only [h, Bool.not_false, if_true]
  rfl

/-- IFL of an address in an object. -/
theorem exec_ifl_object {s : State} (d : Reg) {a : Reg} {o : ObjInfo} {i : Nat} (hmap : s.space.imapped (s.int a).toNat = true)
    (hfind : s.space.objs.zipIdx.find? (fun o => o.1.holds (s.int a).toNat) = some (o, i)) :
    exec (.ifl d a) s = .next (s.result 4 d (BitVec.ofNat 64
      (1 + i % 16 * 256 + ((s.int a).toNat - o.base) % 2 ^ 32 * 2 ^ 32))) := by
  change execIfl d a s = _
  unfold execIfl
  unfold ObjInfo.holds at hfind
  simp only [hmap, hfind, Bool.not_true, Bool.false_eq_true, if_false, Nat.reducePow]

/-! ## Declarations (R165, R315) -/

/-- GRAMP's effect. -/
theorem exec_gramp (s : State) (a b : Reg) : exec (.gramp a b) s = .next (({ s with
    co.gramp := if (clamp (s.int a).toInt 0 3300).toNat = 0 then none else some (s.declare (clamp (s.int a).toInt 0 3300).toNat (s.int b).toNat)
    gov.decls := s.gov.decls + 1 }).retire 4) := rfl

theorem clamp_toNat_eq_zero (x : Int) : (clamp x 0 3300).toNat = 0 ↔ x ≤ 0 := by
  unfold clamp
  split
  · omega
  · split <;> omega

theorem clamp_toNat_of_pos {x : Int} (h : 0 < x) : ((clamp x 0 3300).toNat : Int) = Min.min x 3300 := by
  unfold clamp
  rw [if_neg (by omega)]
  split <;> omega

/-- GRAMP declares, or withdraws what its core has declared. -/
theorem exec_gramp_declares (s : State) (a b : Reg) : Next (exec (.gramp a b) s) fun t =>
    completes s (statusBack s t) (s.cx.pc + 4) 0 ∧ regsKept s t ∧ memoryKept s t ∧
    (if (s.int a).toInt ≤ 0 then t.co.gramp = none
     else ∃ r, t.co.gramp = some r ∧ (r.x : Int) = Min.min (s.int a).toInt 3300 ∧ r.base = none ∧
       r.stop = if (s.int b).toNat < s.tick then s.gov.next + 100 else (s.int b).toNat / 100 * 100 + 100) := by
  obtain ⟨hdone, hregs, hmem⟩ := retire_writesNothing s 4
  refine ⟨_, exec_gramp s a b, hdone, hregs, hmem, ?_⟩
  split
  · next hneg => exact if_pos ((clamp_toNat_eq_zero _).2 hneg)
  · next hpos =>
    exact ⟨_, if_neg (mt (clamp_toNat_eq_zero _).1 hpos), clamp_toNat_of_pos (by omega), rfl, rfl⟩

/-! ## The well (R149, R307) -/

/-- What WELLQ gives: the partition, whether bank `q` is in refresh, the ticks that are left of the refresh of the bank asked for, and those until it
begins. -/
def wellqWord (part : Nat) (any : Prop) [Decidable any] (q left wait : Nat) : Nat :=
  part % 65536 * 2 ^ 48 + (if any then 2 ^ 36 + q * 2 ^ 32 else 0) + left * 2 ^ 16 + wait

/-- The fields of what WELLQ gives. -/
theorem wellqWord_fields (part : Nat) (any : Prop) [Decidable any] {q left wait : Nat} (hq : q < 16) (hleft : left ≤ 100) (hwait : wait < 6400) :
    let v : Word := BitVec.ofNat 64 (wellqWord part any q left wait)
    v.toNat / 2 ^ 48 = part % 65536 ∧ (v.getLsbD 36 = true ↔ any) ∧ v.toNat % 2 ^ 16 = wait ∧ v.toNat / 2 ^ 16 % 2 ^ 16 = left := by
  have hval : (BitVec.ofNat 64 (wellqWord part any q left wait)).toNat = wellqWord part any q left wait := by
    rw [BitVec.toNat_ofNat]
    unfold wellqWord
    split <;> omega
  dsimp only
  rw [← BitVec.testBit_toNat, Nat.testBit_eq_decide_div_mod_eq, hval, decide_eq_true_eq]
  unfold wellqWord
  by_cases h : any
  · simp only [h, if_true, iff_true]
    omega
  · simp only [h, if_false, iff_false]
    omega

theorem exec_wellq (s : State) (d a : Reg) :
    let b := (s.int a).toNat % 16
    exec (.wellq d a) s = .next (s.result 4 d (BitVec.ofNat 64 (wellqWord s.war.wellMib (s.tick % 400 < 100) (s.tick % 6400 / 400)
      (if s.tick % 400 < 100 ∧ s.tick % 6400 / 400 = b then 400 * b + 100 - s.tick % 6400 else 0)
      (if s.tick % 400 < 100 ∧ s.tick % 6400 / 400 = b then 0 else (400 * b + 6400 - s.tick % 6400) % 6400)))) := by
  change execWellq d a s = _
  simp only [execWellq, wellqWord, Bool.and_eq_true, decide_eq_true_eq, beq_iff_eq]

/-- WELLQ gives the partition and the refresh of a bank. -/
theorem exec_wellq_fields (s : State) (d a : Reg) : Next (exec (.wellq d a) s) fun t => ∃ v : Word, writesReg s t 4 d (intBits v) false 0 ∧
    v.toNat / 2 ^ 48 = s.war.wellMib % 65536 ∧ (v.getLsbD 36 = true ↔ s.tick % 400 < 100) ∧
    (s.tick % 6400 / 400 = (s.int a).toNat % 16 → s.tick % 400 < 100 → v.toNat % 2 ^ 16 = 0 ∧
      v.toNat / 2 ^ 16 % 2 ^ 16 = 100 - s.tick % 400) := by
  refine ⟨_, exec_wellq s d a, _, result_writesReg s 4 d _, ?_⟩
  have hbank : s.tick % 6400 / 400 < 16 := by omega
  obtain ⟨hpart, hany, hwait, hleft⟩ := wellqWord_fields s.war.wellMib (s.tick % 400 < 100) hbank
    (left := if s.tick % 400 < 100 ∧ s.tick % 6400 / 400 = (s.int a).toNat % 16 then 400 * ((s.int a).toNat % 16) + 100 - s.tick % 6400 else 0)
    (wait := if s.tick % 400 < 100 ∧ s.tick % 6400 / 400 = (s.int a).toNat % 16 then 0
      else (400 * ((s.int a).toNat % 16) + 6400 - s.tick % 6400) % 6400)
    (by split <;> omega) (by split <;> omega)
  refine ⟨hpart, hany, fun hmine hin => ⟨hwait.trans (if_pos ⟨hin, hmine⟩), hleft.trans ?_⟩⟩
  rw [if_pos ⟨hin, hmine⟩]
  omega

/-- Settles O24: each instruction's answer is written out by a lemma of its own. -/
theorem systemQueriesAnswer : Obligations.SystemQueriesAnswer := by
  unfold Obligations.SystemQueriesAnswer
  refine ⟨?_, ?_, ?_, ?_, exec_gramp_declares, exec_wellq_fields⟩
  · intro s d a b c e k hcore hsel hk hallow
    exact ⟨_, exec_ctrsel d hcore hsel hk hallow, post_waitOn_sent .., post_waitOn_issued .., rfl, rfl⟩
  · intro s d a b c slot arm hctl hdebug hcore hlo hhi hslot halign
    exact ⟨_, exec_stop d hctl hdebug hcore hlo hhi hslot halign, post_waitOn_sent .., post_waitOn_issued .., rfl, rfl⟩
  · intro s d a hmap
    exact ⟨_, exec_ifl_unmapped d hmap, result_writesReg s 4 d 0⟩
  · intro s d a o i hmap hobj hlo hhi hfirst
    have hfind := find_zipIdx_of_first (p := ObjInfo.holds (s.int a).toNat) hobj ((ObjInfo.holds_iff _ o).2 ⟨hlo, hhi⟩) fun j p hj hp => by
      have hout := hfirst j p hj hp
      rw [Bool.eq_false_iff, ne_eq, ObjInfo.holds_iff]
      omega
    have hfit : 1 + i % 16 * 256 + ((s.int a).toNat - o.base) % 2 ^ 32 * 2 ^ 32 < 2 ^ 64 := by omega
    have hbits : intBits (BitVec.ofNat 64 (1 + i % 16 * 256 + ((s.int a).toNat - o.base) % 2 ^ 32 * 2 ^ 32)) =
        BitVec.ofNat 128 (1 + i % 16 * 256 + ((s.int a).toNat - o.base) % 2 ^ 32 * 2 ^ 32) :=
      BitVec.setWidth_ofNat_of_le_of_lt (by decide) hfit
    exact ⟨_, exec_ifl_object d hmap hfind, hbits ▸ result_writesReg s 4 d _⟩

end Sys2Proof.Machine
end

section
namespace Sys2Proof.Machine

open Sys2Proof Sys2Proof.Claim

/-! Completions of WLD in checked launches (R302, R449). The statement keeps everything outside the core, and does not say that a WLD reads the local
store or the well. The model keeps the outcome of every operation on global memory of a primary copy in its launch, for the mirror. -/

/-- A checked launch. -/
def primaryLaunch : Launch := { Launch.zero with id := 5, checked := true, width := 1, height := 1, state := .accepted }

/-- A WLD of one element that has read it from global memory. -/
def globalWld : PumpOp :=
  { kind := .wld true, war := 0, hid := 0, fpc := 0, dd := 1, da := 2, dst := { Desc.zero with bspace := .wbuf },
    src := { Desc.zero with fspace := .glob }, data := some [0], region := 0, key := 0, stored := false, snap := [], load := 0 }

/-- A context of the launch runs on core 0, whose pump holds the operation. -/
def globalFilling : State :=
  { State.reset with
    cx := { Ctx.zero with status := .resident }
    co := { Core.zero 0 with launch := some 5, pumpq := [globalWld] }
    launches := [primaryLaunch] }

/-- The launches after a step's answer. -/
def launchesAfter : Res → List Launch
  | .next t => t.launches
  | _ => []

/-- The completion keeps an outcome for the mirror. -/
theorem launchesAfter_globalFilling : (launchesAfter (exec (.pumpOperationCompletion globalFilling.co.id .home) globalFilling)).map (fun l => l.replies.length) = [1] := by
  decide

/-- Refutes O34: the completion of a WLD with a global source in a checked launch adds to the launch's outcomes, outside the core. -/
theorem not_pumpOperationsQueueAndComplete : ¬ Obligations.PumpOperationsQueueAndComplete := by
  rintro ⟨-, -, hcompletes⟩
  obtain ⟨-, hwld, -⟩ := hcompletes globalFilling globalWld [] [0] rfl rfl rfl rfl (by decide) rfl rfl rfl rfl rfl rfl (by decide)
  obtain ⟨t, ht, -, -, -, -, -, helse⟩ := hwld rfl rfl
  have hkept : t.launches = [primaryLaunch] := congrArg State.launches helse
  have hadded := launchesAfter_globalFilling
  rw [ht, launchesAfter, hkept] at hadded
  exact absurd hadded (by decide)

end Sys2Proof.Machine
end

section
namespace Sys2Proof.Machine

open Sys2Proof Sys2Proof.Claim Sys2Proof.Laws

/-! The governor (R159 to R163, R441 to R445, R455, R456): the window boundary of a module with one core, step by step, then registers and samples. -/

/-! ## Dies at rest (R166, R445) -/

/-- No die has cause for a step or for another ceiling: it runs at the multiplier that it shall have, has not been hot for long, and no relock of it
brings weight back. -/
def DieSt.AtRest (d : DieSt) : Prop := d.hot < 63 ∧ d.cur = Min.min d.tgt d.ceil ∧ d.back = 0

/-- The count of the windows in which a die was hot (R445). -/
def DieSt.countHot (tthr : Nat) (d : DieSt) : DieSt := { d with hot := if d.temp > tthr then d.hot + 1 else 0 }

/-- A property of every die of a list, and of a reset one, holds at every index. -/
theorem forall_getD_dies {P : DieSt → Prop} {l : List DieSt} (hreset : P DieSt.reset) (h : ∀ d ∈ l, P d) (n : Nat) :
    P (l.getD n DieSt.reset) := by
  rw [List.getD_eq_getElem?_getD]
  cases hd : l[n]? with
  | none => exact hreset
  | some d => exact h d (List.mem_of_getElem? hd)

/-- No ceiling changes while the estimate is within ECAP and no die has been hot for long. -/
theorem State.adjustCeil_of_rest {s : State} (e : Nat) (hover : s.gov.overCnt < 4) (hlow : s.gov.low < 63) (hdies : ∀ d ∈ s.dies, d.AtRest) :
    ∃ low, s.adjustCeil e = { s with dies := s.dies.map (DieSt.countHot s.gov.tthr), gov.low := low } := by
  have hcool : ∀ n, ((s.dies.map (DieSt.countHot s.gov.tthr)).getD n DieSt.reset).hot < 64 :=
    forall_getD_dies (P := fun d => d.hot < 64) (by decide) fun d hd => by
      obtain ⟨c, hc, rfl⟩ := List.mem_map.1 hd
      have hhot := (hdies c hc).1
      dsimp only [DieSt.countHot]
      split <;> omega
  have hnone : (List.range 8).filter (fun n =>
      decide (((s.dies.map (DieSt.countHot s.gov.tthr)).getD n DieSt.reset).hot ≥ 64) &&
        decide (((s.dies.map (DieSt.countHot s.gov.tthr)).getD n DieSt.reset).ceil > 10)) = [] :=
    List.filter_eq_nil_iff.2 fun n _ => by
      rw [decide_eq_false (Nat.not_le.2 (hcool n)), Bool.false_and]
      exact Bool.false_ne_true
  refine ⟨if decide (e * 10 ≤ 9 * (s.gov.ecap * 1000 * 2048 * 25)) &&
    (s.dies.map (DieSt.countHot s.gov.tthr)).all (fun d => decide (d.temp + 5 ≤ s.gov.tthr)) then s.gov.low + 1 else 0, ?_⟩
  unfold DieSt.countHot at hnone ⊢
  unfold State.adjustCeil
  dsimp only
  rw [if_neg (Nat.not_le.2 hover)]
  rw [if_neg Bool.false_ne_true, hnone]
  dsimp only [bestDie]
  refine if_pos (Or.inr ?_)
  split <;> omega

/-- No die begins a step while each runs at the multiplier that it shall have. -/
theorem State.stepOne_of_rest {s : State} (b down : Nat) (hdies : ∀ d ∈ s.dies, d.cur = Min.min d.tgt d.ceil) : s.stepOne b down = s := by
  have hrest : ∀ n, (s.dies.getD n DieSt.reset).cur = Min.min (s.dies.getD n DieSt.reset).tgt (s.dies.getD n DieSt.reset).ceil :=
    forall_getD_dies (P := fun d => d.cur = Min.min d.tgt d.ceil) (by decide) hdies
  unfold State.stepOne
  dsimp only
  rw [List.find?_eq_none.2 fun n _ => by
    rw [hrest n, bne_self_eq_false, Bool.and_false, Bool.false_and]
    exact Bool.false_ne_true]

/-- No weight comes back from dies at rest. -/
theorem State.comeBack_of_rest {s : State} (b : Nat) (hdies : ∀ d ∈ s.dies, d.back = 0) : s.comeBack b = 0 := by
  refine List.sum_eq_zero fun n hn => ?_
  obtain ⟨d, hd, rfl⟩ := List.mem_map.1 hn
  exact hdies d (List.mem_of_mem_filter hd)

/-! ## A module with one core -/

/-- One core has ever held anything; no launch is left and no declaration stands. -/
def State.Sole (s : State) : Prop := s.cores = [] ∧ s.launches = [] ∧ s.co.gramp = none

/-- The fall of the one core's grant: its gap, limited by LDOWN (R163). -/
def State.soleFall (s : State) : Nat :=
  Min.min (s.gov.ldown * 1000 * 2048 * 25) (s.co.grant * 25 - s.co.weightSum * 32) / (25 * 2048) * 2048

/-- The rise that the one core requests: its unmet need, at most up to the full-core weight (R160). -/
def State.soleRise (s : State) : Nat := Min.min (s.co.request.getD 0) (3300 * 128 * s.mult - s.co.grant)

/-- The grant after a rise that the up headroom covers (R162). -/
def State.soleRaised (s : State) : Nat := if s.soleRise ≤ s.gov.lup * 1000 * 2048 then s.co.grant + s.soleRise else s.co.grant

section
variable {s : State}

theorem State.Sole.allCores (h : s.Sole) : s.allCores = [s.packed] := congrArg (s.packed :: ·) h.1

/-- Nothing is left to reach for a core whose cycles stand at the boundary. -/
theorem State.Sole.reachAll {b : Nat} (h : s.Sole) (hrelock : s.relocks s.co.id = false)
    (hcycle : s.co.cycBase + s.mult * (b - s.co.cycTick) ≤ s.co.cycle) : s.reachAll b = s := by
  have hself : s.focusCore s.packed.id = s := s.focusCore_self
  unfold State.reachAll
  rw [h.allCores, List.map_singleton, List.foldl_cons, List.foldl_nil]
  dsimp only
  rw [hself, show s.relocks s.packed.id = false from hrelock, if_neg Bool.false_ne_true, if_pos hcycle]

/-- The gap of a core without a declaration. -/
theorem Core.gap25_of_undeclared {c : Core} (b : Nat) (h : c.gramp = none) : c.gap25 b = c.grant * 25 - c.weightSum * 32 := by
  simp [Core.gap25, Core.begun, h]

/-- The one gapped core falls by all that falls: its share is the whole. -/
theorem wholeShare (p g n : Nat) (hp : p ≤ g) : (if g = 0 then 0 else p * g / (g * 25 * n) * n) = p / (25 * n) * n := by
  by_cases hg : g = 0
  · have hnone : p = 0 := by omega
    rw [if_pos hg, hnone, Nat.zero_div, Nat.zero_mul]
  · rw [if_neg hg, Nat.mul_assoc g, Nat.mul_comm g, Nat.mul_div_mul_right _ _ (Nat.pos_of_ne_zero hg)]

theorem State.Sole.decay (b : Nat) (h : s.Sole) : (s.decay b).1 = { s with co.grant := s.co.grant - s.soleFall } := by
  have hown : s.co.gap25 b = s.co.grant * 25 - s.co.weightSum * 32 := Core.gap25_of_undeclared b h.2.2
  have hpacked : s.packed.gap25 b = s.co.grant * 25 - s.co.weightSum * 32 := Core.gap25_of_undeclared (c := s.packed) b h.2.2
  have hcores := h.1
  unfold State.decay
  rw [h.allCores, List.map_singleton, List.sum_singleton, hpacked]
  dsimp only
  rw [hown, wholeShare _ _ _ (Nat.min_le_right _ _), hcores, List.map_nil]
  rfl

/-- No core stands in the order of the declarations. -/
theorem State.Sole.declared (b : Nat) (h : s.Sole) : s.declared b = [] := by
  have hgramp : s.packed.gramp = none := h.2.2
  unfold State.declared
  rw [h.allCores, List.filterMap_cons, hgramp]
  rfl

/-- No start waits for a ramp slot. -/
theorem State.Sole.waitingStarts (h : s.Sole) : s.waitingStarts = [] := by
  unfold State.waitingStarts
  rw [h.2.1]
  rfl

/-- The one core stands in the round when it has a request. -/
theorem State.Sole.requesters (h : s.Sole) : s.requesters = if s.co.request.isSome then [s.co.id] else [] := by
  have hreq : s.packed.request = s.co.request := rfl
  have hid : s.packed.id = s.co.id := rfl
  unfold State.requesters
  rw [h.allCores, List.filter_singleton, hreq]
  cases s.co.request.isSome with
  | false => rfl
  | true =>
    rw [cond_true, List.map_singleton, hid, List.foldl_cons, List.foldl_nil, insNat]
    dsimp only
    rw [List.filter_singleton, List.filter_singleton]
    by_cases hround : s.gov.served ≤ s.co.id
    · simp [hround, Nat.not_lt.2 hround]
    · simp [hround, Nat.lt_of_not_le hround]

/-- The request of the one core is served when the headroom covers it. -/
theorem State.Sole.spendRequests (h : s.Sole) (up : Nat) :
    ∃ served, (s.spendRequests up).1 =
      { s with co.grant := if s.soleRise ≤ up then s.co.grant + s.soleRise else s.co.grant, gov.served := served } := by
  unfold State.spendRequests
  rw [h.requesters]
  cases hreq : s.co.request with
  | none =>
    have hrise : s.soleRise = 0 := by rw [State.soleRise, hreq, Option.getD_none, Nat.zero_min]
    refine ⟨s.gov.served, ?_⟩
    rw [hrise, if_pos (Nat.zero_le _)]
    rfl
  | some need =>
    have hneed : s.packed.request.getD 0 = s.co.request.getD 0 := rfl
    have hrise : Min.min (s.packed.request.getD 0) (s.fullOf s.co.id - s.packed.grant) = s.soleRise := rfl
    rw [Option.isSome_some, if_pos rfl, List.foldl_cons, List.foldl_nil]
    dsimp only
    rw [State.coreAt_own, hrise, State.modCore_focused]
    by_cases hfits : s.soleRise ≤ up
    · rw [if_pos hfits, if_pos hfits]
      exact ⟨s.co.id + 1, rfl⟩
    · rw [if_neg hfits, if_neg hfits]
      exact ⟨s.gov.served, rfl⟩

/-- The raises of the boundary: the request of the one core. -/
theorem State.Sole.spend (b : Nat) (h : s.Sole) (hback : s.comeBack b = 0) :
    ∃ served left, s.spend b = { s with co.grant := s.soleRaised, gov.served := served, gov.upLeft := left } := by
  obtain ⟨served, hserved⟩ := h.spendRequests (s.gov.lup * 1000 * 2048)
  unfold State.spend
  have hdecls : s.spendDecls b (s.gov.lup * 1000 * 2048 - 0) = (s, some (s.gov.lup * 1000 * 2048)) := by
    rw [State.spendDecls, h.declared]
    rfl
  have hstarts : s.spendStarts (s.gov.lup * 1000 * 2048) = (s, some (s.gov.lup * 1000 * 2048)) := by
    rw [State.spendStarts, h.waitingStarts]
    rfl
  rw [hback]
  dsimp only
  rw [hdecls]
  dsimp only
  rw [hstarts]
  dsimp only
  rw [hserved]
  exact ⟨served, _, rfl⟩

/-- No launch reaches the governor. -/
theorem State.Sole.openLaunches (h : s.Sole) : s.openLaunches = s := by
  unfold State.openLaunches
  rw [h.2.1]
  rfl

/-- No declaration ends. -/
theorem Core.endDecl_of_undeclared {c : Core} (b : Nat) (h : c.gramp = none) : c.endDecl b = c := by
  rw [Core.endDecl, h, Option.any_none, if_neg Bool.false_ne_true]

/-- No write waits for the boundary. -/
theorem State.govWrites_of_none (h : s.gov.writes = []) : s.govWrites = s := by
  have hsame : ({ s with gov.writes := [] } : State) = s := by rw [← h]
  unfold State.govWrites
  rw [hsame, h]
  rfl

end

/-! ## The boundary (R159 to R163) -/

/-- The weights that come back at tick `b` are spent (R166). -/
def State.backSpent (b : Nat) (s : State) : State :=
  { s with dies := s.dies.map (fun (d : DieSt) => if d.relock.all (fun t => decide (t ≤ b)) then { d with back := 0 } else d) }

/-- The window that starts at tick `b`. -/
def State.windowFrom (b : Nat) (s : State) : State :=
  { s with co := s.co.newWindow, cores := s.cores.map Core.newWindow, gov.next := b + 100, gov.resetTill := none, gov.routed := 0 }

/-- Declarations that end at tick `b` go in every core (R315). -/
def State.endDecls (b : Nat) (s : State) : State := { s with co := s.co.endDecl b, cores := s.cores.map (Core.endDecl b) }

/-- The state in which the boundary's headrooms are spent. -/
def State.measured (s : State) : State :=
  ((({ s with tick := Max.max s.tick s.gov.next } : State).reachAll s.gov.next).govWrites.endDecls s.gov.next).govEstimate.sampleSensors s.gov.next

/-- The stages of a window boundary. -/
theorem exec_governorWindowBoundary_stages (s : State) : ∃ e down,
    exec .governorWindowBoundary s = .next (((((((s.measured.decay s.gov.next).1.openLaunches.spend s.gov.next).backSpent s.gov.next).adjustCeil e).stepOne
      s.gov.next down)).windowFrom s.gov.next) := by
  change ∃ e down, execGovernorWindowBoundary s = _
  unfold execGovernorWindowBoundary
  extract_lets b u v w e
  have hmeasured : s.measured = w.govEstimate.sampleSensors b := rfl
  rw [hmeasured]
  clear_value w e
  refine ⟨e, ((w.govEstimate.sampleSensors b).decay b).2, ?_⟩
  generalize (w.govEstimate.sampleSensors b).decay b = p
  obtain ⟨x, down⟩ := p
  rfl

/-- Dies at rest have no weight to bring back. -/
theorem State.backSpent_of_rest {s : State} (b : Nat) (h : ∀ d ∈ s.dies, d.AtRest) : s.backSpent b = s := by
  have hsame : s.dies.map (fun (d : DieSt) => if d.relock.all (fun t => decide (t ≤ b)) then { d with back := 0 } else d) = s.dies :=
    (List.map_congr_left fun d hd => by
      obtain ⟨-, -, hback⟩ := h d hd
      split
      · rw [← hback]
        rfl
      · rfl).trans (List.map_id _)
  rw [State.backSpent, hsame]

/-- What follows the raises leaves the core as it is, up to the sums of the window. -/
theorem State.closed_of_rest {s : State} (b e down : Nat) (hover : s.gov.overCnt < 4) (hlow : s.gov.low < 63) (h : ∀ d ∈ s.dies, d.AtRest) :
    ∃ low, (((s.backSpent b).adjustCeil e).stepOne b down).windowFrom b =
      ({ s with dies := s.dies.map (DieSt.countHot s.gov.tthr), gov.low := low } : State).windowFrom b := by
  obtain ⟨low, hceil⟩ := State.adjustCeil_of_rest e hover hlow h
  refine ⟨low, ?_⟩
  rw [State.backSpent_of_rest b h, hceil, State.stepOne_of_rest]
  intro d hd
  obtain ⟨c, hc, rfl⟩ := List.mem_map.1 hd
  exact (h c hc).2.1

section
variable {s : State}

/-- Before the raises, only the tick, the estimate and the sensors change. -/
theorem State.Sole.measured (h : s.Sole) (hwrites : s.gov.writes = []) (hrelock : s.relocks s.co.id = false)
    (hcycle : s.co.cycBase + s.mult * (s.gov.next - s.co.cycTick) ≤ s.co.cycle) (hover : s.gov.overCnt < 3) :
    ∃ est count sensors, count < 4 ∧
      s.measured = { s with tick := Max.max s.tick s.gov.next, gov.est := est, gov.overCnt := count, sensors := sensors } := by
  obtain ⟨v, hv⟩ : ∃ v : State, v = { s with tick := Max.max s.tick s.gov.next } := ⟨_, rfl⟩
  have hsole : v.Sole := hv ▸ h
  have hreach : v.reachAll s.gov.next = v := hsole.reachAll (hv ▸ hrelock) (hv ▸ hcycle)
  have hnowrite : v.govWrites = v := State.govWrites_of_none (hv ▸ hwrites)
  have hends : v.endDecls s.gov.next = v := by
    rw [State.endDecls, Core.endDecl_of_undeclared _ hsole.2.2, hsole.1, List.map_nil, ← hsole.1]
  unfold State.measured
  rw [← hv, hreach, hnowrite, hends, hv]
  refine ⟨_, _, _, ?_, rfl⟩
  dsimp only
  split <;> omega

/-- The window boundary of a module with one core (R159 to R163): its grant falls by its gap and rises by what it requests. -/
theorem State.Sole.exec_governorWindowBoundary (h : s.Sole) (hwrites : s.gov.writes = []) (hrelock : s.relocks s.co.id = false)
    (hcycle : s.co.cycBase + s.mult * (s.gov.next - s.co.cycTick) ≤ s.co.cycle) (hover : s.gov.overCnt < 3) (hlow : s.gov.low < 63)
    (hdies : ∀ d ∈ s.dies, d.AtRest) :
    let fallen : State := { s with co.grant := s.co.grant - s.soleFall }
    Next (exec .governorWindowBoundary s) fun t => t.gov.next = s.gov.next + 100 ∧ t.tick = Max.max s.tick s.gov.next ∧
      t.co.grant = fallen.soleRaised ∧ t.co.weightSum = 0 ∧ t.co.balSum = 0 ∧ t.co.request = none ∧ t.cx = s.cx ∧
      t.co.store = s.co.store := by
  intro fallen
  obtain ⟨e, down, hexec⟩ := exec_governorWindowBoundary_stages s
  obtain ⟨est, count, sensors, hfew, hmeasured⟩ := h.measured hwrites hrelock hcycle hover
  obtain ⟨w, hw⟩ : ∃ w : State, w = { s with tick := Max.max s.tick s.gov.next, gov.est := est, gov.overCnt := count, sensors := sensors } := ⟨_, rfl⟩
  have hsolew : w.Sole := hw ▸ h
  obtain ⟨x, hx⟩ : ∃ x : State, x = { w with co.grant := w.co.grant - w.soleFall } := ⟨_, rfl⟩
  have hsolex : x.Sole := hx ▸ hsolew
  have hrestx : ∀ d ∈ x.dies, d.AtRest := by
    rw [hx, hw]
    exact hdies
  obtain ⟨served, left, hspend⟩ := hsolex.spend s.gov.next (x.comeBack_of_rest _ fun d hd => (hrestx d hd).2.2)
  obtain ⟨y, hy⟩ : ∃ y : State, y = { x with co.grant := x.soleRaised, gov.served := served, gov.upLeft := left } := ⟨_, rfl⟩
  obtain ⟨low, hclosed⟩ := y.closed_of_rest s.gov.next e down (by rw [hy, hx, hw]; exact hfew) (by rw [hy, hx, hw]; exact hlow) (hy ▸ hrestx)
  rw [hexec, hmeasured, ← hw, hsolew.decay, ← hx, hsolex.openLaunches, hspend, ← hy, hclosed]
  subst hy hx hw
  exact ⟨_, rfl, rfl, rfl, rfl, rfl, rfl, rfl, rfl, rfl⟩

end

/-- The grant of the one core follows the window. -/
theorem grantsFollowTheWindow : GrantsFollowTheWindow := by
  intro s hcores hlaunches hgramp hwrites hrelock _ hcycle hover hlow hdies
  exact State.Sole.exec_governorWindowBoundary ⟨hcores, hlaunches, hgramp⟩ hwrites hrelock hcycle hover hlow hdies

/-! ## Registers and samples (R442 to R445, R455, R456) -/

/-- A field limited to its range, from either end. -/
theorem within_eq_limited {lo hi : Nat} (h : lo ≤ hi) (v : Nat) : within lo hi v = limited lo hi v := by
  unfold within limited
  split
  · omega
  · split <;> omega

theorem managed_of_manages {s : State} (h : manages s) : s.managed = true := by
  rw [State.managed, h.1, h.2]
  rfl

/-- The value of a governor register. -/
theorem govWord_eq_govReg (s : State) (off : Nat) : (s.govWord off).toNat = govReg s off % 2 ^ 32 := by
  rw [State.govWord, BitVec.toNat_ofNat]
  unfold govReg
  have hdie : 16 ≤ off → (off - 0x10) / 4 = off / 4 - 4 := fun _ => by omega
  by_cases hfreq : 16 ≤ off ∧ off < 48 ∧ off % 4 = 0
  · rw [hdie hfreq.1]
    rfl
  · rw [if_neg hfreq, if_neg hfreq]
    rfl

/-- GVREAD returns the register and changes nothing else. -/
theorem exec_gvread {s : State} (off : W32) (h : manages s) :
    Next (exec (.gvread off) s) fun t => replied s t 3 (leBytes 4 (govReg s off.toNat % 2 ^ 32)) := by
  refine ⟨s.reply 3 (off.setWidth 64) (leBytes 4 (s.govWord off.toNat).toNat), ?_, ?_⟩
  · change execGvread off s = _
    rw [execGvread, managed_of_manages h]
    rfl
  · rw [govWord_eq_govReg]
    exact ⟨_, rfl, rfl, rfl, rfl⟩

/-- GVWRITE waits for the next window boundary. -/
theorem exec_gvwrite {s : State} (off v : W32) (h : manages s) :
    exec (.gvwrite off v) s = .next { s with gov.writes := s.gov.writes ++ [(off.toNat, v)] } := by
  change execGvwrite off v s = _
  rw [execGvwrite, managed_of_manages h]
  rfl

/-- LUP, LDOWN, TTHR and ECAP take a written value within their ranges. -/
theorem govWrite_fields (s : State) (v : W32) :
    (s.govWrite 0 v).gov.lup = limited 50 1000 (v.toNat % 1024) ∧ (s.govWrite 0 v).gov.ldown = limited 50 1000 (v.toNat / 65536 % 1024) ∧
    (s.govWrite 4 v).gov.tthr = limited 70 105 (v.toNat / 2 ^ 24 % 256) ∧ (s.govWrite 4 v).gov.ecap = limited 1000 8448 (v.toNat % 16384) := by
  have hlow : ∀ hi, bits v.toNat hi 0 = v.toNat % 2 ^ (hi + 1) := fun hi => by
    rw [bits, Nat.pow_zero, Nat.div_one, Nat.sub_zero]
  refine ⟨?_, ?_, ?_, ?_⟩
  · exact (within_eq_limited (by decide) _).trans (congrArg (limited 50 1000) (hlow 9))
  · exact within_eq_limited (by decide) _
  · exact within_eq_limited (by decide) _
  · exact (within_eq_limited (by decide) _).trans (congrArg (limited 1000 8448) (hlow 13))

/-- A sample is kept; when it crosses TTHR, it is an event. -/
theorem exec_dieTemperatureSample {s : State} (die : Fin 8) (deg : Nat) (hdies : s.dies.length = 8) :
    Next (exec (.dieTemperatureSample die deg) s) fun t =>
      (t.dies.getD die.val DieSt.reset).temp = deg ∧ Tab.get 0 t.sensors (1 + die.val) = deg ∧ t.cx = s.cx ∧ t.co = s.co ∧
      if decide (s.gov.tthr < (s.dies.getD die.val DieSt.reset).temp) = decide (s.gov.tthr < deg) then t.events = s.events
      else eventQueued s t (1 + die.val) deg := by
  have hin : die.val < s.dies.length := by omega
  have hkept : (((s.dies.modify die.val fun d => { d with temp := deg }).getD die.val DieSt.reset).temp) = deg := by
    simp [List.getElem?_eq_getElem hin]
  have hsensor : Tab.get 0 (Tab.set 0 s.sensors (1 + die.val) deg) (1 + die.val) = deg := by
    rw [Tab.get_set, if_pos rfl]
  change Next (execDieTemperatureSample die deg s) _
  unfold execDieTemperatureSample
  dsimp only
  split
  case isTrue hsame => exact ⟨_, rfl, hkept, hsensor, rfl, rfl, rfl⟩
  case isFalse hcross =>
    refine ⟨_, rfl, hkept, hsensor, rfl, rfl, ?_⟩
    unfold State.platformEvent eventQueued
    dsimp only
    rw [List.length_append, List.length_singleton]
    rfl

/-- Settles O43: the window boundary by its stages for a module with one core; registers and samples each by a lemma of its own. -/
theorem governorWindows : Obligations.GovernorWindows := by
  unfold Obligations.GovernorWindows
  exact ⟨grantsFollowTheWindow, fun _ off h => exec_gvread off h, fun _ off v h => exec_gvwrite off v h, govWrite_fields,
    fun _ die deg h => exec_dieTemperatureSample die deg h⟩

end Sys2Proof.Machine
end

section
namespace Sys2Proof.Machine

open Sys2Proof Sys2Proof.Claim Sys2Proof.Laws

/-! Bits of memory (R112): what the elements of a descriptor leave when they are written one after another. -/

/-! ## Bits of bytes -/

/-- A bit of the number in a byte string is that of its byte. -/
theorem testBit_leNat (bs : List Byte) (k : Nat) {r : Nat} (hr : r < 8) : (leNat bs).testBit (8 * k + r) = (bs.getD k 0).getLsbD r := by
  induction bs generalizing k with
  | nil => simp [leNat]
  | cons b bs ih =>
    rw [leNat, Nat.add_comm, show 256 = 2 ^ 8 from rfl, Nat.testBit_two_pow_mul_add _ b.isLt]
    cases k with
    | zero =>
      rw [if_pos (by omega), Nat.mul_zero, Nat.zero_add]
      rfl
    | succ k =>
      rw [if_neg (by omega), show 8 * (k + 1) + r - 8 = 8 * k + r by omega, ih]
      rfl

/-- Bytes written at consecutive listed addresses are bytes written from the first of them up. -/
theorem Memory.writeAt_zipIdx (m : Memory) (a k : Nat) (bs : List Byte) :
    m.writeAt ((bs.zipIdx k).map fun p => (a + p.2, p.1)) = m.writeN (a + k) bs := by
  induction bs generalizing m k with
  | nil => rfl
  | cons b bs ih =>
    rw [List.zipIdx_cons, List.map_cons, Memory.writeAt, Memory.writeN, ih]
    rfl

/-- The bits of a field of `w` bits at bit `o` of a number, with the number's own bits around it. -/
theorem testBit_field (old v o w i : Nat) :
    (old % 2 ^ o + v % 2 ^ w * 2 ^ o + old / 2 ^ (o + w) * 2 ^ (o + w)).testBit i =
      if o ≤ i ∧ i < o + w then v.testBit (i - o) else old.testBit i := by
  have hlow : old % 2 ^ o < 2 ^ o := Nat.mod_lt _ (Nat.two_pow_pos _)
  have hmid : v % 2 ^ w < 2 ^ w := Nat.mod_lt _ (Nat.two_pow_pos _)
  have hparts : old % 2 ^ o + v % 2 ^ w * 2 ^ o + old / 2 ^ (o + w) * 2 ^ (o + w) =
      2 ^ o * (2 ^ w * (old / 2 ^ (o + w)) + v % 2 ^ w) + old % 2 ^ o := by
    rw [pow_add]
    ring
  rw [hparts, Nat.testBit_two_pow_mul_add _ hlow, Nat.testBit_two_pow_mul_add _ hmid]
  by_cases hbelow : i < o
  · rw [if_pos hbelow, if_neg (by omega), Nat.testBit_mod_two_pow, decide_eq_true hbelow, Bool.true_and]
  · rw [if_neg hbelow]
    by_cases hin : i - o < w
    · rw [if_pos hin, if_pos (by omega), Nat.testBit_mod_two_pow, decide_eq_true hin, Bool.true_and]
    · rw [if_neg hin, if_neg (by omega), Nat.testBit_div_two_pow]
      congr 1
      omega

/-- A field of `w` bits written at bit `ba` of a memory. -/
theorem memBit_writeBits (m : Memory) (ba w v p : Nat) :
    memBit (m.writeAt (writeBits m.read ba w v)) p = if ba ≤ p ∧ p < ba + w then v.testBit (p - ba) else memBit m p := by
  unfold writeBits
  dsimp only
  rw [Memory.writeAt_zipIdx _ _ 0, Nat.add_zero]
  unfold memBit
  rw [Memory.read_writeN, leBytes_length]
  have hr : p % 8 < 8 := Nat.mod_lt _ (by decide)
  have hsplit : 8 * (p / 8) + p % 8 = p := Nat.div_add_mod p 8
  by_cases hbyte : ba / 8 ≤ p / 8 ∧ p / 8 < ba / 8 + (ba % 8 + w + 7) / 8
  · rw [if_pos hbyte, ← testBit_leNat _ _ hr, leNat_leBytes, show 256 = 2 ^ 8 from rfl, ← pow_mul, Nat.testBit_mod_two_pow,
      decide_eq_true (by omega), Bool.true_and, testBit_field, testBit_leNat _ _ hr]
    have hold : ((List.range ((ba % 8 + w + 7) / 8)).map fun i => m.read (ba / 8 + i)).getD (p / 8 - ba / 8) 0 = m.read (p / 8) := by
      rw [List.getD_eq_getElem _ _ (by rw [List.length_map, List.length_range]; omega), List.getElem_map, List.getElem_range]
      congr 1
      omega
    rw [hold]
    by_cases hin : ba ≤ p ∧ p < ba + w
    · rw [if_pos hin, if_pos (by omega)]
      congr 1
      omega
    · rw [if_neg hin, if_neg (by omega)]
  · rw [if_neg hbyte, if_neg (by omega)]

/-! ## Elements written into a descriptor (R112, R135, R310, R312) -/

/-- A bit after an element has been written. -/
theorem memBit_putElem {d : Desc} (hdense : d.sparse = false) (e v : Nat) (m : Memory) (p : Nat) :
    memBit (d.putElem d.front.toNat e v m) p =
      if elemBit d e ≤ p ∧ p < elemBit d e + d.w then v.testBit (p - elemBit d e) else memBit m p := by
  unfold Desc.putElem elemBit
  dsimp only
  rw [if_neg (by rw [hdense]; exact Bool.false_ne_true), memBit_writeBits]

/-- Elements put one after another are what has been written. -/
theorem wrote_foldl_putElem (d : Desc) (ws : List (Nat × Nat)) (m : Memory) :
    wrote d ws m (ws.foldl (fun m w => d.putElem d.front.toNat w.1 w.2 m) m) := by
  unfold wrote
  split
  case isTrue => exact fun _ => rfl
  case isFalse hdense =>
    intro p
    induction ws using List.reverseRecOn with
    | nil => rfl
    | append_singleton ws w ih =>
      rw [List.foldl_append, List.foldl_cons, List.foldl_nil, memBit_putElem (Bool.eq_false_iff.2 hdense), List.reverse_append,
        List.reverse_singleton, List.singleton_append, List.find?_cons, ← Bool.decide_and]
      by_cases hin : elemBit d w.1 ≤ p ∧ p < elemBit d w.1 + d.w
      · rw [if_pos hin, decide_eq_true hin]
      · rw [if_neg hin, decide_eq_false hin, ih]

/-- Elements put in order from element `e` on. -/
theorem Desc.putAll_eq_foldl (d : Desc) (base e : Nat) (vs : List Nat) (m : Memory) :
    d.putAll base vs e m = ((vs.zipIdx e).map fun x => (x.2, x.1)).foldl (fun m w => d.putElem base w.1 w.2 m) m := by
  induction vs generalizing e m with
  | nil => rfl
  | cons v vs ih => exact ih (e + 1) (d.putElem base e v m)

/-- A result or correction that a router writes is written. -/
theorem wroteWords_putWords (d : Desc) (ws : List W32) (m : Memory) : wroteWords d ws m (d.putWords ws m) := by
  unfold wroteWords Desc.putWords
  rw [Desc.putAll_eq_foldl, List.zipIdx_map, List.map_map]
  exact wrote_foldl_putElem d _ m

/-! ## The checks of a collective instruction (R266, R287, R308) -/

/-- A descriptor meets what an operand asks of it. -/
def Opnd.Met (c : Core) (o : Opnd) : Prop :=
  let e := Tab.get Desc.zero c.descs o.d
  e.state = .ready ∧ (∀ f, o.fmt = some f → e.fmt = f) ∧ o.space e = true ∧ (o.rd = true → e.rd = true) ∧ (o.wr = true → e.wr = true)

/-- Operands that are met pass the checks of their descriptors. -/
theorem engCheck_of_met {c : Core} {ops : List Opnd} (h : ∀ o ∈ ops, o.Met c) : engCheck c ops = .go := by
  have hfull : ops.any (fun o => (Tab.get Desc.zero c.descs o.d).state == .empty) = false :=
    List.any_eq_false.2 fun o ho => by simp [(h o ho).1]
  have hready : ops.find? (fun o => o.wait && ((Tab.get Desc.zero c.descs o.d).state == .filling ||
      (Tab.get Desc.zero c.descs o.d).state == .draining)) = none :=
    List.find?_eq_none.2 fun o ho => by simp [(h o ho).1]
  have haccess : ops.findSome? (fun o => o.access c) = none :=
    List.findSome?_eq_none_iff.2 fun o ho => by
      obtain ⟨-, -, hspace, hrd, hwr⟩ := h o ho
      cases hr : o.rd <;> cases hw : o.wr <;> simp_all [Opnd.access]
  unfold engCheck
  dsimp only
  rw [hfull, if_neg Bool.false_ne_true, hready]
  dsimp only
  rw [haccess]
  refine if_neg (Bool.eq_false_iff.1 (List.any_eq_false.2 fun o ho => ?_))
  obtain ⟨-, hfmt, -⟩ := h o ho
  split
  · next f hsome => simp [hfmt f hsome]
  · exact Bool.false_ne_true

/-- A usable vector source is met. -/
theorem vsrc_met {s : State} {d : BitVec 6} {t : Fmt} (h : usable s d t false) : (vsrc d t).Met s.co := by
  obtain ⟨hstate, hfmt, hspace, hrd⟩ := h
  exact ⟨hstate, fun f hf => Option.some.inj hf ▸ hfmt, decide_eq_true hspace, fun _ => hrd, fun h => absurd h Bool.false_ne_true⟩

/-- A usable vector destination is met. -/
theorem vdst_met {s : State} {d : BitVec 6} {t : Fmt} (h : usable s d t true) : (vdst d t).Met s.co := by
  obtain ⟨hstate, hfmt, hspace, hwr⟩ := h
  exact ⟨hstate, fun f hf => Option.some.inj hf ▸ hfmt, decide_eq_true hspace, fun h => absurd h Bool.false_ne_true, fun _ => hwr⟩

/-- No operand reads a poisoned line where there is none. -/
theorem State.badOperand_of_unpoisoned {s : State} (ops : List Opnd) (h : unpoisoned s) : s.badOperand ops = none := by
  obtain ⟨hstore, hwell⟩ := h
  refine List.findSome?_eq_none_iff.2 fun o _ => ?_
  dsimp only
  rw [hstore, hwell]
  refine Option.or_eq_none_iff.2 ⟨Option.or_eq_none_iff.2 ⟨?_, ?_⟩, ?_⟩
  · split
    · split <;> rfl
    · rfl
  · split
    · split <;> rfl
    · rfl
  · split <;> rfl

/-- A grant that covers the unit lets an instruction issue (R161). -/
theorem State.underGrant_of_covered {s : State} {w : Nat} {go : State → State} (h : Claim.covered s w) : s.underGrant w go = go s := if_pos h

/-- A collective instruction does its work on its scope once its checks pass. -/
theorem State.collective_of_met {s : State} {f : W2} {ops : List Opnd} {mw : Option Nat} {go : Scp → State → State} {sc : Scp}
    (hops : ∀ o ∈ ops, o.Met s.co) (hscope : Claim.scopeOf s f = some sc) (hpoison : unpoisoned s) (hgrant : ∀ w, mw = some w → Claim.covered s w) :
    s.collective f ops true false mw go = go sc s := by
  unfold Claim.scopeOf at hscope
  unfold State.collective State.checks
  rw [engCheck_of_met hops]
  dsimp only [shapeIf]
  rw [if_pos rfl]
  dsimp only
  rw [if_neg Bool.false_ne_true]
  rw [hscope]
  dsimp only
  rw [if_neg Bool.false_ne_true]
  cases mw with
  | none =>
    dsimp only
    rw [s.badOperand_of_unpoisoned ops hpoison]
  | some w =>
    dsimp only
    rw [State.underGrant_of_covered (hgrant w rfl)]
    rw [s.badOperand_of_unpoisoned ops hpoison]

/-! ## What a core keeps for a scope (R156) -/

@[simp] theorem Core.scopeSt_key (key : ScopeKey) (c : Core) : (c.scopeSt key).key = key := by
  unfold Core.scopeSt
  cases hfind : c.coll.find? (·.key == key) with
  | none => rfl
  | some x => exact eq_of_beq (List.find?_some (p := fun x : ScopeSt => x.key == key) hfind)

/-- What a core keeps for a scope after a change of it. -/
theorem Core.scopeSt_modScope {f : ScopeSt → ScopeSt} {key : ScopeKey} {c : Core} (hkey : (f (c.scopeSt key)).key = key) :
    (c.modScope key f).scopeSt key = f (c.scopeSt key) := by
  have hfound : ((f (c.scopeSt key)).key == key) = true := by rw [hkey, beq_self_eq_true]
  unfold Core.modScope
  rw [Core.scopeSt, List.find?_cons, hfound]
  rfl

/-- The bits of two bitmaps. -/
theorem mem_unionBits (a b : List Nat) (x : Nat) : x ∈ unionBits a b ↔ x ∈ a ∨ x ∈ b := by
  unfold unionBits
  induction b generalizing a with
  | nil => simp
  | cons y b ih =>
    rw [List.foldl_cons, ih, mem_insNat, List.mem_cons]
    tauto

/-- An acquire at the scopes up to one takes a new snapshot point there (R84, R88). -/
theorem acquired_snap (scope : Nat) (a : Agent) (sp : Space) (c : Ctx) (i : Fin 4) (h : i.val ≤ scope) :
    (c.acquired scope a sp).snap.get i = sp.seq := by
  change (Vector.ofFn _)[i.val] = _
  rw [Vector.getElem_ofFn]
  exact if_pos h

end Sys2Proof.Machine
end

section
namespace Sys2Proof.Machine

open Sys2Proof Sys2Proof.Claim Sys2Proof.Laws

/-! RSTAT and CORR (R156, R158, R312, R313): what they report, the correction that they take and the time limit of a wait. -/

/-! ## Frames -/

/-- What two steps have kept in turn. -/
theorem elsewhereKept_trans {s u t : State} (hsu : elsewhereKept s u) (hut : elsewhereKept u t) : elsewhereKept s t := by
  have hcut := congrArg (fun x : State => ({ x with cx := s.cx, co := s.co } : State)) hut
  exact hcut.trans hsu

/-- A zero result. -/
theorem result_zero_writesReg (s : State) (d : Reg) : writesReg s (s.result 8 d 0) 8 d 0 false 0 := by
  have hzero : intBits 0 = 0 := BitVec.setWidth_zero _ _
  exact hzero ▸ result_writesReg s 8 d 0

/-- What a router writes into the front of a descriptor: the words, and the poison that they cover. -/
theorem Core.putFront_eq (dd : Desc) (ws : List W32) (c : Core) :
    ∃ p, c.putFront dd ws = { c with store := dd.putWords ws c.store, poison := p } := by
  unfold Core.putFront
  dsimp only
  split
  · exact ⟨_, rfl⟩
  · exact ⟨c.poison, rfl⟩

/-! ## Words of a report (R312, R313) -/

/-- The bitmap word of a predicate has its bits. -/
theorem getLsbD_bitmapWord (p : Nat → Bool) {n j : Nat} (hn : n ≤ 32) :
    ((List.range n).foldl (fun (w : W32) i => if p i then w ||| ((1 : W32) <<< i) else w) 0).getLsbD j = (decide (j < n) && p j) := by
  induction n with
  | zero => simp
  | succ n ih =>
    rw [List.range_succ, List.foldl_append, List.foldl_cons, List.foldl_nil]
    have hone : ((1 : W32) <<< n).getLsbD j = decide (j = n) := by
      rw [BitVec.getLsbD_shiftLeft, show (1 : W32) = 1#32 from rfl, BitVec.getLsbD_one]
      by_cases hj : j = n
      · subst hj
        simp [show j < 32 by omega]
      · simp [hj]
        omega
    have hlt : decide (j < n + 1) = (decide (j < n) || decide (j = n)) := by
      rw [← Bool.decide_or]
      exact decide_eq_decide.2 (by omega)
    by_cases hp : p n = true
    · rw [if_pos hp, BitVec.getLsbD_or, ih (by omega), hone, hlt]
      by_cases hj : j = n
      · simp [hj, hp]
      · simp [hj]
    · rw [if_neg hp, ih (by omega), hlt]
      by_cases hj : j = n
      · simp [hj, hp]
      · simp [hj]

/-- The bitmap of a scope inside a package: a word for each 32 participants (R313). -/
theorem bitmapWords_length {kind : Nat} (parts : Nat) (bs : List Nat) (h : kind < 3) : (bitmapWords kind parts bs).length = (parts + 31) / 32 := by
  unfold bitmapWords
  dsimp only
  rw [if_pos h, List.length_map, List.length_range]
  rfl

/-- Each participant has its bit in the bitmap. -/
theorem getLsbD_bitmapWords {kind parts q i : Nat} (bs : List Nat) (h : kind < 3) (hq : q < (parts + 31) / 32) (hi : i < 32) :
    ((bitmapWords kind parts bs).getD q 0).getLsbD i = true ↔ 32 * q + i ∈ bs := by
  have hlen := bitmapWords_length parts bs h
  rw [List.getD_eq_getElem _ _ (by omega)]
  unfold bitmapWords
  dsimp only
  simp only [if_pos h, List.getElem_map, List.getElem_range]
  rw [getLsbD_bitmapWord (fun i => bs.contains (32 * q + i)) (Nat.le_refl 32), decide_eq_true hi, Bool.true_and, List.contains_iff_mem]

/-- The report of RSTAT on a held result (R313). -/
def heldReport (bits corrs k : Nat) : Nat := bits % 2 ^ 31 + 2 ^ 31 + Min.min 16 corrs * 2 ^ 32 + k % 65536 * 2 ^ 48

/-- The fields of the report of RSTAT. -/
theorem heldReport_fields (bits corrs k : Nat) :
    let v : Word := BitVec.ofNat 64 (heldReport bits corrs k)
    v.toNat % 2 ^ 31 = bits % 2 ^ 31 ∧ v.getLsbD 31 = true ∧ v.toNat / 2 ^ 32 % 2 ^ 16 = Min.min 16 corrs ∧ v.toNat / 2 ^ 48 = k % 65536 := by
  intro v
  have hv : v.toNat = heldReport bits corrs k := by
    rw [BitVec.toNat_ofNat, Nat.mod_eq_of_lt]
    unfold heldReport
    omega
  have hheld : v.getLsbD 31 = v.toNat.testBit 31 := rfl
  rw [hheld, hv, Nat.testBit_eq_decide_div_mod_eq]
  unfold heldReport
  refine ⟨by omega, decide_eq_true (by omega), by omega, by omega⟩

/-- The fields of the status of CORR. -/
theorem corrStatus_fields (r : CorrRec) :
    (corrStatus r).toNat % 2 ^ 16 = 1 ∧ (corrStatus r).toNat / 2 ^ 16 % 2 ^ 16 = r.val.bits.length % 65536 ∧
      (corrStatus r).toNat / 2 ^ 32 % 2 ^ 16 = r.k % 65536 ∧ (corrStatus r).toNat / 2 ^ 48 = r.val.bits.headD 0 % 65536 := by
  have hv : (corrStatus r).toNat =
      1 + r.val.bits.length % 65536 * 2 ^ 16 + r.k % 65536 * 2 ^ 32 + r.val.bits.headD 0 % 65536 * 2 ^ 48 := by
    rw [corrStatus, BitVec.toNat_ofNat, Nat.mod_eq_of_lt]
    omega
  rw [hv]
  refine ⟨by omega, by omega, by omega, by omega⟩

/-! ## RSTAT (R313) -/

/-- The word that RSTAT writes to its register. -/
def State.rstatWord (sc : Scp) (s : State) : Word :=
  BitVec.ofNat 64 (match (s.co.scopeSt sc.key).heldK with
    | none => 0
    | some k => heldReport (s.co.scopeSt sc.key).held.length (s.undelivered s.co.id sc).length k)

section
variable {s : State} {f : W2} {sc : Scp}

/-- RSTAT without the bitmap. -/
theorem exec_rstat_plain (hscope : Claim.scopeOf s f = some sc) (hplain : f.minor.toNat % 2 = 0) (hpoison : unpoisoned s) :
    exec (.rstat f) s = .next (s.result 8 f.gd (s.rstatWord sc)) := by
  change execRstat f s = _
  unfold execRstat
  rw [hplain]
  dsimp only
  rw [if_neg (by decide), State.collective_of_met (mw := none) (fun o ho => absurd ho List.not_mem_nil) hscope hpoison nofun]
  rfl

/-- RSTAT with the bitmap, which needs its words in DD. -/
theorem exec_rstat_bitmap (hscope : Claim.scopeOf s f = some sc) (hbm : f.minor.toNat % 2 = 1) (hdd : usable s f.dd .n32 true)
    (hpoison : unpoisoned s) :
    exec (.rstat f) s = .next (
      let ws := bitmapWords f.x2.toNat sc.parts (s.co.scopeSt sc.key).held
      if (s.desc f.dd).count < ws.length then s.trap cShape s.cx.pc
      else ({ s with co := s.co.putFront (s.desc f.dd) ws } : State).result 8 f.gd (s.rstatWord sc)) := by
  change execRstat f s = _
  unfold execRstat
  rw [hbm]
  dsimp only
  rw [if_pos (by decide), State.collective_of_met (mw := none) (by simpa using vdst_met hdd) hscope hpoison nofun]
  simp only [beq_self_eq_true, Bool.true_and, decide_eq_true_eq, if_true]
  rfl

/-! ## CORR (R158, R312) -/

/-- The operand of CORR. -/
theorem corrOpnd_met (hstate : (s.desc f.dd).state = .ready) (hspace : (s.desc f.dd).fspace = .loc) (hwr : (s.desc f.dd).wr = true) :
    Opnd.Met s.co ⟨f.dd.toNat, none, frontLocal, false, true, true, false⟩ :=
  ⟨hstate, nofun, decide_eq_true hspace, fun h => absurd h Bool.false_ne_true, fun _ => hwr⟩

/-- CORR: zero in deterministic mode; else the oldest correction, or a wait when a time limit is given. -/
theorem exec_corr (hscope : Claim.scopeOf s f = some sc) (hstate : (s.desc f.dd).state = .ready)
    (hfmt : (s.desc f.dd).fmt = .f32 ∨ (s.desc f.dd).fmt = .i32 ∨ (s.desc f.dd).fmt = .n32) (hspace : (s.desc f.dd).fspace = .loc)
    (hwr : (s.desc f.dd).wr = true) (hidle : s.co.vop = none) (hpoison : unpoisoned s) :
    exec (.corr f) s = .next (
      if s.lau.det then s.result 8 f.gd 0
      else
        match s.undelivered s.co.id sc with
        | r :: _ => ((s.takeCorr s.co.id sc (s.desc f.dd) r).acquire sc.rel).result 8 f.gd (corrStatus r)
        | [] =>
          if s.int f.gd = 0 then s.result 8 f.gd 0
          else s.waitOn 4 (.corr sc.key (s.desc f.dd) f.gd (s.tick + (s.int f.gd).toNat) s.co.cycle) 8) := by
  change execCorr f s = _
  unfold execCorr
  rw [hidle]
  dsimp only
  rw [if_pos hfmt, Option.isSome_none,
    State.collective_of_met (mw := none) (by simpa using corrOpnd_met hstate hspace hwr) hscope hpoison nofun] <;> rfl

/-- What a core keeps for a scope after it has taken a correction (R156). -/
def ScopeSt.corrected (bits : List Nat) (x : ScopeSt) : ScopeSt := { x with held := unionBits x.held bits, corrPos := x.corrPos + 1 }

/-- A correction that is taken: its words in DD, its bits in the held bitmap, one more taken. -/
theorem State.takeCorr_eq (dd : Desc) (r : CorrRec) : ∃ p, s.takeCorr s.co.id sc dd r =
    { s with co := { s.co.modScope sc.key (ScopeSt.corrected r.val.bits) with store := dd.putWords r.val.data s.co.store, poison := p } } := by
  unfold State.takeCorr
  rw [State.modCore_focused]
  obtain ⟨p, hp⟩ := Core.putFront_eq dd r.val.data (s.co.modScope sc.key (ScopeSt.corrected r.val.bits))
  exact ⟨p, congrArg (fun c : Core => ({ s with co := c } : State)) hp⟩

end

/-! ## The time limit (R312, R356) -/

/-- The end of the wait of a context that holds its slot. -/
theorem Ctx.wakeUp_of_waiting {c : Ctx} (tick : Nat) (h : c.status = .waiting) :
    c.wakeUp tick = { c with wait := none, waitk := 0, status := .resident } := by
  unfold Ctx.wakeUp
  dsimp only
  rw [h]

/-- The wait of the focused context ends, and its instruction retires. -/
theorem State.wake_focused {s : State} {g : Ctx → Ctx} (h : s.cx.status = .waiting) (hg : (g s.cx).status = .waiting) :
    s.wake s.co.id s.cx.hid g = { s with cx := { g s.cx with wait := none, waitk := 0, status := .resident } } := by
  have halive : s.cx.status ≠ .free := by rw [h]; decide
  rw [State.wake_of_status (State.ctxAt_focused halive) (by rw [h]; decide), State.modCtx_focused _ halive, Ctx.wakeUp_of_waiting _ hg]

@[simp] theorem Ctx.putInt_status (c : Ctx) (n : Reg) (v : Word) : (c.putInt n v).status = c.status := by
  unfold Ctx.putInt Ctx.put
  split <;> rfl
@[simp] theorem Ctx.putInt_npc (c : Ctx) (n : Reg) (v : Word) : (c.putInt n v).npc = c.npc := by
  unfold Ctx.putInt Ctx.put
  split <;> rfl
@[simp] theorem Ctx.putInt_snap (c : Ctx) (n : Reg) (v : Word) : (c.putInt n v).snap = c.snap := by
  unfold Ctx.putInt Ctx.put
  split <;> rfl

section
variable {s : State} {key : ScopeKey} {dd : Desc} {gd : Reg} {till since : Nat}

/-- The time limit of CORR: before it nothing happens, at its end the wait ends with zero. -/
theorem exec_corrTimeout (hstatus : s.cx.status = .waiting) (hwait : s.cx.wait = some (.corr key dd gd till since)) :
    exec (.corrTimeout s.co.id s.cx.hid) s = .next (
      if till ≤ s.tick then s.wake s.co.id s.cx.hid (fun c => (c.putInt gd 0).done) else s) := by
  have halive : s.cx.status ≠ .free := by rw [hstatus]; decide
  change execCorrTimeout s.co.id s.cx.hid s = _
  unfold execCorrTimeout
  rw [State.ctxAt_focused halive]
  dsimp only
  rw [hwait]
  dsimp only
  split <;> rfl

end

/-! ## The instructions, as the statement puts them -/

/-- RSTAT reports the held result, or zero (R313). -/
theorem rstat_reports {s : State} {f : W2} {sc : Scp} (hscope : Claim.scopeOf s f = some sc) (hplain : f.minor.toNat % 2 = 0)
    (hpoison : unpoisoned s) : let x := s.co.scopeSt sc.key
    Next (exec (.rstat f) s) fun t => ∃ v : Word, writesReg s t 8 f.gd (intBits v) false 0 ∧
      (x.heldK = none → v = 0) ∧ ∀ k, x.heldK = some k → v.toNat % 2 ^ 31 = x.held.length % 2 ^ 31 ∧ v.getLsbD 31 = true ∧
        v.toNat / 2 ^ 32 % 2 ^ 16 = Min.min 16 (s.undelivered s.co.id sc).length ∧ v.toNat / 2 ^ 48 = k % 65536 := by
  intro x
  refine ⟨_, exec_rstat_plain hscope hplain hpoison, s.rstatWord sc, result_writesReg s 8 f.gd _, fun hnone => ?_, fun k hk => ?_⟩
  · rw [State.rstatWord, hnone]
    rfl
  · rw [State.rstatWord, hk]
    exact heldReport_fields _ _ k

/-- RSTAT with the bitmap writes it into DD, which must hold its words (R313). -/
theorem rstat_writes_bitmap {s : State} {f : W2} {sc : Scp} (hscope : Claim.scopeOf s f = some sc) (hbm : f.minor.toNat % 2 = 1)
    (hx2 : f.x2.toNat < 3) (hdd : usable s f.dd .n32 true) (hpoison : unpoisoned s) : let n := (sc.parts + 31) / 32
    if (s.desc f.dd).count < n then Next (exec (.rstat f) s) fun t => traps s t 0x06 s.cx.pc
    else Next (exec (.rstat f) s) fun t => t.cx.pc = s.cx.pc + 8 ∧ issued s t ∧ elsewhereKept s t ∧ (∃ v : Word, regWritten s t f.gd (intBits v) false) ∧
      ∃ ws : List W32, ws.length = n ∧ wroteWords (s.desc f.dd) ws s.co.store t.co.store ∧
        ∀ q i, q < n → i < 32 → ((ws.getD q 0).getLsbD i = true ↔ 32 * q + i ∈ (s.co.scopeSt sc.key).held) := by
  intro n
  have hlen := bitmapWords_length sc.parts (s.co.scopeSt sc.key).held hx2
  rw [exec_rstat_bitmap hscope hbm hdd hpoison]
  dsimp only
  rw [hlen]
  by_cases hfew : (s.desc f.dd).count < n
  · rw [if_pos hfew, if_pos hfew]
    exact next_of (trap_traps s cShape s.cx.pc)
  · rw [if_neg hfew, if_neg hfew]
    obtain ⟨p, hp⟩ := Core.putFront_eq (s.desc f.dd) (bitmapWords f.x2.toNat sc.parts (s.co.scopeSt sc.key).held) s.co
    obtain ⟨u, hu⟩ : ∃ u : State, u = { s with co := s.co.putFront (s.desc f.dd) (bitmapWords f.x2.toNat sc.parts (s.co.scopeSt sc.key).held) } :=
      ⟨_, rfl⟩
    rw [← hu]
    rw [hp] at hu
    obtain ⟨⟨hpc, -, hissued, -, -, helse⟩, hreg, -⟩ := result_writesReg u 8 f.gd (s.rstatWord sc)
    have hout : elsewhereKept s u := hu ▸ rfl
    have hstore : (u.result 8 f.gd (s.rstatWord sc)).co.store = u.co.store := rfl
    refine next_of ⟨?_, ?_, elsewhereKept_trans hout helse, ⟨s.rstatWord sc, ?_⟩, _, hlen, ?_, fun q i hq hi => getLsbD_bitmapWords _ hx2 hq hi⟩
    · rw [hpc, hu]
      rfl
    · subst hu
      exact hissued
    · subst hu
      exact hreg
    · rw [hstore, hu]
      exact wroteWords_putWords _ _ _

/-- CORR that takes a correction (R312). -/
theorem takeCorr_result (s : State) (sc : Scp) (dd : Desc) (d : Reg) (r : CorrRec) :
    let t := ((s.takeCorr s.co.id sc dd r).acquire sc.rel).result 8 d (corrStatus r)
    issued s t ∧ t.cx.pc = s.cx.pc + 8 ∧ wroteWords dd r.val.data s.co.store t.co.store ∧
      (t.co.scopeSt sc.key).corrPos = (s.co.scopeSt sc.key).corrPos + 1 ∧ elsewhereKept s t ∧ acquiredAt s t sc.key.kind.toNat ∧
      (∀ b, b ∈ (t.co.scopeSt sc.key).held ↔ b ∈ (s.co.scopeSt sc.key).held ∨ b ∈ r.val.bits) ∧
      ∃ v : Word, regWritten s t d (intBits v) false ∧ v.toNat % 2 ^ 16 = 1 ∧
        v.toNat / 2 ^ 16 % 2 ^ 16 = r.val.bits.length % 65536 ∧ v.toNat / 2 ^ 32 % 2 ^ 16 = r.k % 65536 ∧
        v.toNat / 2 ^ 48 = r.val.bits.headD 0 % 65536 := by
  intro t
  obtain ⟨p, hp⟩ := State.takeCorr_eq (s := s) (sc := sc) dd r
  obtain ⟨u, hu⟩ : ∃ u : State, u = (s.takeCorr s.co.id sc dd r).acquire sc.rel := ⟨_, rfl⟩
  have ht : t = u.result 8 d (corrStatus r) := by rw [hu]
  clear_value t
  obtain ⟨⟨hpc, -, hissued, -, -, helse⟩, hreg, -⟩ := ht ▸ result_writesReg u 8 d (corrStatus r)
  have hco : t.co.store = u.co.store ∧ t.co.coll = u.co.coll ∧ t.cx.snap = u.cx.snap := by
    rw [ht]
    exact ⟨rfl, rfl, Ctx.putInt_snap _ _ _⟩
  obtain ⟨hstore, hcoll, hsnap⟩ := hco
  have hout : elsewhereKept s t := by
    refine elsewhereKept_trans (u := u) ?_ helse
    rw [hu, hp]
    rfl
  rw [hp] at hu
  have hscope : t.co.scopeSt sc.key = (s.co.scopeSt sc.key).corrected r.val.bits := by
    have hsame : t.co.scopeSt sc.key = u.co.scopeSt sc.key := by
      rw [Core.scopeSt, Core.scopeSt, hcoll]
    rw [hsame, hu]
    exact Core.scopeSt_modScope (f := ScopeSt.corrected r.val.bits) (Core.scopeSt_key _ _)
  subst hu
  refine ⟨hissued, hpc, ?_, ?_, hout, fun i hi => ?_, fun b => ?_, corrStatus r, hreg, corrStatus_fields r⟩
  · rw [hstore]
    exact wroteWords_putWords dd r.val.data s.co.store
  · rw [hscope]
    rfl
  · rw [hsnap]
    exact acquired_snap _ _ _ _ i hi
  · rw [hscope]
    exact mem_unionBits _ _ b

/-- Settles O38: RSTAT, its bitmap, CORR and the time limit each by an equation of their own. -/
theorem correctionsAreReportedAndTaken : Obligations.CorrectionsAreReportedAndTaken := by
  unfold Obligations.CorrectionsAreReportedAndTaken
  refine ⟨fun s f sc hscope hplain hpoison => rstat_reports hscope hplain hpoison,
    fun s f sc hscope hbm hx2 hdd hpoison => rstat_writes_bitmap hscope hbm hx2 hdd hpoison,
    fun s f sc hscope hstate hfmt hspace hwr hidle hpoison => ?_, fun s key dd gd till since hstatus hwait => ?_⟩
  · have hexec := exec_corr hscope hstate hfmt hspace hwr hidle hpoison
    refine ⟨fun hdet => ?_, fun hdet hnone hgd => ?_, fun hdet hnone hgd => ?_, fun r rest hdet hsome => ?_⟩
    · rw [hexec, if_pos hdet]
      exact next_of (result_zero_writesReg s f.gd)
    · rw [hexec, if_neg (Bool.eq_false_iff.1 hdet), hnone]
      dsimp only
      rw [if_pos hgd]
      exact next_of (result_zero_writesReg s f.gd)
    · rw [hexec, if_neg (Bool.eq_false_iff.1 hdet), hnone]
      dsimp only
      rw [if_neg hgd]
      exact next_of ⟨waitOn_waits _ _ _ _, rfl, rfl, rfl⟩
    · rw [hexec, if_neg (Bool.eq_false_iff.1 hdet), hsome]
      dsimp only
      exact next_of (takeCorr_result s sc (s.desc f.dd) f.gd r)
  · rw [exec_corrTimeout hstatus hwait]
    by_cases hend : till ≤ s.tick
    · rw [if_pos hend, if_pos hend, State.wake_focused hstatus (by exact (Ctx.putInt_status _ _ _).trans hstatus)]
      refine next_of ⟨fun n => ?_, Ctx.putInt_npc _ _ _, rfl, rfl, rfl, rfl⟩
      exact ⟨Ctx.reg_put _ _ _ _ _, Ctx.tag_put _ _ _ _ _⟩
    · rw [if_neg hend, if_neg hend]

end Sys2Proof.Machine
end

section
namespace Sys2Proof.Machine

open Sys2Proof Sys2Proof.Claim Sys2Proof.Laws

/-! Rounds and nodes of the reduction tree (R151 to R157): how a contribution joins its round, and what a node does with a value. -/

/-! ## Joining a round (R152, R157) -/

/-- The round that a first participant makes and takes part in. -/
def State.newRound (kind : RKind) (sc : Scp) (k : Nat) (s : State) : Round :=
  { rid := (s.rounds.map (·.rid)).foldl max 0 + 1, owner := sc.owner, key := sc.key, kind := kind, k := k, parts := sc.parts, hop := sc.hop,
    cores := sc.cores, me := sc.me, nodes := [], issued := [sc.idx], taken := [], result := none,
    arrived := if s.lau.det then [(sc.idx, s.me, s.space.seq)] else [] }

/-- A round at the end of a list changes alone. -/
theorem modify_append_length {α : Type} (l : List α) (a : α) (f : α → α) : (l ++ [a]).modify l.length f = l ++ [f a] := by
  induction l with
  | nil => rfl
  | cons x l ih => exact congrArg (x :: ·) ih

section
variable {s : State} {sc : Scp} {kind : RKind} {k : Nat}

/-- No round of a first contribution is there to join. -/
theorem findRound_of_firstOf (h : firstOf s sc kind k) (p : Round → Bool) : s.findRound sc.owner sc.key kind k p = none := by
  refine List.findIdx?_eq_none_iff.2 fun r hr => ?_
  have hne : ¬ r.is sc.owner sc.key kind k = true := by
    simpa [Round.is, and_assoc] using h r hr
  rw [Bool.eq_false_iff.2 hne, Bool.false_and]

/-- A first contribution makes its round. -/
theorem joinRound_of_firstOf (h : firstOf s sc kind k) :
    s.joinRound kind sc k = ({ s with rounds := s.rounds ++ [{ s.newRound kind sc k with arrived := [] }] }, s.rounds.length) := by
  unfold State.joinRound
  dsimp only
  rw [findRound_of_firstOf h]
  rfl

/-- A participant of a deterministic launch is noted in the round at the end of the list (R90). -/
theorem takesPart_append (x : Round) (idx : Nat) :
    ({ s with rounds := s.rounds ++ [x] } : State).takesPart s.rounds.length idx =
      { s with rounds := s.rounds ++ [{ x with arrived := x.arrived ++ if s.lau.det then [(idx, s.me, s.space.seq)] else [] }] } := by
  obtain ⟨u, hu⟩ : ∃ u : State, u = { s with rounds := s.rounds ++ [x] } := ⟨_, rfl⟩
  have hlau : u.lau.det = s.lau.det := hu ▸ rfl
  rw [← hu]
  unfold State.takesPart
  rw [hlau]
  cases hdet : s.lau.det with
  | false =>
    rw [if_neg Bool.false_ne_true, if_neg Bool.false_ne_true, hu, List.append_nil]
  | true =>
    rw [if_pos rfl, if_pos rfl]
    unfold State.modRound
    rw [hu]
    dsimp only
    rw [modify_append_length]
    rfl

/-- The round of a first contribution, joined. -/
def State.joined (kind : RKind) (sc : Scp) (k : Nat) (s : State) : State := { s with rounds := s.rounds ++ [s.newRound kind sc k] }

/-- A first contribution on this module: the only participant's is the result, another goes to the router of its node. -/
theorem contribute_of_firstOf (h : firstOf s sc kind k) (hme : sc.me = none) (v : NodeVal) (core : Nat) :
    s.contribute kind sc k v core =
      if clog2 sc.parts = 0 then (s.joined kind sc k).rootResult s.rounds.length v
      else (s.joined kind sc k).toRouter (s.newRound kind sc k) core (2 * (sc.idx / 2))
        (.node sc.owner (s.newRound kind sc k).rid 1 (sc.idx / 2) (decide (sc.idx % 2 = 1)) v)
        (fabOf (s.newRound kind sc k) 0 1 (sc.idx / 2) (decide (sc.idx % 2 = 1)) v) := by
  obtain ⟨x, hx⟩ : ∃ x : Round, x = { s.newRound kind sc k with arrived := [] } := ⟨_, rfl⟩
  have hbegin : x.begin_ s.cfg.hopalw sc.idx = x := by
    rw [Round.begin_, hx]
    exact if_pos (by rw [State.newRound, hme]; rfl)
  have hround : ({ s with rounds := s.rounds ++ [x] } : State).modRound s.rounds.length (Round.begin_ s.cfg.hopalw sc.idx) =
      { s with rounds := s.rounds ++ [x] } := by
    unfold State.modRound
    dsimp only
    rw [modify_append_length, hbegin]
  have hpart : ({ s with rounds := s.rounds ++ [x] } : State).takesPart s.rounds.length sc.idx = s.joined kind sc k := by
    rw [takesPart_append, hx]
    rfl
  have hfound : (s.joined kind sc k).rounds[s.rounds.length]? = some (s.newRound kind sc k) := List.getElem?_concat_length
  unfold State.contribute
  rw [joinRound_of_firstOf h, ← hx]
  dsimp only
  rw [hround, hpart, hfound]
  rfl

end

end Sys2Proof.Machine
end

section
namespace Sys2Proof.Machine

open Sys2Proof Sys2Proof.Claim Sys2Proof.Laws

/-! ## The two ends of a first contribution -/

section
variable {s : State} {sc : Scp} {kind : RKind} {k : Nat}

/-- The depth of a tree of at least two participants is not zero. -/
theorem clog2_ne_zero {n : Nat} (h : 1 < n) : clog2 n ≠ 0 := by
  unfold clog2
  rw [if_neg (by omega)]
  omega

/-- One of several participants sends its contribution to the router of its node (R152). -/
theorem contribute_sent (h : firstOf s sc kind k) (hme : sc.me = none) (v : NodeVal) (core : Nat) {dst : Nat} (hparts : 1 < sc.parts)
    (hdst : sc.cores[2 * (sc.idx / 2)]? = some dst) :
    s.contribute kind sc k v core = (s.joined kind sc k).send {
      launch := 0, src := core, srcHid := 65536, dst := dst,
      payload := .node sc.owner (s.newRound kind sc k).rid 1 (sc.idx / 2) (decide (sc.idx % 2 = 1)) v } := by
  have hcore : (s.newRound kind sc k).coreOf (2 * (sc.idx / 2)) = some dst := by
    unfold Round.coreOf State.newRound
    rw [hme]
    exact hdst
  rw [contribute_of_firstOf h hme, if_neg (clog2_ne_zero hparts), State.toRouter, hcore]

/-- The root of a round inside a package has its result (R154). -/
theorem rootResult_of_local {i : Nat} {r : Round} (hr : s.rounds[i]? = some r) (hme : r.me = none) (v : NodeVal) :
    s.rootResult i v = s.modRound i (fun r => { r with result := some v }) := by
  rw [State.rootResult, hr]
  dsimp only
  rw [hme]

/-- The only participant of a round has the result at once (R152). -/
theorem contribute_alone (h : firstOf s sc kind k) (hme : sc.me = none) (v : NodeVal) (core : Nat) (hparts : sc.parts ≤ 1) :
    s.contribute kind sc k v core = { s with rounds := s.rounds ++ [{ s.newRound kind sc k with result := some v }] } := by
  have hfound : (s.joined kind sc k).rounds[s.rounds.length]? = some (s.newRound kind sc k) := List.getElem?_concat_length
  have hresult : (s.joined kind sc k).modRound s.rounds.length (fun r => { r with result := some v }) =
      { s with rounds := s.rounds ++ [{ s.newRound kind sc k with result := some v }] } := by
    unfold State.modRound State.joined
    dsimp only
    rw [modify_append_length]
  have hround : (s.newRound kind sc k).me = none := hme
  rw [contribute_of_firstOf h hme, if_pos (by rw [clog2, if_pos hparts]), rootResult_of_local hfound hround v, hresult]

/-- The result of the round that a first contribution has made is what that round holds. -/
theorem resultFor_append (h : firstOf s sc kind k) {t : State} {x : Round} (ht : t.rounds = s.rounds ++ [x])
    (hx : x.is sc.owner sc.key kind k = true) (hissued : x.issued = [sc.idx]) (htaken : x.taken = []) :
    t.resultFor kind sc k = x.result.map (fun v => (s.rounds.length, v)) := by
  have hfind : t.findRound sc.owner sc.key kind k (fun r => r.issued.contains sc.idx && !r.taken.contains sc.idx) = some s.rounds.length := by
    have hold := findRound_of_firstOf h (fun r => r.issued.contains sc.idx && !r.taken.contains sc.idx)
    unfold State.findRound at hold ⊢
    rw [ht, List.findIdx?_append, hold]
    simp [List.findIdx?_cons, hx, hissued, htaken]
  have hfound : t.rounds[s.rounds.length]? = some x := by rw [ht, List.getElem?_concat_length]
  rw [State.resultFor, hfind]
  dsimp only
  rw [hfound]

/-- A new round is that of its contribution. -/
theorem newRound_is : (s.newRound kind sc k).is sc.owner sc.key kind k = true := by
  simp [Round.is, State.newRound]

end

/-! ## RED and REDX (R310, R311) -/

/-- The operation of RED and the format of DD, in the words of the statement. -/
theorem redForm_eq_redKind (f : W2) : redForm f = redKind f := by
  unfold redForm redKind vfmt
  generalize fmtAt f.fmt.toNat = t
  generalize f.cnd = c
  revert c
  cases t <;> decide

/-- The state in which a contribution leaves: its source read, its context's stores released, its number taken (R100, R157). -/
def State.atContribution (t : Fmt) (da : Desc) (sc : Scp) (g : ScopeSt → ScopeSt) (s : State) : State :=
  let u := (s.readUnit t da).release sc.rel
  { u with co := u.co.modScope sc.key g }

section
variable {s : State} {f : W2} {sc : Scp} {t : Fmt}

/-- What RED and REDX ask of their descriptors is met. -/
theorem redReady_met (h : redReady s f t) : ∀ o ∈ [vdst f.dd t, vsrc f.da (vfmt f)], o.Met s.co := by
  obtain ⟨hdd, hda, -⟩ := h
  intro o ho
  rcases List.mem_cons.1 ho with rfl | ho
  · exact vdst_met hdd
  · exact List.mem_singleton.1 ho ▸ vsrc_met hda

/-- What RED and REDX ask of their extents holds. -/
theorem redReady_shape (h : redReady s f t) : ((s.desc f.dd).agrees (s.desc f.da) && decide ((s.desc f.da).count ≤ 4096)) = true := by
  obtain ⟨-, -, hext, hcount, -⟩ := h
  rw [Desc.agrees, hext, beq_self_eq_true, decide_eq_true hcount]
  rfl

/-- REDX on a ready core. -/
theorem exec_redx (hscope : Claim.scopeOf s f = some sc) (h : redReady s f (vfmt f)) :
    let k := (s.co.scopeSt sc.key).redxs
    exec (.redx f) s = .next (((s.atContribution (vfmt f) (s.desc f.da) sc (fun x => { x with redxs := k + 1 })).contribute .redx sc k
      { op := .maxN, deadline := none, data := words s f, bits := [sc.idx] } s.co.id).waitOn 4 (.redx sc.key k (s.desc f.dd)) 8) := by
  obtain ⟨-, -, -, -, hidle, hpoison, hgrant, hkept⟩ := id h
  change execRedx f s = _
  unfold execRedx
  have hfmt : fmtAt f.fmt.toNat = vfmt f := rfl
  dsimp only
  rw [hfmt, hidle, Option.isSome_none, redReady_shape h,
    State.collective_of_met (mw := some 500) (redReady_met h) hscope hpoison (fun w hw => Option.some.inj hw ▸ hgrant), hkept,
    if_neg Bool.false_ne_true]
  rfl

/-- How RED ends after its contribution has left: with the result, if the core has it, or with a wait (R310). -/
def State.redEnd (k : Nat) (sc : Scp) (dd : Desc) (w : State) : State :=
  match if w.rootHeld w.co.id sc then none else w.deliverRed w.co.id k sc dd with
  | some x => ((x.observeAll w.co.id w.cx.hid (w.redEffects k sc)).acquire sc.rel).retire 8
  | none => w.waitOn 4 (.red sc.key k dd) 8

/-- RED on a ready core. -/
theorem exec_red (hscope : Claim.scopeOf s f = some sc) (h : redReady s f (redKind f).2) :
    let k := (s.co.scopeSt sc.key).reds
    exec (.red f) s = .next (((s.atContribution (vfmt f) (s.desc f.da) sc (fun x => { x with reds := k + 1 })).contribute .red sc k
      { op := (redKind f).1, deadline := if s.lau.det then none else some (s.int f.gd).toNat, data := words s f, bits := [sc.idx] }
      s.co.id).redEnd k sc (s.desc f.dd)) := by
  obtain ⟨-, -, -, -, hidle, hpoison, hgrant, hkept⟩ := id h
  change execRed f s = _
  unfold execRed
  rw [redForm_eq_redKind]
  extract_lets t form dd da ops
  have hops : ops = [vdst f.dd (redKind f).2, vsrc f.da (vfmt f)] := rfl
  have hshape : (dd.agrees da && decide (da.count ≤ 4096)) = true := redReady_shape h
  rw [hops, hidle, Option.isSome_none, hshape,
    State.collective_of_met (mw := some 500) (redReady_met h) hscope hpoison (fun w hw => Option.some.inj hw ▸ hgrant), hkept,
    if_neg Bool.false_ne_true]
  extract_lets k v u u' w
  change _ = Host.Outcome.next (w.redEnd k sc dd)
  clear_value w
  unfold State.redEnd
  generalize (if w.rootHeld w.co.id sc then none else w.deliverRed w.co.id k sc dd) = o
  cases o <;> rfl

end

end Sys2Proof.Machine
end

section
namespace Sys2Proof.Machine

open Sys2Proof Sys2Proof.Claim Sys2Proof.Laws

/-! Contributions and results at their participants (R155, R157, R310, R311). -/

/-! ## Delivery on the focused core -/

/-- What a core keeps for a scope when it holds result `k` (R155). -/
def ScopeSt.holding (k : Nat) (bits : List Nat) (x : ScopeSt) : ScopeSt := { x with heldK := some k, held := bits }

section
variable {s : State} {sc : Scp} {k : Nat}

/-- A result that the core can hold is delivered: its words in DD, its bitmap held, its round taken. -/
theorem deliverRed_focused (dd : Desc) {i : Nat} {v : NodeVal} (hholds : k = 0 ∨ (s.co.scopeSt sc.key).heldK = some (k - 1))
    (hresult : s.resultFor .red sc k = some (i, v)) :
    ∃ p rounds, s.deliverRed s.co.id k sc dd = some { s with
      co := { s.co.modScope sc.key (ScopeSt.holding k v.bits) with store := dd.putWords (v.result dd.count) s.co.store, poison := p }
      rounds := rounds } := by
  have hok : (s.packed.scopeSt sc.key).holds k = true := by
    change (k == 0 || (s.co.scopeSt sc.key).heldK == some (k - 1)) = true
    rcases hholds with h | h
    · rw [h]
      rfl
    · rw [h, beq_self_eq_true, Bool.or_true]
  obtain ⟨p, hp⟩ := Core.putFront_eq dd (v.result dd.count) (s.co.modScope sc.key (ScopeSt.holding k v.bits))
  have hco : s.modCore s.co.id (fun c =>
      (c.modScope sc.key (fun x => { x with heldK := some k, held := v.bits })).putFront dd (v.result dd.count)) =
      { s with co := { s.co.modScope sc.key (ScopeSt.holding k v.bits) with store := dd.putWords (v.result dd.count) s.co.store, poison := p } } := by
    rw [State.modCore_focused]
    exact congrArg (fun c : Core => ({ s with co := c } : State)) hp
  unfold State.deliverRed
  rw [State.coreAt_own, hok, hresult, Bool.not_true, if_neg Bool.false_ne_true, Option.map_some]
  dsimp only
  rw [hco]
  exact ⟨p, _, rfl⟩

/-- A round without a result delivers none. -/
theorem deliverRed_of_none (dd : Desc) (hresult : s.resultFor .red sc k = none) : s.deliverRed s.co.id k sc dd = none := by
  unfold State.deliverRed
  rw [hresult, Option.map_none, ite_self]

/-- What a context has observed is noted in it alone (R90). -/
theorem observeAll_focused (l : List (Agent × Nat)) (s : State) :
    ∃ seen ctxs, s.observeAll s.co.id s.cx.hid l = { s with cx := { s.cx with seen := seen }, co := { s.co with ctxs := ctxs } } := by
  induction l generalizing s with
  | nil => exact ⟨s.cx.seen, s.co.ctxs, rfl⟩
  | cons x l ih =>
    obtain ⟨seen, ctxs, hone⟩ : ∃ seen ctxs, s.observe s.co.id s.cx.hid (some x) =
        { s with cx := { s.cx with seen := seen }, co := { s.co with ctxs := ctxs } } := by
      unfold State.observe State.modCtx
      dsimp only
      rw [if_pos rfl]
      split
      · exact ⟨_, s.co.ctxs, rfl⟩
      · exact ⟨s.cx.seen, _, rfl⟩
    obtain ⟨seen', ctxs', hrest⟩ := ih { s with cx := { s.cx with seen := seen }, co := { s.co with ctxs := ctxs } }
    refine ⟨seen', ctxs', ?_⟩
    change State.observeAll s.co.id s.cx.hid l (s.observe s.co.id s.cx.hid (some x)) = _
    rw [hone]
    exact hrest

/-- A delivery and what the context then observes: the result in DD and held, and nothing else of the core. -/
theorem deliverRed_observeAll (dd : Desc) {i : Nat} {v : NodeVal} (hholds : k = 0 ∨ (s.co.scopeSt sc.key).heldK = some (k - 1))
    (hresult : s.resultFor .red sc k = some (i, v)) (l : List (Agent × Nat)) :
    ∃ x p rounds seen ctxs, s.deliverRed s.co.id k sc dd = some x ∧ x.observeAll s.co.id s.cx.hid l = { s with
      cx := { s.cx with seen := seen }
      co := { s.co.modScope sc.key (ScopeSt.holding k v.bits) with
        store := dd.putWords (v.result dd.count) s.co.store, poison := p, ctxs := ctxs }
      rounds := rounds } := by
  obtain ⟨p, rounds, hdeliver⟩ := deliverRed_focused dd hholds hresult
  obtain ⟨seen, ctxs, hobserve⟩ := observeAll_focused l { s with
      co := { s.co.modScope sc.key (ScopeSt.holding k v.bits) with store := dd.putWords (v.result dd.count) s.co.store, poison := p }
      rounds := rounds }
  exact ⟨_, p, rounds, seen, ctxs, hdeliver, hobserve⟩

end

/-! ## What an issue reads -/

/-- Two states in which an instruction issues alike: the same PC, registers, slot, counts and clocks. -/
structure SameIssue (s u : State) : Prop where
  pc : u.cx.pc = s.cx.pc
  regs : u.cx.regs = s.cx.regs
  tags : u.cx.tags = s.cx.tags
  slot : u.cx.slot = s.cx.slot
  run : u.cx.run = s.cx.run
  fresh : u.cx.fresh = s.cx.fresh
  retired : u.cx.retired = s.cx.retired
  tick : u.tick = s.tick
  counters : u.co.counters = s.co.counters
  weightSum : u.co.weightSum = s.co.weightSum
  cycle : u.co.cycle = s.co.cycle

namespace SameIssue

variable {s u t : State}

theorem issued (h : SameIssue s u) (hi : issued u t) : issued s t := by
  unfold Claim.issued at hi ⊢
  rw [h.counters, h.weightSum, h.slot, h.run, h.fresh, h.retired, h.tick] at hi
  exact hi

theorem regsKept (h : SameIssue s u) (hr : regsKept u t) : regsKept s t := by
  intro n
  obtain ⟨hg, htag⟩ := hr n
  refine ⟨hg.trans ?_, htag.trans ?_⟩
  · rw [State.g, State.g, Ctx.reg, Ctx.reg, h.regs]
  · rw [State.gtag, State.gtag, Ctx.tag, Ctx.tag, h.tags]

theorem waits (h : SameIssue s u) {k : BitVec 4} {len : Nat} (hw : waits u t k len) : waits s t k len := by
  obtain ⟨hissued, hregs, hstatus, hwaitk, hwait, hpc, hnpc, hsince⟩ := hw
  exact ⟨h.issued hissued, h.regsKept hregs, hstatus, hwaitk, hwait, h.pc ▸ hpc, h.pc ▸ hnpc, h.cycle ▸ hsince⟩

end SameIssue

/-! ## Contributions (R152, R157, R310, R311) -/

section
variable {s : State} {sc : Scp} {k : Nat}

/-- The number that is taken for a contribution. -/
theorem atContribution_scopeSt (t : Fmt) (da : Desc) {g : ScopeSt → ScopeSt} (hg : ∀ x, (g x).key = x.key) :
    (s.atContribution t da sc g).co.scopeSt sc.key = g (s.co.scopeSt sc.key) :=
  Core.scopeSt_modScope (c := ((s.readUnit t da).release sc.rel).co) ((hg _).trans (Core.scopeSt_key _ _))

/-- A first contribution changes rounds and messages alone. -/
theorem contribute_rounds_net {kind : RKind} (hfirst : firstOf s sc kind k) (hme : sc.me = none) (hidx : sc.idx < sc.cores.length)
    (v : NodeVal) (core : Nat) : ∃ rounds net, s.contribute kind sc k v core = { s with rounds := rounds, net := net } := by
  by_cases hparts : 1 < sc.parts
  · rw [contribute_sent hfirst hme v core hparts (List.getElem?_eq_getElem (by omega))]
    exact ⟨_, _, rfl⟩
  · rw [contribute_alone hfirst hme v core (by omega)]
    exact ⟨_, s.net, rfl⟩

/-- A contribution leaves what an issue reads. -/
theorem sameIssue_atContribution (t : Fmt) (da : Desc) (sc : Scp) (g : ScopeSt → ScopeSt) : SameIssue s (s.atContribution t da sc g) where
  pc := rfl
  regs := rfl
  tags := rfl
  slot := rfl
  run := rfl
  fresh := rfl
  retired := rfl
  tick := rfl
  counters := rfl
  weightSum := rfl
  cycle := rfl

/-- A context that waits after its contribution. -/
theorem contribute_waitOn {kind : RKind} (hfirst : firstOf s sc kind k) (hme : sc.me = none) (hidx : sc.idx < sc.cores.length)
    (v : NodeVal) (op : WaitOp) :
    let w := (s.contribute kind sc k v s.co.id).waitOn 4 op 8
    waits s w 4 8 ∧ (1 < sc.parts → contributed s w sc v) ∧ w.cx.wait = some op ∧ w.co.coll = s.co.coll ∧ w.co.store = s.co.store := by
  intro w
  obtain ⟨rounds, net, heq⟩ := contribute_rounds_net hfirst hme hidx v s.co.id
  obtain ⟨x, hx⟩ : ∃ x : State, x = s.contribute kind sc k v s.co.id := ⟨_, rfl⟩
  have hsame : SameIssue s x := by
    rw [hx, heq]
    exact ⟨rfl, rfl, rfl, rfl, rfl, rfl, rfl, rfl, rfl, rfl, rfl⟩
  have hco : x.co = s.co := by rw [hx, heq]
  have hw : w = x.waitOn 4 op 8 := by rw [hx]
  refine ⟨hw ▸ hsame.waits (waitOn_waits x 4 op 8), fun hparts => ?_, by rw [hw]; rfl, ?_, ?_⟩
  · have hdst : sc.cores[2 * (sc.idx / 2)]? = some sc.cores[2 * (sc.idx / 2)] := List.getElem?_eq_getElem (by omega)
    have hnet : w.net = x.net := hw ▸ rfl
    refine ⟨(s.newRound kind sc k).rid, sc.cores[2 * (sc.idx / 2)], ?_, ?_⟩
    · rw [Nat.mul_comm (sc.idx / 2) 2]
      exact hdst
    rw [hnet, hx, contribute_sent hfirst hme v s.co.id hparts hdst]
    rfl
  · rw [← hco, hw]
    rfl
  · rw [← hco, hw]
    rfl

/-- RED of one of several participants waits for its result. -/
theorem redEnd_waits (dd : Desc) {w : State} (hfirst : firstOf s sc .red k) (hme : sc.me = none) (hidx : sc.idx < sc.cores.length)
    (hparts : 1 < sc.parts) (v : NodeVal) (hw : w = s.contribute .red sc k v s.co.id) :
    w.redEnd k sc dd = w.waitOn 4 (.red sc.key k dd) 8 := by
  have hround : w.rounds = s.rounds ++ [s.newRound .red sc k] := by
    rw [hw, contribute_sent hfirst hme v s.co.id hparts (List.getElem?_eq_getElem (by omega))]
    rfl
  have hnone : w.resultFor .red sc k = none := resultFor_append hfirst hround newRound_is rfl rfl
  rw [State.redEnd, deliverRed_of_none dd hnone, ite_self]

/-- RED of the only participant ends with its own contribution as the result (R152, R155). -/
theorem redEnd_alone (dd : Desc) {w : State} (hfirst : firstOf s sc .red k) (hme : sc.me = none)
    (hparts : sc.parts ≤ 1) {v : NodeVal} (hbits : v.bits ≠ []) (hroot : s.rootHeld s.co.id sc = false)
    (hholds : k = 0 ∨ (s.co.scopeSt sc.key).heldK = some (k - 1)) (hw : w = s.contribute .red sc k v s.co.id) :
    let t := w.redEnd k sc dd
    issued s t ∧ regsKept s t ∧ t.cx.pc = s.cx.pc + 8 ∧ t.co.store = dd.putWords v.data s.co.store ∧
      t.co.scopeSt sc.key = (s.co.scopeSt sc.key).holding k v.bits := by
  intro t
  rw [contribute_alone hfirst hme v s.co.id hparts] at hw
  have hresult : w.resultFor .red sc k = some (s.rounds.length, v) :=
    resultFor_append (x := { s.newRound .red sc k with result := some v }) hfirst (hw ▸ rfl) (newRound_is (s := s)) rfl rfl
  have hroot' : w.rootHeld w.co.id sc = false := hw ▸ hroot
  obtain ⟨x, p, rounds, seen, ctxs, hdeliver, hobserve⟩ := deliverRed_observeAll (s := w) dd (hw ▸ hholds) hresult (w.redEffects k sc)
  obtain ⟨y, hy⟩ : ∃ y : State, y = (x.observeAll w.co.id w.cx.hid (w.redEffects k sc)).acquire sc.rel := ⟨_, rfl⟩
  have ht : t = y.retire 8 := by
    rw [hy]
    change w.redEnd k sc dd = _
    rw [State.redEnd, hroot', if_neg Bool.false_ne_true, hdeliver]
  clear_value t
  rw [hobserve, hw] at hy
  have hsame : SameIssue s y := hy ▸ ⟨rfl, rfl, rfl, rfl, rfl, rfl, rfl, rfl, rfl, rfl, rfl⟩
  obtain ⟨⟨hpc, -, hissued, -⟩, hregs, -⟩ := ht ▸ retire_writesNothing y 8
  have hdata : v.result dd.count = v.data := if_neg (by simpa [NodeVal.isEmpty] using hbits)
  have hstore : y.co.store = dd.putWords (v.result dd.count) s.co.store := hy ▸ rfl
  have hscope : y.co.scopeSt sc.key = (s.co.scopeSt sc.key).holding k v.bits :=
    hy ▸ Core.scopeSt_modScope (c := s.co) (f := ScopeSt.holding k v.bits) (Core.scopeSt_key _ _)
  refine ⟨hsame.issued hissued, hsame.regsKept hregs, hpc.trans (by rw [hsame.pc]; rfl), ?_, ?_⟩
  · rw [← hdata, ← hstore, ht]
    rfl
  · rw [← hscope, ht]
    rfl

end

end Sys2Proof.Machine
end

section
namespace Sys2Proof.Machine

open Sys2Proof Sys2Proof.Claim Sys2Proof.Laws

section
variable {s : State} {f : W2} {sc : Scp}

/-- A contribution that leaves from a state with the same network and core leaves from this one. -/
theorem contributed_of_same {u t : State} {v : NodeVal} (hnet : u.net = s.net) (hid : u.co.id = s.co.id) (h : contributed u t sc v) :
    contributed s t sc v := by
  obtain ⟨rid, dst, hdst, hsent⟩ := h
  exact ⟨rid, dst, hdst, by rw [hsent, hnet, hid]⟩

/-- REDX sends its contribution and waits (R311). -/
theorem redx_waits (hscope : Claim.scopeOf s f = some sc) (h : redReady s f (vfmt f)) (hme : sc.me = none) (hidx : sc.idx < sc.cores.length)
    (hfirst : firstOf s sc .redx (s.co.scopeSt sc.key).redxs) :
    let k := (s.co.scopeSt sc.key).redxs
    Next (exec (.redx f) s) fun t => waits s t 4 8 ∧
      (1 < sc.parts → contributed s t sc { op := .maxN, deadline := none, data := words s f, bits := [sc.idx] }) ∧
      t.cx.wait = some (.redx sc.key k (s.desc f.dd)) ∧ (t.co.scopeSt sc.key).redxs = k + 1 ∧ t.co.store = s.co.store := by
  intro k
  obtain ⟨u, hu⟩ : ∃ u : State, u = s.atContribution (vfmt f) (s.desc f.da) sc (fun x => { x with redxs := k + 1 }) := ⟨_, rfl⟩
  have hsame : SameIssue s u := hu ▸ sameIssue_atContribution _ _ _ _
  have hid : u.co.id = s.co.id := hu ▸ rfl
  have hnet : u.net = s.net := hu ▸ rfl
  have hstore : u.co.store = s.co.store := hu ▸ rfl
  have htaken : u.co.scopeSt sc.key = { s.co.scopeSt sc.key with redxs := k + 1 } := by
    rw [hu]
    exact atContribution_scopeSt _ _ fun _ => rfl
  obtain ⟨hwaits, hsent, hwait, hcoll, hkept⟩ := contribute_waitOn (s := u) (k := k) (kind := .redx) (hu ▸ hfirst) hme hidx
    { op := .maxN, deadline := none, data := words s f, bits := [sc.idx] } (.redx sc.key k (s.desc f.dd))
  have hexec : exec (.redx f) s = .next ((u.contribute .redx sc k
      { op := .maxN, deadline := none, data := words s f, bits := [sc.idx] } u.co.id).waitOn 4 (.redx sc.key k (s.desc f.dd)) 8) := by
    rw [hid, hu]
    exact exec_redx hscope h
  refine ⟨_, hexec, hsame.waits hwaits, fun hparts => contributed_of_same hnet hid (hsent hparts), hwait, ?_, hkept.trans hstore⟩
  rw [Core.scopeSt, hcoll, ← Core.scopeSt, htaken]

/-- RED sends its contribution and waits; the only participant has its result at once (R152, R310). -/
theorem red_waits_or_ends (hscope : Claim.scopeOf s f = some sc) (h : redReady s f (redKind f).2) (hme : sc.me = none)
    (hidx : sc.idx < sc.cores.length) (hroot : s.rootHeld s.co.id sc = false) (hfirst : firstOf s sc .red (s.co.scopeSt sc.key).reds) :
    let k := (s.co.scopeSt sc.key).reds
    let v : NodeVal := {
      op := (redKind f).1, deadline := if s.lau.det then none else some (s.int f.gd).toNat, data := words s f, bits := [sc.idx] }
    if 1 < sc.parts then Next (exec (.red f) s) fun t => waits s t 4 8 ∧ contributed s t sc v ∧
      t.cx.wait = some (.red sc.key k (s.desc f.dd)) ∧ (t.co.scopeSt sc.key).reds = k + 1 ∧ t.co.store = s.co.store
    else (k = 0 ∨ (s.co.scopeSt sc.key).heldK = some (k - 1)) → Next (exec (.red f) s) fun t => issued s t ∧ regsKept s t ∧
      t.cx.pc = s.cx.pc + 8 ∧ wroteWords (s.desc f.dd) (words s f) s.co.store t.co.store ∧ (t.co.scopeSt sc.key).reds = k + 1 ∧
      (t.co.scopeSt sc.key).heldK = some k ∧ (t.co.scopeSt sc.key).held = [sc.idx] := by
  intro k v
  obtain ⟨u, hu⟩ : ∃ u : State, u = s.atContribution (vfmt f) (s.desc f.da) sc (fun x => { x with reds := k + 1 }) := ⟨_, rfl⟩
  have hsame : SameIssue s u := hu ▸ sameIssue_atContribution _ _ _ _
  have hid : u.co.id = s.co.id := hu ▸ rfl
  have hnet : u.net = s.net := hu ▸ rfl
  have hstore : u.co.store = s.co.store := hu ▸ rfl
  have htaken : u.co.scopeSt sc.key = { s.co.scopeSt sc.key with reds := k + 1 } := by
    rw [hu]
    exact atContribution_scopeSt _ _ fun _ => rfl
  have hfirst' : firstOf u sc .red k := hu ▸ hfirst
  have hexec : exec (.red f) s = .next ((u.contribute .red sc k v u.co.id).redEnd k sc (s.desc f.dd)) := by
    rw [hid, hu]
    exact exec_red hscope h
  split
  case isTrue hparts =>
    obtain ⟨hwaits, hsent, hwait, hcoll, hkept⟩ := contribute_waitOn hfirst' hme hidx v (.red sc.key k (s.desc f.dd))
    rw [redEnd_waits (s.desc f.dd) hfirst' hme hidx hparts v rfl] at hexec
    refine ⟨_, hexec, hsame.waits hwaits, contributed_of_same hnet hid (hsent hparts), hwait, ?_, hkept.trans hstore⟩
    rw [Core.scopeSt, hcoll, ← Core.scopeSt, htaken]
  case isFalse halone =>
    intro hholds
    have hholds' : k = 0 ∨ (u.co.scopeSt sc.key).heldK = some (k - 1) := by
      rw [htaken]
      exact hholds
    obtain ⟨hissued, hregs, hpc, hwrote, hheld⟩ := redEnd_alone (s.desc f.dd) hfirst' hme (by omega) (v := v) (List.cons_ne_nil _ _)
      (hu ▸ hroot) hholds' rfl
    rw [htaken] at hheld
    rw [hstore] at hwrote
    refine ⟨_, hexec, hsame.issued hissued, hsame.regsKept hregs, hpc.trans (by rw [hsame.pc]), ?_, ?_, ?_, ?_⟩
    · rw [hwrote]
      exact wroteWords_putWords _ _ _
    · rw [hheld]
      rfl
    · rw [hheld]
      rfl
    · rw [hheld]
      rfl

end

/-- Contributions leave and the only participant of a RED has its result. -/
theorem reductionsContribute : ReductionsContribute :=
  ⟨fun _ _ _ hscope hready hme hidx _ hroot hfirst => red_waits_or_ends hscope hready hme hidx hroot hfirst,
    fun _ _ _ hscope hready hme hidx _ hfirst => redx_waits hscope hready hme hidx hfirst⟩

/-! ## Results that arrive (R101, R155) -/

section
variable {s : State} {key : ScopeKey} {k i : Nat} {dd : Desc} {sc : Scp} {v : NodeVal}

/-- The wait of the focused context ends with an acquire at a scope. -/
theorem acquire_wake_resumed {y : State} (scope : Nat) (hstatus : y.cx.status = .waiting) :
    let t := (y.acquireAt scope y.co.id y.cx.hid).wake y.co.id y.cx.hid Ctx.done
    t = { y with cx := { (y.cx.acquired scope y.me y.space).done with wait := none, waitk := 0, status := .resident } } := by
  have halive : y.cx.status ≠ .free := by rw [hstatus]; decide
  intro t
  have hacquire : y.acquireAt scope y.co.id y.cx.hid = { y with cx := y.cx.acquired scope y.me y.space } := by
    unfold State.acquireAt
    rw [State.coreAt_own]
    exact State.modCtx_focused _ halive
  have hwake := State.wake_focused (s := { y with cx := y.cx.acquired scope y.me y.space }) (g := Ctx.done) hstatus hstatus
  change (y.acquireAt scope y.co.id y.cx.hid).wake y.co.id y.cx.hid Ctx.done = _
  rw [hacquire]
  exact hwake

/-- The result of a RED reaches the waiting context (R155). -/
theorem exec_redResultDelivery (hstatus : s.cx.status = .waiting) (hscope : s.scopeAt s.co.id key.kind.toNat key.word = some sc)
    (hroot : s.rootHeld s.co.id sc = false) (hwait : s.cx.wait = some (.red key k dd)) {x : State}
    (hdeliver : s.deliverRed s.co.id k sc dd = some x) :
    exec (.redResultDelivery s.co.id s.cx.hid) s = .next ((((x.observeAll s.co.id s.cx.hid (s.redEffects k sc)).acquireAt sc.rel s.co.id
      s.cx.hid).wake s.co.id s.cx.hid Ctx.done)) := by
  have halive : s.cx.status ≠ .free := by rw [hstatus]; decide
  change execRedResultDelivery s.co.id s.cx.hid s = _
  unfold execRedResultDelivery
  rw [State.ctxAt_focused halive]
  dsimp only
  rw [hwait]
  dsimp only
  rw [hscope]
  dsimp only
  rw [hroot, if_neg Bool.false_ne_true, hdeliver]

/-- The agreed maximum reaches the waiting context (R311). -/
theorem exec_redxRelease (hstatus : s.cx.status = .waiting) (hscope : s.scopeAt s.co.id key.kind.toNat key.word = some sc)
    (hroot : s.rootHeld s.co.id sc = false) (hwait : s.cx.wait = some (.redx key k dd)) (hresult : s.resultFor .redx sc k = some (i, v)) :
    exec (.redxRelease s.co.id s.cx.hid) s = .next (((((s.modCore s.co.id (Core.putFront dd v.data)).takeRound i sc.idx).observeAll s.co.id
      s.cx.hid (s.roundEffects i (fun _ => true))).acquireAt sc.rel s.co.id s.cx.hid).wake s.co.id s.cx.hid Ctx.done) := by
  have halive : s.cx.status ≠ .free := by rw [hstatus]; decide
  change execRedxRelease s.co.id s.cx.hid s = _
  unfold execRedxRelease
  rw [State.ctxAt_focused halive]
  dsimp only
  rw [hwait]
  dsimp only
  rw [hscope]
  dsimp only
  rw [hresult]
  dsimp only
  rw [hroot, if_neg Bool.false_ne_true]

/-- A context whose wait ends with an acquire at a scope of a kind has resumed. -/
theorem resumed_of_acquire {y : State} (hstatus : y.cx.status = .waiting) (hkey : sc.key = key) (hid : y.co.id = s.co.id) (hhid : y.cx.hid = s.cx.hid)
    (hnpc : y.cx.npc = s.cx.npc) (hspace : y.space = s.space) (hspaces : y.spaces = s.spaces) :
    let t := (y.acquireAt sc.rel s.co.id s.cx.hid).wake s.co.id s.cx.hid Ctx.done
    resumed s t key.kind.toNat ∧ regsKept y t ∧ t.co = y.co ∧ t.cores = y.cores := by
  intro t
  have ht := acquire_wake_resumed sc.rel hstatus
  rw [hid, hhid] at ht
  change t = _ at ht
  rw [ht]
  refine ⟨⟨hnpc, rfl, rfl, rfl, fun j hj => ?_, hspaces⟩, fun _ => ⟨rfl, rfl⟩, rfl, rfl⟩
  have hrel : j.val ≤ sc.rel := by
    rw [Scp.rel, hkey]
    exact hj
  rw [← hspace]
  exact acquired_snap sc.rel y.me y.space y.cx j hrel

/-- A RED's result in DD, its bitmap held, and its context gone on (R101, R155, R310). -/
theorem red_arrives (hstatus : s.cx.status = .waiting) (hscope : s.scopeAt s.co.id key.kind.toNat key.word = some sc) (hkey : sc.key = key)
    (hroot : s.rootHeld s.co.id sc = false) (hwait : s.cx.wait = some (.red key k dd)) (hresult : s.resultFor .red sc k = some (i, v))
    (hholds : k = 0 ∨ (s.co.scopeSt key).heldK = some (k - 1)) :
    Next (exec (.redResultDelivery s.co.id s.cx.hid) s) fun t =>
      resumed s t key.kind.toNat ∧ regsKept s t ∧ wroteWords dd (v.result dd.count) s.co.store t.co.store ∧
      (t.co.scopeSt key).heldK = some k ∧ (t.co.scopeSt key).held = v.bits ∧ t.cores = s.cores := by
  obtain ⟨x, p, rounds, seen, ctxs, hdeliver, hobserve⟩ := deliverRed_observeAll dd (hkey ▸ hholds) hresult (s.redEffects k sc)
  have hexec := exec_redResultDelivery hstatus hscope hroot hwait hdeliver
  obtain ⟨y, hy⟩ : ∃ y : State, y = x.observeAll s.co.id s.cx.hid (s.redEffects k sc) := ⟨_, rfl⟩
  rw [← hy] at hexec
  rw [hobserve] at hy
  obtain ⟨hresumed, hregs, hco, hcores⟩ := resumed_of_acquire (s := s) (y := y) (hy ▸ hstatus) hkey (hy ▸ rfl) (hy ▸ rfl) (hy ▸ rfl) (hy ▸ rfl)
    (hy ▸ rfl)
  have hheld : y.co.scopeSt key = (s.co.scopeSt key).holding k v.bits := by
    rw [hy, ← hkey]
    exact Core.scopeSt_modScope (c := s.co) (f := ScopeSt.holding k v.bits) (Core.scopeSt_key _ _)
  refine ⟨_, hexec, hresumed, ?_, ?_, ?_, ?_, ?_⟩
  · rw [hy] at hregs ⊢
    exact hregs
  · rw [hco, hy]
    exact wroteWords_putWords _ _ _
  · rw [hco, hheld]
    rfl
  · rw [hco, hheld]
    rfl
  · rw [hcores, hy]

/-- The agreed maximum in DD and its context gone on (R101, R158, R311). -/
theorem redx_arrives (hstatus : s.cx.status = .waiting) (hscope : s.scopeAt s.co.id key.kind.toNat key.word = some sc) (hkey : sc.key = key)
    (hroot : s.rootHeld s.co.id sc = false) (hwait : s.cx.wait = some (.redx key k dd)) (hresult : s.resultFor .redx sc k = some (i, v)) :
    Next (exec (.redxRelease s.co.id s.cx.hid) s) fun t =>
      resumed s t key.kind.toNat ∧ regsKept s t ∧ wroteWords dd v.data s.co.store t.co.store ∧ t.cores = s.cores := by
  obtain ⟨p, hp⟩ := Core.putFront_eq dd v.data s.co
  have hexec := exec_redxRelease hstatus hscope hroot hwait hresult
  obtain ⟨x, hx⟩ : ∃ x : State, x = (s.modCore s.co.id (Core.putFront dd v.data)).takeRound i sc.idx := ⟨_, rfl⟩
  have hx' : ∃ rounds, x = { s with co := { s.co with store := dd.putWords v.data s.co.store, poison := p }, rounds := rounds } := by
    rw [hx, State.modCore_focused, hp]
    exact ⟨_, rfl⟩
  obtain ⟨rounds, hx'⟩ := hx'
  obtain ⟨seen, ctxs, hobserve⟩ := observeAll_focused (s.roundEffects i (fun _ => true)) x
  obtain ⟨y, hy⟩ : ∃ y : State, y = x.observeAll s.co.id s.cx.hid (s.roundEffects i (fun _ => true)) := ⟨_, rfl⟩
  rw [← hx, ← hy] at hexec
  have hfocus : x.co.id = s.co.id ∧ x.cx.hid = s.cx.hid := hx' ▸ ⟨rfl, rfl⟩
  rw [← hfocus.1, ← hfocus.2, hobserve, hx'] at hy
  obtain ⟨hresumed, hregs, hco, hcores⟩ := resumed_of_acquire (s := s) (y := y) (hy ▸ hstatus) hkey (hy ▸ rfl) (hy ▸ rfl) (hy ▸ rfl) (hy ▸ rfl)
    (hy ▸ rfl)
  refine ⟨_, hexec, hresumed, ?_, ?_, ?_⟩
  · rw [hy] at hregs ⊢
    exact hregs
  · rw [hco, hy]
    exact wroteWords_putWords _ _ _
  · rw [hcores, hy]

end

/-- Results reach their waiting participants. -/
theorem reductionResultsArrive : ReductionResultsArrive :=
  fun _ _ _ _ _ _ _ hstatus hscope hkey hroot =>
    ⟨fun hwait hresult hholds => red_arrives hstatus hscope hkey hroot hwait hresult hholds,
      fun hwait hresult => redx_arrives hstatus hscope hkey hroot hwait hresult⟩

end Sys2Proof.Machine
end

section
namespace Sys2Proof.Machine

open Sys2Proof Sys2Proof.Claim Sys2Proof.Laws

/-! Nodes of the reduction tree (R152 to R156, R314). -/

/-! ## Nodes of a round -/

@[simp] theorem Round.node_level (r : Round) (l j : Nat) : (r.node l j).level = l := by
  unfold Round.node
  cases hfind : r.nodes.find? (fun n => n.level == l && n.j == j) with
  | none => rfl
  | some n =>
    have hn := List.find?_some hfind
    rw [Bool.and_eq_true, beq_iff_eq] at hn
    exact hn.1

@[simp] theorem Round.node_j (r : Round) (l j : Nat) : (r.node l j).j = j := by
  unfold Round.node
  cases hfind : r.nodes.find? (fun n => n.level == l && n.j == j) with
  | none => rfl
  | some n =>
    have hn := List.find?_some hfind
    rw [Bool.and_eq_true, beq_iff_eq, beq_iff_eq] at hn
    exact hn.2

/-- A node that has been replaced. -/
theorem Round.node_setNode {r : Round} {n : RedNode} {l j : Nat} (hl : n.level = l) (hj : n.j = j) : (r.setNode n).node l j = n := by
  have hfound : (n.level == l && n.j == j) = true := by rw [hl, hj, beq_self_eq_true, beq_self_eq_true]; rfl
  unfold Round.setNode Round.node
  rw [List.find?_cons, hfound]
  rfl

section
variable {s : State} {i l j : Nat} {r : Round}

/-- A round after a change of it. -/
theorem modRound_found (f : Round → Round) (hr : s.rounds[i]? = some r) : (s.modRound i f).rounds[i]? = some (f r) := by
  rw [State.modRound, List.getElem?_modify, hr]
  simp

/-- A round that nobody has taken the result of stays. -/
theorem mem_retireRounds {x : Round} (hx : x ∈ s.rounds) (htaken : x.taken = []) (hcores : x.cores ≠ []) : x ∈ s.retireRounds.rounds := by
  refine List.mem_filter.2 ⟨hx, ?_⟩
  have hfew : decide (x.cores.length ≤ x.taken.length) = false := by
    rw [htaken]
    exact decide_eq_false (Nat.not_le.2 (List.length_pos_of_ne_nil hcores))
  rw [Round.over, hfew, Bool.and_false, Bool.false_and]
  rfl

/-! ## Forwarding (R153, R154) -/

/-- The root of a round inside a package has its result. -/
theorem forward_root {v : NodeVal} (hr : s.rounds[i]? = some r) (hme : r.me = none) (hfwd : (r.node l j).fwd = false)
    (hv : combine (r.node l j).left (r.node l j).right = some v) (hroot : r.depth ≤ l) :
    s.forward i l j = (s.modRound i (Round.setNode { r.node l j with fwd := true })).modRound i (fun r => { r with result := some v }) := by
  unfold State.forward
  rw [hr]
  dsimp only
  rw [if_neg (Bool.eq_false_iff.1 hfwd), hv]
  dsimp only
  rw [if_pos hroot]
  exact rootResult_of_local (modRound_found _ hr) hme v

/-- Below the root the value goes to the parent. -/
theorem forward_up {v : NodeVal} {c p : Nat} (hr : s.rounds[i]? = some r) (hfwd : (r.node l j).fwd = false)
    (hv : combine (r.node l j).left (r.node l j).right = some v) (hbelow : l < r.depth) (hc : r.coreOf (j * 2 ^ l) = some c)
    (hp : r.coreOf (j / 2 * 2 ^ (l + 1)) = some p) :
    s.forward i l j = (s.modRound i (Round.setNode { r.node l j with fwd := true })).send {
      launch := 0, src := c, srcHid := 65536, dst := p,
      payload := .node r.owner r.rid (l + 1) (j / 2) (decide (j % 2 = 1)) v } := by
  unfold State.forward
  rw [hr]
  dsimp only
  rw [if_neg (Bool.eq_false_iff.1 hfwd), hv]
  dsimp only
  rw [if_neg (Nat.not_le.2 hbelow), State.toRouter, hp, hc]
  rfl

/-! ## Arrival (R153, R156) -/

/-- The node with the deadline of its first value. -/
def RedNode.reached (v : NodeVal) (n : RedNode) : RedNode := { n with dl := some (n.dl.getD v.deadline) }

/-- A value that comes before the cutoff is kept, and the node forwards when it is the second. -/
theorem arriveNode_inTime {right : Bool} {v : NodeVal} (hr : s.rounds[i]? = some r) (hme : r.me = none) (hfwd : (r.node l j).fwd = false)
    (hin : ((r.node l j).reached v).past s.tick = false) :
    s.arriveNode i l j right v =
      if (((r.node l j).reached v).take right v).leftIn && (((r.node l j).reached v).take right v).rightIn then
        (s.modRound i (Round.setNode (((r.node l j).reached v).take right v))).forward i l j
      else s.modRound i (Round.setNode (((r.node l j).reached v).take right v)) := by
  unfold RedNode.reached at hin ⊢
  unfold State.arriveNode
  rw [hr]
  dsimp only
  rw [if_neg (Bool.eq_false_iff.1 hfwd), hme, Option.isSome_none, Bool.false_and, if_neg Bool.false_ne_true, if_neg (Bool.eq_false_iff.1 hin)]

/-- A value that comes first after the cutoff leaves an empty value and is late. -/
theorem arriveNode_past {right : Bool} {v : NodeVal} (hr : s.rounds[i]? = some r) (hme : r.me = none) (hfwd : (r.node l j).fwd = false)
    (hpast : ((r.node l j).reached v).past s.tick = true) (hleft : (r.node l j).left = none) (hright : (r.node l j).right = none) :
    s.arriveNode i l j right v =
      ((s.modRound i (Round.setNode { (r.node l j).reached v with left := some v.emptied })).forward i l j).late r l j v := by
  unfold RedNode.reached at hpast ⊢
  unfold State.arriveNode
  rw [hr]
  dsimp only
  have hnone : ((r.node l j).left.isNone && (r.node l j).right.isNone) = true := by
    rw [hleft, hright]
    rfl
  rw [if_neg (Bool.eq_false_iff.1 hfwd), hme, Option.isSome_none, Bool.false_and, if_neg Bool.false_ne_true, if_pos hpast, if_pos hnone]

end

end Sys2Proof.Machine
end

section
namespace Sys2Proof.Machine

open Sys2Proof Sys2Proof.Claim Sys2Proof.Laws

/-! ## What a node does with its cutoff and its children (R153, R154) -/

/-- Whether the cutoff of a node that waits has passed. -/
theorem RedNode.past_eq {n : RedNode} {d : Nat} (tick : Nat) (hfwd : n.fwd = false) (hdl : n.dl = some (some d)) :
    n.past tick = decide (d + n.level * n.hop < tick) := by
  unfold RedNode.past RedNode.cutoff
  rw [hfwd, hdl]
  rfl

/-- A node that a value has reached is in time until the end of the tick of its cutoff. -/
theorem RedNode.past_reached_of_inTime {n : RedNode} {tick : Nat} (v : NodeVal) (hfwd : n.fwd = false) (hdl : n.dl ≠ none)
    (hin : ∀ d, n.dl = some (some d) → tick ≤ d + n.level * n.hop) : (n.reached v).past tick = false := by
  obtain ⟨dl, hdl⟩ := Option.ne_none_iff_exists'.1 hdl
  have hreached : (n.reached v).dl = some dl := by rw [RedNode.reached, hdl, Option.getD_some]
  cases dl with
  | none =>
    unfold RedNode.past RedNode.cutoff
    rw [hreached]
    exact Bool.and_false _
  | some d =>
    rw [RedNode.past_eq (n := n.reached v) tick hfwd hreached]
    exact decide_eq_false (Nat.not_lt.2 (hin d hdl))

/-- The deadline of the first value is that of the node. -/
theorem RedNode.past_reached_of_first {n : RedNode} {tick d : Nat} {v : NodeVal} (hfwd : n.fwd = false) (hdl : n.dl = none)
    (hv : v.deadline = some d) (hlate : d + n.level * n.hop < tick) : (n.reached v).past tick = true := by
  have hreached : (n.reached v).dl = some (some d) := by rw [RedNode.reached, hdl, Option.getD_none, hv]
  rw [RedNode.past_eq (n := n.reached v) tick hfwd hreached]
  exact decide_eq_true hlate

/-- Two children that agree combine left with right; an empty one adds nothing. -/
theorem combine_children {a v : NodeVal} (hop : a.op = v.op) (hdl : a.deadline = v.deadline) (hlen : a.data.length = v.data.length) :
    ∃ w, combine (some a) (some v) = some w ∧ if a.bits = [] then w = v else if v.bits = [] then w = a
      else w.op = v.op ∧ w.data = List.zipWith v.op.apply a.data v.data ∧ ∀ b, b ∈ w.bits ↔ b ∈ a.bits ∨ b ∈ v.bits := by
  have hempty : ∀ x : NodeVal, x.isEmpty = true ↔ x.bits = [] := fun x => List.isEmpty_iff
  unfold combine
  dsimp only
  by_cases ha : a.bits = []
  · rw [if_pos ((hempty a).2 ha)]
    exact ⟨v, rfl, by rw [if_pos ha]⟩
  · rw [if_neg (mt (hempty a).1 ha)]
    by_cases hv : v.bits = []
    · rw [if_pos ((hempty v).2 hv)]
      exact ⟨a, rfl, by rw [if_neg ha, if_pos hv]⟩
    · rw [if_neg (mt (hempty v).1 hv), if_pos ⟨hop, hdl, hlen⟩]
      refine ⟨_, rfl, ?_⟩
      rw [if_neg ha, if_neg hv]
      exact ⟨hop, by rw [← hop], fun b => mem_unionBits _ _ b⟩

/-! ## Late values (R156, R334) -/

/-- A change of a core leaves everything outside the cores. -/
theorem modCore_cores (s : State) (id : Nat) (f : Core → Core) : ∃ co cores, s.modCore id f = { s with co := co, cores := cores } := by
  unfold State.modCore
  split
  · exact ⟨_, s.cores, rfl⟩
  · split
    · exact ⟨s.co, _, rfl⟩
    · exact ⟨s.co, _, rfl⟩

/-- The counts of late contributions leave everything outside the cores. -/
theorem countMiss_cores (r : Round) (v : NodeVal) (s : State) : ∃ co cores, s.countMiss r v = { s with co := co, cores := cores } := by
  unfold State.countMiss
  induction v.bits generalizing s with
  | nil => exact ⟨s.co, s.cores, rfl⟩
  | cons b bits ih =>
    rw [List.foldl_cons]
    split
    · next c _ =>
      obtain ⟨co, cores, hone⟩ := modCore_cores s c
        (fun k => { k with counters := Tab.set 0 k.counters 7 (Tab.get 0 k.counters 7 + 1) })
      obtain ⟨co', cores', hrest⟩ := ih { s with co := co, cores := cores }
      exact ⟨co', cores', by rw [hone, hrest]⟩
    · exact ih s

section
variable {s : State} {i l j : Nat} {r : Round}

/-- A late value passes to the root as a correction. -/
theorem late_sent {v : NodeVal} {c z : Nat} (hbits : v.bits ≠ []) (hc : r.coreOf (j * 2 ^ l) = some c) (hz : r.coreOf 0 = some z) :
    ∃ co cores, s.late r l j v = { s with
      co := co, cores := cores
      net := s.net ++ [{ launch := 0, src := c, srcHid := 65536, dst := z, payload := .correction r.owner r.key r.k v }] } := by
  obtain ⟨co, cores, hcount⟩ := countMiss_cores r v s
  have hsome : v.isEmpty = false := by simpa [NodeVal.isEmpty] using hbits
  unfold State.late
  rw [hsome, if_neg Bool.false_ne_true, hcount, State.toRouter, hz, hc]
  exact ⟨co, cores, rfl⟩

/-! ## A message at its node -/

/-- The round that a message names is found by its number. -/
theorem find_of_findIdx {rid : Nat} (hidx : s.rounds.findIdx? (·.rid == rid) = some i) (hr : s.rounds[i]? = some r) :
    s.rounds.find? (·.rid == rid) = some r := by
  obtain ⟨hi, hrid, hfirst⟩ := List.findIdx?_eq_some_iff_getElem.1 hidx
  have hfound : s.rounds[i] = r := Option.some.inj ((List.getElem?_eq_getElem hi).symm.trans hr)
  refine List.find?_eq_some_iff_getElem.2 ⟨hfound ▸ hrid, i, hi, hfound, fun j hj => ?_⟩
  rw [Bool.eq_false_iff.2 (hfirst j hj)]
  rfl

/-- A value of the tree reaches its node (R152). -/
theorem exec_redNodeArrival {m : Msg} {rest : List Msg} {right : Bool} {v : NodeVal} (hr : s.rounds[i]? = some r)
    (hawake : s.asleep r.owner r.key (j * 2 ^ l) = false) (hnet : s.net = m :: rest) (hm : m.payload = .node r.owner r.rid l j right v)
    (hpath : s.pathHeld m.src m.dst = false) (hidx : s.rounds.findIdx? (·.rid == r.rid) = some i) :
    exec (.redNodeArrival 0 none) s = .next ((s.forwarded 0 m).arriveNode i l j right v).retireRounds := by
  have hheld : s.treeHeld m = false := by
    unfold State.treeHeld
    rw [hm, hpath]
    dsimp only
    rw [find_of_findIdx hidx hr]
    exact hawake
  have hfirst : s.net[0]? = some m := by rw [hnet, List.getElem?_cons_zero]
  have hidx' : (s.forwarded 0 m).rounds.findIdx? (·.rid == r.rid) = some i := hidx
  change execRedNodeArrival 0 none s = _
  unfold execRedNodeArrival
  dsimp only
  rw [hfirst]
  dsimp only
  rw [hm]
  dsimp only
  rw [hheld, if_neg Bool.false_ne_true, State.treeMessage, hm]
  dsimp only
  rw [hidx']

/-- The message of a router leaves the network, and only the weights of the routers on its path change. -/
theorem forwarded_kept {m : Msg} {rest : List Msg} (hnet : s.net = m :: rest) :
    (s.forwarded 0 m).net = rest ∧ (s.forwarded 0 m).cx = s.cx ∧
      ({ (s.forwarded 0 m).co with weightSum := s.co.weightSum } : Core) = s.co := by
  refine ⟨?_, rfl, ?_⟩
  · change s.net.eraseIdx 0 = rest
    rw [hnet]
    rfl
  · unfold State.forwarded State.routing
    dsimp only
    split <;> rfl

/-- A cutoff makes a node forward when its tick has ended, and not before (R153). -/
theorem exec_redNodeCutoff {c : Nat} (hr : s.rounds[i]? = some r) (hawake : s.asleep r.owner r.key (j * 2 ^ l) = false)
    (hc : r.coreOf (j * 2 ^ l) = some c) (hrelock : s.relocks c = false) :
    exec (.redNodeCutoff i l j) s = .next (if (r.node l j).past s.tick then s.forward i l j else s) := by
  change execRedNodeCutoff i l j s = _
  unfold execRedNodeCutoff
  rw [hr]
  dsimp only
  rw [hc]
  dsimp only
  rw [hrelock, hawake, Bool.not_false, Bool.and_true, Bool.and_true]
  split <;> rfl

/-! ## The clauses of the statement -/

/-- The node as it is once a value has come in from the right. -/
def Round.rightTaken (l j : Nat) (v : NodeVal) (r : Round) : RedNode := ((r.node l j).reached v).take true v

/-- A node whose left child is missing waits for it. -/
theorem node_waits {v : NodeVal} (hr : s.rounds[i]? = some r) (hme : r.me = none) (htaken : r.taken = []) (hcores : r.cores ≠ [])
    (hfwd : (r.node l j).fwd = false) (hdl : (r.node l j).dl ≠ none)
    (hin : ∀ d, (r.node l j).dl = some (some d) → s.tick ≤ d + l * (r.node l j).hop) (hleftIn : (r.node l j).leftIn = false) :
    let t := (s.arriveNode i l j true v).retireRounds
    t.net = s.net ∧ t.cx = s.cx ∧ t.co = s.co ∧
      ∃ r' ∈ t.rounds, r'.rid = r.rid ∧ (r'.node l j).right = some v ∧ (r'.node l j).fwd = false ∧ r'.result = r.result := by
  intro t
  have hpast := RedNode.past_reached_of_inTime v hfwd hdl (tick := s.tick) (by simpa using hin)
  have harrive : s.arriveNode i l j true v = s.modRound i (Round.setNode (r.rightTaken l j v)) := by
    rw [arriveNode_inTime hr hme hfwd hpast]
    refine if_neg ?_
    change ¬ ((r.node l j).leftIn && true) = true
    rw [hleftIn]
    exact Bool.false_ne_true
  have hnode : (r.setNode (r.rightTaken l j v)).node l j = r.rightTaken l j v :=
    Round.node_setNode (Round.node_level r l j) (Round.node_j r l j)
  have ht : t = (s.modRound i (Round.setNode (r.rightTaken l j v))).retireRounds := congrArg State.retireRounds harrive
  rw [ht]
  refine ⟨rfl, rfl, rfl, r.setNode (r.rightTaken l j v),
    mem_retireRounds (List.mem_of_getElem? (modRound_found _ hr)) htaken hcores, rfl, ?_, ?_, rfl⟩
  · rw [hnode]
    rfl
  · rw [hnode]
    exact hfwd

/-- A node at the root whose left child has come combines the two and has the result. -/
theorem node_combines {a v : NodeVal} (hr : s.rounds[i]? = some r) (hme : r.me = none) (htaken : r.taken = []) (hcores : r.cores ≠ [])
    (hfwd : (r.node l j).fwd = false) (hdl : (r.node l j).dl ≠ none)
    (hin : ∀ d, (r.node l j).dl = some (some d) → s.tick ≤ d + l * (r.node l j).hop) (hleftIn : (r.node l j).leftIn = true)
    (hleft : (r.node l j).left = some a) (hroot : r.depth ≤ l) {w : NodeVal} (hw : combine (some a) (some v) = some w) :
    let t := (s.arriveNode i l j true v).retireRounds
    t.net = s.net ∧ t.cx = s.cx ∧ t.co = s.co ∧
      ∃ r' ∈ t.rounds, r'.rid = r.rid ∧ (r'.node l j).fwd = true ∧ r'.result = some w := by
  intro t
  have hpast := RedNode.past_reached_of_inTime v hfwd hdl (tick := s.tick) (by simpa using hin)
  have hnode : (r.setNode (r.rightTaken l j v)).node l j = r.rightTaken l j v :=
    Round.node_setNode (Round.node_level r l j) (Round.node_j r l j)
  have hr' := modRound_found (Round.setNode (r.rightTaken l j v)) hr
  have hcombine : combine ((r.setNode (r.rightTaken l j v)).node l j).left ((r.setNode (r.rightTaken l j v)).node l j).right = some w := by
    rw [hnode, ← hw, ← hleft]
    rfl
  have harrive : s.arriveNode i l j true v = (s.modRound i (Round.setNode (r.rightTaken l j v))).forward i l j := by
    rw [arriveNode_inTime hr hme hfwd hpast]
    refine if_pos ?_
    change ((r.node l j).leftIn && true) = true
    rw [hleftIn]
    rfl
  rw [forward_root hr' hme (by rw [hnode]; exact hfwd) hcombine hroot] at harrive
  have ht : t = _ := congrArg State.retireRounds harrive
  rw [ht]
  refine ⟨rfl, rfl, rfl, _, mem_retireRounds (List.mem_of_getElem? (modRound_found _ (modRound_found _ hr'))) htaken hcores, rfl, ?_, rfl⟩
  have hforwarded := Round.node_setNode (r := r.setNode (r.rightTaken l j v))
    (n := { (r.setNode (r.rightTaken l j v)).node l j with fwd := true }) (Round.node_level _ l j) (Round.node_j _ l j)
  exact congrArg RedNode.fwd hforwarded

/-- A node that a value reaches first after its cutoff sends an empty value to its parent, and the value to the root. -/
theorem node_late {v : NodeVal} {d c p z : Nat} (hr : s.rounds[i]? = some r) (hme : r.me = none) (hfwd : (r.node l j).fwd = false)
    (hleft : (r.node l j).left = none) (hright : (r.node l j).right = none) (hdl : (r.node l j).dl = none) (hv : v.deadline = some d)
    (hlate : d + l * (r.node l j).hop < s.tick) (hbits : v.bits ≠ []) (hbelow : l < r.depth) (hc : r.coreOf (j * 2 ^ l) = some c)
    (hp : r.coreOf (j / 2 * 2 ^ (l + 1)) = some p) (hz : r.coreOf 0 = some z) :
    let t := (s.arriveNode i l j true v).retireRounds
    t.cx = s.cx ∧ t.net = s.net ++ [{
      launch := 0, src := c, srcHid := 65536, dst := p,
      payload := .node r.owner r.rid (l + 1) (j / 2) (decide (j % 2 = 1)) { v with data := [], bits := [] } }, {
      launch := 0, src := c, srcHid := 65536, dst := z, payload := .correction r.owner r.key r.k v }] := by
  intro t
  have hpast := RedNode.past_reached_of_first hfwd hdl hv (tick := s.tick) (by simpa using hlate)
  obtain ⟨n, hn⟩ : ∃ n : RedNode, n = { (r.node l j).reached v with left := some v.emptied } := ⟨_, rfl⟩
  have hnode : (r.setNode n).node l j = n := by
    rw [hn]
    exact Round.node_setNode (Round.node_level r l j) (Round.node_j r l j)
  have hcombine : combine ((r.setNode n).node l j).left ((r.setNode n).node l j).right = some v.emptied := by
    rw [hnode, hn]
    change combine (some v.emptied) (r.node l j).right = _
    rw [hright]
    rfl
  have hup := forward_up (r := r.setNode n) (modRound_found _ hr) (by rw [hnode, hn]; exact hfwd) hcombine hbelow hc hp
  obtain ⟨x, hx⟩ : ∃ x : State, x = (s.modRound i (Round.setNode n)).forward i l j := ⟨_, rfl⟩
  obtain ⟨co, cores, hsent⟩ := late_sent (s := x) hbits hc hz
  have harrive : s.arriveNode i l j true v = x.late r l j v := by
    rw [hx, hn]
    exact arriveNode_past hr hme hfwd hpast hleft hright
  have ht : t = (x.late r l j v).retireRounds := congrArg State.retireRounds harrive
  rw [hup] at hx
  rw [ht, hsent, hx]
  exact ⟨rfl, List.append_assoc _ _ _⟩

end

/-- Nodes wait, combine and forward. -/
theorem reductionNodesCombine : ReductionNodesCombine := by
  intro s i r l j hr hme htaken hcores hawake n hfwd
  refine ⟨?_, fun v c dl hleft hright hdl hc hrelock => ?_⟩
  · intro m rest v hnet hm hpath hidx _ hin same
    have hexec := exec_redNodeArrival hr hawake hnet hm hpath hidx
    obtain ⟨hrest, hcx, hweight⟩ := forwarded_kept hnet
    have hr' : (s.forwarded 0 m).rounds[i]? = some r := hr
    refine ⟨fun hleft hleftIn hdl => ?_, fun a hleft hleftIn hdl hroot hop hsame hlen => ?_,
      fun d c p z hleft hright hdl hv hlate hbits hbelow hc hp hz => ?_⟩
    · obtain ⟨hnet', hcx', hco', hround⟩ := node_waits (v := v) hr' hme htaken hcores hfwd hdl hin hleftIn
      exact ⟨_, hexec, ⟨hnet'.trans hrest, hcx'.trans hcx, by rw [hco']; exact hweight⟩, hround⟩
    · obtain ⟨w, hw, hvalue⟩ := combine_children hop hsame hlen
      obtain ⟨hnet', hcx', hco', r', hmem, hrid, hforwarded, hresult⟩ :=
        node_combines hr' hme htaken hcores hfwd hdl hin hleftIn hleft hroot hw
      exact ⟨_, hexec, ⟨hnet'.trans hrest, hcx'.trans hcx, by rw [hco']; exact hweight⟩, r', hmem, hrid, hforwarded, w, hresult, hvalue⟩
    · obtain ⟨hcx', hnet'⟩ := node_late hr' hme hfwd hleft hright hdl hv hlate hbits hbelow hc hp hz
      exact ⟨_, hexec, hcx'.trans hcx, by rw [hnet', hrest]⟩
  · have hexec := exec_redNodeCutoff hr hawake hc hrelock
    have hpast : (r.node l j).past s.tick = decide (dl + l * (r.node l j).hop < s.tick) := by
      rw [RedNode.past_eq s.tick hfwd hdl, Round.node_level]
    have hcombine : combine (r.node l j).left (r.node l j).right = some v := by
      change combine n.left n.right = some v
      rw [hleft, hright]
      rfl
    rw [hpast] at hexec
    refine ⟨fun hearly => ?_, fun hended => ⟨fun hroot => ?_, fun p hbelow hp => ?_⟩⟩
    · rw [hexec, decide_eq_false (Nat.not_lt.2 hearly), if_neg Bool.false_ne_true]
    · rw [decide_eq_true hended, if_pos rfl, forward_root hr hme hfwd hcombine hroot] at hexec
      exact ⟨_, hexec, rfl, rfl, rfl, _, List.mem_of_getElem? (modRound_found _ (modRound_found _ hr)), rfl, rfl⟩
    · rw [decide_eq_true hended, if_pos rfl, forward_up hr hfwd hcombine hbelow hc hp] at hexec
      exact ⟨_, hexec, rfl, rfl, rfl⟩

/-- Settles O37: contributions and results by the round that holds them, nodes by their cutoff and their children. -/
theorem reductionsCombineInTheTree : Obligations.ReductionsCombineInTheTree := by
  unfold Obligations.ReductionsCombineInTheTree
  exact ⟨reductionsContribute, reductionNodesCombine, reductionResultsArrive⟩

end Sys2Proof.Machine
end

section
namespace Sys2Proof.Machine

open Sys2Proof Sys2Proof.Claim

/-! Instruction words and their fields (R168 to R172, R176): the fields that an encoding puts into a word are those that the decoder cuts out, and a word is
made up of its fields. -/

/-! ## Fields -/

/-- A field of two neighbouring parts. -/
theorem fld_add (w lo n k : Nat) : fld w lo (n + k) = fld w lo n + fld w (lo + n) k * 2 ^ n := by
  unfold fld
  rw [pow_add, Nat.mod_mul, pow_add, ← Nat.div_div_eq_div_mul, Nat.mul_comm]

theorem fld_lt (w lo n : Nat) : fld w lo n < 2 ^ n := Nat.mod_lt _ (Nat.two_pow_pos n)

@[simp] theorem val_regOf (w lo : Nat) : (regOf w lo).val = fld w lo 5 := rfl

@[simp] theorem val_rD (w : Nat) : (rD w).val = fld w 8 5 := rfl

@[simp] theorem val_rA (w : Nat) : (rA w).val = fld w 13 5 := rfl

@[simp] theorem toNat_immOf (w : Nat) : (immOf w).toNat = fld w 18 14 := by simp [immOf, fld]

theorem toNat_ofNat_div (w lo n : Nat) : (BitVec.ofNat n (w / 2 ^ lo)).toNat = fld w lo n := by simp [fld]

theorem regOf_eq {w lo : Nat} {r : Reg} (h : fld w lo 5 = r.val) : regOf w lo = r := Fin.ext h

theorem ofNat_div_eq {w lo n : Nat} {x : BitVec n} (h : fld w lo n = x.toNat) : BitVec.ofNat n (w / 2 ^ lo) = x :=
  BitVec.eq_of_toNat_eq ((toNat_ofNat_div w lo n).trans h)

/-! The parts of MINOR and of IMM14 that a row gives a meaning of their own (R181 to R186). -/

/-- FOP: OP, P and RND. -/
theorem fld_minor_fop (w : Nat) : fld w 23 9 = fld w 23 6 + fld w 29 1 * 64 + fld w 30 2 * 128 := by
  have hop : fld w 23 9 = fld w 23 6 + fld w 29 3 * 64 := fld_add w 23 6 3
  have hprec : fld w 29 3 = fld w 29 1 + fld w 30 2 * 2 := fld_add w 29 1 2
  omega

/-- CMP and FCMP: one bit, the condition, the bit number. -/
theorem fld_minor_cmp (w : Nat) : fld w 23 9 = fld w 23 1 + fld w 24 3 * 2 + fld w 27 5 * 16 := by
  have hbit : fld w 23 9 = fld w 23 1 + fld w 24 8 * 2 := fld_add w 23 1 8
  have hcond : fld w 24 8 = fld w 24 3 + fld w 27 5 * 8 := fld_add w 24 3 5
  omega

/-- SEL: the bit number and the predicate register. -/
theorem fld_minor_sel (w : Nat) : fld w 23 9 = fld w 23 4 + fld w 27 5 * 16 := fld_add w 23 4 5

/-- LK: the index and zeros. -/
theorem fld_imm_lk (w : Nat) : fld w 18 14 = fld w 18 8 + fld w 26 6 * 256 := fld_add w 18 8 6

/-- CTR: the event and the kind. -/
theorem fld_imm_ctr (w : Nat) : fld w 18 14 = fld w 18 12 + fld w 30 2 * 4096 := fld_add w 18 12 2

/-- BFX and BFI: the position, the width less one and zeros. -/
theorem fld_imm_bitfield (w : Nat) : fld w 18 14 = fld w 18 6 + fld w 24 6 * 64 + fld w 30 2 * 4096 := by
  have hpos : fld w 18 14 = fld w 18 6 + fld w 24 8 * 64 := fld_add w 18 6 8
  have hwidth : fld w 24 8 = fld w 24 6 + fld w 30 2 * 64 := fld_add w 24 6 2
  omega

/-! ## Words of class W1 (R170) -/

/-- A W1 word of a major. -/
structure IsW1 (w maj : Nat) : Prop where
  bound : w < 2 ^ 32
  len : fld w 0 2 = 0
  maj : fld w 2 6 = maj

/-- A W1.A word with its fields. -/
structure WordA (w maj m d a b : Nat) : Prop extends IsW1 w maj where
  minor : fld w 23 9 = m
  dst : fld w 8 5 = d
  srcA : fld w 13 5 = a
  srcB : fld w 18 5 = b

/-- A W1.I or W1.B word with its fields. -/
structure WordI (w maj d a imm : Nat) : Prop extends IsW1 w maj where
  dst : fld w 8 5 = d
  srcA : fld w 13 5 = a
  imm : fld w 18 14 = imm

theorem encA_fields {maj m d a b : Nat} (hmaj : maj < 64) (hm : m < 512) (hd : d < 32) (ha : a < 32) (hb : b < 32) :
    ∃ w, encA maj m d a b = [w] ∧ WordA w maj m d a b := by
  refine ⟨_, rfl, ⟨by omega, ?_, ?_⟩, ?_, ?_, ?_, ?_⟩ <;> simp only [fld] <;> omega

theorem WordA.encA_eq {w maj m d a b : Nat} (h : WordA w maj m d a b) : encA maj m d a b = [w] := by
  obtain ⟨⟨hw, hlen, rfl⟩, rfl, rfl, rfl, rfl⟩ := h
  simp only [fld, encA, List.cons.injEq, and_true] at *
  omega

theorem encI_fields {maj d a imm : Nat} (hmaj : maj < 64) (hd : d < 32) (ha : a < 32) (himm : imm < 2 ^ 14) :
    ∃ w, encI maj d a imm = [w] ∧ WordI w maj d a imm := by
  refine ⟨_, rfl, ⟨by omega, ?_, ?_⟩, ?_, ?_, ?_⟩ <;> simp only [fld] <;> omega

theorem WordI.encI_eq {w maj d a imm : Nat} (h : WordI w maj d a imm) : encI maj d a imm = [w] := by
  obtain ⟨⟨hw, hlen, rfl⟩, rfl, rfl, rfl⟩ := h
  simp only [fld, encI, List.cons.injEq, and_true] at *
  omega

/-! ## Words of class W2 (R171) -/

theorem encW2_fields {maj : Nat} (f : W2) (hmaj : maj < 64) :
    ∃ w0 w1, encW2 maj f = [w0, w1] ∧ w0 < 2 ^ 32 ∧ w1 < 2 ^ 32 ∧ fld w0 0 2 = 1 ∧ fld w0 2 6 = maj ∧ w2Fields w0 w1 = f := by
  obtain ⟨minor, ovf, rnd, cnd, ga, gd, x2, fmt, acc, dc, db, da, dd⟩ := f
  refine ⟨_, _, rfl, ?_, ?_, ?_, ?_, ?_⟩
  · dsimp only; omega
  · dsimp only; omega
  · simp only [fld]; omega
  · simp only [fld]; omega
  · simp only [w2Fields, rA, rD, W2.mk.injEq]
    refine ⟨ofNat_div_eq ?_, ofNat_div_eq ?_, ofNat_div_eq ?_, ofNat_div_eq ?_, regOf_eq ?_, regOf_eq ?_, ofNat_div_eq ?_, ofNat_div_eq ?_,
      ofNat_div_eq ?_, ofNat_div_eq ?_, ofNat_div_eq ?_, ofNat_div_eq ?_, BitVec.eq_of_toNat_eq ?_⟩ <;> simp only [fld, BitVec.toNat_ofNat] <;> omega

theorem encW2_w2Fields {w0 w1 maj : Nat} (h0 : w0 < 2 ^ 32) (h1 : w1 < 2 ^ 32) (hlen : fld w0 0 2 = 1) (hmaj : fld w0 2 6 = maj) :
    encW2 maj (w2Fields w0 w1) = [w0, w1] := by
  subst hmaj
  simp only [encW2, w2Fields, val_rA, val_rD, BitVec.toNat_ofNat, fld, List.cons.injEq, and_true] at *
  omega

/-! ## Words of class W3 (R172) -/

/-- The words of a W3 instruction with their fields. -/
structure WordsW3 (w0 w1 w2 maj m d a : Nat) (lit : W32) : Prop where
  bound : w0 < 2 ^ 32
  len : fld w0 0 2 = 2
  maj : fld w0 2 6 = maj
  minor : fld w0 25 7 = m
  dst : fld w0 8 5 = d
  srcA : fld w0 13 5 = a
  rest : w3Rest w0 w1 = true
  lit : w2 = lit.toNat

theorem encW3_fields {maj m d a : Nat} (lit : W32) (hmaj : maj < 64) (hm : m < 128) (hd : d < 32) (ha : a < 32) :
    ∃ w0 w1 w2, encW3 maj m d a lit = [w0, w1, w2] ∧ WordsW3 w0 w1 w2 maj m d a lit := by
  refine ⟨_, _, _, rfl, by omega, ?_, ?_, ?_, ?_, ?_, ?_, rfl⟩ <;> simp only [fld, w3Rest, Bool.and_eq_true, beq_iff_eq, and_true] <;> omega

theorem WordsW3.encW3_eq {w0 w1 w2 maj m d a : Nat} {lit : W32} (h : WordsW3 w0 w1 w2 maj m d a lit) : encW3 maj m d a lit = [w0, w1, w2] := by
  obtain ⟨hw, hlen, rfl, rfl, rfl, rfl, hrest, rfl⟩ := h
  simp only [fld, encW3, w3Rest, Bool.and_eq_true, beq_iff_eq, List.cons.injEq, and_true] at *
  omega

/-! ## Bytes (R5, R168) -/

theorem wordAt_leBytes_append_zero {v : Nat} (hv : v < 2 ^ 32) (rest : List Byte) : wordAt (leBytes 4 v ++ rest) 0 = v := by
  simp only [wordAt, leBytes, List.cons_append, List.getD_cons_zero, List.getD_cons_succ, BitVec.toNat_ofNat]
  omega

theorem wordAt_leBytes_append_add (v : Nat) (rest : List Byte) (k : Nat) : wordAt (leBytes 4 v ++ rest) (k + 4) = wordAt rest k := rfl

theorem wordAt_drop (bs : List Byte) (k : Nat) : wordAt (bs.drop k) 0 = wordAt bs k := by
  simp [wordAt, List.getD_eq_getElem?_getD, List.getElem?_drop]

theorem wordAt_lt (bs : List Byte) (k : Nat) : wordAt bs k < 2 ^ 32 := by
  simp only [wordAt]
  omega

theorem leBytes_wordAt_cons (a b c d : Byte) (rest : List Byte) : leBytes 4 (wordAt (a :: b :: c :: d :: rest) 0) = [a, b, c, d] := by
  simp only [wordAt, leBytes, List.getD_cons_zero, List.getD_cons_succ, List.cons.injEq, and_true]
  refine ⟨?_, ?_, ?_, ?_⟩ <;> apply BitVec.eq_of_toNat_eq <;> rw [BitVec.toNat_ofNat] <;> omega

/-- The word at an offset is that of the four bytes there. -/
theorem leBytes_wordAt {bs : List Byte} {k : Nat} (h : k + 4 ≤ bs.length) : leBytes 4 (wordAt bs k) = (bs.drop k).take 4 := by
  rw [← wordAt_drop]
  have hlen : 4 ≤ (bs.drop k).length := by rw [List.length_drop]; omega
  match bs.drop k, hlen with
  | a :: b :: c :: d :: rest, _ => exact leBytes_wordAt_cons a b c d rest

/-- The words from an offset up are the bytes there. -/
theorem wordBytes_wordAt {bs : List Byte} {n : Nat} (h : 4 * n ≤ bs.length) :
    wordBytes ((List.range n).map fun k => wordAt bs (4 * k)) = bs.take (4 * n) := by
  induction n with
  | zero => rfl
  | succ n ih =>
    have hhead := ih (by omega)
    unfold wordBytes at hhead ⊢
    rw [List.range_succ, List.map_append, List.flatMap_append, hhead, List.map_singleton, List.flatMap_singleton,
      leBytes_wordAt (by omega), ← List.take_add]
    rfl

end Sys2Proof.Machine
end

section
namespace Sys2Proof.Machine

open Sys2Proof Sys2Proof.Claim

/-! What the decoder accepts is well formed and encodes to the words it was read from (R187): one rule for each shape of a row of the encoding tables, then each
table by its rows. -/

/-- The words that an instruction is read from, as many as its length field says (R168, R169). -/
inductive Decodes : List Nat → Instr → Prop
  | one {w : Nat} {i : Instr} (bound : w < 2 ^ 32) (len : fld w 0 2 = 0) (dec : decW1 w = .ok i) : Decodes [w] i
  | two {w0 w1 : Nat} {i : Instr} (bound0 : w0 < 2 ^ 32) (bound1 : w1 < 2 ^ 32) (len : fld w0 0 2 = 1) (dec : decW2 w0 w1 = .ok i) :
      Decodes [w0, w1] i
  | three {w0 w1 w2 : Nat} {i : Instr} (bound0 : w0 < 2 ^ 32) (bound1 : w1 < 2 ^ 32) (bound2 : w2 < 2 ^ 32) (len : fld w0 0 2 = 2)
      (dec : decW3 w0 w1 w2 = .ok i) : Decodes [w0, w1, w2] i

/-- A well-formed instruction with its words. -/
def Encodes (i : Instr) (ws : List Nat) : Prop := i.wf = true ∧ encode i = ws

theorem need_eq_ok {b : Bool} {i j : Instr} : need b i = .ok j ↔ b = true ∧ i = j := by
  cases b <;> simp [need]

/-! ## Codes of operand types -/

theorem condCode_of_condOf {n : Nat} {c : Cond} (h : condOf n = some c) : condCode c = n := by
  unfold condOf at h
  split at h <;> cases h <;> rfl

theorem sregCode_of_sregOf {n : Nat} {r : SReg} (h : sregOf n = some r) : sregCode r = n := by
  unfold sregOf at h
  split at h <;> cases h <;> rfl

theorem ldSizeCode_of_ldSizeOf {n : Nat} {z : LdSize} (h : ldSizeOf n = some z) : ldSizeCode z = n := by
  unfold ldSizeOf at h
  split at h <;> cases h <;> rfl

theorem stSizeCode_of_stSizeOf {n : Nat} {z : StSize} (h : stSizeOf n = some z) : stSizeCode z = n := by
  unfold stSizeOf at h
  split at h <;> cases h <;> rfl

theorem eventCode_of_eventOf {n : Nat} {e : CtrEvent} (h : eventOf n = some e) : eventCode e = n := by
  unfold eventOf at h
  split at h
  case h_10 =>
    split at h
    · cases h
      simp only [eventCode]
      omega
    · cases h
  all_goals cases h; rfl

theorem rndCode_rndOf {n : Nat} (h : n < 4) : rndCode (rndOf n) = n := by
  match n, h with
  | 0, _ | 1, _ | 2, _ | 3, _ => rfl

theorem precCode_precOf {n : Nat} (h : n < 2) : precCode (precOf n) = n := by
  match n, h with
  | 0, _ | 1, _ => rfl

/-! ## Rows of W1.A words (R170) -/

section rowsA
variable {w maj m : Nat} {i : Instr} {x : Bool}

theorem encodes_of_wordA {d a b : Nat} (h : WordA w maj m d a b) (hf : i.wf = true) (he : encode i = encA maj m d a b) : Encodes i [w] :=
  ⟨hf, he.trans h.encA_eq⟩

theorem fld_8_15_eq_zero (h : fld w 8 15 = 0) : fld w 8 5 = 0 ∧ fld w 13 5 = 0 ∧ fld w 18 5 = 0 := by
  simp only [fld] at *
  omega

theorem fld_8_10_eq_zero (h : fld w 8 10 = 0) : fld w 8 5 = 0 ∧ fld w 13 5 = 0 := by
  simp only [fld] at *
  omega

theorem fld_13_10_eq_zero (h : fld w 13 10 = 0) : fld w 13 5 = 0 ∧ fld w 18 5 = 0 := by
  simp only [fld] at *
  omega

variable (hw : IsW1 w maj) (hm : fld w 23 9 = m)
include hw hm

theorem encodes_of_mk3 {c : Reg → Reg → Reg → Instr} (h : mk3 c w = .ok i) (hf : ∀ d a b, (c d a b).wf = true)
    (he : ∀ d a b : Reg, encode (c d a b) = encA maj m d.val a.val b.val) : Encodes i [w] := by
  cases h
  exact encodes_of_wordA ⟨hw, hm, rfl, rfl, rfl⟩ (hf _ _ _) (he _ _ _)

theorem encodes_of_mk2 {c : Reg → Reg → Instr} (h : mk2 c w = .ok i) (hf : ∀ d a, (c d a).wf = true)
    (he : ∀ d a : Reg, encode (c d a) = encA maj m d.val a.val 0) : Encodes i [w] := by
  obtain ⟨hz, rfl⟩ := need_eq_ok.1 h
  exact encodes_of_wordA ⟨hw, hm, rfl, rfl, beq_iff_eq.1 hz⟩ (hf _ _) (he _ _)

/-- A row with no operand. -/
theorem encodes_of_none {j : Instr} (h : need (fld w 8 15 == 0) j = .ok i) (hf : j.wf = true) (he : encode j = encA maj m 0 0 0) :
    Encodes i [w] := by
  obtain ⟨hz, rfl⟩ := need_eq_ok.1 h
  obtain ⟨hd, ha, hb⟩ := fld_8_15_eq_zero (beq_iff_eq.1 hz)
  exact encodes_of_wordA ⟨hw, hm, hd, ha, hb⟩ hf he

/-- A row with the first source alone. -/
theorem encodes_of_srcA {c : Reg → Instr} (h : need (fld w 8 5 == 0 && fld w 18 5 == 0) (c (rA w)) = .ok i) (hf : ∀ a, (c a).wf = true)
    (he : ∀ a : Reg, encode (c a) = encA maj m 0 a.val 0) : Encodes i [w] := by
  obtain ⟨hz, rfl⟩ := need_eq_ok.1 h
  simp only [Bool.and_eq_true, beq_iff_eq] at hz
  exact encodes_of_wordA ⟨hw, hm, hz.1, rfl, hz.2⟩ (hf _) (he _)

/-- A row with two sources and no destination. -/
theorem encodes_of_srcAB {c : Reg → Reg → Instr} (h : need (fld w 8 5 == 0) (c (rA w) (rB w)) = .ok i) (hf : ∀ a b, (c a b).wf = true)
    (he : ∀ a b : Reg, encode (c a b) = encA maj m 0 a.val b.val) : Encodes i [w] := by
  obtain ⟨hz, rfl⟩ := need_eq_ok.1 h
  exact encodes_of_wordA ⟨hw, hm, beq_iff_eq.1 hz, rfl, rfl⟩ (hf _ _) (he _ _)

/-- A row with a destination alone. -/
theorem encodes_of_dst {c : Reg → Instr} (h : need (fld w 13 10 == 0) (c (rD w)) = .ok i) (hf : ∀ d, (c d).wf = true)
    (he : ∀ d : Reg, encode (c d) = encA maj m d.val 0 0) : Encodes i [w] := by
  obtain ⟨hz, rfl⟩ := need_eq_ok.1 h
  obtain ⟨ha, hb⟩ := fld_13_10_eq_zero (beq_iff_eq.1 hz)
  exact encodes_of_wordA ⟨hw, hm, rfl, ha, hb⟩ (hf _) (he _)

end rowsA

/-! ## Rows of W1.I and W1.B words (R170) -/

section rowsI
variable {w maj : Nat} {i : Instr} (hw : IsW1 w maj)

theorem encodes_of_wordI {d a imm : Nat} (h : WordI w maj d a imm) (hf : i.wf = true) (he : encode i = encI maj d a imm) : Encodes i [w] :=
  ⟨hf, he.trans h.encI_eq⟩

include hw

theorem encodes_of_mkI {c : Reg → Reg → BitVec 14 → Instr} (h : mkI c w = .ok i) (hf : ∀ d a imm, (c d a imm).wf = true)
    (he : ∀ (d a : Reg) (imm : BitVec 14), encode (c d a imm) = encI maj d.val a.val imm.toNat) : Encodes i [w] := by
  cases h
  exact encodes_of_wordI ⟨hw, rfl, rfl, (toNat_immOf w).symm⟩ (hf _ _ _) (he _ _ _)

/-- A row with one register in the destination field and an immediate. -/
theorem encodes_of_dstImm {c : Reg → BitVec 14 → Instr} (h : need (fld w 13 5 == 0) (c (rD w) (immOf w)) = .ok i)
    (hf : ∀ d imm, (c d imm).wf = true) (he : ∀ (d : Reg) (imm : BitVec 14), encode (c d imm) = encI maj d.val 0 imm.toNat) : Encodes i [w] := by
  obtain ⟨hz, rfl⟩ := need_eq_ok.1 h
  exact encodes_of_wordI ⟨hw, rfl, beq_iff_eq.1 hz, (toNat_immOf w).symm⟩ (hf _ _) (he _ _)

/-- A row with an immediate alone. -/
theorem encodes_of_imm {c : BitVec 14 → Instr} (h : need (fld w 8 10 == 0) (c (immOf w)) = .ok i) (hf : ∀ imm, (c imm).wf = true)
    (he : ∀ imm : BitVec 14, encode (c imm) = encI maj 0 0 imm.toNat) : Encodes i [w] := by
  obtain ⟨hz, rfl⟩ := need_eq_ok.1 h
  obtain ⟨hd, ha⟩ := fld_8_10_eq_zero (beq_iff_eq.1 hz)
  exact encodes_of_wordI ⟨hw, hd, ha, (toNat_immOf w).symm⟩ (hf _) (he _)

/-- SEXT and ZEXT: the width is 1 to 64 (R202). -/
theorem encodes_of_width {c : Reg → Reg → BitVec 14 → Instr}
    (h : need (1 ≤ fld w 18 14 && fld w 18 14 ≤ 64) (c (rD w) (rA w) (immOf w)) = .ok i)
    (hf : ∀ d a n, (c d a n).wf = (decide (1 ≤ n.toNat) && decide (n.toNat ≤ 64)))
    (he : ∀ (d a : Reg) (n : BitVec 14), encode (c d a n) = encI maj d.val a.val n.toNat) : Encodes i [w] := by
  obtain ⟨hz, rfl⟩ := need_eq_ok.1 h
  exact encodes_of_wordI ⟨hw, rfl, rfl, (toNat_immOf w).symm⟩ ((hf _ _ _).trans (by rw [toNat_immOf]; exact hz)) (he _ _ _)

/-- BFX and BFI: the field lies in 64 bits (R203). -/
theorem encodes_of_bitfield {c : Reg → Reg → BitVec 6 → BitVec 6 → Instr}
    (h : need (fld w 30 2 == 0 && fld w 18 6 + fld w 24 6 < 64)
      (c (rD w) (rA w) (BitVec.ofNat 6 (w / 2 ^ 18)) (BitVec.ofNat 6 (w / 2 ^ 24))) = .ok i)
    (hf : ∀ d a p n, (c d a p n).wf = decide (p.toNat + n.toNat < 64))
    (he : ∀ (d a : Reg) (p n : BitVec 6), encode (c d a p n) = encI maj d.val a.val (p.toNat + n.toNat * 64)) : Encodes i [w] := by
  obtain ⟨hz, rfl⟩ := need_eq_ok.1 h
  simp only [Bool.and_eq_true, beq_iff_eq] at hz
  refine encodes_of_wordI ⟨hw, rfl, rfl, ?_⟩ ((hf _ _ _ _).trans ?_) (he _ _ _ _)
  · rw [toNat_ofNat_div, toNat_ofNat_div, fld_imm_bitfield, hz.1, Nat.zero_mul, Nat.add_zero]
  · rw [toNat_ofNat_div, toNat_ofNat_div]
    exact hz.2

end rowsI

/-! ## Tables of one major -/

section tables
variable {w : Nat} {i : Instr}

theorem encodes_of_decIntr (hw : IsW1 w 1) (h : decIntr (fld w 23 9) w = .ok i) : Encodes i [w] := by
  generalize hm : fld w 23 9 = m at h
  unfold decIntr at h
  split at h
  case h_22 | h_23 | h_24 | h_25 | h_26 => exact encodes_of_mk2 hw hm h (fun _ _ => rfl) (fun _ _ => rfl)
  case h_27 => cases h
  all_goals exact encodes_of_mk3 hw hm h (fun _ _ _ => rfl) (fun _ _ _ => rfl)

theorem encodes_of_decCapr (hw : IsW1 w 16) (h : decCapr (fld w 23 9) w = .ok i) : Encodes i [w] := by
  generalize hm : fld w 23 9 = m at h
  unfold decCapr at h
  split at h
  case h_1 | h_2 | h_3 | h_4 | h_9 | h_10 => exact encodes_of_mk2 hw hm h (fun _ _ => rfl) (fun _ _ => rfl)
  case h_13 => cases h
  all_goals exact encodes_of_mk3 hw hm h (fun _ _ _ => rfl) (fun _ _ _ => rfl)

theorem encodes_of_decCtl (hw : IsW1 w 25) (h : decCtl (fld w 23 9) w = .ok i) : Encodes i [w] := by
  generalize hm : fld w 23 9 = m at h
  unfold decCtl at h
  split at h
  case h_1 | h_2 | h_4 => exact encodes_of_none hw hm h rfl rfl
  case h_3 | h_5 => exact encodes_of_srcA hw hm h (fun _ => rfl) (fun _ => rfl)
  case h_6 => cases h

theorem encodes_of_decSys (hw : IsW1 w 49) (h : decSys (fld w 23 9) w = .ok i) : Encodes i [w] := by
  generalize hm : fld w 23 9 = m at h
  unfold decSys at h
  split at h
  case h_2 | h_7 => exact encodes_of_none hw hm h rfl rfl
  case h_4 | h_13 => exact encodes_of_srcA hw hm h (fun _ => rfl) (fun _ => rfl)
  case h_5 => exact encodes_of_srcAB hw hm h (fun _ _ => rfl) (fun _ _ => rfl)
  case h_3 | h_8 | h_10 | h_14 => exact encodes_of_mk2 hw hm h (fun _ _ => rfl) (fun _ _ => rfl)
  case h_15 => cases h
  all_goals exact encodes_of_mk3 hw hm h (fun _ _ _ => rfl) (fun _ _ _ => rfl)

theorem encodes_of_decWar (hw : IsW1 w 53) (h : decWar (fld w 23 9) w = .ok i) : Encodes i [w] := by
  generalize hm : fld w 23 9 = m at h
  unfold decWar at h
  split at h
  case h_4 => exact encodes_of_mk2 hw hm h (fun _ _ => rfl) (fun _ _ => rfl)
  case h_6 => cases h
  all_goals exact encodes_of_mk3 hw hm h (fun _ _ _ => rfl) (fun _ _ _ => rfl)

theorem encodes_of_decGov (hw : IsW1 w 54) (h : decGov (fld w 23 9) w = .ok i) : Encodes i [w] := by
  generalize hm : fld w 23 9 = m at h
  unfold decGov at h
  split at h
  · exact encodes_of_srcAB hw hm h (fun _ _ => rfl) (fun _ _ => rfl)
  · exact encodes_of_srcA hw hm h (fun _ => rfl) (fun _ => rfl)
  · cases h

theorem encodes_of_decRemote (hw : IsW1 w 46) (h : decRemote (fld w 23 9) w = .ok i) : Encodes i [w] := by
  generalize hm : fld w 23 9 = m at h
  unfold decRemote at h
  split at h
  case h_7 => cases h
  all_goals exact encodes_of_mk3 hw hm h (fun _ _ _ => rfl) (fun _ _ _ => rfl)

theorem encodes_of_decSync (hw : IsW1 w 47) (h : decSync (fld w 23 9) w = .ok i) : Encodes i [w] := by
  generalize hm : fld w 23 9 = m at h
  unfold decSync at h
  split at h
  case h_1 | h_2 | h_3 | h_4 => exact encodes_of_none hw hm h rfl rfl
  case h_36 => exact encodes_of_mk2 hw hm h (fun _ _ => rfl) (fun _ _ => rfl)
  case h_37 => cases h
  all_goals exact encodes_of_mk3 hw hm h (fun _ _ _ => rfl) (fun _ _ _ => rfl)

/-- The channel is in the low three bits of MINOR (R184). -/
theorem encodes_of_decChan (hw : IsW1 w 48) (h : decChan (fld w 23 9) w = .ok i) : Encodes i [w] := by
  generalize hm : fld w 23 9 = m at h
  have hminor : ∀ q, m / 8 = q → fld w 23 9 = 8 * q + (Fin.ofNat 8 m).val := fun q hq => by
    rw [hm, ← hq]
    exact (Nat.div_add_mod m 8).symm
  simp only [decChan] at h
  split at h
  case h_1 hq => exact encodes_of_srcAB hw ((hminor 0 hq).trans (Nat.zero_add _)) h (fun _ _ => rfl) (fun _ _ => rfl)
  case h_2 hq => exact encodes_of_mk2 hw (hminor 1 hq) h (fun _ _ => rfl) (fun _ _ => rfl)
  case h_3 hq => exact encodes_of_dst hw (hminor 2 hq) h (fun _ => rfl) (fun _ => rfl)
  case h_4 hq =>
    split at h
    case isTrue hrole => exact encodes_of_mk2 hw (hm.trans (beq_iff_eq.1 hrole)) h (fun _ _ => rfl) (fun _ _ => rfl)
    case isFalse => cases h
  case h_5 => cases h

/-- The kind of a counter in IMM14[13:12], its event below (R186). -/
theorem encodes_of_decCtr (hw : IsW1 w 52) (h : decCtr w = .ok i) : Encodes i [w] := by
  have himm : ∀ {e k}, eventOf (fld w 18 12) = some e → fld w 30 2 = k → fld w 18 14 = eventCode e + k * 4096 := fun he hk => by
    rw [fld_imm_ctr, eventCode_of_eventOf he, hk]
  unfold decCtr at h
  split at h
  case h_1 => cases h
  case h_2 e he =>
    split at h
    case h_4 => cases h
    all_goals
      obtain ⟨hz, rfl⟩ := need_eq_ok.1 h
      exact encodes_of_wordI ⟨hw, rfl, beq_iff_eq.1 hz, himm he ‹_›⟩ rfl rfl

/-! ## FOP (R183, R207) -/

/-- MINOR of a FOP word is made up of OP, P and RND. -/
theorem fop_minor {op : Nat} (hop : fld w 23 6 = op) :
    fld w 23 9 = op + precCode (precOf (fld w 29 1)) * 64 + rndCode (rndOf (fld w 30 2)) * 128 := by
  rw [precCode_precOf (fld_lt w 29 1), rndCode_rndOf (fld_lt w 30 2), ← hop, fld_minor_fop]

/-- A form that takes no rounding has RND 0. -/
theorem fop_minor_unrounded {op : Nat} (hop : fld w 23 6 = op) (hr : fld w 30 2 = 0) :
    fld w 23 9 = op + precCode (precOf (fld w 29 1)) * 64 + rndCode .rne * 128 := by
  rw [fop_minor hop, hr]
  rfl

theorem need_and_eq_ok {a b : Bool} {j : Instr} : need (a && b) j = .ok i ↔ a = true ∧ need b j = .ok i := by
  simp only [need_eq_ok, Bool.and_eq_true, and_assoc]

theorem rndOf_ne_sr {n : Nat} (hn : n < 4) (h : n ≠ 3) : (rndOf n != .sr) = true := by
  match n, hn, h with
  | 0, _, _ | 1, _, _ | 2, _, _ => rfl
  | 3, _, h => exact absurd rfl h

theorem encodes_of_decFop (hw : IsW1 w 14) (h : decFop w = .ok i) : Encodes i [w] := by
  unfold decFop at h
  dsimp only at h
  split at h
  case isTrue => cases h
  case isFalse hrnd =>
    have hr := rndOf_ne_sr (fld_lt w 30 2) (mt beq_iff_eq.2 hrnd)
    split at h
    case h_1 hop | h_2 hop | h_3 hop | h_4 hop => exact encodes_of_mk3 hw (fop_minor hop) h (fun _ _ _ => hr) (fun _ _ _ => rfl)
    case h_5 hop | h_6 hop =>
      obtain ⟨h0, rfl⟩ := need_eq_ok.1 h
      exact encodes_of_wordA ⟨hw, fop_minor_unrounded hop (beq_iff_eq.1 h0), rfl, rfl, rfl⟩ rfl rfl
    case h_7 hop | h_8 hop | h_9 hop | h_10 hop | h_11 hop =>
      obtain ⟨h0, h⟩ := need_and_eq_ok.1 h
      exact encodes_of_mk2 hw (fop_minor_unrounded hop (beq_iff_eq.1 h0)) h (fun _ _ => rfl) (fun _ _ => rfl)
    case h_22 hop =>
      split at h
      case isTrue hp =>
        obtain ⟨h0, h⟩ := need_and_eq_ok.1 h
        refine encodes_of_mk2 hw ((fop_minor_unrounded hop (beq_iff_eq.1 h0))) h (fun _ _ => rfl) (fun _ _ => ?_)
        rw [beq_iff_eq.1 hp]
        rfl
      case isFalse hp =>
        have hd : fld w 29 1 = 1 := by
          have := fld_lt w 29 1
          simp only [beq_iff_eq] at hp
          omega
        refine encodes_of_mk2 hw (fop_minor hop) h (fun _ _ => hr) (fun _ _ => ?_)
        rw [hd]
        rfl
    case h_27 => cases h
    all_goals
      rename_i hop
      exact encodes_of_mk2 hw (fop_minor hop) h (fun _ _ => hr) (fun _ _ => rfl)

/-! ## Comparisons, selection and single rows (R182, R186) -/

/-- MINOR of a comparison: one bit, the condition, the bit number. -/
theorem cmp_minor {c : Cond} (hc : condOf (fld w 24 3) = some c) : fld w 23 9 = fld w 23 1 + condCode c * 2 + (regOf w 27).val * 16 := by
  rw [condCode_of_condOf hc, val_regOf, fld_minor_cmp]

theorem encodes_cmp {c : Cond} (hw : IsW1 w 2) (hc : condOf (fld w 24 3) = some c) (hz : fld w 23 1 = 0) :
    Encodes (.cmp c (regOf w 27) (rD w) (rA w) (rB w)) [w] := by
  have hm := cmp_minor hc
  rw [hz, Nat.zero_add] at hm
  exact encodes_of_wordA ⟨hw, hm, rfl, rfl, rfl⟩ rfl rfl

theorem encodes_fcmp {c : Cond} (hw : IsW1 w 15) (hc : condOf (fld w 24 3) = some c) (hsigned : (c != .ltn && c != .len) = true) :
    Encodes (.fcmp (precOf (fld w 23 1)) c (regOf w 27) (rD w) (rA w) (rB w)) [w] := by
  have hm := cmp_minor hc
  rw [← precCode_precOf (fld_lt w 23 1)] at hm
  exact encodes_of_wordA ⟨hw, hm, rfl, rfl, rfl⟩ hsigned rfl

/-! ## W1 words (R178) -/

theorem encodes_of_decW1 (hb : w < 2 ^ 32) (hlen : fld w 0 2 = 0) (h : decW1 w = .ok i) : Encodes i [w] := by
  generalize hmaj : fld w 2 6 = maj at h
  have hw : IsW1 w maj := ⟨hb, hlen, hmaj⟩
  unfold decW1 at h
  dsimp only at h
  rw [hmaj] at h
  split at h
  case h_1 => exact encodes_of_decIntr hw h
  case h_2 =>
    split at h
    case h_1 => cases h
    case h_2 hc =>
      split at h
      case isTrue hz =>
        cases h
        exact encodes_cmp hw hc (beq_iff_eq.1 hz)
      case isFalse => cases h
  case h_3 =>
    cases h
    exact encodes_of_wordA ⟨hw, fld_minor_sel w, rfl, rfl, rfl⟩ rfl rfl
  case h_8 | h_21 | h_22 => exact encodes_of_dstImm hw h (fun _ _ => rfl) (fun _ _ => rfl)
  case h_9 =>
    split at h
    case isTrue => cases h
    case isFalse hz =>
      obtain ⟨ha, rfl⟩ := need_eq_ok.1 h
      refine encodes_of_wordI ⟨hw, rfl, beq_iff_eq.1 ha, ?_⟩ rfl rfl
      rw [toNat_ofNat_div, fld_imm_lk, show fld w 26 6 = 0 by simpa using hz, Nat.zero_mul, Nat.add_zero]
  case h_10 | h_11 => exact encodes_of_width hw h (fun _ _ _ => rfl) (fun _ _ _ => rfl)
  case h_12 | h_13 => exact encodes_of_bitfield hw h (fun _ _ _ _ => rfl) (fun _ _ _ _ => rfl)
  case h_14 => exact encodes_of_decFop hw h
  case h_15 =>
    split at h
    case h_1 => cases h
    case h_2 hc =>
      split at h
      case isTrue => cases h
      case isFalse hsigned =>
        cases h
        exact encodes_fcmp hw hc (by simpa using hsigned)
  case h_16 => exact encodes_of_decCapr hw h
  case h_18 | h_24 | h_26 => exact encodes_of_imm hw h (fun _ => rfl) (fun _ => rfl)
  case h_19 => exact encodes_of_mkI (c := .bt) hw h (fun _ _ _ => rfl) (fun _ _ _ => rfl)
  case h_20 => exact encodes_of_mkI (c := .bf) hw h (fun _ _ _ => rfl) (fun _ _ _ => rfl)
  case h_23 =>
    obtain ⟨hz, h⟩ := need_and_eq_ok.1 h
    obtain ⟨hr, rfl⟩ := need_eq_ok.1 h
    exact encodes_of_wordI ⟨hw, rfl, beq_iff_eq.1 hz, (toNat_immOf w).symm⟩ hr rfl
  case h_25 => exact encodes_of_decCtl hw h
  case h_46 => exact encodes_of_decRemote hw h
  case h_47 => exact encodes_of_decSync hw h
  case h_48 => exact encodes_of_decChan hw h
  case h_49 => exact encodes_of_decSys hw h
  case h_50 =>
    split at h
    case h_1 => cases h
    case h_2 r hr =>
      obtain ⟨ha, rfl⟩ := need_eq_ok.1 h
      exact encodes_of_wordI ⟨hw, rfl, beq_iff_eq.1 ha, (sregCode_of_sregOf hr).symm⟩ rfl rfl
  case h_51 =>
    split at h
    case h_1 => cases h
    case h_2 r hr =>
      split at h
      case isTrue => cases h
      case isFalse hro =>
        obtain ⟨hd, rfl⟩ := need_eq_ok.1 h
        exact encodes_of_wordI ⟨hw, beq_iff_eq.1 hd, rfl, (sregCode_of_sregOf hr).symm⟩ (show sregWritable r = true by simpa using hro) rfl
  case h_52 => exact encodes_of_decCtr hw h
  case h_53 => exact encodes_of_decWar hw h
  case h_54 => exact encodes_of_decGov hw h
  case h_55 =>
    split at h
    case isTrue => cases h
    case isFalse hz => exact encodes_of_mk2 hw (by simpa using hz) h (fun _ _ => rfl) (fun _ _ => rfl)
  case h_56 => cases h
  all_goals exact encodes_of_mkI hw h (fun _ _ _ => rfl) (fun _ _ _ => rfl)

/-! ## W2 instructions (R171, R179) -/

theorem w2Of_of_w2Make {maj : Nat} {f : W2} (h : w2Make maj f = some i) : w2Of i = some (maj, f) := by
  unfold w2Make at h
  split at h <;> cases h <;> rfl

theorem wf_of_w2Of {maj : Nat} {f : W2} (h : w2Of i = some (maj, f)) : i.wf = w2Wf maj f := by
  unfold w2Of at h
  split at h <;> cases h <;> rfl

theorem encode_of_w2Of {maj : Nat} {f : W2} (h : w2Of i = some (maj, f)) : encode i = encW2 maj f := by
  unfold w2Of at h
  split at h <;> cases h <;> rfl

theorem encodes_of_decW2 {w0 w1 : Nat} (h0 : w0 < 2 ^ 32) (h1 : w1 < 2 ^ 32) (hlen : fld w0 0 2 = 1) (h : decW2 w0 w1 = .ok i) :
    Encodes i [w0, w1] := by
  unfold decW2 at h
  dsimp only at h
  split at h
  case h_1 => cases h
  case h_2 hmake =>
    have hof := w2Of_of_w2Make hmake
    split at h
    case isTrue => cases h
    case isFalse hminor =>
      obtain ⟨hlimit, rfl⟩ := need_eq_ok.1 h
      refine ⟨(wf_of_w2Of hof).trans ?_, (encode_of_w2Of hof).trans (encW2_w2Fields h0 h1 hlen rfl)⟩
      rw [w2Wf, hlimit, Bool.and_true]
      simpa using hminor

/-! ## W3 instructions (R172, R180) -/

theorem encodes_of_wordsW3 {w0 w1 w2 maj m d a : Nat} {lit : W32} (h : WordsW3 w0 w1 w2 maj m d a lit) (hf : i.wf = true)
    (he : encode i = encW3 maj m d a lit) : Encodes i [w0, w1, w2] :=
  ⟨hf, he.trans h.encW3_eq⟩

theorem toNat_literal {w : Nat} (h : w < 2 ^ 32) : w = (BitVec.ofNat 32 w).toNat :=
  (Nat.mod_eq_of_lt h).symm.trans (BitVec.toNat_ofNat w 32).symm

/-- A W3 row with MINOR 0 and two registers. -/
theorem encodes_of_w3 {w0 w1 w2 maj : Nat} (h0 : w0 < 2 ^ 32) (hlen : fld w0 0 2 = 2) (hmaj : fld w0 2 6 = maj) (h2 : w2 < 2 ^ 32)
    {c : Reg → Reg → W32 → Instr}
    (h : (if fld w0 25 7 != 0 then .error .minor else need (w3Rest w0 w1) (c (rD w0) (rA w0) (BitVec.ofNat 32 w2)) : Dec) = .ok i)
    (hf : ∀ d a lit, (c d a lit).wf = true) (he : ∀ (d a : Reg) lit, encode (c d a lit) = encW3 maj 0 d.val a.val lit) :
    Encodes i [w0, w1, w2] := by
  split at h
  case isTrue => cases h
  case isFalse hm =>
    obtain ⟨hz, rfl⟩ := need_eq_ok.1 h
    exact encodes_of_wordsW3 ⟨h0, hlen, hmaj, by simpa using hm, rfl, rfl, hz, toNat_literal h2⟩ (hf _ _ _) (he _ _ _)

/-- A W3 row with MINOR 0 and the literal alone. -/
theorem encodes_of_w3Lit {w0 w1 w2 maj : Nat} (h0 : w0 < 2 ^ 32) (hlen : fld w0 0 2 = 2) (hmaj : fld w0 2 6 = maj) (h2 : w2 < 2 ^ 32)
    {c : W32 → Instr}
    (h : (if fld w0 25 7 != 0 then .error .minor else need (w3Rest w0 w1 && fld w0 8 10 == 0) (c (BitVec.ofNat 32 w2)) : Dec) = .ok i)
    (hf : ∀ lit, (c lit).wf = true) (he : ∀ lit, encode (c lit) = encW3 maj 0 0 0 lit) : Encodes i [w0, w1, w2] := by
  split at h
  case isTrue => cases h
  case isFalse hm =>
    obtain ⟨hz, h⟩ := need_and_eq_ok.1 h
    obtain ⟨hregs, rfl⟩ := need_eq_ok.1 h
    obtain ⟨hd, ha⟩ := fld_8_10_eq_zero (beq_iff_eq.1 hregs)
    exact encodes_of_wordsW3 ⟨h0, hlen, hmaj, by simpa using hm, hd, ha, hz, toNat_literal h2⟩ (hf _) (he _)

theorem encodes_of_decW3 {w0 w1 w2 : Nat} (h0 : w0 < 2 ^ 32) (hlen : fld w0 0 2 = 2) (h2 : w2 < 2 ^ 32) (h : decW3 w0 w1 w2 = .ok i) :
    Encodes i [w0, w1, w2] := by
  have hlit : w2 = (BitVec.ofNat 32 w2).toNat := toNat_literal h2
  unfold decW3 at h
  dsimp only at h
  split at h
  case h_1 hmaj =>
    split at h
    case isTrue => cases h
    case isFalse hm =>
      obtain ⟨hz, h⟩ := need_and_eq_ok.1 h
      obtain ⟨ha, rfl⟩ := need_eq_ok.1 h
      refine encodes_of_wordsW3 ⟨h0, hlen, hmaj, ?_, rfl, beq_iff_eq.1 ha, hz, hlit⟩ rfl rfl
      rcases Nat.le_one_iff_eq_zero_or_eq_one.1 (not_lt.1 hm) with h | h <;> rw [h] <;> rfl
  case h_6 hmaj | h_7 hmaj => exact encodes_of_w3Lit h0 hlen hmaj h2 h (fun _ => rfl) (fun _ => rfl)
  case h_8 hmaj =>
    split at h
    case h_1 => cases h
    case h_2 z hm =>
      obtain ⟨hz, rfl⟩ := need_eq_ok.1 h
      exact encodes_of_wordsW3 ⟨h0, hlen, hmaj, (ldSizeCode_of_ldSizeOf hm).symm, rfl, rfl, hz, hlit⟩ rfl rfl
  case h_9 hmaj =>
    split at h
    case h_1 => cases h
    case h_2 z hm =>
      obtain ⟨hz, rfl⟩ := need_eq_ok.1 h
      exact encodes_of_wordsW3 ⟨h0, hlen, hmaj, (stSizeCode_of_stSizeOf hm).symm, rfl, rfl, hz, hlit⟩ rfl rfl
  case h_15 => cases h
  all_goals
    rename_i hmaj
    exact encodes_of_w3 h0 hlen hmaj h2 h (fun _ _ _ => rfl) (fun _ _ _ => rfl)

/-- Words from which an instruction is read are those of its encoding, and it is well formed. -/
theorem Decodes.encodes {ws : List Nat} (h : Decodes ws i) : Encodes i ws := by
  cases h with
  | one hb hlen hdec => exact encodes_of_decW1 hb hlen hdec
  | two h0 h1 hlen hdec => exact encodes_of_decW2 h0 h1 hlen hdec
  | three h0 h1 h2 hlen hdec => exact encodes_of_decW3 h0 hlen h2 hdec

/-! ## Bytes (R168, R169) -/

/-- Bytes that decode begin with the words of an instruction, as many as the length field says. -/
theorem decodes_of_decodeBytes {bs : List Byte} (h : decodeBytes bs = .ok i) :
    Decodes ((List.range (wordCount (wordAt bs 0))).map fun k => wordAt bs (4 * k)) i := by
  have hb := wordAt_lt bs
  unfold decodeBytes decodeWords at h
  generalize hn : wordCount (wordAt bs 0) = n at h
  unfold wordCount at hn
  split at h
  case h_1 =>
    split at hn
    case h_1 hlen => exact .one (hb 0) hlen h
    all_goals cases hn
  case h_2 =>
    split at hn
    case h_2 hlen => exact .two (hb 0) (hb 4) hlen h
    all_goals cases hn
  case h_3 =>
    split at hn
    case h_3 hlen => exact .three (hb 0) (hb 4) (hb 8) hlen h
    all_goals cases hn
  case h_4 => cases h

end tables

/-- Settles O57: what decodes is read from the words at the head of the bytes, and each row of the decoder is the row of the encoder. -/
theorem encodingUndoesDecoding : Obligations.EncodingUndoesDecoding := by
  unfold Obligations.EncodingUndoesDecoding
  intro bs i hbytes h
  obtain ⟨hwf, hwords⟩ := (decodes_of_decodeBytes h).encodes
  have hlen : (encode i).length = wordCount (wordAt bs 0) := by rw [hwords, List.length_map, List.length_range]
  refine ⟨hwf, hlen, ?_⟩
  have hcount : wordCount (wordAt bs 0) ≤ 3 := by
    unfold wordCount
    split <;> omega
  rw [hlen, hwords]
  exact wordBytes_wordAt (by omega)

end Sys2Proof.Machine
end

section
namespace Sys2Proof.Machine

open Sys2Proof Sys2Proof.Claim

/-! The decoder reads every well-formed instruction back from its words (R168 to R187): one rule for each shape of a row, then one line for each group of
instructions that share a shape. -/

/-! ## Codes of operand types -/

theorem condOf_condCode (c : Cond) : condOf (condCode c) = some c := by cases c <;> rfl

theorem rndOf_rndCode (r : Rnd) : rndOf (rndCode r) = r := by cases r <;> rfl

theorem precOf_precCode (p : Prec) : precOf (precCode p) = p := by cases p <;> rfl

theorem sregOf_sregCode (r : SReg) : sregOf (sregCode r) = some r := by cases r <;> rfl

theorem condCode_lt (c : Cond) : condCode c < 8 := by cases c <;> decide

theorem precCode_lt (p : Prec) : precCode p < 2 := by cases p <;> decide

theorem rndCode_lt {r : Rnd} (h : (r != .sr) = true) : rndCode r < 3 := by
  cases r with
  | sr => cases h
  | _ => decide

theorem sregCode_lt (r : SReg) : sregCode r < 2 ^ 14 := by cases r <;> decide

theorem eventCode_lt (e : CtrEvent) : eventCode e < 2 ^ 12 := by
  cases e with
  | issued n => simp only [eventCode]; omega
  | _ => decide

/-! ## Operands of W1 words -/

section operands
variable {w maj m x y z : Nat}

theorem WordA.rD_eq {d : Reg} (h : WordA w maj m d.val x y) : rD w = d := regOf_eq h.dst

theorem WordA.rA_eq {a : Reg} (h : WordA w maj m x a.val y) : rA w = a := regOf_eq h.srcA

theorem WordA.rB_eq {b : Reg} (h : WordA w maj m x y b.val) : rB w = b := regOf_eq h.srcB

theorem WordI.rD_eq {d : Reg} (h : WordI w maj d.val x y) : rD w = d := regOf_eq h.dst

theorem WordI.rA_eq {a : Reg} (h : WordI w maj x a.val y) : rA w = a := regOf_eq h.srcA

theorem WordI.immOf_eq {imm : BitVec 14} (h : WordI w maj x y imm.toNat) : immOf w = imm := ofNat_div_eq h.imm

end operands

/-! ## Rows of W1.A words -/

section rowsA
variable {maj m : Nat} {T : Nat → Nat → Dec} {i : Instr}

theorem decodes_of_encA {d a b : Nat} (he : encode i = encA maj m d a b) (hmaj : maj < 64) (hm : m < 512) (hd : d < 32) (ha : a < 32)
    (hb : b < 32) (h : ∀ w, WordA w maj m d a b → decW1 w = .ok i) : Decodes (encode i) i := by
  obtain ⟨w, hwords, hw⟩ := encA_fields hmaj hm hd ha hb
  rw [he, hwords]
  exact .one hw.bound hw.len (h w hw)

/-- A table of a major, read at MINOR. -/
def IsTable (maj : Nat) (T : Nat → Nat → Dec) : Prop := maj < 64 ∧ ∀ w, fld w 2 6 = maj → decW1 w = T (fld w 23 9) w

variable (hT : IsTable maj T) (hm : m < 512)
include hT hm

theorem decodes_mk3 {c : Reg → Reg → Reg → Instr} {d a b : Reg} (hrow : ∀ w, T m w = mk3 c w)
    (he : encode (c d a b) = encA maj m d.val a.val b.val) : Decodes (encode (c d a b)) (c d a b) := by
  refine decodes_of_encA he hT.1 hm d.2 a.2 b.2 fun w h => ?_
  rw [hT.2 w h.maj, h.minor, hrow, mk3, h.rD_eq, h.rA_eq, h.rB_eq]

theorem decodes_mk2 {c : Reg → Reg → Instr} {d a : Reg} (hrow : ∀ w, T m w = mk2 c w) (he : encode (c d a) = encA maj m d.val a.val 0) :
    Decodes (encode (c d a)) (c d a) := by
  refine decodes_of_encA he hT.1 hm d.2 a.2 (by decide) fun w h => ?_
  rw [hT.2 w h.maj, h.minor, hrow, mk2, h.srcB, h.rD_eq, h.rA_eq]
  rfl

theorem decodes_none (hrow : ∀ w, T m w = need (fld w 8 15 == 0) i) (he : encode i = encA maj m 0 0 0) : Decodes (encode i) i := by
  refine decodes_of_encA he hT.1 hm (by decide) (by decide) (by decide) fun w h => ?_
  rw [hT.2 w h.maj, h.minor, hrow, fld_add w 8 5 10, fld_add w 13 5 5, h.dst, h.srcA, h.srcB]
  rfl

theorem decodes_srcA {c : Reg → Instr} {a : Reg} (hrow : ∀ w, T m w = need (fld w 8 5 == 0 && fld w 18 5 == 0) (c (rA w)))
    (he : encode (c a) = encA maj m 0 a.val 0) : Decodes (encode (c a)) (c a) := by
  refine decodes_of_encA he hT.1 hm (by decide) a.2 (by decide) fun w h => ?_
  rw [hT.2 w h.maj, h.minor, hrow, h.dst, h.srcB, h.rA_eq]
  rfl

theorem decodes_srcAB {c : Reg → Reg → Instr} {a b : Reg} (hrow : ∀ w, T m w = need (fld w 8 5 == 0) (c (rA w) (rB w)))
    (he : encode (c a b) = encA maj m 0 a.val b.val) : Decodes (encode (c a b)) (c a b) := by
  refine decodes_of_encA he hT.1 hm (by decide) a.2 b.2 fun w h => ?_
  rw [hT.2 w h.maj, h.minor, hrow, h.dst, h.rA_eq, h.rB_eq]
  rfl

theorem decodes_dst {c : Reg → Instr} {d : Reg} (hrow : ∀ w, T m w = need (fld w 13 10 == 0) (c (rD w)))
    (he : encode (c d) = encA maj m d.val 0 0) : Decodes (encode (c d)) (c d) := by
  refine decodes_of_encA he hT.1 hm d.2 (by decide) (by decide) fun w h => ?_
  rw [hT.2 w h.maj, h.minor, hrow, fld_add w 13 5 5, h.srcA, h.srcB, h.rD_eq]
  rfl

end rowsA

/-! ## Rows of W1.I and W1.B words -/

section rowsI
variable {maj : Nat} {i : Instr}

theorem decodes_of_encI {d a imm : Nat} (he : encode i = encI maj d a imm) (hmaj : maj < 64) (hd : d < 32) (ha : a < 32) (himm : imm < 2 ^ 14)
    (h : ∀ w, WordI w maj d a imm → decW1 w = .ok i) : Decodes (encode i) i := by
  obtain ⟨w, hwords, hw⟩ := encI_fields hmaj hd ha himm
  rw [he, hwords]
  exact .one hw.bound hw.len (h w hw)

variable (hmaj : maj < 64)
include hmaj

theorem decodes_mkI {c : Reg → Reg → BitVec 14 → Instr} {d a : Reg} {imm : BitVec 14} (hrow : ∀ w, fld w 2 6 = maj → decW1 w = mkI c w)
    (he : encode (c d a imm) = encI maj d.val a.val imm.toNat) : Decodes (encode (c d a imm)) (c d a imm) := by
  refine decodes_of_encI he hmaj d.2 a.2 imm.isLt fun w h => ?_
  rw [hrow w h.maj, mkI, h.rD_eq, h.rA_eq, h.immOf_eq]

theorem decodes_dstImm {c : Reg → BitVec 14 → Instr} {d : Reg} {imm : BitVec 14}
    (hrow : ∀ w, fld w 2 6 = maj → decW1 w = need (fld w 13 5 == 0) (c (rD w) (immOf w)))
    (he : encode (c d imm) = encI maj d.val 0 imm.toNat) : Decodes (encode (c d imm)) (c d imm) := by
  refine decodes_of_encI he hmaj d.2 (by decide) imm.isLt fun w h => ?_
  rw [hrow w h.maj, h.srcA, h.rD_eq, h.immOf_eq]
  rfl

theorem decodes_imm {c : BitVec 14 → Instr} {imm : BitVec 14} (hrow : ∀ w, fld w 2 6 = maj → decW1 w = need (fld w 8 10 == 0) (c (immOf w)))
    (he : encode (c imm) = encI maj 0 0 imm.toNat) : Decodes (encode (c imm)) (c imm) := by
  refine decodes_of_encI he hmaj (by decide) (by decide) imm.isLt fun w h => ?_
  rw [hrow w h.maj, fld_add w 8 5 5, h.dst, h.srcA, h.immOf_eq]
  rfl

theorem decodes_width {c : Reg → Reg → BitVec 14 → Instr} {d a : Reg} {n : BitVec 14}
    (hrow : ∀ w, fld w 2 6 = maj → decW1 w = need (1 ≤ fld w 18 14 && fld w 18 14 ≤ 64) (c (rD w) (rA w) (immOf w)))
    (hn : (decide (1 ≤ n.toNat) && decide (n.toNat ≤ 64)) = true) (he : encode (c d a n) = encI maj d.val a.val n.toNat) :
    Decodes (encode (c d a n)) (c d a n) := by
  refine decodes_of_encI he hmaj d.2 a.2 n.isLt fun w h => ?_
  rw [hrow w h.maj, h.imm, h.rD_eq, h.rA_eq, h.immOf_eq]
  exact need_eq_ok.2 ⟨hn, rfl⟩

theorem decodes_bitfield {c : Reg → Reg → BitVec 6 → BitVec 6 → Instr} {d a : Reg} {p n : BitVec 6}
    (hrow : ∀ w, fld w 2 6 = maj → decW1 w = need (fld w 30 2 == 0 && fld w 18 6 + fld w 24 6 < 64)
      (c (rD w) (rA w) (BitVec.ofNat 6 (w / 2 ^ 18)) (BitVec.ofNat 6 (w / 2 ^ 24))))
    (hn : decide (p.toNat + n.toNat < 64) = true) (he : encode (c d a p n) = encI maj d.val a.val (p.toNat + n.toNat * 64)) :
    Decodes (encode (c d a p n)) (c d a p n) := by
  refine decodes_of_encI he hmaj d.2 a.2 (by omega) fun w h => ?_
  have hparts := fld_imm_bitfield w
  have himm := h.imm
  have hpos := fld_lt w 18 6
  have hwidth := fld_lt w 24 6
  have hp : fld w 18 6 = p.toNat := by omega
  have hw : fld w 24 6 = n.toNat := by omega
  have hz : fld w 30 2 = 0 := by omega
  rw [hrow w h.maj, h.rD_eq, h.rA_eq, ofNat_div_eq hp, ofNat_div_eq hw, hp, hw, hz]
  exact need_eq_ok.2 ⟨hn, rfl⟩

end rowsI

/-! ## Tables of one major -/

theorem isTable_intr : IsTable 1 decIntr := ⟨by decide, fun w h => by rw [decW1, h]; rfl⟩

theorem isTable_capr : IsTable 16 decCapr := ⟨by decide, fun w h => by rw [decW1, h]; rfl⟩

theorem isTable_ctl : IsTable 25 decCtl := ⟨by decide, fun w h => by rw [decW1, h]; rfl⟩

theorem isTable_remote : IsTable 46 decRemote := ⟨by decide, fun w h => by rw [decW1, h]; rfl⟩

theorem isTable_sync : IsTable 47 decSync := ⟨by decide, fun w h => by rw [decW1, h]; rfl⟩

theorem isTable_chan : IsTable 48 decChan := ⟨by decide, fun w h => by rw [decW1, h]; rfl⟩

theorem isTable_sys : IsTable 49 decSys := ⟨by decide, fun w h => by rw [decW1, h]; rfl⟩

theorem isTable_war : IsTable 53 decWar := ⟨by decide, fun w h => by rw [decW1, h]; rfl⟩

theorem isTable_gov : IsTable 54 decGov := ⟨by decide, fun w h => by rw [decW1, h]; rfl⟩

theorem decW1_fop {w : Nat} (h : fld w 2 6 = 14) : decW1 w = decFop w := by rw [decW1, h]; rfl

theorem decW1_ctr {w : Nat} (h : fld w 2 6 = 52) : decW1 w = decCtr w := by rw [decW1, h]; rfl

/-! The channel is in the low three bits of MINOR (R184). -/

theorem decChan_send (c : Fin 8) (w : Nat) : decChan c.val w = need (fld w 8 5 == 0) (.send c (rA w) (rB w)) := by fin_cases c <;> rfl

theorem decChan_recv (c : Fin 8) (w : Nat) : decChan (8 + c.val) w = mk2 (.recv c) w := by fin_cases c <;> rfl

theorem decChan_chq (c : Fin 8) (w : Nat) : decChan (16 + c.val) w = need (fld w 13 10 == 0) (.chq c (rD w)) := by fin_cases c <;> rfl

/-! ## FOP (R183, R207) -/

section fop
variable {r : Rnd} {p : Prec} {op : Nat} (hr : (r != .sr) = true) (hop : op < 64)
include hr hop

theorem decodes_of_encF {i : Instr} {d a b : Nat} (he : encode i = encF r p op d a b) (hd : d < 32) (ha : a < 32) (hb : b < 32)
    (h : ∀ w, WordA w 14 (op + precCode p * 64 + rndCode r * 128) d a b → fld w 23 6 = op → fld w 29 1 = precCode p →
      fld w 30 2 = rndCode r → (fld w 30 2 == 3) = false → decFop w = .ok i) : Decodes (encode i) i := by
  have hrnd := rndCode_lt hr
  have hprec := precCode_lt p
  refine decodes_of_encA he (by decide) (by omega) hd ha hb fun w hw => (decW1_fop hw.maj).trans ?_
  have hparts := fld_minor_fop w
  have hminor := hw.minor
  have hfop := fld_lt w 23 6
  have hfprec := fld_lt w 29 1
  have hR : fld w 30 2 = rndCode r := by omega
  exact h w hw (by omega) (by omega) hR (by rw [hR]; exact beq_false_of_ne (by omega))

theorem decodes_fop3 {c : Rnd → Prec → Reg → Reg → Reg → Instr} {d a b : Reg}
    (hrow : ∀ w, fld w 23 6 = op → (fld w 30 2 == 3) = false → decFop w = mk3 (c (rndOf (fld w 30 2)) (precOf (fld w 29 1))) w)
    (he : encode (c r p d a b) = encF r p op d.val a.val b.val) : Decodes (encode (c r p d a b)) (c r p d a b) := by
  refine decodes_of_encF hr hop he d.2 a.2 b.2 fun w hw hO hP hR h3 => ?_
  rw [hrow w hO h3, hR, hP, rndOf_rndCode, precOf_precCode, mk3, hw.rD_eq, hw.rA_eq, hw.rB_eq]

theorem decodes_fop2 {c : Rnd → Prec → Reg → Reg → Instr} {d a : Reg}
    (hrow : ∀ w, fld w 23 6 = op → (fld w 30 2 == 3) = false → decFop w = mk2 (c (rndOf (fld w 30 2)) (precOf (fld w 29 1))) w)
    (he : encode (c r p d a) = encF r p op d.val a.val 0) : Decodes (encode (c r p d a)) (c r p d a) := by
  refine decodes_of_encF hr hop he d.2 a.2 (by decide) fun w hw hO hP hR h3 => ?_
  rw [hrow w hO h3, hR, hP, rndOf_rndCode, precOf_precCode, mk2, hw.srcB, hw.rD_eq, hw.rA_eq]
  rfl

omit hr

theorem decodes_fopUnrounded3 {c : Prec → Reg → Reg → Reg → Instr} {d a b : Reg}
    (hrow : ∀ w, fld w 23 6 = op → (fld w 30 2 == 3) = false →
      decFop w = need (fld w 30 2 == 0) (c (precOf (fld w 29 1)) (rD w) (rA w) (rB w)))
    (he : encode (c p d a b) = encF .rne p op d.val a.val b.val) : Decodes (encode (c p d a b)) (c p d a b) := by
  refine decodes_of_encF rfl hop he d.2 a.2 b.2 fun w hw hO hP hR h3 => ?_
  rw [hrow w hO h3, hR, hP, precOf_precCode, hw.rD_eq, hw.rA_eq, hw.rB_eq]
  rfl

theorem decodes_fopUnrounded2 {c : Prec → Reg → Reg → Instr} {d a : Reg}
    (hrow : ∀ w, fld w 23 6 = op → (fld w 30 2 == 3) = false →
      decFop w = need (fld w 30 2 == 0 && fld w 18 5 == 0) (c (precOf (fld w 29 1)) (rD w) (rA w)))
    (he : encode (c p d a) = encF .rne p op d.val a.val 0) : Decodes (encode (c p d a)) (c p d a) := by
  refine decodes_of_encF rfl hop he d.2 a.2 (by decide) fun w hw hO hP hR h3 => ?_
  rw [hrow w hO h3, hR, hP, precOf_precCode, hw.srcB, hw.rD_eq, hw.rA_eq]
  rfl

end fop

theorem decodes_fcvtSTod (d a : Reg) : Decodes (encode (.fcvtSTod d a)) (.fcvtSTod d a) := by
  refine decodes_of_encF (r := .rne) (p := .s) (op := 24) rfl (by decide) rfl d.2 a.2 (by decide) fun w hw hO hP hR h3 => ?_
  rw [decFop, hR, hO, hP, hw.srcB, hw.rD_eq, hw.rA_eq]
  rfl

theorem decodes_fcvtDTos {r : Rnd} (hr : (r != .sr) = true) (d a : Reg) : Decodes (encode (.fcvtDTos r d a)) (.fcvtDTos r d a) := by
  refine decodes_of_encF (p := .d) (op := 24) hr (by decide) rfl d.2 a.2 (by decide) fun w hw hO hP hR h3 => ?_
  have hrow : decFop w = mk2 (.fcvtDTos r) w := by
    rw [decFop, h3, hR, hO, hP, rndOf_rndCode]
    rfl
  rw [hrow, mk2, hw.srcB, hw.rD_eq, hw.rA_eq]
  rfl

/-! ## Comparisons, selection and single rows (R182, R186) -/

/-- MINOR of a comparison: one bit, the condition, the bit number. -/
theorem cmp_fields {w x : Nat} {c : Cond} {t : Fin 32} (hx : x < 2) (h : fld w 23 9 = x + condCode c * 2 + t.val * 16) :
    fld w 23 1 = x ∧ condOf (fld w 24 3) = some c ∧ regOf w 27 = t := by
  have hparts := fld_minor_cmp w
  have hlow := fld_lt w 23 1
  have hcond := fld_lt w 24 3
  have hc := condCode_lt c
  refine ⟨by omega, ?_, regOf_eq (by omega)⟩
  rw [show fld w 24 3 = condCode c by omega, condOf_condCode]

theorem decodes_cmp (c : Cond) (t : Fin 32) (d a b : Reg) : Decodes (encode (.cmp c t d a b)) (.cmp c t d a b) := by
  have hc := condCode_lt c
  refine decodes_of_encA rfl (by decide) (by omega) d.2 a.2 b.2 fun w h => ?_
  obtain ⟨hz, hcond, ht⟩ := cmp_fields (x := 0) (by decide) (h.minor.trans (by rw [Nat.zero_add]))
  rw [decW1, h.maj, hcond, hz, ht, h.rD_eq, h.rA_eq, h.rB_eq]
  rfl

theorem decodes_fcmp (p : Prec) {c : Cond} (hc : (c != .ltn && c != .len) = true) (t : Fin 32) (d a b : Reg) :
    Decodes (encode (.fcmp p c t d a b)) (.fcmp p c t d a b) := by
  have hcode := condCode_lt c
  have hprec := precCode_lt p
  refine decodes_of_encA rfl (by decide) (by omega) d.2 a.2 b.2 fun w h => ?_
  obtain ⟨hp, hcond, ht⟩ := cmp_fields hprec h.minor
  rw [decW1, h.maj, hcond, hp, ht, h.rD_eq, h.rA_eq, h.rB_eq, precOf_precCode]
  exact if_neg (by simpa using hc)

theorem decodes_sel (p : Reg) (t : Fin 16) (d a b : Reg) : Decodes (encode (.sel p t d a b)) (.sel p t d a b) := by
  refine decodes_of_encA rfl (by decide) (by omega) d.2 a.2 b.2 fun w h => ?_
  have hparts := fld_minor_sel w
  have hminor := h.minor
  have hlow := fld_lt w 23 4
  have ht : Fin.ofNat 16 (w / 2 ^ 23) = t := Fin.ext (show fld w 23 4 = t.val by omega)
  have hp : regOf w 27 = p := regOf_eq (by omega)
  rw [decW1, h.maj, ht, hp, h.rD_eq, h.rA_eq, h.rB_eq]
  rfl

theorem decodes_lk (d : Reg) (k : BitVec 8) : Decodes (encode (.lk d k)) (.lk d k) := by
  refine decodes_of_encI rfl (by decide) d.2 (by decide) (by omega) fun w h => ?_
  have hparts := fld_imm_lk w
  have himm := h.imm
  have hlow := fld_lt w 18 8
  have hk : fld w 18 8 = k.toNat := by omega
  rw [decW1, h.maj, show fld w 26 6 = 0 by omega, ofNat_div_eq hk, h.srcA, h.rD_eq]
  rfl

theorem decodes_loop {r : Reg} (hr : (r.val != 0) = true) (disp : BitVec 14) : Decodes (encode (.loop r disp)) (.loop r disp) := by
  refine decodes_of_encI rfl (by decide) r.2 (by decide) disp.isLt fun w h => ?_
  rw [decW1, h.maj, h.srcA, h.dst, h.rD_eq, h.immOf_eq]
  exact need_eq_ok.2 ⟨hr, rfl⟩

theorem decodes_mfs (d : Reg) (r : SReg) : Decodes (encode (.mfs d r)) (.mfs d r) := by
  refine decodes_of_encI rfl (by decide) d.2 (by decide) (sregCode_lt r) fun w h => ?_
  rw [decW1, h.maj, h.imm, sregOf_sregCode, h.srcA, h.rD_eq]
  rfl

theorem decodes_mts {r : SReg} (hr : sregWritable r = true) (a : Reg) : Decodes (encode (.mts r a)) (.mts r a) := by
  refine decodes_of_encI rfl (by decide) (by decide) a.2 (sregCode_lt r) fun w h => ?_
  rw [decW1, h.maj, h.imm, sregOf_sregCode, h.dst, h.rA_eq]
  exact if_neg (by rw [hr]; decide)

theorem decodes_ctr {c : Reg → CtrEvent → Instr} {d : Reg} {e : CtrEvent} {k : Nat} (hk : k < 3)
    (hrow : ∀ w, eventOf (fld w 18 12) = some e → fld w 30 2 = k → decCtr w = need (fld w 13 5 == 0) (c (rD w) e))
    (he : encode (c d e) = encI 52 d.val 0 (eventCode e + k * 4096)) : Decodes (encode (c d e)) (c d e) := by
  have hcode := eventCode_lt e
  refine decodes_of_encI he (by decide) d.2 (by decide) (by omega) fun w h => ?_
  have hparts := fld_imm_ctr w
  have himm := h.imm
  have hlow := fld_lt w 18 12
  have hevent : fld w 18 12 = eventCode e := by omega
  rw [decW1_ctr h.maj, hrow w (by rw [hevent, eventOf_eventCode]) (by omega), h.srcA, h.rD_eq]
  rfl

theorem decodes_wellq (d a : Reg) : Decodes (encode (.wellq d a)) (.wellq d a) := by
  refine decodes_of_encA rfl (by decide) (by decide) d.2 a.2 (by decide) fun w h => ?_
  rw [decW1, h.maj, h.minor, mk2, h.srcB, h.rD_eq, h.rA_eq]
  rfl

/-! ## W2 instructions (R171, R179) -/

theorem w2Make_of_w2Of {i : Instr} {maj : Nat} {f : W2} (h : w2Of i = some (maj, f)) : maj < 64 ∧ w2Make maj f = some i := by
  unfold w2Of at h
  split at h <;> cases h <;> exact ⟨by decide, rfl⟩

theorem decodes_of_w2Of {i : Instr} {maj : Nat} {f : W2} (h : w2Of i = some (maj, f)) (hf : w2Wf maj f = true) : Decodes (encode i) i := by
  obtain ⟨hmaj, hmake⟩ := w2Make_of_w2Of h
  obtain ⟨w0, w1, hwords, h0, h1, hlen, hw, hfields⟩ := encW2_fields f hmaj
  obtain ⟨hminor, hlimit⟩ := (Bool.and_eq_true _ _).mp hf
  rw [encode_of_w2Of h, hwords]
  refine .two h0 h1 hlen ?_
  rw [decW2, hw, hfields, hmake]
  dsimp only
  rw [hminor, hlimit]
  rfl

/-! ## W3 instructions (R172, R180) -/

section rowsW3
variable {maj m : Nat}

theorem decodes_of_encW3 {i : Instr} {d a : Nat} {lit : W32} (he : encode i = encW3 maj m d a lit) (hmaj : maj < 64) (hm : m < 128)
    (hd : d < 32) (ha : a < 32) (h : ∀ w0 w1 w2, WordsW3 w0 w1 w2 maj m d a lit → decW3 w0 w1 w2 = .ok i) : Decodes (encode i) i := by
  obtain ⟨w0, w1, w2, hwords, hw⟩ := encW3_fields lit hmaj hm hd ha
  have hrest := hw.rest
  simp only [w3Rest, Bool.and_eq_true, beq_iff_eq] at hrest
  rw [he, hwords]
  exact .three hw.bound (by omega) (hw.lit ▸ lit.isLt) hw.len (h w0 w1 w2 hw)

theorem WordsW3.lit_eq {w0 w1 w2 d a : Nat} {lit : W32} (h : WordsW3 w0 w1 w2 maj m d a lit) : BitVec.ofNat 32 w2 = lit := by
  rw [h.lit, BitVec.ofNat_toNat, BitVec.setWidth_eq]

theorem decodes_w3 {c : Reg → Reg → W32 → Instr} {d a : Reg} {lit : W32} (hmaj : maj < 64) (hm : m < 128)
    (hrow : ∀ w0 w1 w2, fld w0 2 6 = maj → fld w0 25 7 = m →
      decW3 w0 w1 w2 = need (w3Rest w0 w1) (c (rD w0) (rA w0) (BitVec.ofNat 32 w2)))
    (he : encode (c d a lit) = encW3 maj m d.val a.val lit) : Decodes (encode (c d a lit)) (c d a lit) := by
  refine decodes_of_encW3 he hmaj hm d.2 a.2 fun w0 w1 w2 h => ?_
  rw [hrow w0 w1 w2 h.maj h.minor, h.rest, h.lit_eq, show rD w0 = d from regOf_eq h.dst, show rA w0 = a from regOf_eq h.srcA]
  rfl

theorem decodes_w3Lit {c : W32 → Instr} {lit : W32} (hmaj : maj < 64)
    (hrow : ∀ w0 w1 w2, fld w0 2 6 = maj → fld w0 25 7 = 0 →
      decW3 w0 w1 w2 = need (w3Rest w0 w1 && fld w0 8 10 == 0) (c (BitVec.ofNat 32 w2)))
    (he : encode (c lit) = encW3 maj 0 0 0 lit) : Decodes (encode (c lit)) (c lit) := by
  refine decodes_of_encW3 he hmaj (by decide) (by decide) (by decide) fun w0 w1 w2 h => ?_
  rw [hrow w0 w1 w2 h.maj h.minor, h.rest, h.lit_eq, fld_add w0 8 5 5, h.dst, h.srcA]
  rfl

end rowsW3

theorem decodes_liW3 (z : Bool) (d : Reg) (lit : W32) : Decodes (encode (.liW3 z d lit)) (.liW3 z d lit) := by
  have hz : wBit z ≤ 1 := by cases z <;> decide
  refine decodes_of_encW3 rfl (by decide) (by omega) d.2 (by decide) fun w0 w1 w2 h => ?_
  rw [decW3, h.maj, h.minor, h.rest, h.srcA, h.lit_eq, show rD w0 = d from regOf_eq h.dst]
  cases z <;> rfl

/-! ## Every instruction -/

/-- A well-formed instruction is read from its words. -/
theorem decodes_encode {i : Instr} (h : i.wf = true) : Decodes (encode i) i := by
  cases i with
  | add d a b | sub d a b | mul d a b | mulh d a b | mulhn d a b | div d a b | divn d a b | rem d a b | remn d a b | and d a b | or d a b
  | xor d a b | andn d a b | shl d a b | shr d a b | sar d a b | rol d a b | min d a b | max d a b | minn d a b | maxn d a b =>
    exact decodes_mk3 isTable_intr (by decide) (fun _ => rfl) rfl
  | clz d a | ctz d a | popc d a | abs d a | mov d a => exact decodes_mk2 isTable_intr (by decide) (fun _ => rfl) rfl
  | cmp c t d a b => exact decodes_cmp c t d a b
  | sel p t d a b => exact decodes_sel p t d a b
  | addi d a imm | andi d a imm | ori d a imm | xori d a imm | cincImm d a imm | ldI8 d a imm | ldN8 d a imm | ldI16 d a imm | ldN16 d a imm
  | ldI32 d a imm | ldN32 d a imm | ld d a imm | stI8 d a imm | stI16 d a imm | stI32 d a imm | st d a imm | ldc d a imm | stc d a imm
  | ll d a imm | sl d a imm | llf d a imm | slf d a imm | sle d a imm | feq d a imm | bt d a imm | bf d a imm =>
    exact decodes_mkI (by decide) (fun w hw => by rw [decW1, hw]; rfl) rfl
  | addiW3 d a lit | andiW3 d a lit | oriW3 d a lit | xoriW3 d a lit | cincW3 d a lit | ldcW3 d a lit | stcW3 d a lit | llW3 d a lit
  | slW3 d a lit => exact decodes_w3 (by decide) (by decide) (fun w0 w1 w2 hw hm => by rw [decW3, hw, hm]; rfl) rfl
  | ldW3 z d a lit | stW3 z d a lit =>
    cases z <;> exact decodes_w3 (by decide) (by decide) (fun w0 w1 w2 hw hm => by rw [decW3, hw, hm]; rfl) rfl
  | callW3 lit | j lit => exact decodes_w3Lit (by decide) (fun w0 w1 w2 hw hm => by rw [decW3, hw, hm]; rfl) rfl
  | liW3 z d lit => exact decodes_liW3 z d lit
  | li d imm | bz d imm | bnz d imm => exact decodes_dstImm (by decide) (fun w hw => by rw [decW1, hw]; rfl) rfl
  | lk d k => exact decodes_lk d k
  | sext d a n | zext d a n => exact decodes_width (by decide) (fun w hw => by rw [decW1, hw]; rfl) h rfl
  | bfx d a p n | bfi d a p n => exact decodes_bitfield (by decide) (fun w hw => by rw [decW1, hw]; rfl) h rfl
  | fadd r p d a b | fsub r p d a b | fmul r p d a b | fma r p d a b =>
    exact decodes_fop3 h (by decide) (fun w hw hr => by rw [decFop, hr, hw]; rfl) rfl
  | fmin p d a b | fmax p d a b => exact decodes_fopUnrounded3 (by decide) (fun w hw hr => by rw [decFop, hr, hw]; rfl) rfl
  | fabs p d a | fneg p d a | fcls p d a | frcp p d a | frsq p d a =>
    exact decodes_fopUnrounded2 (by decide) (fun w hw hr => by rw [decFop, hr, hw]; rfl) rfl
  | fnr r p d a | fnrs r p d a => exact decodes_fop2 h (by decide) (fun w hw hr => by rw [decFop, hr, hw]; rfl) rfl
  | fcvtToInt r p t d a =>
    cases t <;> exact decodes_fop2 (c := fun r p => .fcvtToInt r p _) h (by decide) (fun w hw hr => by rw [decFop, hr, hw]; rfl) rfl
  | fcvtFromInt r p t d a =>
    cases t <;> exact decodes_fop2 (c := fun r p => .fcvtFromInt r p _) h (by decide) (fun w hw hr => by rw [decFop, hr, hw]; rfl) rfl
  | fcvtWrapToInt r p t d a =>
    cases t <;> exact decodes_fop2 (c := fun r p => .fcvtWrapToInt r p _) h (by decide) (fun w hw hr => by rw [decFop, hr, hw]; rfl) rfl
  | fcvtSTod d a => exact decodes_fcvtSTod d a
  | fcvtDTos r d a => exact decodes_fcvtDTos h d a
  | fcmp p c t d a b => exact decodes_fcmp p h t d a b
  | cgb d a | cgl d a | cgp d a | cga d a | ctag d a | cct d a => exact decodes_mk2 isTable_capr (by decide) (fun _ => rfl) rfl
  | csa d a b | cinc d a b | csb d a b | cap d a b | cseal d a b | cunseal d a b => exact decodes_mk3 isTable_capr (by decide) (fun _ => rfl) rfl
  | b imm | call imm | trap imm => exact decodes_imm (by decide) (fun w hw => by rw [decW1, hw]; rfl) rfl
  | loop r disp => exact decodes_loop h disp
  | nop | region | yield => exact decodes_none isTable_ctl (by decide) (fun _ => rfl) rfl
  | ret a | callc a => exact decodes_srcA isTable_ctl (by decide) (fun _ => rfl) rfl
  | post d a b | postf d a b | llfRemote d a b | slfRemote d a b | sleRemote d a b | feqRemote d a b =>
    exact decodes_mk3 isTable_remote (by decide) (fun _ => rfl) rfl
  | phase c => cases c <;> exact decodes_none isTable_sync (by decide) (fun _ => rfl) rfl
  | amoAdd x d a b | amoAnd x d a b | amoOr x d a b | amoXor x d a b | amoMin x d a b | amoMax x d a b | amoMinn x d a b | amoMaxn x d a b
  | amoSwap x d a b | cas x d a b | waitw x d a b => cases x <;> exact decodes_mk3 isTable_sync (by decide) (fun _ => rfl) rfl
  | lamoAdd d a b | lamoAnd d a b | lamoOr d a b | lamoXor d a b | lamoMin d a b | lamoMax d a b | lamoMinn d a b | lamoMaxn d a b
  | lamoSwap d a b => exact decodes_mk3 isTable_sync (by decide) (fun _ => rfl) rfl
  | pref d a => exact decodes_mk2 isTable_sync (by decide) (fun _ => rfl) rfl
  | send c a b => exact decodes_srcAB isTable_chan (by omega) (decChan_send c) rfl
  | recv c d a => exact decodes_mk2 isTable_chan (by omega) (decChan_recv c) rfl
  | chq c d => exact decodes_dst isTable_chan (by omega) (decChan_chq c) rfl
  | role d a => exact decodes_mk2 isTable_chan (by decide) (fun _ => rfl) rfl
  | start d a b | launch d a b | ctrsel d a b | stop d a b | vmap d a b => exact decodes_mk3 isTable_sys (by decide) (fun _ => rfl) rfl
  | exit | trapret => exact decodes_none isTable_sys (by decide) (fun _ => rfl) rfl
  | join d a | faultq d a | time d a | ifl d a => exact decodes_mk2 isTable_sys (by decide) (fun _ => rfl) rfl
  | kill a | vunmap a => exact decodes_srcA isTable_sys (by decide) (fun _ => rfl) rfl
  | resume a b => exact decodes_srcAB isTable_sys (by decide) (fun _ => rfl) rfl
  | mfs d r => exact decodes_mfs d r
  | mts r a => exact decodes_mts h a
  | ctr d e | ctrl d e | ctrh d e => exact decodes_ctr (by decide) (fun w he hk => by rw [decCtr, he, hk]; rfl) rfl
  | wpres d a b | wsplit d a b | wdeleg d a b | wqry d a b => exact decodes_mk3 isTable_war (by decide) (fun _ => rfl) rfl
  | wsurr d a => exact decodes_mk2 isTable_war (by decide) (fun _ => rfl) rfl
  | gramp a b => exact decodes_srcAB isTable_gov (by decide) (fun _ => rfl) rfl
  | gpin a => exact decodes_srcA isTable_gov (by decide) (fun _ => rfl) rfl
  | wellq d a => exact decodes_wellq d a
  | vadd f | vsub f | vmul f | vfma f | vmin f | vmax f | vabs f | vneg f | vand f | vor f | vxor f | vshl f | vshr f | vsar f | vcmp f | vsel f
  | vcvt f | vqnt f | vdqnt f | vrcp f | vrsq f | vnr f | vexp2 f | vlog2 f | vscan f | vred f | vbcast f | vfill f | vcopy f | vtran f
  | vgath f | vscat f | vlut f | mma f | mmag f | mmr f | mzero f | mrd f | mwr f | wld f | tld f | dset f | dget f | dsta f | xcopy f | pub f
  | drain f | dclr f | wellw f | bar f | red f | redx f | rstat f | corr f => exact decodes_of_w2Of rfl h
  | _ => exact absurd h Bool.false_ne_true

/-! ## Bytes (R168, R169) -/

theorem decodeWords_one {w0 : Nat} (h : fld w0 0 2 = 0) (w1 w2 : Nat) : decodeWords w0 w1 w2 = decW1 w0 := by
  rw [decodeWords, wordCount, h]
  rfl

theorem decodeWords_two {w0 : Nat} (h : fld w0 0 2 = 1) (w1 w2 : Nat) : decodeWords w0 w1 w2 = decW2 w0 w1 := by
  rw [decodeWords, wordCount, h]
  rfl

theorem decodeWords_three {w0 : Nat} (h : fld w0 0 2 = 2) (w1 w2 : Nat) : decodeWords w0 w1 w2 = decW3 w0 w1 w2 := by
  rw [decodeWords, wordCount, h]
  rfl

theorem wordBytes_cons_append (w : Nat) (ws : List Nat) (rest : List Byte) :
    wordBytes (w :: ws) ++ rest = leBytes 4 w ++ (wordBytes ws ++ rest) := by
  rw [wordBytes, List.flatMap_cons, List.append_assoc]
  rfl

/-- The words of an instruction decode at the head of any bytes. -/
theorem decodeBytes_of_decodes {ws : List Nat} {i : Instr} (h : Decodes ws i) (rest : List Byte) : decodeBytes (wordBytes ws ++ rest) = .ok i := by
  cases h with
  | one hb hlen hdec => rw [decodeBytes, wordBytes_cons_append, wordAt_leBytes_append_zero hb, decodeWords_one hlen, hdec]
  | two h0 h1 hlen hdec =>
    rw [decodeBytes, wordBytes_cons_append, wordAt_leBytes_append_zero h0, decodeWords_two hlen, wordAt_leBytes_append_add _ _ 0,
      wordBytes_cons_append, wordAt_leBytes_append_zero h1, hdec]
  | three h0 h1 h2 hlen hdec =>
    rw [decodeBytes, wordBytes_cons_append, wordAt_leBytes_append_zero h0, decodeWords_three hlen, wordAt_leBytes_append_add _ _ 0,
      wordAt_leBytes_append_add _ _ 4, wordBytes_cons_append, wordAt_leBytes_append_zero h1, wordAt_leBytes_append_add _ _ 0,
      wordBytes_cons_append, wordAt_leBytes_append_zero h2, hdec]

/-- The word of a well-formed W1 instruction decodes to it, whatever words follow. -/
theorem decodeWords_of_encode_one {i : Instr} {w0 : Nat} (hf : i.wf = true) (he : encode i = [w0]) (w1 w2 : Nat) : decodeWords w0 w1 w2 = .ok i := by
  have h := decodes_encode hf
  rw [he] at h
  cases h with
  | one _ hlen hdec => rw [decodeWords_one hlen, hdec]

/-- The words of a well-formed W3 instruction decode to it. -/
theorem decodeWords_of_encode_three {i : Instr} {w0 w1 w2 : Nat} (hf : i.wf = true) (he : encode i = [w0, w1, w2]) :
    decodeWords w0 w1 w2 = .ok i := by
  have h := decodes_encode hf
  rw [he] at h
  cases h with
  | three _ _ _ hlen hdec => rw [decodeWords_three hlen, hdec]

/-- Settles O56: each row of the encoder is a row of the decoder, whose fields the words hold, and the bytes after the words are not looked at. -/
theorem decodingUndoesEncoding : Obligations.DecodingUndoesEncoding := by
  unfold Obligations.DecodingUndoesEncoding
  exact fun i rest h => decodeBytes_of_decodes (decodes_encode h) rest

/-- Settles O58: each worked word is the encoding of its instruction. -/
theorem workedWordsDecode : Obligations.WorkedWordsDecode := by
  unfold Obligations.WorkedWordsDecode
  exact ⟨decodeWords_of_encode_one rfl rfl 0 0, decodeWords_of_encode_one rfl rfl 0 0, decodeWords_of_encode_one rfl rfl 0 0,
    decodeWords_of_encode_one rfl rfl 0 0, decodeWords_of_encode_one rfl rfl 0 0, decodeWords_of_encode_one rfl rfl 0 0,
    decodeWords_of_encode_one rfl rfl 0 0, decodeWords_of_encode_one rfl rfl 0 0, decodeWords_of_encode_one rfl rfl 0 0,
    decodeWords_of_encode_one rfl rfl 0 0, decodeWords_of_encode_one rfl rfl 0 0, decodeWords_of_encode_one rfl rfl 0 0,
    decodeWords_of_encode_one rfl rfl 0 0, decodeWords_of_encode_one rfl rfl 0 0, decodeWords_of_encode_three rfl rfl⟩

end Sys2Proof.Machine
end

section
namespace Sys2Proof.Machine

open Sys2Proof Sys2Proof.Claim

/-! Immediate and field instructions (R187, R199, R200, R202, R203): each writes one integer result, and the result is that of its row. -/

/-! ## Results as the rows put them -/

/-- An immediate is added as the integer that its bits hold (R174, R199). -/
theorem add_signExtend_eq_wrap {n : Nat} (a : Word) (imm : BitVec n) : a + imm.signExtend 64 = wrap (a.toInt + imm.toInt) := by
  rw [wrap, BitVec.ofInt_add, BitVec.ofInt_toInt]
  rfl

/-- SEXT repeats the highest bit of the low `w` bits (R202). -/
theorem getLsbD_signExt (v : Word) {w i : Nat} (hw : 1 ≤ w) (hi : i < 64) :
    (signExt v.toNat w).getLsbD i = v.getLsbD (if i < w then i else w - 1) := by
  rw [signExt_eq_signExtend, BitVec.getLsbD_signExtend, decide_eq_true hi, Bool.true_and]
  split
  case isTrue h => rw [BitVec.getLsbD_ofNat, decide_eq_true h, Bool.true_and]; rfl
  case isFalse => rw [BitVec.msb_eq_getLsbD_last, BitVec.getLsbD_ofNat, decide_eq_true (by omega), Bool.true_and]; rfl

/-- ZEXT keeps the low `w` bits (R202). -/
theorem getLsbD_zeroExt (v : Word) (w i : Nat) : (zeroExt v.toNat w).getLsbD i = (decide (i < w) && v.getLsbD i) := by
  rw [zeroExt, BitVec.getLsbD_ofNat, Nat.testBit_mod_two_pow, BitVec.testBit_toNat]
  by_cases hi : i < 64
  · rw [decide_eq_true hi, Bool.true_and]
  · rw [BitVec.getLsbD_of_ge v i (by omega), Bool.and_false, Bool.and_false]

/-- BFX moves the field to bit 0 (R203). -/
theorem getLsbD_bits (v : Word) (pos n i : Nat) :
    (BitVec.ofNat 64 (bits v.toNat (pos + n) pos)).getLsbD i = (decide (i ≤ n) && v.getLsbD (pos + i)) := by
  rw [bits, BitVec.getLsbD_ofNat, Nat.testBit_mod_two_pow, Nat.testBit_div_two_pow, BitVec.testBit_toNat, Nat.add_comm i pos,
    decide_eq_decide.2 (show i < pos + n + 1 - pos ↔ i ≤ n by omega)]
  by_cases hi : i < 64
  · rw [decide_eq_true hi, Bool.true_and]
  · rw [BitVec.getLsbD_of_ge v (pos + i) (by omega), Bool.and_false, Bool.and_false]

/-- BFI replaces the bits of the field and keeps the others (R203). -/
theorem getLsbD_bfiW (d a : Word) {pos n : Nat} (h : pos + n < 64) (i : Nat) :
    (bfiW d.toNat a.toNat pos (n + 1)).getLsbD i = if pos ≤ i ∧ i ≤ pos + n then a.getLsbD (i - pos) else d.getLsbD i := by
  rw [bfiW, BitVec.getLsbD_ofNat, testBit_field, BitVec.testBit_toNat, BitVec.testBit_toNat]
  by_cases hin : pos ≤ i ∧ i ≤ pos + n
  · rw [if_pos hin, if_pos (by omega), decide_eq_true (by omega), Bool.true_and]
  · rw [if_neg hin, if_neg (by omega)]
    by_cases hi : i < 64
    · rw [decide_eq_true hi, Bool.true_and]
    · rw [BitVec.getLsbD_of_ge d i (by omega), Bool.and_false]

/-! ## The statement -/

/-- An instruction that ends with an integer result writes it and nothing else. -/
theorem next_result {s : State} {i : Instr} {len : Nat} {d : Reg} {v : Word} {P : Word → Prop} (hexec : exec i s = .next (s.result len d v))
    (hv : P v) : Next (exec i s) fun t => ∃ v : Word, P v ∧ writesReg s t len d (intBits v) false 0 :=
  ⟨_, hexec, v, hv, Laws.result_writesReg s len d v⟩

/-- Settles O2: each form ends with `State.result` of a word that its row describes. -/
theorem immediateFormsCompute : Obligations.ImmediateFormsCompute := by
  unfold Obligations.ImmediateFormsCompute
  intro s i len d P hf hrow
  cases i with
  | addi _ a imm | addiW3 _ a imm =>
    cases hrow
    exact next_result rfl (add_signExtend_eq_wrap _ _)
  | andi _ a imm | andiW3 _ a imm =>
    cases hrow
    exact next_result rfl fun i => BitVec.getLsbD_and
  | ori _ a imm | oriW3 _ a imm =>
    cases hrow
    exact next_result rfl fun i => BitVec.getLsbD_or
  | xori _ a imm | xoriW3 _ a imm =>
    cases hrow
    exact next_result rfl fun i => BitVec.getLsbD_xor
  | li _ imm =>
    cases hrow
    exact next_result rfl (BitVec.toInt_signExtend_of_le (by decide))
  | liW3 zext _ lit =>
    cases hrow
    refine next_result rfl ?_
    cases zext with
    | true => exact BitVec.toNat_setWidth_of_le (by decide)
    | false => exact BitVec.toInt_signExtend_of_le (by decide)
  | sext _ a w =>
    cases hrow
    obtain ⟨hmin, -⟩ := (Bool.and_eq_true _ _).mp hf
    exact next_result rfl fun i hi => getLsbD_signExt _ (of_decide_eq_true hmin) hi
  | zext _ a w =>
    cases hrow
    exact next_result rfl (getLsbD_zeroExt _ _)
  | bfx _ a pos wm1 =>
    cases hrow
    exact next_result rfl (getLsbD_bits _ _ _)
  | bfi _ a pos wm1 =>
    cases hrow
    exact next_result rfl (getLsbD_bfiW _ _ (of_decide_eq_true hf))
  | _ => cases hrow

end Sys2Proof.Machine
end

section
namespace Sys2Proof.Machine

open Sys2Proof Sys2Proof.Claim

/-! Integer instructions (R195, R197, R198): the word that each form computes is the one of its row, in unbounded arithmetic. -/

/-! ## Sums, products and signs -/

@[simp] theorem wrap_toInt (a : Word) : wrap a.toInt = a := BitVec.ofInt_toInt

theorem wrap_add (x y : Int) : wrap (x + y) = wrap x + wrap y := BitVec.ofInt_add x y

theorem wrap_neg (x : Int) : wrap (-x) = -wrap x := BitVec.ofInt_neg

theorem wrap_sub (x y : Int) : wrap (x - y) = wrap x - wrap y := by
  rw [Int.sub_eq_add_neg, wrap_add, wrap_neg, BitVec.sub_eq_add_neg]

theorem wrap_mul (x y : Int) : wrap (x * y) = wrap x * wrap y := BitVec.ofInt_mul x y

/-- The high half of a signed product (R197). -/
theorem wrap_high (x : Int) : BitVec.ofInt 64 (x / 2 ^ 64) = wrap (Int.fdiv x (2 ^ 64)) := by
  rw [Int.fdiv_eq_ediv_of_nonneg x (by decide)]
  rfl

/-- The high half of an unsigned product (R197). -/
theorem toNat_mulHigh (a b : Word) : (BitVec.ofNat 64 (a.toNat * b.toNat / 2 ^ 64)).toNat = a.toNat * b.toNat / 2 ^ 64 := by
  have h : a.toNat * b.toNat < 2 ^ 64 * 2 ^ 64 := Nat.mul_lt_mul'' a.isLt b.isLt
  exact Nat.mod_eq_of_lt (Nat.div_lt_of_lt_mul h)

theorem abs_eq_wrap (a : Word) : (if a.toInt < 0 then -a else a) = wrap |a.toInt| := by
  split
  case isTrue h => rw [abs_of_neg h, wrap_neg, wrap_toInt]
  case isFalse h => rw [abs_of_nonneg (Int.not_lt.mp h), wrap_toInt]

/-! ## Quotients and remainders (R198) -/

/-- DIV is the signed division of words. -/
theorem sdivW_eq_sdiv (a b : Word) : sdivW a b = a.sdiv b := by
  unfold sdivW
  split
  case isTrue h => rw [h]; exact BitVec.sdiv_zero.symm
  case isFalse => exact BitVec.eq_of_toInt_eq (by rw [BitVec.toInt_ofInt, BitVec.toInt_sdiv])

/-- REM is the signed remainder of words. -/
theorem sremW_eq_srem (a b : Word) : sremW a b = a.srem b := by
  unfold sremW
  split
  case isTrue h => rw [h]; exact BitVec.srem_zero.symm
  case isFalse => rw [← BitVec.toInt_srem, BitVec.ofInt_toInt]

/-- The one signed quotient that no word holds is that of the least word by -1. -/
theorem eq_intMin_of_toInt {a : Word} (h : a.toInt = -2 ^ 63) : a = BitVec.intMin 64 := BitVec.eq_of_toInt_eq h

theorem eq_neg_one_of_toInt {b : Word} (h : b.toInt = -1) : b = -1 := BitVec.eq_of_toInt_eq h

/-- The row of DIV. -/
theorem sdivW_row (a b : Word) : if b = 0 then sdivW a b = 0
    else if a.toInt = -2 ^ 63 ∧ b.toInt = -1 then (sdivW a b).toInt = -2 ^ 63
    else (sdivW a b).toInt = Int.tdiv a.toInt b.toInt := by
  rw [sdivW_eq_sdiv]
  split
  case isTrue h => rw [h]; exact BitVec.sdiv_zero
  case isFalse =>
    split
    case isTrue h =>
      rw [eq_intMin_of_toInt h.1, eq_neg_one_of_toInt h.2]
      decide
    case isFalse h =>
      refine BitVec.toInt_sdiv_of_ne_or_ne a b (Classical.not_and_iff_not_or_not.mp fun ⟨ha, hb⟩ => h ?_)
      rw [ha, hb]
      decide

/-- The row of REM. -/
theorem sremW_row (a b : Word) : if b = 0 then sremW a b = a
    else if a.toInt = -2 ^ 63 ∧ b.toInt = -1 then sremW a b = 0
    else (sremW a b).toInt = a.toInt - b.toInt * Int.tdiv a.toInt b.toInt := by
  rw [sremW_eq_srem]
  split
  case isTrue h => rw [h]; exact BitVec.srem_zero
  case isFalse =>
    split
    case isTrue h =>
      rw [eq_intMin_of_toInt h.1, eq_neg_one_of_toInt h.2]
      decide
    case isFalse => rw [BitVec.toInt_srem, Int.tmod_def]

theorem toNat_udivW (a b : Word) : (udivW a b).toNat = a.toNat / b.toNat := by
  unfold udivW
  split
  case isTrue h => rw [h]; exact (Nat.div_zero _).symm
  case isFalse => exact Nat.mod_eq_of_lt (Nat.lt_of_le_of_lt (Nat.div_le_self _ _) a.isLt)

theorem toNat_uremW (a b : Word) : (uremW a b).toNat = a.toNat - b.toNat * (a.toNat / b.toNat) := by
  unfold uremW
  split
  case isTrue h => rw [h]; simp
  case isFalse =>
    rw [BitVec.toNat_ofNat, Nat.mod_eq_of_lt (Nat.lt_of_le_of_lt (Nat.mod_le _ _) a.isLt), Nat.mod_eq_sub]

/-! ## Bits, shifts and rotation -/

theorem getLsbD_andn (a b : Word) (i : Nat) : (a &&& ~~~b).getLsbD i = (a.getLsbD i && !b.getLsbD i) := by
  rw [BitVec.getLsbD_and, BitVec.getLsbD_not]
  by_cases hi : i < 64
  · rw [decide_eq_true hi, Bool.true_and]
  · rw [BitVec.getLsbD_of_ge a i (by omega), Bool.false_and, Bool.false_and]

theorem toNat_shl (a : Word) (n : Nat) : (a <<< n).toNat = a.toNat * 2 ^ n % 2 ^ 64 := by
  rw [BitVec.toNat_shiftLeft, Nat.shiftLeft_eq]

theorem toNat_shr (a : Word) (n : Nat) : (a >>> n).toNat = a.toNat / 2 ^ n := by
  rw [BitVec.toNat_ushiftRight, Nat.shiftRight_eq_div_pow]

theorem toInt_sar (a : Word) (n : Nat) : (a.sshiftRight n).toInt = Int.fdiv a.toInt (2 ^ n) := by
  rw [BitVec.toInt_sshiftRight, Int.shiftRight_eq_div_pow, Int.fdiv_eq_ediv_of_nonneg _ (by positivity), Nat.cast_pow]
  rfl

/-- The two parts of a rotated word lie apart. -/
theorem toNat_rol (a : Word) {n : Nat} (hn : n < 64) :
    (a.rotateLeft n).toNat = a.toNat * 2 ^ n % 2 ^ 64 + a.toNat / 2 ^ (64 - n) := by
  have hpow : 2 ^ 64 = 2 ^ (64 - n) * 2 ^ n := by rw [← Nat.pow_add, Nat.sub_add_cancel hn.le]
  have hlow : a.toNat / 2 ^ (64 - n) < 2 ^ n := Nat.div_lt_of_lt_mul (hpow ▸ a.isLt)
  rw [BitVec.toNat_rotateLeft, Nat.mod_eq_of_lt hn, Nat.shiftLeft_eq, Nat.shiftRight_eq_div_pow, hpow, Nat.mul_mod_mul_right,
    Nat.mul_comm _ (2 ^ n), Nat.two_pow_add_eq_or_of_lt hlow]

/-! ## Minimum and maximum -/

theorem toInt_minW (a b : Word) : (if a.toInt ≤ b.toInt then a else b).toInt = min a.toInt b.toInt := by
  rw [min_def]
  exact apply_ite BitVec.toInt _ _ _

theorem toInt_maxW (a b : Word) : (if a.toInt ≤ b.toInt then b else a).toInt = max a.toInt b.toInt := by
  rw [max_def]
  exact apply_ite BitVec.toInt _ _ _

theorem toNat_minW (a b : Word) : (if a.toNat ≤ b.toNat then a else b).toNat = min a.toNat b.toNat := by
  rw [min_def]
  exact apply_ite BitVec.toNat _ _ _

theorem toNat_maxW (a b : Word) : (if a.toNat ≤ b.toNat then b else a).toNat = max a.toNat b.toNat := by
  rw [max_def]
  exact apply_ite BitVec.toNat _ _ _

/-! ## Counts of bits -/

theorem leading_clzW (a : Word) : leading a (clzW a) := by
  unfold clzW
  split
  case isTrue h =>
    subst h
    exact ⟨by decide, fun i _ => BitVec.getLsbD_zero, fun h => absurd h (by decide)⟩
  case isFalse h =>
    have hne : a.toNat ≠ 0 := fun e => h (BitVec.eq_of_toNat_eq e)
    have hlog : Nat.log2 a.toNat < 64 := (Nat.log2_lt hne).mpr a.isLt
    have hval : (BitVec.ofNat 64 (63 - Nat.log2 a.toNat)).toNat = 63 - Nat.log2 a.toNat := Nat.mod_eq_of_lt (by omega)
    rw [leading, hval]
    refine ⟨by omega, fun i hi => ?_, fun _ => ?_⟩
    · exact Nat.testBit_lt_two_pow (Nat.lt_of_lt_of_le Nat.lt_log2_self (Nat.pow_le_pow_right (by decide) (by omega)))
    · rw [show 63 - (63 - Nat.log2 a.toNat) = Nat.log2 a.toNat by omega]
      exact Nat.testBit_log2 hne

theorem trailing_ctzW (a : Word) : trailing a (ctzW a) := by
  unfold ctzW trailing
  cases hfind : (List.range 64).find? (fun i => a.getLsbD i) with
  | none =>
    have hzero := List.find?_eq_none.mp hfind
    refine ⟨le_refl 64, fun i hi => ?_, fun h => absurd h (by decide)⟩
    exact Bool.eq_false_iff.mpr (hzero i (List.mem_range.mpr hi))
  | some k =>
    obtain ⟨hk, hlt, hbefore⟩ := List.find?_range_eq_some.mp hfind
    have hval : (BitVec.ofNat 64 k).toNat = k := Nat.mod_eq_of_lt (by have := List.mem_range.mp hlt; omega)
    rw [Option.getD_some, hval]
    exact ⟨(List.mem_range.mp hlt).le, fun i hi => by simpa using hbefore i hi, fun _ => hk⟩

theorem toNat_popcW (a : Word) : (popcW a).toNat = ((List.range 64).filter (fun i => a.getLsbD i)).length := by
  rw [popcW, List.countP_eq_length_filter]
  exact Nat.mod_eq_of_lt (Nat.lt_of_le_of_lt (List.length_filter_le _ _) (by decide))

/-! ## The statement -/

/-- Settles O1: each form ends with `State.result` of a word that its row describes. -/
theorem integerFormsCompute : Obligations.IntegerFormsCompute := by
  unfold Obligations.IntegerFormsCompute
  intro s i d P hrow
  cases i with
  | add _ a b => cases hrow; exact next_result rfl (by rw [wrap_add, wrap_toInt, wrap_toInt])
  | sub _ a b => cases hrow; exact next_result rfl (by rw [wrap_sub, wrap_toInt, wrap_toInt])
  | mul _ a b => cases hrow; exact next_result rfl (by rw [wrap_mul, wrap_toInt, wrap_toInt])
  | mulh _ a b => cases hrow; exact next_result rfl (wrap_high _)
  | mulhn _ a b => cases hrow; exact next_result rfl (toNat_mulHigh _ _)
  | div _ a b => cases hrow; exact next_result rfl (sdivW_row _ _)
  | divn _ a b => cases hrow; exact next_result rfl (toNat_udivW _ _)
  | rem _ a b => cases hrow; exact next_result rfl (sremW_row _ _)
  | remn _ a b => cases hrow; exact next_result rfl (toNat_uremW _ _)
  | and _ a b => cases hrow; exact next_result rfl fun i => BitVec.getLsbD_and
  | or _ a b => cases hrow; exact next_result rfl fun i => BitVec.getLsbD_or
  | xor _ a b => cases hrow; exact next_result rfl fun i => BitVec.getLsbD_xor
  | andn _ a b => cases hrow; exact next_result rfl (getLsbD_andn _ _)
  | shl _ a b => cases hrow; exact next_result rfl (toNat_shl _ _)
  | shr _ a b => cases hrow; exact next_result rfl (toNat_shr _ _)
  | sar _ a b => cases hrow; exact next_result rfl (toInt_sar _ _)
  | rol _ a b => cases hrow; exact next_result rfl (toNat_rol _ (Nat.mod_lt _ (by decide)))
  | min _ a b => cases hrow; exact next_result rfl (toInt_minW _ _)
  | max _ a b => cases hrow; exact next_result rfl (toInt_maxW _ _)
  | minn _ a b => cases hrow; exact next_result rfl (toNat_minW _ _)
  | maxn _ a b => cases hrow; exact next_result rfl (toNat_maxW _ _)
  | clz _ a => cases hrow; exact next_result rfl (leading_clzW _)
  | ctz _ a => cases hrow; exact next_result rfl (trailing_ctzW _)
  | popc _ a => cases hrow; exact next_result rfl (toNat_popcW _)
  | abs _ a => cases hrow; exact next_result rfl (abs_eq_wrap _)
  | _ => cases hrow

end Sys2Proof.Machine
end

section
namespace Sys2Proof.Machine

open Sys2Proof Sys2Proof.Claim Sys2Proof.Laws

/-! Literals, copies, selection and comparisons (R197, R200, R204 to R206, R210). -/

/-! ## LI (R177, R200) -/

theorem signExtend_eq_wrap {n : Nat} (imm : BitVec n) : imm.signExtend 64 = wrap imm.toInt := rfl

theorem setWidth_eq_wrap {n : Nat} (lit : BitVec n) : lit.setWidth 64 = wrap lit.toNat :=
  (BitVec.ofNat_toNat 64 lit).symm.trans (BitVec.ofInt_natCast 64 lit.toNat).symm

/-- MINOR of the W3 form of LI chooses the extension; no other value is listed. -/
theorem decodeWords_liW3 (d : Reg) (lit : W32) {m : Nat} (hm : m < 128) :
    decodeWords (2 + 1 * 4 + d.val * 2 ^ 8 + m * 2 ^ 25) 0 lit.toNat =
      if m = 0 then .ok (.liW3 false d lit) else if m = 1 then .ok (.liW3 true d lit) else .error .minor := by
  split
  case isTrue h => subst h; exact decodeWords_of_encode_three rfl rfl
  case isFalse h0 =>
    split
    case isTrue h => subst h; exact decodeWords_of_encode_three rfl rfl
    case isFalse h1 =>
      have hd := d.isLt
      have hlen : fld (2 + 1 * 4 + d.val * 2 ^ 8 + m * 2 ^ 25) 0 2 = 2 := by unfold fld; omega
      have hmaj : fld (2 + 1 * 4 + d.val * 2 ^ 8 + m * 2 ^ 25) 2 6 = 1 := by unfold fld; omega
      have hminor : fld (2 + 1 * 4 + d.val * 2 ^ 8 + m * 2 ^ 25) 25 7 = m := by unfold fld; omega
      rw [decodeWords_three hlen, decW3, hmaj, hminor]
      exact if_pos (by omega)

/-- Settles O3: the words are encodings of LI, and each form ends with `State.result` of its literal. -/
theorem liWritesItsImmediate : Obligations.LiWritesItsImmediate := by
  unfold Obligations.LiWritesItsImmediate
  intro s d imm lit
  refine ⟨decodeWords_of_encode_one rfl rfl 0 0, fun m hm => decodeWords_liW3 d lit hm, ?_, ?_, ?_⟩
  · exact next_of (signExtend_eq_wrap imm ▸ result_writesReg s 4 d (imm.signExtend 64))
  · exact next_of (signExtend_eq_wrap lit ▸ result_writesReg s 12 d (lit.signExtend 64))
  · exact next_of (setWidth_eq_wrap lit ▸ result_writesReg s 12 d (lit.setWidth 64))

/-! ## SEL (R206) -/

/-- Settles O4: the word is the encoding of SEL, and the register that the predicate bit selects is written with its tag. -/
theorem selCopiesByAPredicateBit : Obligations.SelCopiesByAPredicateBit := by
  unfold Obligations.SelCopiesByAPredicateBit
  intro s d a b p k
  refine ⟨decodeWords_of_encode_one rfl ?_ 0 0, next_of ?_⟩
  · exact congrArg (· :: []) (show _ = _ by omega)
  · split
    case isTrue => exact retire_writesReg s 4 d (s.g a) (s.gtag a)
    case isFalse => exact retire_writesReg s 4 d (s.g b) (s.gtag b)

/-! ## MOV, CMP and FCMP (R197, R204, R205, R210) -/

theorem condHolds_iff (c : Cond) (a b : Word) : condHolds c a b = true ↔ cmpHolds c a b := by
  cases c with
  | eq => exact beq_iff_eq
  | ne => exact bne_iff_ne
  | lt | le | ltn | len => exact decide_eq_true_iff

/-- SetBit of R194 replaces one bit. -/
theorem bitSet_setBit (x : W128) {k : Nat} (hk : k < 128) (v : Bool) :
    bitSet x (if v then x ||| ((1 : W128) <<< k) else x &&& ~~~((1 : W128) <<< k)) k v := by
  intro i hi
  have hone : ((1 : W128) <<< k).getLsbD i = decide (k = i) := by
    rw [show (1 : W128) <<< k = BitVec.twoPow 128 k from rfl, BitVec.getLsbD_twoPow, decide_eq_true hk, Bool.true_and]
  obtain rfl | h := eq_or_ne i k
  · cases v with
    | true => rw [if_pos rfl, if_pos rfl, BitVec.getLsbD_or, hone, decide_eq_true rfl, Bool.or_true]
    | false => rw [if_neg Bool.false_ne_true, if_pos rfl, BitVec.getLsbD_and, BitVec.getLsbD_not, hone, decide_eq_true rfl, Bool.not_true,
        Bool.and_false, Bool.and_false]
  · cases v with
    | true => rw [if_pos rfl, if_neg h, BitVec.getLsbD_or, hone, decide_eq_false h.symm, Bool.or_false]
    | false => rw [if_neg Bool.false_ne_true, if_neg h, BitVec.getLsbD_and, BitVec.getLsbD_not, hone, decide_eq_false h.symm, decide_eq_true hi,
        Bool.not_false, Bool.and_true, Bool.and_true]

theorem setBit_writesReg {s : State} {d : Reg} (htag : s.gtag d = false) (k : Fin 32) (v : Bool) :
    ∃ w, bitSet (s.g d) w k.val v ∧ writesReg s ((s.setBit d k.val v).retire 4) 4 d w false 0 := by
  refine ⟨_, bitSet_setBit (s.g d) (Nat.lt_trans k.isLt (by decide)) v, ?_⟩
  rw [State.setBit, htag]
  exact retire_writesReg s 4 d _ false

/-- Settles O5: a copy is one write of a register, and a comparison is one write of its bit or the TAG trap. -/
theorem copiesAndComparisons : Obligations.CopiesAndComparisons := by
  refine ⟨fun s d a => next_of (retire_writesReg s 4 d (s.g a) (s.gtag a)), ?_, ?_⟩
  · intro s d a b k htag
    refine ⟨fun c => ⟨_, if_pos htag, trap_traps s _ _⟩, fun p c => ⟨_, if_pos htag, trap_traps s _ _⟩⟩
  · intro s d a b k htag
    have hopen : ¬ s.gtag d = true := by rw [htag]; decide
    refine ⟨fun c => ⟨_, if_neg hopen, ?_⟩, fun p c _ _ => ⟨_, if_neg hopen, ?_⟩⟩
    · obtain ⟨w, hbit, hw⟩ := setBit_writesReg htag k (condHolds c (s.int a) (s.int b))
      exact ⟨w, _, condHolds_iff c _ _, hbit, hw⟩
    · obtain ⟨w, hbit, hw⟩ := setBit_writesReg htag k (Num.holds c (s.fval p a) (s.fval p b))
      refine ⟨w, ?_, ?_⟩
      · rwa [← fval_eq_fsrc, ← fval_eq_fsrc]
      · rw [← fval_eq_fsrc, ← fval_eq_fsrc]
        exact writesReg_orFlags _ hw

end Sys2Proof.Machine
end

section
namespace Sys2Proof.Machine

open Sys2Proof Sys2Proof.Claim Sys2Proof.Laws

/-! Control instructions (R15, R224 to R228). -/

/-- An instruction that writes one register and then transfers control. -/
theorem setInt_jump_completes (s : State) (d : Reg) (v pc : Word) : completes s ((s.setInt d v).jump pc) pc 0 ∧
    regWritten s ((s.setInt d v).jump pc) d (intBits v) false ∧ memoryKept s ((s.setInt d v).jump pc) := by
  obtain ⟨⟨-, hflags, hissued, hctx, hcore, helsewhere⟩, hregs, hmem⟩ := retire_writesReg s 4 d (intBits v) false
  exact ⟨⟨rfl, hflags, hissued, hctx, hcore, helsewhere⟩, hregs, hmem⟩

/-- A displacement counts words from the instruction (R15). -/
theorem target_eq {n : Nat} (s : State) (disp : BitVec n) : s.cx.pc + disp.signExtend 64 * 4 = target s disp.toInt := by
  rw [target, wrap_add, wrap_mul, wrap_toInt, BitVec.mul_comm]
  rfl

/-- A branch is a jump to its target or to the next instruction. -/
theorem branch_eq_jump (s : State) (taken : Bool) (disp : BitVec 14) :
    s.branch taken disp = s.jump (if taken then target s disp.toInt else s.cx.pc + 4) := by
  rw [← target_eq]
  cases taken <;> rfl

theorem branch_writesNothing (s : State) (taken : Bool) (disp : BitVec 14) :
    writesNothing s (s.branch taken disp) (if taken then target s disp.toInt else s.cx.pc + 4) := by
  rw [branch_eq_jump]
  exact jump_writesNothing s _

theorem next_branch {s : State} {i : Instr} {taken : Bool} {disp : BitVec 14} (hexec : exec i s = .next (s.branch taken disp)) :
    Next (exec i s) fun t => writesNothing s t (if taken then target s disp.toInt else s.cx.pc + 4) :=
  ⟨_, hexec, branch_writesNothing s taken disp⟩

/-- Branches go to their displacement when taken (R224). -/
theorem branches_transfer {s : State} {i : Instr} {taken : Bool} {disp : Int} (hrow : branchRow s i = some (taken, disp)) :
    Next (exec i s) fun t => writesNothing s t (if taken then target s disp else s.cx.pc + 4) := by
  cases i with
  | b _ | bt _ _ _ | bf _ _ _ | bz _ _ => cases hrow; exact next_branch rfl
  | bnz r disp =>
    cases hrow
    have htaken : (s.int r != 0) = decide (s.int r ≠ 0) := Bool.eq_iff_iff.mpr (by rw [bne_iff_ne, decide_eq_true_iff])
    exact next_branch (htaken ▸ rfl)
  | j lit =>
    cases hrow
    exact ⟨_, rfl, target_eq s lit ▸ jump_writesNothing s _⟩
  | _ => cases hrow

/-- LOOP counts its register down and branches while it is not zero (R224). -/
theorem loop_counts (s : State) (r : Reg) (disp : BitVec 14) : Next (exec (.loop r disp) s) fun t =>
    completes s t (if s.int r - 1 ≠ 0 then target s disp.toInt else s.cx.pc + 4) 0 ∧
      regWritten s t r (intBits (s.int r - 1)) false ∧ memoryKept s t := by
  let u := s.setInt r (s.int r - 1)
  have hpc : u.cx.pc = s.cx.pc := Ctx.put_pc _ _ _ _
  have htarget : target u disp.toInt = target s disp.toInt := by rw [target, hpc, target]
  have hto : u.branch (s.int r - 1 != 0) disp = u.jump (if s.int r - 1 ≠ 0 then target s disp.toInt else s.cx.pc + 4) := by
    rw [branch_eq_jump, htarget, hpc]
    simp only [bne_iff_ne]
  exact ⟨_, congrArg Host.Outcome.next hto, setInt_jump_completes s r (s.int r - 1) _⟩

theorem branchesTransferControl : BranchesTransferControl :=
  ⟨fun _ _ _ _ => branches_transfer, fun s => next_of (retire_writesNothing s 4), fun s r disp _ => loop_counts s r disp⟩

theorem callsAndReturns : CallsAndReturns := by
  refine ⟨fun s i next goto hrow => ?_, fun s a h => ?_, fun s a h => ?_⟩
  · cases i with
    | call disp | callW3 lit =>
      cases hrow
      exact ⟨_, rfl, target_eq s _ ▸ setInt_jump_completes s 1 _ _⟩
    | callc a =>
      simp only [callRow] at hrow
      split at hrow
      case isTrue h =>
        cases hrow
        exact ⟨_, if_neg (not_not_intro h), setInt_jump_completes s 1 _ _⟩
      case isFalse => cases hrow
    | _ => cases hrow
  · exact ⟨_, if_neg (not_not_intro h), jump_writesNothing s _⟩
  · exact ⟨⟨_, if_pos h, trap_traps s _ _⟩, ⟨_, if_pos h, trap_traps s _ _⟩⟩

/-- Settles O11: every control instruction ends with a retirement, a jump or the ALIGN trap. -/
theorem branchesAndCalls : Obligations.BranchesAndCalls := ⟨branchesTransferControl, callsAndReturns⟩

end Sys2Proof.Machine
end

section
namespace Sys2Proof.Machine

open Sys2Proof Sys2Proof.Claim Sys2Proof.Laws

/-! Fields, base and top of a capability (R215, R217). -/

/-- A field of a capability is a range of its bits. -/
theorem bits_eq_extract (c : W128) {hi lo n : Nat} (hn : hi + 1 - lo = n) : bits c.toNat hi lo = (c.extractLsb' lo n).toNat := by
  rw [bits, hn, BitVec.extractLsb'_toNat, Nat.shiftRight_eq_div_pow]

theorem capE_eq (c : W128) : capE c.toNat = capExp c := by rw [capE, bits_eq_extract c (n := 6) rfl, capExp]
theorem capOtype_eq (c : W128) : capOtype c.toNat = (capTypeOf c).toNat := bits_eq_extract c rfl
theorem capPerm_eq (c : W128) : capPerm c.toNat = (capPermOf c).toNat := bits_eq_extract c rfl
theorem int_eq_cursor (s : State) (a : Reg) : s.int a = capCursorOf (s.g a) := BitVec.setWidth_eq_extractLsb' (by decide)
theorem capCursor_eq (c : W128) : capCursor c.toNat = (capCursorOf c).toNat := by
  rw [capCursor, capCursorOf, BitVec.extractLsb'_toNat, Nat.shiftRight_zero]
theorem capOtype_eq_zero_iff (c : W128) : capOtype c.toNat = 0 ↔ capTypeOf c = 0 := by
  rw [capOtype_eq]
  exact BitVec.toNat_inj (y := 0)

/-- The lowest number at or above `u` whose low 21 bits are `tm` (R217). -/
def spanTop (u tm : Nat) : Nat := (u / 2 ^ 21 + if u % 2 ^ 21 > tm then 1 else 0) * 2 ^ 21 + tm

theorem spanTop_eq_iff {u tm t : Nat} (htm : tm < 2 ^ 21) : spanTop u tm = t ↔ u ≤ t ∧ t < u + 2 ^ 21 ∧ t % 2 ^ 21 = tm := by
  unfold spanTop
  split <;> omega

theorem capTopOf_eq (c : W128) : capTopOf c =
    spanTop (ceilDiv (capCursorOf c).toNat (2 ^ capExp c)) (c.extractLsb' 64 21).toNat * 2 ^ capExp c := rfl

theorem capTop_eq (c : W128) : capTop c.toNat = capTopOf c := by
  rw [capTop, capE_eq, capCursor_eq, bits_eq_extract c (n := 21) rfl]
  rfl

theorem capBase_eq (c : W128) : capBase c.toNat = capBaseOf c := by
  rw [capBase, capSpan, capTop_eq, capE_eq, bits_eq_extract c (n := 21) (lo := 64) rfl, bits_eq_extract c (n := 21) rfl]
  rfl

/-- (Tm - Bm) mod 2^21 in bytes (R217). -/
def capSpanOf (c : W128) : Nat :=
  (((c.extractLsb' 64 21).toNat + 2 ^ 21 - (c.extractLsb' 85 21).toNat) % 2 ^ 21) * 2 ^ capExp c

theorem capBaseOf_eq (c : W128) : capBaseOf c = (((capTopOf c : Int) - capSpanOf c) % (2 ^ 64 : Int)).toNat := rfl

theorem capBaseOf_lt (c : W128) : capBaseOf c < 2 ^ 64 := by
  rw [capBaseOf_eq]
  omega

theorem capRegion_iff (c : W128) (a : Word) : capRegion c.toNat a.toNat = true ↔ capRegionOf c a := by
  rw [capRegion, capTop_eq, capE_eq, Bool.and_eq_true, decide_eq_true_iff, decide_eq_true_iff, capRegionOf, Nat.cast_pow]
  rfl

/-- A range of bits as a number. -/
theorem extract_toNat (c : W128) (lo n : Nat) : (c.extractLsb' lo n).toNat = c.toNat / 2 ^ lo % 2 ^ n := by
  rw [BitVec.extractLsb'_toNat, Nat.shiftRight_eq_div_pow]

/-- Two ranges of bits are equal when their numbers are. -/
theorem extract_eq_of_toNat {c c' : W128} {lo n : Nat} (h : c'.toNat / 2 ^ lo % 2 ^ n = c.toNat / 2 ^ lo % 2 ^ n) :
    c'.extractLsb' lo n = c.extractLsb' lo n :=
  BitVec.eq_of_toNat_eq (by rw [extract_toNat, extract_toNat, h])

/-! What each change of a capability leaves as it was (R219 to R222). -/

theorem withCursor_toNat (c : W128) (a : Word) : (withCursor c a).toNat = c.toNat / 2 ^ 64 * 2 ^ 64 + a.toNat := by
  rw [withCursor, BitVec.toNat_ofNat]
  omega

theorem cursor_withCursor (c : W128) (a : Word) : capCursorOf (withCursor c a) = a := by
  refine BitVec.eq_of_toNat_eq ?_
  rw [capCursorOf, extract_toNat, withCursor_toNat]
  omega

/-- Every field but the cursor. -/
theorem upper_withCursor (c : W128) (a : Word) : (withCursor c a).extractLsb' 64 64 = c.extractLsb' 64 64 := by
  refine extract_eq_of_toNat ?_
  rw [withCursor_toNat]
  omega

theorem withPermAnd_toNat (c : W128) (m : Nat) : (withPermAnd c m).toNat =
    c.toNat % 2 ^ 112 + (capPermOf c &&& BitVec.ofNat 12 m).toNat * 2 ^ 112 + (capTypeOf c).toNat * 2 ^ 124 := by
  have hperm : capPerm c.toNat &&& m % 4096 = (capPermOf c &&& BitVec.ofNat 12 m).toNat := by
    rw [capPerm_eq, BitVec.toNat_and, BitVec.toNat_ofNat]
  have hlt := (capPermOf c &&& BitVec.ofNat 12 m).isLt
  have htype := (capTypeOf c).isLt
  rw [withPermAnd, hperm, capOtype_eq, BitVec.toNat_ofNat]
  omega

theorem perm_withPermAnd (c : W128) (m : Nat) : capPermOf (withPermAnd c m) = capPermOf c &&& BitVec.ofNat 12 m := by
  refine BitVec.eq_of_toNat_eq ?_
  have hlt := (capPermOf c &&& BitVec.ofNat 12 m).isLt
  rw [capPermOf, extract_toNat, withPermAnd_toNat]
  omega

theorem type_withPermAnd (c : W128) (m : Nat) : capTypeOf (withPermAnd c m) = capTypeOf c := by
  refine BitVec.eq_of_toNat_eq ?_
  have hlt := (capPermOf c &&& BitVec.ofNat 12 m).isLt
  have htype := (capTypeOf c).isLt
  rw [capTypeOf, extract_toNat, withPermAnd_toNat]
  omega

theorem span_withPermAnd (c : W128) (m : Nat) : (withPermAnd c m).extractLsb' 0 112 = c.extractLsb' 0 112 := by
  refine extract_eq_of_toNat ?_
  rw [withPermAnd_toNat]
  omega

theorem withOtype_toNat (c : W128) (t : Nat) : (withOtype c t).toNat = c.toNat % 2 ^ 124 + t % 16 * 2 ^ 124 := by
  rw [withOtype, BitVec.toNat_ofNat]
  omega

theorem type_withOtype (c : W128) (t : Nat) : capTypeOf (withOtype c t) = BitVec.ofNat 4 t := by
  refine BitVec.eq_of_toNat_eq ?_
  rw [capTypeOf, extract_toNat, withOtype_toNat, BitVec.toNat_ofNat]
  omega

theorem lower_withOtype (c : W128) (t : Nat) : (withOtype c t).extractLsb' 0 124 = c.extractLsb' 0 124 := by
  refine extract_eq_of_toNat ?_
  rw [withOtype_toNat]
  omega

/-- The fields of a capability that is put together (R215). -/
theorem mkCap_fields (otype : BitVec 4) (perm : BitVec 12) (e basem topm : Nat) (cursor : Word) :
    let c := mkCap otype.toNat perm.toNat e basem topm cursor.toNat
    c.extractLsb' 106 6 = BitVec.ofNat 6 e ∧ (c.extractLsb' 85 21).toNat = basem % 2 ^ 21 ∧
      (c.extractLsb' 64 21).toNat = topm % 2 ^ 21 ∧ capCursorOf c = cursor ∧ capPermOf c = perm ∧ capTypeOf c = otype := by
  have hnum : (mkCap otype.toNat perm.toNat e basem topm cursor.toNat).toNat = cursor.toNat + topm % 2 ^ 21 * 2 ^ 64 +
      basem % 2 ^ 21 * 2 ^ 85 + e % 64 * 2 ^ 106 + perm.toNat * 2 ^ 112 + otype.toNat * 2 ^ 124 := by
    rw [mkCap, BitVec.toNat_ofNat]
    omega
  refine ⟨BitVec.eq_of_toNat_eq ?_, ?_, ?_, BitVec.eq_of_toNat_eq ?_, BitVec.eq_of_toNat_eq ?_, BitVec.eq_of_toNat_eq ?_⟩ <;>
    simp only [capCursorOf, capPermOf, capTypeOf, extract_toNat, BitVec.toNat_ofNat, hnum] <;> omega

/-! Bounds depend on the low 112 bits alone. -/

/-- A range of bits inside an equal range is equal. -/
theorem extract_inside {c c' : W128} {o n lo m : Nat} (h : c'.extractLsb' o n = c.extractLsb' o n) (hlo : o ≤ lo)
    (hhi : lo + m ≤ o + n) : c'.extractLsb' lo m = c.extractLsb' lo m := by
  refine BitVec.eq_of_getLsbD_eq fun i hi => ?_
  have hbit := congrArg (fun v => v.getLsbD (lo + i - o)) h
  have hin : lo + i - o < n := by omega
  have hat : o + (lo + i - o) = lo + i := by omega
  simpa only [BitVec.getLsbD_extractLsb', hi, hin, hat, decide_true, Bool.true_and] using hbit

theorem top_eq_of_span {c c' : W128} (h : c'.extractLsb' 0 112 = c.extractLsb' 0 112) : capTopOf c' = capTopOf c := by
  simp only [capTopOf_eq, capCursorOf, capExp, extract_inside (lo := 106) (m := 6) h (by decide) (by decide),
    extract_inside (lo := 64) (m := 21) h (by decide) (by decide), extract_inside (lo := 0) (m := 64) h (by decide) (by decide)]

theorem base_eq_of_span {c c' : W128} (h : c'.extractLsb' 0 112 = c.extractLsb' 0 112) : capBaseOf c' = capBaseOf c := by
  simp only [capBaseOf_eq, capSpanOf, capExp, top_eq_of_span h, extract_inside (lo := 106) (m := 6) h (by decide) (by decide),
    extract_inside (lo := 64) (m := 21) h (by decide) (by decide), extract_inside (lo := 85) (m := 21) h (by decide) (by decide)]

/-! A cursor in the representable region keeps the bounds (R217, R220). -/

theorem ceilDiv_le_iff {a b k : Nat} (hb : 0 < b) : ceilDiv a b ≤ k ↔ a ≤ k * b := by
  rw [ceilDiv, Nat.div_le_iff_le_mul_add_pred hb, Nat.mul_comm]
  omega

/-- The top is `t` units when the cursor lies in the region below `t` units and the low bits of `t` are the top field. -/
theorem capTopOf_eq_of_region {c : W128} {t : Nat} (hle : (capCursorOf c).toNat ≤ t * 2 ^ capExp c)
    (hgt : t * 2 ^ capExp c < (capCursorOf c).toNat + 2 ^ (capExp c + 21)) (hfield : t % 2 ^ 21 = (c.extractLsb' 64 21).toNat) :
    capTopOf c = t * 2 ^ capExp c := by
  have hpos : 0 < 2 ^ capExp c := Nat.two_pow_pos _
  have hbelow : t < ceilDiv (capCursorOf c).toNat (2 ^ capExp c) + 2 ^ 21 := by
    by_contra hnot
    have hmul : (capCursorOf c).toNat ≤ (t - 2 ^ 21) * 2 ^ capExp c := (ceilDiv_le_iff hpos).mp (by omega)
    rw [Nat.sub_mul, ← Nat.pow_add, Nat.add_comm 21] at hmul
    have hall : 2 ^ 21 * 2 ^ capExp c ≤ t * 2 ^ capExp c := Nat.mul_le_mul_right _ (by omega)
    rw [← Nat.pow_add, Nat.add_comm 21] at hall
    omega
  rw [capTopOf_eq, (spanTop_eq_iff (BitVec.isLt _)).mpr ⟨(ceilDiv_le_iff hpos).mpr hle, hbelow, hfield⟩]

/-- The top is a number of units whose low bits are the top field. -/
theorem capTopOf_units (c : W128) : ∃ t, capTopOf c = t * 2 ^ capExp c ∧ t % 2 ^ 21 = (c.extractLsb' 64 21).toNat :=
  ⟨_, capTopOf_eq c, ((spanTop_eq_iff (BitVec.isLt _)).mp rfl).2.2⟩

theorem top_eq_of_move {c c' : W128} (hupper : c'.extractLsb' 64 64 = c.extractLsb' 64 64) (hregion : capRegionOf c (capCursorOf c')) :
    capTopOf c' = capTopOf c := by
  have hexp : capExp c' = capExp c := by
    rw [capExp, capExp, extract_inside (lo := 106) (m := 6) hupper (by decide) (by decide)]
  obtain ⟨hgt, hle⟩ := hregion
  obtain ⟨t, htop, hfield⟩ := capTopOf_units c
  have hpow : (2 : Int) ^ (capExp c + 21) = ((2 ^ (capExp c + 21) : Nat) : Int) := by rw [Nat.cast_pow]; rfl
  rw [hpow] at hgt
  rw [htop] at hgt hle ⊢
  rw [← hexp] at hgt hle ⊢
  refine capTopOf_eq_of_region hle (by omega) ?_
  rw [hfield, extract_inside (lo := 64) (m := 21) hupper (by decide) (by decide)]

theorem base_eq_of_move {c c' : W128} (hupper : c'.extractLsb' 64 64 = c.extractLsb' 64 64) (hregion : capRegionOf c (capCursorOf c')) :
    capBaseOf c' = capBaseOf c := by
  simp only [capBaseOf_eq, capSpanOf, capExp, top_eq_of_move hupper hregion,
    extract_inside (lo := 106) (m := 6) hupper (by decide) (by decide),
    extract_inside (lo := 64) (m := 21) hupper (by decide) (by decide), extract_inside (lo := 85) (m := 21) hupper (by decide) (by decide)]

/-! The encoding of CSB (R221). -/

/-- At the greatest exponent every range of addresses fits. -/
theorem csbFits_greatest {b t : Nat} (ht : t < b + 2 ^ 64) : csbFits b t 44 := by
  unfold csbFits
  omega

/-- CSB takes the least exponent at which its range fits. -/
theorem csbExp_least {b t : Nat} (ht : t < b + 2 ^ 64) :
    csbExp b t ≤ 44 ∧ csbFits b t (csbExp b t) ∧ ∀ e < csbExp b t, ¬ csbFits b t e := by
  have hfound : ∃ e, (List.range 45).find? (fun e => decide (ceilDiv t (2 ^ e) * 2 ^ e - b / 2 ^ e * 2 ^ e < 2 ^ (e + 21))) = some e := by
    rw [← Option.isSome_iff_exists, List.find?_isSome]
    exact ⟨44, by decide, decide_eq_true_iff.mpr (csbFits_greatest ht)⟩
  obtain ⟨e, he⟩ := hfound
  rw [csbExp, he, Option.getD_some]
  obtain ⟨hfits, hmem, hleast⟩ := List.find?_range_eq_some.mp he
  simp only [decide_eq_true_iff, Bool.not_eq_true', decide_eq_false_iff_not] at hfits hleast
  exact ⟨Nat.le_of_lt_succ (List.mem_range.mp hmem), hfits, hleast⟩

/-- A capability whose fields are those of a range that fits has that range as its bounds. -/
theorem bounds_of_fitting_range {c : W128} {e t : Nat} (he : e ≤ 44) (hexp : c.extractLsb' 106 6 = BitVec.ofNat 6 e)
    (hbase : (c.extractLsb' 85 21).toNat = (capCursorOf c).toNat / 2 ^ e % 2 ^ 21) (htop : (c.extractLsb' 64 21).toNat = t % 2 ^ 21)
    (hle : (capCursorOf c).toNat ≤ t * 2 ^ e) (hfits : t * 2 ^ e - (capCursorOf c).toNat / 2 ^ e * 2 ^ e < 2 ^ (e + 21)) :
    capTopOf c = t * 2 ^ e ∧ capBaseOf c = (capCursorOf c).toNat / 2 ^ e * 2 ^ e := by
  have hcexp : capExp c = e := by
    rw [capExp, hexp, BitVec.toNat_ofNat]
    omega
  have hfloor : (capCursorOf c).toNat / 2 ^ e * 2 ^ e ≤ (capCursorOf c).toNat := Nat.div_mul_le_self _ _
  have htopOf : capTopOf c = t * 2 ^ e :=
    hcexp ▸ capTopOf_eq_of_region (hcexp.symm ▸ hle) (hcexp.symm ▸ by omega) htop.symm
  have hspan : capSpanOf c = (t - (capCursorOf c).toNat / 2 ^ e) * 2 ^ e := by
    have hlow : (capCursorOf c).toNat / 2 ^ e ≤ t := by
      exact Nat.le_of_mul_le_mul_right (hfloor.trans hle) (Nat.two_pow_pos e)
    have hless : t - (capCursorOf c).toNat / 2 ^ e < 2 ^ 21 := by
      rw [← Nat.sub_mul, Nat.add_comm, Nat.pow_add] at hfits
      exact Nat.lt_of_mul_lt_mul_right hfits
    rw [capSpanOf, hcexp, hbase, htop]
    congr 1
    omega
  refine ⟨htopOf, ?_⟩
  rw [capBaseOf_eq, htopOf, hspan, Nat.sub_mul]
  have hcur := (capCursorOf c).isLt
  omega

end Sys2Proof.Machine
end

section
namespace Sys2Proof.Machine

open Sys2Proof Sys2Proof.Claim Sys2Proof.Laws

/-! Capability instructions (R219 to R222). -/

/-- What a cursor move writes. -/
theorem moveCursor_writes (s : State) (len : Nat) (d a : Reg) (cur : Word) : ∃ c : W128, ∃ tag : Bool,
    writesReg s (s.moveCursor len d a cur) len d c tag 0 ∧ capCursorOf c = cur ∧
      c.extractLsb' 64 64 = (s.g a).extractLsb' 64 64 ∧
      (tag = true ↔ s.gtag a = true ∧ capTypeOf (s.g a) = 0 ∧ capRegionOf (s.g a) cur) := by
  refine ⟨_, _, retire_writesReg s len d _ _, cursor_withCursor _ _, upper_withCursor _ _, ?_⟩
  simp only [cursorTag, Bool.and_eq_true, beq_iff_eq, capOtype_eq_zero_iff, capRegion_iff, and_assoc]

/-- CSA and the forms of CINC are cursor moves. -/
theorem exec_of_moveRow {s : State} {i : Instr} {len : Nat} {d a : Reg} {cur : Word} (hrow : moveRow s i = some (len, d, a, cur)) :
    exec i s = .next (s.moveCursor len d a cur) := by
  cases i with
  | csa => cases hrow; rfl
  | cinc | cincImm | cincW3 =>
    cases hrow
    simp only [wrap_add, wrap_toInt]
    rfl
  | _ => cases hrow

/-- What CGB reads. -/
theorem cgb_value (c : W128) : (BitVec.ofNat 64 (capBase c.toNat)).toNat = capBaseOf c := by
  rw [capBase_eq, BitVec.toNat_ofNat, Nat.mod_eq_of_lt (capBaseOf_lt c)]

/-- What CGL reads. -/
theorem cgl_value (c : W128) :
    ((BitVec.ofInt 64 (min ((capTop c.toNat : Int) - capBase c.toNat) (2 ^ 64 - 1))).toNat : Int) =
      Min.min ((capTopOf c : Int) - capBaseOf c) (2 ^ 64 - 1) % 2 ^ 64 := by
  rw [capBase_eq, capTop_eq, BitVec.toNat_ofInt]
  exact Int.toNat_of_nonneg (Int.emod_nonneg _ (by decide))

/-- What CGP reads. -/
theorem cgp_value (c : W128) : (BitVec.ofNat 64 (c.toNat / 2 ^ 112)).toNat = (capPermOf c).toNat + 2 ^ 12 * (capTypeOf c).toNat := by
  rw [capPermOf, capTypeOf, extract_toNat, extract_toNat, BitVec.toNat_ofNat]
  omega

theorem capabilityFieldsRead : CapabilityFieldsRead := by
  intro s i d P hrow
  cases i with
  | cgb d a => cases hrow; exact ⟨_, rfl, _, cgb_value (s.g a), result_writesReg s 4 d _⟩
  | cgl d a => cases hrow; exact ⟨_, rfl, _, cgl_value (s.g a), result_writesReg s 4 d _⟩
  | cgp d a => cases hrow; exact ⟨_, rfl, _, cgp_value (s.g a), result_writesReg s 4 d _⟩
  | cga d a => cases hrow; exact ⟨_, rfl, _, int_eq_cursor s a, result_writesReg s 4 d _⟩
  | ctag d a => cases hrow; exact ⟨_, rfl, _, rfl, result_writesReg s 4 d _⟩
  | _ => cases hrow

theorem cursorMovesKeepTheRest : CursorMovesKeepTheRest := by
  refine ⟨fun s i len d a cur hrow => ?_, fun s d a b => ?_, fun s d a => ?_⟩
  · exact ⟨_, exec_of_moveRow hrow, moveCursor_writes s len d a cur⟩
  · refine ⟨_, rfl, _, _, retire_writesReg s 4 d _ _, perm_withPermAnd _ _, type_withPermAnd _ _, span_withPermAnd _ _, ?_⟩
    simp only [Bool.and_eq_true, beq_iff_eq, capOtype_eq_zero_iff]
  · exact next_of (retire_writesReg s 4 d (s.g a) false)

/-- Settles O9: the model's fields are the ranges of bits of R215, and each form writes one register. -/
theorem capabilitiesReadAndMove : Obligations.CapabilitiesReadAndMove := ⟨capabilityFieldsRead, cursorMovesKeepTheRest⟩

/-! ## CSB (R221) -/

/-- CSB's capability has the fields of R221. -/
theorem csbCap_fields (c : W128) (hi : Nat) :
    let lo := (capCursorOf c).toNat
    let e := csbExp lo hi
    let c' := csbCap (capOtype c.toNat) (capPerm c.toNat) lo hi lo
    c'.extractLsb' 106 6 = BitVec.ofNat 6 e ∧ (c'.extractLsb' 85 21).toNat = lo / 2 ^ e * 2 ^ e / 2 ^ e % 2 ^ 21 ∧
      (c'.extractLsb' 64 21).toNat = (hi + 2 ^ e - 1) / 2 ^ e * 2 ^ e / 2 ^ e % 2 ^ 21 ∧ capCursorOf c' = capCursorOf c ∧
      capPermOf c' = capPermOf c ∧ capTypeOf c' = capTypeOf c := by
  rw [capOtype_eq, capPerm_eq]
  exact mkCap_fields _ _ _ _ _ _

/-- CSB in the terms of R217 and R221. -/
theorem exec_csb (s : State) (d a b : Reg) : exec (.csb d a b) s =
    let c := s.g a
    let lo := (capCursorOf c).toNat
    let hi := lo + (s.int b).toNat
    if s.gtag a = false then .next (s.trap cTag (capCursorOf c))
    else if capTypeOf c ≠ 0 then .next (s.trap cSeal (capCursorOf c))
    else if lo < capBaseOf c ∨ hi > capTopOf c then .next (s.trap cBounds (capCursorOf c))
    else if (csbRange lo hi).1 < capBaseOf c ∨ (csbRange lo hi).2 > capTopOf c then .next (s.trap cBounds (capCursorOf c))
    else .next ((s.setCap d (csbCap (capOtype c.toNat) (capPerm c.toNat) lo hi lo) true).retire 4) := by
  change execCsb d a b s = _
  simp only [execCsb, capCursor_eq, capBase_eq, capTop_eq, ne_eq, capOtype_eq_zero_iff, Bool.not_eq_true', int_eq_cursor s a]

theorem boundsAreNarrowedOrTrap : BoundsAreNarrowedOrTrap := by
  intro s d a b
  simp only [exec_csb]
  generalize hhi : (capCursorOf (s.g a)).toNat + (s.int b).toNat = hi
  generalize s.g a = c at hhi ⊢
  have hrange : hi < (capCursorOf c).toNat + 2 ^ 64 := by have := (s.int b).isLt; omega
  have htrap (v : BitVec 16) : Next (.next (s.trap v (capCursorOf c))) fun t => traps s t v (capCursorOf c) := ⟨_, rfl, trap_traps s v _⟩
  by_cases htag : s.gtag a = false
  · rw [if_pos htag, if_pos htag]
    exact htrap _
  by_cases htype : capTypeOf c ≠ 0
  · rw [if_neg htag, if_neg htag, if_pos htype, if_pos htype]
    exact htrap _
  by_cases hout : (capCursorOf c).toNat < capBaseOf c ∨ hi > capTopOf c
  · rw [if_neg htag, if_neg htag, if_neg htype, if_neg htype, if_pos hout, if_pos hout]
    exact htrap _
  rw [if_neg htag, if_neg htag, if_neg htype, if_neg htype, if_neg hout, if_neg hout]
  obtain ⟨hmax, hfits, hleast⟩ := csbExp_least hrange
  refine ⟨csbExp (capCursorOf c).toNat hi, hmax, hfits, hleast, ?_⟩
  split
  case isTrue hround => exact ⟨_, if_pos hround, trap_traps s cBounds _⟩
  case isFalse hround => exact ⟨_, if_neg hround, _, retire_writesReg s 4 d _ true, csbCap_fields c hi⟩

/-! ## Seals (R222, R223) -/

theorem word_eq_iff_toNat {w : Nat} (y : BitVec w) (n : Nat) (hn : n < 2 ^ w) : y.toNat = n ↔ y = BitVec.ofNat w n := by
  rw [← BitVec.toNat_inj, BitVec.toNat_ofNat, Nat.mod_eq_of_lt hn]

/-- CSEAL with the refusals of one cause together (R222). -/
theorem exec_cseal (s : State) (d a b : Reg) : exec (.cseal d a b) s =
    let y := s.int b
    if s.gtag a = false then .next (s.trap cTag y)
    else if capTypeOf (s.g a) ≠ 0 ∨ y = 0 ∨ y.toNat > 15 ∨ y = 10 then .next (s.trap cSeal y)
    else if s.cx.seals.getLsbD y.toNat = false then .next (s.trap cPerm y)
    else .next ((s.setCap d (withOtype (s.g a) y.toNat) true).retire 4) := by
  change execCseal d a b s = _
  simp only [execCseal, Bool.not_eq_true', ne_eq, capOtype_eq_zero_iff, word_eq_iff_toNat (s.int b) 0 (by decide),
    word_eq_iff_toNat (s.int b) 10 (by decide), ite_or]
  rfl

/-- CUNSEAL with the refusals of one cause together (R222). -/
theorem exec_cunseal (s : State) (d a b : Reg) : exec (.cunseal d a b) s =
    let y := s.int b
    if s.gtag a = false then .next (s.trap cTag y)
    else if capTypeOf (s.g a) = 0 ∨ capTypeOf (s.g a) = 10 ∨ y.toNat ≠ (capTypeOf (s.g a)).toNat then .next (s.trap cSeal y)
    else if s.cx.seals.getLsbD y.toNat = false then .next (s.trap cPerm y)
    else .next ((s.setCap d (withOtype (s.g a) 0) true).retire 4) := by
  change execCunseal d a b s = _
  simp only [execCunseal, Bool.not_eq_true', ne_eq, capOtype_eq, word_eq_iff_toNat (capTypeOf (s.g a)) 0 (by decide),
    word_eq_iff_toNat (capTypeOf (s.g a)) 10 (by decide), ite_or]
  rfl

theorem sealsNeedTheirType : SealsNeedTheirType := by
  intro s d a b
  simp only [exec_cseal, exec_cunseal]
  have htrap (v : BitVec 16) : Next (.next (s.trap v (s.int b))) fun t => traps s t v (s.int b) := ⟨_, rfl, trap_traps s v _⟩
  constructor
  · split
    · exact htrap _
    split
    · exact htrap _
    split
    · exact htrap _
    · exact ⟨_, rfl, _, retire_writesReg s 4 d _ true, type_withOtype _ _, lower_withOtype _ _⟩
  · split
    · exact htrap _
    split
    · exact htrap _
    split
    · exact htrap _
    · exact ⟨_, rfl, _, retire_writesReg s 4 d _ true, type_withOtype _ _, lower_withOtype _ _⟩

/-! ## Authority (R215, R220 to R222) -/

/-- Steps that leave the focused context alone leave it alone together. -/
theorem foldl_keeps_cx {α : Type} {f : State → α → State} (h : ∀ s x, (f s x).cx = s.cx) (l : List α) (s : State) :
    (l.foldl f s).cx = s.cx := by
  induction l generalizing s with
  | nil => rfl
  | cons x xs ih => rw [List.foldl_cons, ih, h]

theorem modCore_cx (s : State) (id : Nat) (f : Core → Core) : (s.modCore id f).cx = s.cx := by
  unfold State.modCore
  split
  · rfl
  · split <;> rfl

theorem dropCore_cx (s : State) (c : Core) : (s.dropCore c).cx = s.cx := by
  unfold State.dropCore
  refine foldl_keeps_cx (fun u x => ?_) _ s
  rfl

/-- The module keeps the focused context when it makes a core's operations in flight undefined. -/
theorem voidOps_cx (s : State) (c : Core) : (s.voidOps c).cx = s.cx := by
  unfold State.voidOps
  dsimp only [State.modSpace]
  split
  · exact modCore_cx s _ _
  · exact modCore_cx s _ _

/-- A core that stops loses its context. -/
theorem haltLaunches_cx (s : State) (ls : List Nat) : (s.haltLaunches ls).cx = s.cx ∨ (s.haltLaunches ls).cx = Ctx.zero := by
  unfold State.haltLaunches
  dsimp only
  split
  · exact .inr rfl
  · exact .inl (foldl_keeps_cx (fun u c => (voidOps_cx _ c).trans (dropCore_cx u c)) _ s)

theorem giveBack_cx (s : State) (w : Warrant) (code : BitVec 8) : (s.giveBack w code).cx = s.cx := by
  unfold State.giveBack
  split
  · rfl
  · dsimp only
    split <;> rfl

/-- The end of a warrant keeps the focused context or drops it (R350). -/
theorem terminate_cx (s : State) (w : Nat) (code : BitVec 8) : (s.terminate w code).cx = s.cx ∨ (s.terminate w code).cx = Ctx.zero := by
  have hhalt := haltLaunches_cx s (s.launchesOf w)
  unfold State.terminate
  dsimp only
  split
  · exact .inl rfl
  · split
    · rwa [giveBack_cx]
    · rw [State.emit, giveBack_cx]
      exact hhalt

/-- A trap does not retire its instruction (R188). -/
theorem trap_not_retired (s : State) (c : BitVec 16) (v : Word) : (s.trap c v).cx.retired ≠ s.cx.retired + 1 := by
  have htraps := trap_traps s c v
  rw [traps] at htraps
  split at htraps
  · rw [htraps.1]
    exact (Nat.succ_ne_self _).symm
  · split at htraps
    · rw [htraps]
      exact (Nat.succ_ne_self _).symm
    · rw [htraps]
      obtain h | h := terminate_cx { s with cx.agreed := false, cx.dropped := false } s.lau.war (if c = 0x21 then 0x44 else 0x43)
      · rw [h]
        exact (Nat.succ_ne_self _).symm
      · rw [h]
        exact (Nat.succ_ne_zero _).symm

/-- `c'` has no more authority than `c`. -/
def Narrows (c' c : W128) : Prop :=
  capBaseOf c ≤ capBaseOf c' ∧ capTopOf c' ≤ capTopOf c ∧ capPermOf c' &&& ~~~capPermOf c = 0

theorem perm_kept {c c' : W128} (h : capPermOf c' = capPermOf c) : capPermOf c' &&& ~~~capPermOf c = 0 := by
  rw [h, BitVec.and_not_self]

theorem narrows_withOtype (c : W128) (t : Nat) : Narrows (withOtype c t) c := by
  have hspan := extract_inside (lo := 0) (m := 112) (lower_withOtype c t) (by decide) (by decide)
  exact ⟨(base_eq_of_span hspan).ge, (top_eq_of_span hspan).le,
    perm_kept (extract_inside (lower_withOtype c t) (by decide) (by decide))⟩

theorem narrows_withPermAnd (c : W128) (m : Nat) : Narrows (withPermAnd c m) c := by
  refine ⟨(base_eq_of_span (span_withPermAnd c m)).ge, (top_eq_of_span (span_withPermAnd c m)).le, ?_⟩
  rw [perm_withPermAnd, BitVec.and_comm (capPermOf c), BitVec.and_assoc, BitVec.and_not_self]
  exact BitVec.and_zero

theorem narrows_withCursor {c : W128} {a : Word} (hregion : capRegionOf c a) : Narrows (withCursor c a) c := by
  rw [← cursor_withCursor c a] at hregion
  exact ⟨(base_eq_of_move (upper_withCursor c a) hregion).ge, (top_eq_of_move (upper_withCursor c a) hregion).le,
    perm_kept (extract_inside (upper_withCursor c a) (by decide) (by decide))⟩

/-- CSB's capability spans its rounded range (R221). -/
theorem narrows_csbCap {c : W128} {hi : Nat} (hlo : (capCursorOf c).toNat ≤ hi) (hhi : hi < (capCursorOf c).toNat + 2 ^ 64)
    (hin : ¬ ((csbRange (capCursorOf c).toNat hi).1 < capBaseOf c ∨ (csbRange (capCursorOf c).toNat hi).2 > capTopOf c)) :
    Narrows (csbCap (capOtype c.toNat) (capPerm c.toNat) (capCursorOf c).toNat hi (capCursorOf c).toNat) c := by
  obtain ⟨hexp, hbase, htop, hcursor, hperm, -⟩ := csbCap_fields c hi
  obtain ⟨hmax, hfits, -⟩ := csbExp_least hhi
  generalize csbCap (capOtype c.toNat) (capPerm c.toNat) (capCursorOf c).toNat hi (capCursorOf c).toNat = c' at *
  generalize he : csbExp (capCursorOf c).toNat hi = e at *
  have hpos : 0 < 2 ^ e := Nat.two_pow_pos e
  rw [Nat.mul_div_cancel _ hpos] at hbase htop
  rw [← hcursor] at hbase hlo hfits
  have hceil : hi ≤ (hi + 2 ^ e - 1) / 2 ^ e * 2 ^ e := (ceilDiv_le_iff hpos).mp le_rfl
  obtain ⟨htop', hbase'⟩ := bounds_of_fitting_range hmax hexp hbase htop (hlo.trans hceil) hfits
  rw [csbRange, he] at hin
  rw [Narrows, htop', hbase', hcursor]
  exact ⟨Nat.le_of_not_lt fun h => hin (.inl h), Nat.le_of_not_lt fun h => hin (.inr h), perm_kept hperm⟩

/-- What an instruction that derives g`d` from g`a` may do: it traps, or it writes a capability whose tag, if set, is g`a`'s and
whose authority g`a` had. -/
inductive Derives (s : State) (d a : Reg) : Res → Prop
  | trap (c : BitVec 16) (v : Word) : Derives s d a (.next (s.trap c v))
  | write (len : Nat) (c : W128) (tag : Bool) (h : tag = true → s.gtag a = true ∧ Narrows c (s.g a)) :
      Derives s d a (.next ((s.setCap d c tag).retire len))

theorem derives_moveCursor (s : State) (len : Nat) (d a : Reg) (cur : Word) : Derives s d a (.next (s.moveCursor len d a cur)) := by
  refine .write len _ _ fun htag => ?_
  simp only [cursorTag, Bool.and_eq_true, capRegion_iff] at htag
  obtain ⟨⟨htagged, -⟩, hregion⟩ := htag
  exact ⟨htagged, narrows_withCursor hregion⟩

theorem derives_csb (s : State) (d a b : Reg) : Derives s d a (exec (.csb d a b) s) := by
  rw [exec_csb]
  dsimp only
  split
  · exact .trap _ _
  case isFalse htag =>
  split
  · exact .trap _ _
  split
  · exact .trap _ _
  split
  · exact .trap _ _
  case isFalse hin =>
    exact .write 4 _ _ fun _ => ⟨Bool.not_eq_false _ ▸ htag,
      narrows_csbCap (Nat.le_add_right _ _) (Nat.add_lt_add_left (s.int b).isLt _) hin⟩

/-- Sealing and unsealing: a change of OTYPE behind three checks. -/
theorem derives_withOtype (s : State) (d a : Reg) (t : Nat) (v : Word) {p q : Prop} [Decidable p] [Decidable q] :
    Derives s d a (if s.gtag a = false then .next (s.trap cTag v) else if p then .next (s.trap cSeal v)
      else if q then .next (s.trap cPerm v) else .next ((s.setCap d (withOtype (s.g a) t) true).retire 4)) := by
  split
  · exact .trap _ _
  case isFalse htag =>
  split
  · exact .trap _ _
  split
  · exact .trap _ _
  · exact .write 4 _ _ fun _ => ⟨Bool.not_eq_false _ ▸ htag, narrows_withOtype _ _⟩

theorem derives_of_capDeriving {i : Instr} {d a : Reg} (hrow : capDeriving i = some (d, a)) (s : State) : Derives s d a (exec i s) := by
  cases i with
  | csa | cinc | cincImm | cincW3 => cases hrow; exact derives_moveCursor s _ d a _
  | cap =>
    cases hrow
    refine .write 4 _ _ fun htag => ⟨?_, narrows_withPermAnd _ _⟩
    exact (Bool.and_eq_true _ _ ▸ htag).1
  | cct => cases hrow; exact .write 4 _ _ fun htag => absurd htag Bool.false_ne_true
  | csb => cases hrow; exact derives_csb s d a _
  | cseal => cases hrow; exact exec_cseal s d a _ ▸ derives_withOtype s d a _ _
  | cunseal => cases hrow; exact exec_cunseal s d a _ ▸ derives_withOtype s d a _ _
  | _ => cases hrow

theorem authorityNeverGrows : AuthorityNeverGrows := by
  intro s i d a t hrow hd hexec hretired htag
  have hderives := derives_of_capDeriving hrow s
  rw [hexec] at hderives
  cases hderives with
  | trap c v => exact absurd hretired (trap_not_retired s c v)
  | write len c tag h =>
    obtain ⟨-, hregs, -⟩ := retire_writesReg s len d c tag
    obtain ⟨hbits, htagged⟩ := hregs d
    rw [if_pos rfl, if_neg hd] at hbits htagged
    rw [hbits]
    exact h (htagged ▸ htag)

/-- Settles O10: the checks stand in the rule's order, and the encoding of CSB spans just its rounded range. -/
theorem capabilityAuthorityIsChecked : Obligations.CapabilityAuthorityIsChecked :=
  ⟨boundsAreNarrowedOrTrap, sealsNeedTheirType, authorityNeverGrows⟩

end Sys2Proof.Machine
end

section
namespace Sys2Proof.Machine

open Sys2Proof Sys2Proof.Claim Sys2Proof.Laws

/-! Refused global accesses (R77, R81, R218, R232). -/

/-- The permissions that an access needs are held when none of them is missing. -/
theorem perms_held_iff {n : Nat} (held needed : BitVec n) : held &&& needed = needed ↔ needed &&& ~~~held = 0 := by
  constructor
  · intro h
    rw [← h, BitVec.and_comm held, BitVec.and_assoc, BitVec.and_not_self]
    exact BitVec.and_zero
  · intro h
    refine BitVec.eq_of_getLsbD_eq fun i hi => ?_
    have hbit := congrArg (·.getLsbD i) h
    simp only [BitVec.getLsbD_and, BitVec.getLsbD_not, hi, decide_true, Bool.true_and, BitVec.ofNat_eq_ofNat, BitVec.getLsbD_zero,
      Bool.and_eq_false_imp, Bool.not_eq_false'] at hbit ⊢
    cases hneed : needed.getLsbD i with
    | false => rw [Bool.and_false]
    | true => rw [hbit hneed, Bool.and_true]

theorem capPerm_and_eq_iff (c : W128) (p : BitVec 12) : capPerm c.toNat &&& p.toNat = p.toNat ↔ p &&& ~~~capPermOf c = 0 := by
  rw [capPerm_eq, ← BitVec.toNat_and, BitVec.toNat_inj, perms_held_iff]

/-- CapCheck in the terms of R218. -/
theorem capCheck_eq (c : W128) (tag : Bool) (p : BitVec 12) (a : Int) (sz : Nat) : capCheck c tag p.toNat a sz =
    if tag = false then some cTag
    else if capTypeOf c ≠ 0 then some cSeal
    else if p &&& ~~~capPermOf c ≠ 0 then some cPerm
    else if a < capBaseOf c ∨ a + sz > capTopOf c then some cBounds
    else none := by
  simp only [capCheck, Bool.not_eq_true', ne_eq, capOtype_eq_zero_iff, capPerm_and_eq_iff, capBase_eq, capTop_eq]

/-- An access that a check refuses traps with the cause of the first that fails. -/
theorem access_of_denied {s : State} {b : Reg} {off : Word} {p : BitVec 12} {sz : Nat} {c : BitVec 16}
    (h : denied s b off.toInt p sz c) : s.access b off p.toNat sz = .trap c := by
  have hea : s.ea b off = addr s b off.toInt := rfl
  unfold denied at h
  rw [State.access, hea, capCheck_eq]
  split at h
  case isTrue htag => rw [if_pos htag, h]; rfl
  case isFalse htag =>
  rw [if_neg htag]
  split at h
  case isTrue htype => rw [if_pos htype, h]; rfl
  case isFalse htype =>
  rw [if_neg htype]
  split at h
  case isTrue hperm => rw [if_pos hperm, h]; rfl
  case isFalse hperm =>
  rw [if_neg hperm]
  split at h
  case isTrue hbounds => rw [if_pos hbounds, h]; rfl
  case isFalse hbounds =>
  rw [if_neg hbounds]
  have halign : (addr s b off.toInt).toNat % sz ≠ 0 ↔ addr s b off.toInt % sz ≠ 0 := by
    have hnat : ((addr s b off.toInt).toNat : Int) = addr s b off.toInt := Int.toNat_of_nonneg (by omega)
    rw [← hnat, ← Int.natCast_mod, Int.toNat_natCast, ne_eq, ne_eq, Int.natCast_eq_zero]
  dsimp only
  split at h
  case isTrue hodd => rw [if_pos (halign.mpr hodd), h]; rfl
  case isFalse heven =>
    obtain ⟨hpage, hcause⟩ := h
    rw [if_neg (halign.not.mpr heven), hpage, hcause]
    rfl

/-! The instructions that R232 checks take the trap of a refused access. -/

theorem gload_of_denied {s : State} {a : Reg} {off : Word} {sz : Nat} {c : BitVec 16} (h : denied s a off.toInt 1 sz c) (len : Nat)
    (d : Reg) (sg : Bool) : s.gload len d a off sz sg = s.trap c (wrap (addr s a off.toInt)) := by
  unfold State.gload
  rw [show pLD = (1 : BitVec 12).toNat from rfl, access_of_denied h]
  rfl

theorem gloadCap_of_denied {s : State} {a : Reg} {off : Word} {c : BitVec 16} (h : denied s a off.toInt 1 16 c) (len : Nat)
    (d : Reg) : s.gloadCap len d a off = s.trap c (wrap (addr s a off.toInt)) := by
  unfold State.gloadCap
  rw [show pLD = (1 : BitVec 12).toNat from rfl, access_of_denied h]
  rfl

theorem gstore_of_denied {s : State} {d a : Reg} {off : Word} {sz : Nat} {cap : Bool} {c : BitVec 16}
    (h : denied s a off.toInt (if cap && s.gtag d then 0b1010 else 0b10) sz c) (len : Nat) :
    s.gstore len d a off sz cap = s.trap c (wrap (addr s a off.toInt)) := by
  have hperm : (if cap && s.gtag d then pST + pSTC else pST) = (if cap && s.gtag d then 0b1010 else 0b10 : BitVec 12).toNat := by
    split <;> rfl
  unfold State.gstore
  dsimp only
  rw [hperm, access_of_denied h]
  rfl

theorem gatomic_of_denied {s : State} {w : Bool} {a : Reg} {c : BitVec 16} (h : denied s a 0 0b10000 (if w then 8 else 4) c)
    (op : Nat) (d b : Reg) : s.gatomic op w d a b = s.trap c (wrap (addr s a 0)) := by
  unfold State.gatomic
  dsimp only
  rw [show pAMO = (0b10000 : BitVec 12).toNat from rfl, access_of_denied (off := 0) h]
  rfl

theorem execWaitw_of_denied {s : State} {w : Bool} {a : Reg} {c : BitVec 16} (h : denied s a 0 0b10000 (if w then 8 else 4) c)
    (d b : Reg) : execWaitw w d a b s = .next (s.trap c (wrap (addr s a 0))) := by
  unfold execWaitw
  dsimp only
  rw [show pAMO = (0b10000 : BitVec 12).toNat from rfl, access_of_denied (off := 0) h]
  rfl

section
variable {s : State} {i : Instr} {len n : Nat} {d a : Reg} {o : BitVec n} {sz : Nat} {c : BitVec 16} (hn : n ≤ 64)
include hn

theorem next_gload_denied {sg : Bool} (hexec : exec i s = .next (s.gload len d a (o.signExtend 64) sz sg))
    (h : denied s a o.toInt 1 sz c) : Next (exec i s) fun t => traps s t c (wrap (addr s a o.toInt)) := by
  rw [← BitVec.toInt_signExtend_of_le hn] at h ⊢
  exact ⟨_, hexec.trans (congrArg _ (gload_of_denied h len d sg)), trap_traps s c _⟩

theorem next_gloadCap_denied (hexec : exec i s = .next (s.gloadCap len d a (o.signExtend 64)))
    (h : denied s a o.toInt 1 16 c) : Next (exec i s) fun t => traps s t c (wrap (addr s a o.toInt)) := by
  rw [← BitVec.toInt_signExtend_of_le hn] at h ⊢
  exact ⟨_, hexec.trans (congrArg _ (gloadCap_of_denied h len d)), trap_traps s c _⟩

theorem next_gstore_denied {cap : Bool} (hexec : exec i s = .next (s.gstore len d a (o.signExtend 64) sz cap))
    (h : denied s a o.toInt (if cap && s.gtag d then 0b1010 else 0b10) sz c) :
    Next (exec i s) fun t => traps s t c (wrap (addr s a o.toInt)) := by
  rw [← BitVec.toInt_signExtend_of_le hn] at h ⊢
  exact ⟨_, hexec.trans (congrArg _ (gstore_of_denied h len)), trap_traps s c _⟩

end

/-- The loads of R235 take the trap of a refused access. -/
theorem loads_of_denied {s : State} {i : Instr} {len : Nat} {d a : Reg} {off : Int} {sz : Nat} {sg : Bool} {c : BitVec 16}
    (hrow : loadRow i = some (len, d, a, off, sz, sg)) (h : denied s a off 1 sz c) :
    Next (exec i s) fun t => traps s t c (wrap (addr s a off)) := by
  cases i with
  | ldI8 | ldN8 | ldI16 | ldN16 | ldI32 | ldN32 | ld => cases hrow; exact next_gload_denied (by decide) rfl h
  | ldW3 size => cases size <;> cases hrow <;> exact next_gload_denied (by decide) rfl h
  | _ => cases hrow

/-- The stores of R235 and R239 take the trap of a refused access. -/
theorem stores_of_denied {s : State} {i : Instr} {len : Nat} {d a : Reg} {off : Int} {sz : Nat} {cap : Bool} {c : BitVec 16}
    (hrow : storeRow i = some (len, d, a, off, sz, cap)) (h : denied s a off (if cap && s.gtag d then 0b1010 else 0b10) sz c) :
    Next (exec i s) fun t => traps s t c (wrap (addr s a off)) := by
  cases i with
  | stI8 | stI16 | stI32 | st | stc | stcW3 => cases hrow; exact next_gstore_denied (by decide) rfl h
  | stW3 size => cases size <;> cases hrow <;> exact next_gstore_denied (by decide) rfl h
  | _ => cases hrow

/-- The atomics of R253 and R254 take the trap of a refused access. -/
theorem atomics_of_denied {s : State} {i : Instr} {w : Bool} {d a : Reg} {f : Nat → Option Nat} {c : BitVec 16}
    (hrow : amoRow s i = some (w, d, a, f)) (h : denied s a 0 0b10000 (if w then 8 else 4) c) :
    Next (exec i s) fun t => traps s t c (wrap (addr s a 0)) := by
  cases i with
  | amoAdd | amoAnd | amoOr | amoXor | amoMin | amoMax | amoMinn | amoMaxn | amoSwap | cas =>
    cases hrow
    exact ⟨_, congrArg Host.Outcome.next (gatomic_of_denied h _ _ _), trap_traps s c _⟩
  | _ => cases hrow

theorem refusedAccessTakesTrap : RefusedAccessesTrap := by
  refine ⟨fun s i len d a off sz sg c => loads_of_denied, fun s i len d a off c hrow h => ?_,
    fun s i len d a off sz cap c => stores_of_denied, fun s i w d a f c => atomics_of_denied, fun s w d a b c h => ?_⟩
  · cases i with
    | ldc | ldcW3 => cases hrow; exact next_gloadCap_denied (by decide) rfl h
    | _ => cases hrow
  · exact ⟨_, execWaitw_of_denied h d b, trap_traps s c _⟩

/-! ## PREF (R258) -/

/-- The checks of a one-byte load at the cursor, with no regard to its page. -/
theorem capCheck_isNone_iff (s : State) (a : Reg) :
    (capCheck (s.g a) (s.gtag a) pLD ((s.int a).toNat : Int) 1).isNone = true ↔ grants s a 0 1 1 := by
  rw [show pLD = (1 : BitVec 12).toNat from rfl, capCheck_eq, grants, addr, Int.add_zero]
  by_cases htag : s.gtag a = false
  · simp [htag]
  rw [if_neg htag, Bool.not_eq_false] at *
  by_cases htype : capTypeOf (s.g a) = 0
  case neg => simp only [if_pos htype, htype, Option.isNone_some, Bool.false_eq_true, false_and, and_false]
  by_cases hperm : (1 : BitVec 12) &&& ~~~capPermOf (s.g a) = 0
  case neg => simp only [if_neg (not_not_intro htype), if_pos hperm, hperm, Option.isNone_some, Bool.false_eq_true, false_and, and_false]
  rw [if_neg (not_not_intro htype), if_neg (not_not_intro hperm)]
  simp only [htag, htype, hperm, true_and, Nat.cast_one, Int.emod_one, and_true]
  split
  case isTrue hout => simp only [Option.isNone_some, Bool.false_eq_true, false_iff]; omega
  case isFalse hin => simp only [Option.isNone_none, true_iff]; omega

theorem tlbFill_eq (s : State) (a : Nat) : ∃ l, s.tlbFill a = { s with co.tlb := l } := by
  unfold State.tlbFill
  split
  · exact ⟨_, rfl⟩
  · split <;> exact ⟨_, rfl⟩

theorem countLoad_eq (s : State) : ∃ n, s.countLoad = { s with cx.loads := n } := by
  unfold State.countLoad
  split <;> exact ⟨_, rfl⟩

theorem keepReply_eq (s : State) (core hid n : Nat) (f : MirrorReply → MirrorReply) : ∃ l, s.keepReply core hid n f = { s with launches := l } := by
  unfold State.keepReply
  dsimp only
  split <;> exact ⟨_, rfl⟩

/-- A wait that a PREF begins, whatever it has noted and asked. -/
def prefWait (s : State) (bad : Bool) (loads : Nat) (tlb : List TlbEnt) (out : List Out) (op : WaitOp) : State :=
  ({ s with cx.badLine := bad, cx.loads := loads, co.tlb := tlb, out := out } : State).waitOn 1 op 4

theorem prefWait_waits (s : State) (bad : Bool) (loads : Nat) (tlb : List TlbEnt) (out : List Out) (op : WaitOp) :
    waits s (prefWait s bad loads tlb out op) 1 4 ∧ accessFrame s (prefWait s bad loads tlb out op) := by
  refine ⟨⟨⟨State.issue_counter _, rfl, rfl, rfl, rfl⟩, fun _ => ⟨rfl, rfl⟩, rfl, rfl, rfl, rfl, rfl, rfl⟩, ?_⟩
  simp only [accessFrame, prefWait, State.waitOn, State.issue, State.count, and_self]

/-- The bit that PREF writes. -/
def prefBit (ok : Bool) : Word := if ok then 1 else 0

theorem prefBit_cases (ok : Bool) : intBits (prefBit ok) = 1 ∨ intBits (prefBit ok) = 0 := by cases ok <;> decide

theorem prefBit_eq_one_iff (ok : Bool) : intBits (prefBit ok) = 1 ↔ ok = true := by cases ok <;> decide

/-- The reply of a waiting context writes its register. -/
theorem wake_delivers (hstatus : t.cx.status = .waiting) (l : List Launch) (d : Reg) (v : Word) :
    delivered t (({ t with launches := l } : State).wake t.co.id t.cx.hid (fun c => (c.putInt d v).done)) d (intBits v) false := by
  have hput : (t.cx.putInt d v).done.status = .waiting := (Ctx.put_status _ _ _ _).trans hstatus
  have hnpc : (t.cx.putInt d v).npc = t.cx.npc := Ctx.put_npc _ _ _ _
  rw [State.wake_focused (s := { t with launches := l }) hstatus hput]
  refine ⟨fun n => ⟨Ctx.reg_put _ _ _ _ _, Ctx.tag_put _ _ _ _ _⟩, hnpc, rfl, rfl, rfl, rfl, rfl, ?_⟩
  unfold Ctx.done Ctx.putInt Ctx.put
  split <;> rfl

section
variable {t : State} {d : Reg} {ok : Bool} (hent : t.relocks t.co.id = false) (hstatus : t.cx.status = .waiting)
include hent hstatus

/-- The reply of a global access reaches the focused context that waits for it (R236). -/
theorem exec_globalReply_focused {how : ReplyHow} (hhow : how ≠ .corrected) :
    exec (.globalReply t.co.id t.cx.hid how false) t = .next (t.globalReplied t.co.id t.cx (plainReply how)) := by
  have hctx : t.ctxAt t.co.id t.cx.hid = some t.cx := State.ctxAt_focused (by rw [hstatus]; decide)
  change execGlobalReply t.co.id t.cx.hid how false t = _
  unfold execGlobalReply
  rw [State.inputOf_enters _ _ hent, hctx]
  dsimp only
  rw [if_neg hhow]
  rfl

theorem pref_replied_home (hwait : t.cx.wait = some (.pref d ok false)) :
    Next (exec (.globalReply t.co.id t.cx.hid .home false) t) fun u => delivered t u d (intBits (prefBit ok)) false := by
  refine ⟨_, exec_globalReply_focused hent hstatus (by decide), ?_⟩
  unfold plainReply State.globalReplied
  rw [hwait]
  exact wake_delivers hstatus t.launches d (prefBit ok)

theorem pref_replied_peer (hwait : t.cx.wait = some (.pref d ok true)) (bs : List Byte) :
    Next (exec (.globalReply t.co.id t.cx.hid (.peer bs) false) t) fun u => delivered t u d (intBits (prefBit ok)) false := by
  refine ⟨_, exec_globalReply_focused hent hstatus (fun h => by cases h), ?_⟩
  unfold plainReply State.globalReplied
  rw [hwait]
  obtain ⟨l, hl⟩ := keepReply_eq t t.co.id t.cx.hid (t.loadNo t.co.id t.cx.hid) (fun r => { r with val := if ok then 1 else 0, tag := false })
  dsimp only
  rw [State.noteReply, hl]
  exact wake_delivers hstatus l d (prefBit ok)

theorem pref_replied_unmapped (hwait : t.cx.wait = some (.pref d ok true)) (n : Nat) :
    Next (exec (.globalReply t.co.id t.cx.hid (.unmapped n) false) t) fun u => delivered t u d 0 false := by
  refine ⟨_, exec_globalReply_focused hent hstatus (fun h => by cases h), ?_⟩
  unfold plainReply State.globalReplied
  rw [hwait]
  obtain ⟨l, hl⟩ := keepReply_eq t t.co.id t.cx.hid (t.loadNo t.co.id t.cx.hid) (fun r => { r with val := 0, tag := false })
  dsimp only
  rw [State.noteReply, hl]
  exact wake_delivers hstatus l d 0

end

/-- The wait that PREF begins at an address that no peer holds, and the bit that its reply writes. -/
theorem exec_pref_home {s : State} {d a : Reg} (hpeer : ∀ p, s.translate (s.int a).toNat ≠ .peer p) :
    ∃ bad loads tlb out ok, exec (.pref d a) s = .next (prefWait s bad loads tlb out (.pref d ok false)) ∧
      (ok = true ↔ grants s a 0 1 1 ∧ ∃ h, s.translate (s.int a).toNat = .home h ∧ s.space.mapped h = true) := by
  have hexec : exec (.pref d a) s = execPref d a s := rfl
  rw [hexec, execPref]
  cases hto : s.translate (s.int a).toNat with
  | peer p => exact absurd hto (hpeer p)
  | unmapped => exact ⟨false, s.cx.loads, s.co.tlb, s.out, false, rfl, by simp only [Bool.false_eq_true, reduceCtorEq, false_and, exists_false, and_false]⟩
  | home h =>
    simp only [Dest.home.injEq, exists_eq_left']
    split
    case isTrue hmapped =>
      obtain ⟨tlb, htlb⟩ := tlbFill_eq { s.clean with
        co.tlb := s.clean.co.tlb.filter (fun e => !(decide (e.base ≤ h) && decide (h < e.base + e.size))) } h
      refine ⟨false, s.cx.loads, tlb, s.out, _, congrArg Host.Outcome.next (congrArg (State.waitOn 1 _ 4) htlb), ?_⟩
      rw [capCheck_isNone_iff, and_iff_left hmapped]
    case isFalse hmapped =>
      exact ⟨false, s.cx.loads, s.co.tlb, s.out, false, rfl, by simp only [hmapped, Bool.false_eq_true, and_false]⟩

/-- The wait that PREF begins at a peer's address. -/
theorem exec_pref_peer {s : State} {d a : Reg} {p : Nat} (hpeer : s.translate (s.int a).toNat = .peer p) :
    if s.lau.mirror then
      exec (.pref d a) s = .next (prefWait s s.cx.badLine (s.cx.loads + 1) s.co.tlb s.out (.mirror d s.cx.loads))
    else ∃ loads out ok, exec (.pref d a) s = .next (prefWait s false loads s.co.tlb out (.pref d ok true)) ∧
      (ok = true ↔ grants s a 0 1 1) := by
  have hexec : exec (.pref d a) s = execPref d a s := rfl
  obtain ⟨loads, hloads⟩ := countLoad_eq s
  rw [hexec, execPref, hpeer]
  dsimp only
  split
  · rfl
  · rw [hloads]
    exact ⟨loads, _, _, rfl, capCheck_isNone_iff s a⟩

theorem prefTestsTheAddress : PrefTestsTheAddress := by
  intro s d a hent
  by_cases hpeer : ∀ p, s.translate (s.int a).toNat ≠ .peer p
  · obtain ⟨bad, loads, tlb, out, ok, hexec, hok⟩ := exec_pref_home (d := d) hpeer
    obtain ⟨hwaits, hframe⟩ := prefWait_waits s bad loads tlb out (.pref d ok false)
    refine ⟨_, hexec, hwaits, hframe, fun _ => ?_, fun p hp => absurd hp (hpeer p)⟩
    obtain ⟨u, hu, hdelivered⟩ := pref_replied_home (t := prefWait s bad loads tlb out (.pref d ok false)) hent rfl rfl
    exact ⟨u, hu, _, hdelivered, prefBit_cases ok, (prefBit_eq_one_iff ok).trans hok⟩
  · simp only [ne_eq, not_forall, not_not] at hpeer
    obtain ⟨p, hpeer⟩ := hpeer
    have hexec := exec_pref_peer (d := d) hpeer
    by_cases hmirror : s.lau.mirror
    · rw [if_pos hmirror] at hexec
      obtain ⟨hwaits, hframe⟩ := prefWait_waits s s.cx.badLine (s.cx.loads + 1) s.co.tlb s.out (.mirror d s.cx.loads)
      refine ⟨_, hexec, hwaits, hframe, fun hnot => absurd hpeer (hnot p), fun q hq => ?_⟩
      rw [if_pos hmirror]
      exact ⟨rfl, rfl⟩
    · rw [if_neg hmirror] at hexec
      obtain ⟨loads, out, ok, hexec, hok⟩ := hexec
      obtain ⟨hwaits, hframe⟩ := prefWait_waits s false loads s.co.tlb out (.pref d ok true)
      refine ⟨_, hexec, hwaits, hframe, fun hnot => absurd hpeer (hnot p), fun q hq => ?_⟩
      rw [if_neg hmirror]
      refine ⟨fun bs => ?_, pref_replied_unmapped (t := prefWait s false loads s.co.tlb out (.pref d ok true)) hent rfl rfl⟩
      obtain ⟨u, hu, hdelivered⟩ := pref_replied_peer (t := prefWait s false loads s.co.tlb out (.pref d ok true)) hent rfl rfl bs
      exact ⟨u, hu, _, hdelivered, prefBit_cases ok, (prefBit_eq_one_iff ok).trans hok⟩

/-- Settles O14: the model's checks are those of R218 in their order, and the reply of PREF carries the checks' outcome. -/
theorem refusedAccessesTrap : Obligations.RefusedAccessesTrap := ⟨refusedAccessTakesTrap, prefTestsTheAddress⟩

end Sys2Proof.Machine
end

section
namespace Sys2Proof.Machine

open Sys2Proof Sys2Proof.Claim Sys2Proof.Laws

/-! What a release writes (R84, R87). -/

/-! ## One space of the module -/

/-- The space of an identifier after a change of the spaces of one identifier. -/
theorem spaceById_modSpace {s : State} {n : Nat} {f : Space → Space} (hid : ∀ sp, (f sp).id = sp.id) (k : Nat) :
    (s.modSpace n f).spaceById k = if k = n ∧ s.spaces.any (·.id == n) = true then f (s.spaceById k) else s.spaceById k := by
  have hpred : ((fun x : Space => x.id == k) ∘ fun x => if x.id == n then f x else x) = fun x => x.id == k := by
    funext x
    simp only [Function.comp]
    split <;> simp only [hid]
  simp only [State.modSpace, State.spaceById, List.find?_map, hpred]
  cases hfind : s.spaces.find? (·.id == k) with
  | none =>
    have hnone : ¬ (k = n ∧ s.spaces.any (·.id == n) = true) := by
      rintro ⟨rfl, hany⟩
      rw [List.find?_eq_none] at hfind
      obtain ⟨x, hx, hxid⟩ := List.any_eq_true.mp hany
      exact hfind x hx hxid
    rw [if_neg hnone]
    rfl
  | some x =>
    have hx : x.id = k := by simpa using List.find?_some hfind
    have hany : s.spaces.any (·.id == k) = true := List.any_eq_true.mpr ⟨x, List.mem_of_find?_eq_some hfind, by simpa using hx⟩
    by_cases hk : k = n
    · subst hk
      simp [hx, hany]
    · simp [hx, hk]

/-! ## What stores leave of a space -/

/-- The spaces agree but for what is at home. -/
def HomeOnly (sp sp' : Space) : Prop :=
  ({ sp' with
      mem := sp.mem, tags := sp.tags, hist := sp.hist, seq := sp.seq, rels := sp.rels, syncs := sp.syncs, poison := sp.poison } : Space) = sp

theorem HomeOnly.trans {sp sp' sp'' : Space} (h : HomeOnly sp sp') (h' : HomeOnly sp' sp'') : HomeOnly sp sp'' := by
  unfold HomeOnly at *
  exact (congrArg (fun x : Space => { x with
    mem := sp.mem, tags := sp.tags, hist := sp.hist, seq := sp.seq, rels := sp.rels, syncs := sp.syncs, poison := sp.poison }) h').trans h

theorem HomeOnly.id {sp sp' : Space} (h : HomeOnly sp sp') : sp'.id = sp.id := by
  unfold HomeOnly at h
  have hid := congrArg Space.id h
  exact hid

/-- Bytes written at their homes one after another. -/
theorem putBytes_spec (w : Agent) (atomic : Bool) (bs : List Byte) (sp : Space) (a : Nat) :
    (bs.foldl (fun (p : Space × Nat) b => (p.1.putByte w atomic p.2 b, p.2 + 1)) (sp, a)).1.mem = Memory.writeN sp.mem a bs ∧
      HomeOnly sp (bs.foldl (fun (p : Space × Nat) b => (p.1.putByte w atomic p.2 b, p.2 + 1)) (sp, a)).1 := by
  induction bs generalizing sp a with
  | nil => exact ⟨rfl, rfl⟩
  | cons b bs ih =>
    obtain ⟨hmem, hhome⟩ := ih (sp.putByte w atomic a b) (a + 1)
    exact ⟨hmem, HomeOnly.trans (sp' := sp.putByte w atomic a b) rfl hhome⟩

theorem store_read (w : Agent) (a : Nat) (bs : List Byte) (tag : Bool) (sp : Space) (x : Nat) :
    Memory.read (sp.store w a bs tag).mem x = if a ≤ x ∧ x < a + bs.length then bs.getD (x - a) 0 else Memory.read sp.mem x := by
  rw [← Memory.read_writeN, ← (putBytes_spec w false bs sp a).1]
  rfl

theorem store_homeOnly (w : Agent) (a : Nat) (bs : List Byte) (tag : Bool) (sp : Space) : HomeOnly sp (sp.store w a bs tag) :=
  HomeOnly.trans (putBytes_spec w false bs sp a).2 rfl

/-! ## The stores of a view go home -/

theorem releaseView_cons (w : Agent) (r : ViewRec) (v : List ViewRec) (sp : Space) : releaseView w (r :: v) sp =
    if r.kind = .unreleased then (releaseView w v sp).store w r.addr r.data (r.tag.getD false) else releaseView w v sp := by
  rw [releaseView, List.reverse_cons, List.foldl_append]
  rfl

theorem releaseView_homeOnly (w : Agent) (v : List ViewRec) (sp : Space) : HomeOnly sp (releaseView w v sp) := by
  induction v with
  | nil => rfl
  | cons r v ih =>
    rw [releaseView_cons]
    split
    · exact ih.trans (store_homeOnly _ _ _ _ _)
    · exact ih

/-- A byte at its home is the newest of the view's unreleased stores of it, if there is one. -/
theorem releaseView_read (w : Agent) (v : List ViewRec) (sp : Space) (x : Nat) : Memory.read (releaseView w v sp).mem x =
    (viewByte (v.filter (fun r => r.kind == .unreleased)) x).getD (Memory.read sp.mem x) := by
  induction v with
  | nil => rfl
  | cons r v ih =>
    rw [releaseView_cons, List.filter_cons]
    by_cases hkind : r.kind = .unreleased
    · rw [if_pos hkind, if_pos (beq_iff_eq.mpr hkind), store_read, viewByte]
      split
      case isTrue hin =>
        have hlt : x - r.addr < r.data.length := by omega
        rw [List.getElem?_eq_getElem hlt, List.getD_eq_getElem _ _ hlt]
        rfl
      case isFalse => exact ih
    · rw [if_neg hkind, if_neg (fun h => hkind (beq_iff_eq.mp h))]
      exact ih

/-- The space after a release. -/
theorem release_homeOnly (det : Bool) (w : Agent) (scope born : Nat) (hb : List (Agent × Nat)) (v : List ViewRec) (sp : Space) :
    HomeOnly sp (((releaseView w v sp).sync det w scope hb).released w born scope) := by
  refine (releaseView_homeOnly w v sp).trans (HomeOnly.trans (sp' := (releaseView w v sp).sync det w scope hb) ?_ ?_)
  · unfold Space.sync
    split <;> rfl
  · unfold Space.released
    split <;> rfl

theorem release_mem (det : Bool) (w : Agent) (scope born : Nat) (hb : List (Agent × Nat)) (v : List ViewRec) (sp : Space) :
    (((releaseView w v sp).sync det w scope hb).released w born scope).mem = (releaseView w v sp).mem := by
  unfold Space.released Space.sync
  split <;> split <;> rfl

/-- A state whose spaces are those after the focused context's release has released. -/
theorem released_of_spaces {s t : State} {scope : Nat} (h : t.spaces = (s.release scope).spaces) : released s t := by
  have hspace (k : Nat) : t.spaceById k = if k = s.war.space ∧ s.spaces.any (·.id == s.war.space) = true then
      ((releaseView s.me s.cx.view (s.spaceById k)).sync s.lau.det s.me scope s.cx.hb).released s.me s.cx.born scope
      else s.spaceById k := by
    rw [State.spaceById, h]
    exact spaceById_modSpace (fun sp => (release_homeOnly _ _ _ _ _ _ sp).id) k
  refine ⟨fun k => ⟨fun hk => ?_, ?_⟩, fun hany x => ?_⟩
  · rw [hspace, if_neg fun h => hk h.1]
  · rw [hspace]
    split
    · exact release_homeOnly _ _ _ _ _ _ _
    · rfl
  · rw [hspace, if_pos ⟨rfl, hany⟩, release_mem, releaseView_read]
    rfl

end Sys2Proof.Machine
end

section
namespace Sys2Proof.Machine

open Sys2Proof Sys2Proof.Claim Sys2Proof.Laws

/-! YIELD (R229, R49, R51). -/

/-- A core from which a slot's write-backs are asked differs in its write-back queue. -/
theorem writeBacks_eq (c : Core) (slot : Option Nat) (hid n : Nat) : ∃ q, c.writeBacks slot hid n = { c with wbq := q } := by
  cases slot with
  | none => exact ⟨c.wbq, rfl⟩
  | some k => exact ⟨_, rfl⟩

@[simp] theorem pass_store (n : Nat) (c : Core) : (c.pass n).store = c.store := rfl
@[simp] theorem pass_ctxs (n : Nat) (c : Core) : (c.pass n).ctxs = c.ctxs := rfl
@[simp] theorem pass_started (n : Nat) (c : Core) : (c.pass n).started = c.started := rfl

theorem queueEmpty_iff (c : Core) : c.queueEmpty = true ↔ c.promoted = [] ∧ c.woken = [] ∧ c.started = [] := by
  simp only [Core.queueEmpty, Bool.and_eq_true, List.isEmpty_iff, and_assoc]

/-- The focused context, alive, leaves its slot. -/
theorem deactivate_alive {s : State} (st : Status) (halive : s.cx.status ≠ .free) : ∃ q lru,
    s.deactivate s.co.id s.cx.hid st = { s with cx := s.cx.vacate st, co := { s.co with wbq := q, lru := lru } } := by
  obtain ⟨q, hq⟩ := writeBacks_eq s.co s.cx.slot s.cx.hid (lineCount s.cx.dirty + 1)
  refine ⟨q, s.co.lru.filter (·.hid != s.cx.hid) ++ s.cx.lineRecs, ?_⟩
  unfold State.deactivate
  rw [State.ctxAt_focused halive]
  dsimp only
  rw [State.modCtx_focused _ halive, State.modCore_focused (s := { s with cx := s.cx.vacate st }), hq]

/-- A change of a context of the focused core that is not the focused one. -/
theorem modCtx_other {s : State} {h : Nat} (f : Ctx → Ctx) (hne : ¬ (s.cx.hid = h ∧ s.cx.status ≠ .free)) :
    s.modCtx s.co.id h f = { s with co.ctxs := modCtxIn h f s.co.ctxs } := (if_pos rfl).trans (if_neg hne)

/-- A change of the focused context and its core. -/
theorem modCtx_modCore_focused {s : State} (g : Ctx → Ctx) (f : Core → Core) (halive : s.cx.status ≠ .free) :
    (s.modCtx s.co.id s.cx.hid g).modCore s.co.id f = { s with cx := g s.cx, co := f s.co } := by
  rw [State.modCtx_focused g halive]
  exact State.modCore_focused { s with cx := g s.cx } f

/-- A change of another context of the focused core, and of that core. -/
theorem modCtx_modCore_other {s : State} {h : Nat} (g : Ctx → Ctx) (f : Core → Core) (hne : ¬ (s.cx.hid = h ∧ s.cx.status ≠ .free)) :
    (s.modCtx s.co.id h g).modCore s.co.id f = { s with co := f { s.co with ctxs := modCtxIn h g s.co.ctxs } } := by
  rw [modCtx_other g hne]
  exact State.modCore_focused { s with co.ctxs := modCtxIn h g s.co.ctxs } f

/-- The focused core reaches the present tick. -/
theorem catchUp_focused (s : State) : s.catchUp s.co.id = { s with co := s.co.pass (s.cyclesOf (s.coreAt s.co.id)) } :=
  State.modCore_focused s _

/-- The focused context becomes ready in a band of its core (R51). -/
theorem enqueue_focused {s : State} (f : Core → Core) (halive : s.cx.status ≠ .free) : ∃ m n,
    s.enqueue s.co.id s.cx.hid f = { s with cx.readyNo := n, co := { f (s.co.pass m) with readySeq := n + 1 } } := by
  refine ⟨s.cyclesOf (s.coreAt s.co.id), ((s.catchUp s.co.id).coreAt s.co.id).readySeq, ?_⟩
  unfold State.enqueue
  rw [catchUp_focused]
  exact modCtx_modCore_focused (s := { s with co := s.co.pass (s.cyclesOf (s.coreAt s.co.id)) }) _ _ halive

/-- Another context of the focused core becomes ready in a band of its core (R51). -/
theorem enqueue_other {s : State} {h : Nat} (f : Core → Core) (hne : ¬ (s.cx.hid = h ∧ s.cx.status ≠ .free)) : ∃ m n,
    s.enqueue s.co.id h f = { s with co := { f { s.co.pass m with
      ctxs := modCtxIn h (fun c => { c with readyNo := n }) s.co.ctxs } with readySeq := n + 1 } } := by
  refine ⟨s.cyclesOf (s.coreAt s.co.id), ((s.catchUp s.co.id).coreAt s.co.id).readySeq, ?_⟩
  unfold State.enqueue
  rw [catchUp_focused]
  exact modCtx_modCore_other (s := { s with co := s.co.pass (s.cyclesOf (s.coreAt s.co.id)) }) _ _ hne

theorem regsKept_of_eq {s t : State} (hregs : t.cx.regs = s.cx.regs) (htags : t.cx.tags = s.cx.tags) : regsKept s t := by
  intro n
  simp only [State.g, State.gtag, Ctx.reg, Ctx.tag, hregs, htags, and_self]

theorem memoryKept_of_eq {s t : State} (hstore : t.co.store = s.co.store) (hwbuf : t.co.wbuf = s.co.wbuf) (hacc : t.co.acc = s.co.acc)
    (hcores : t.cores = s.cores) (hspaces : t.spaces = s.spaces) : memoryKept s t := by
  simp only [memoryKept, hstore, hwbuf, hacc, hcores, State.spaceById, hspaces, implies_true, and_self]

theorem queued_alive : Status.queued ≠ Status.free := by decide

/-- What a helper's YIELD does while others are ready. -/
theorem yield_queued {s : State} (halive : s.cx.status ≠ .free) : ∃ q lru m n,
    ((s.retire 4).deactivate s.co.id s.cx.hid .queued).enterStarted s.co.id s.cx.hid = { s.retire 4 with
      cx := { (s.retire 4).cx.vacate .queued with status := .queued, ready := BitVec.ofNat 64 s.tick, age := 0, readyNo := n },
      co := { (({ (s.retire 4).co with wbq := q, lru := lru } : Core).pass m) with started := s.co.started ++ [s.cx.hid], readySeq := n + 1 } } := by
  obtain ⟨q, lru, hleave⟩ := deactivate_alive (s := s.retire 4) .queued halive
  let u : State := { s.retire 4 with cx := (s.retire 4).cx.vacate .queued, co := { (s.retire 4).co with wbq := q, lru := lru } }
  let v : State := { u with cx.status := .queued, cx.ready := BitVec.ofNat 64 s.tick, cx.age := 0 }
  obtain ⟨m, n, henter⟩ := enqueue_focused (s := v) (fun k => { k with started := k.started ++ [s.cx.hid] }) queued_alive
  refine ⟨q, lru, m, n, ?_⟩
  have hmod : u.modCtx s.co.id s.cx.hid (fun c => { c with status := .queued, ready := BitVec.ofNat 64 u.tick, age := 0 }) = v :=
    State.modCtx_focused (s := u) _ queued_alive
  rw [show (s.retire 4).deactivate s.co.id s.cx.hid .queued = u from hleave, State.enterStarted, hmod]
  exact henter

theorem exec_yield (s : State) : exec .yield s = if (!s.cx.helper || s.co.queueEmpty) = true then .next (s.retire 4)
    else .next (((s.retire 4).deactivate s.co.id s.cx.hid .queued).enterStarted s.co.id s.cx.hid) := rfl

theorem yieldGivesTheSlotUp : YieldGivesTheSlotUp := by
  intro s halive
  have hstay : (!s.cx.helper || s.co.queueEmpty) = true ↔
      s.cx.helper = false ∨ (s.co.promoted = [] ∧ s.co.woken = [] ∧ s.co.started = []) := by
    rw [Bool.or_eq_true, Bool.not_eq_true', queueEmpty_iff]
  rw [exec_yield]
  split
  case isTrue h => exact ⟨_, if_pos (hstay.mpr h), retire_writesNothing s 4⟩
  case isFalse h =>
    obtain ⟨q, lru, m, n, hyield⟩ := yield_queued halive
    rw [if_neg (hstay.not.mpr h), hyield]
    refine ⟨_, rfl, regsKept_of_eq ?_ ?_, memoryKept_of_eq ?_ ?_ ?_ ?_ ?_, ?_, ?_, ?_, ?_, ?_, ?_, ?_, ?_, ?_, ?_⟩ <;>
      simp only [elsewhereKept, Core.pass, Ctx.vacate, State.retire, State.setPc, State.issue, State.count]
    rfl

end Sys2Proof.Machine
end

section
namespace Sys2Proof.Machine

open Sys2Proof Sys2Proof.Claim Sys2Proof.Laws

/-! START (R327, R43, R51, R53). -/

/-! ## The least free identifier -/

/-- The search for an identifier: those passed over are in use, and its end is free unless its fuel ran out. -/
theorem leastFree_spec (used : List Nat) (n k : Nat) : k ≤ leastFree used n k ∧ leastFree used n k ≤ k + n ∧
    (∀ j, k ≤ j → j < leastFree used n k → j ∈ used) ∧ (leastFree used n k ∉ used ∨ leastFree used n k = k + n) := by
  induction n generalizing k with
  | zero => exact ⟨le_rfl, le_rfl, fun j hj hlt => absurd hlt (Nat.not_lt.mpr hj), .inr rfl⟩
  | succ n ih =>
    unfold leastFree
    split
    case isTrue hused =>
      obtain ⟨hle, hmax, hall, hend⟩ := ih (k + 1)
      refine ⟨by omega, by omega, fun j hj hlt => ?_, hend.imp_right fun h => by omega⟩
      rcases Nat.eq_or_lt_of_le hj with rfl | hj
      · exact List.contains_iff_mem.mp hused
      · exact hall j hj hlt
    case isFalse hfree =>
      exact ⟨le_rfl, by omega, fun j hj hlt => absurd hlt (Nat.not_lt.mpr hj), .inl fun h => hfree (List.contains_iff_mem.mpr h)⟩

/-- A list holds a number of 1 to its length and one more only if it is too long: the search of START ends at a free identifier. -/
theorem leastFree_free (used : List Nat) : leastFree used used.length 1 ∉ used := by
  obtain ⟨-, -, hall, hend⟩ := leastFree_spec used used.length 1
  refine hend.elim id fun hlast hmem => ?_
  have hsub : List.range' 1 (used.length + 1) ⊆ used := fun j hj => by
    rw [List.mem_range'_1] at hj
    rcases Nat.eq_or_lt_of_le (show j ≤ 1 + used.length by omega) with rfl | hlt
    · exact hlast ▸ hmem
    · exact hall j hj.1 (hlast ▸ hlt)
  have hlen := (List.subperm_of_subset List.nodup_range' hsub).length_le
  rw [List.length_range'] at hlen
  omega

/-! ## The new helper -/

/-- One register copied from another context. -/
theorem copyReg_spec (p c : Ctx) (r k : Reg) : (c.put r (p.reg r) (p.tag r)).reg k = (if k = r then p.reg k else c.reg k) ∧
    (c.put r (p.reg r) (p.tag r)).tag k = (if k = r then p.tag k else c.tag k) := by
  rw [Ctx.reg_put, Ctx.tag_put]
  by_cases hk : k = r
  · subst hk
    by_cases hzero : k = 0 <;> simp [hzero, Ctx.reg, Ctx.tag]
  · simp only [if_neg hk, and_self]

/-- Registers copied from another context. -/
theorem copyRegs_spec (p : Ctx) (l : List Nat) (hl : ∀ n ∈ l, n < 32) (c : Ctx) (k : Reg) :
    let c' := l.foldl (fun c n => c.put (Fin.ofNat 32 n) (p.reg (Fin.ofNat 32 n)) (p.tag (Fin.ofNat 32 n))) c
    c'.reg k = (if k.val ∈ l then p.reg k else c.reg k) ∧ c'.tag k = (if k.val ∈ l then p.tag k else c.tag k) := by
  induction l generalizing c with
  | nil => exact ⟨rfl, rfl⟩
  | cons n l ih =>
    obtain ⟨hreg, htag⟩ := ih (fun m hm => hl m (List.mem_cons_of_mem _ hm)) (c.put (Fin.ofNat 32 n) (p.reg (Fin.ofNat 32 n)) (p.tag (Fin.ofNat 32 n)))
    obtain ⟨hreg', htag'⟩ := copyReg_spec p c (Fin.ofNat 32 n) k
    have hmem : k.val ∈ n :: l ↔ k = Fin.ofNat 32 n ∨ k.val ∈ l := by
      rw [List.mem_cons, Fin.ext_iff, Fin.val_ofNat, Nat.mod_eq_of_lt (hl n List.mem_cons_self)]
    dsimp only
    rw [List.foldl_cons, hreg, htag, hreg', htag']
    by_cases hin : k.val ∈ l
    · simp only [hmem, hin, or_true, if_true, and_self]
    · simp only [hmem, hin, or_false, if_false, and_self]

/-- The range of the registers that a helper takes over. -/
theorem mem_inherited {k : Nat} : k ∈ (List.range 10).map (· + 2) ↔ 2 ≤ k ∧ k ≤ 11 := by
  simp only [List.mem_map, List.mem_range]
  constructor
  · rintro ⟨i, hi, rfl⟩
    omega
  · exact fun h => ⟨k - 2, by omega, by omega⟩

theorem inherit_spec (p c : Ctx) (k : Reg) : (Ctx.inherit p c).reg k = (if 2 ≤ k.val ∧ k.val ≤ 11 then p.reg k else c.reg k) ∧
    (Ctx.inherit p c).tag k = (if 2 ≤ k.val ∧ k.val ≤ 11 then p.tag k else c.tag k) := by
  have hspec := copyRegs_spec p ((List.range 10).map (· + 2)) (fun n hn => by have := mem_inherited.mp hn; omega) c k
  simp only [mem_inherited] at hspec
  exact hspec

/-- A helper takes over registers alone. -/
theorem inherit_keeps {α : Type} (field : Ctx → α) (hput : ∀ c n v t, field (c.put n v t) = field c) (p c : Ctx) :
    field (Ctx.inherit p c) = field c := by
  unfold Ctx.inherit
  generalize (List.range 10).map (· + 2) = l
  induction l generalizing c with
  | nil => rfl
  | cons n l ih => rw [List.foldl_cons, ih, hput]

theorem zero_reg (k : Reg) : Ctx.zero.reg k = 0 ∧ Ctx.zero.tag k = false := by
  simp [Ctx.reg, Ctx.tag, Ctx.zero, Rec.zero]

/-- A helper as START makes it (R327). -/
structure Started (s : State) (e arg : Word) (h : Nat) (c : Ctx) : Prop where
  hid : c.hid = h
  helper : c.helper = true
  pc : c.pc = e
  region : c.region = e
  wbase : c.wbase = BitVec.ofNat 20 arg.toNat
  wsize : c.wsize.toNat = arg.toNat / 2 ^ 32 % 16
  seals : c.seals = s.cx.seals &&& BitVec.ofNat 16 (arg.toNat / 2 ^ 48)
  inherited : ∀ n : Reg, 2 ≤ n.val → n.val ≤ 11 → c.reg n = s.g n ∧ c.tag n = s.gtag n
  cleared : ∀ n : Reg, n.val < 2 ∨ 11 < n.val → c.reg n = 0 ∧ c.tag n = false

theorem newHelper_started (s : State) (e arg : Word) (h r : Nat) : Started s e arg h (s.newHelper e arg h r) := by
  have hregs (c : Ctx) (k : Reg) := inherit_spec s.cx c k
  have hseals : (arg >>> 48).setWidth 16 = BitVec.ofNat 16 (arg.toNat / 2 ^ 48) :=
    BitVec.eq_of_toNat_eq (by simp [Nat.shiftRight_eq_div_pow])
  unfold State.newHelper
  dsimp only
  constructor
  · exact inherit_keeps (·.hid) (fun _ _ _ _ => Ctx.put_hid _ _ _ _) _ _
  · exact inherit_keeps (·.helper) (fun _ _ _ _ => Ctx.put_helper _ _ _ _) _ _
  · exact inherit_keeps (·.pc) (fun _ _ _ _ => Ctx.put_pc _ _ _ _) _ _
  · exact inherit_keeps (·.region) (fun _ _ _ _ => Ctx.put_region _ _ _ _) _ _
  · exact inherit_keeps (·.wbase) (fun _ _ _ _ => Ctx.put_wbase _ _ _ _) _ _
  · refine (congrArg BitVec.toNat (inherit_keeps (·.wsize) (fun _ _ _ _ => Ctx.put_wsize _ _ _ _) _ _)).trans ?_
    simp [Nat.shiftRight_eq_div_pow]
  · exact (inherit_keeps (·.seals) (fun _ _ _ _ => Ctx.put_seals _ _ _ _) _ _).trans (congrArg (s.cx.seals &&& ·) hseals)
  · intro n hlo hhi
    exact ⟨(hregs _ n).1.trans (if_pos ⟨hlo, hhi⟩), (hregs _ n).2.trans (if_pos ⟨hlo, hhi⟩)⟩
  · intro n hout
    have hnot : ¬ (2 ≤ n.val ∧ n.val ≤ 11) := by omega
    exact ⟨(hregs _ n).1.trans ((if_neg hnot).trans (zero_reg n).1), (hregs _ n).2.trans ((if_neg hnot).trans (zero_reg n).2)⟩

theorem newHelper_queued (s : State) (e arg : Word) (h r : Nat) :
    (s.newHelper e arg h r).status = .queued ∧ (s.newHelper e arg h r).slot = none := by
  unfold State.newHelper
  exact ⟨inherit_keeps (·.status) (fun _ _ _ _ => Ctx.put_status _ _ _ _) _ _,
    inherit_keeps (·.slot) (fun _ _ _ _ => Ctx.put_slot _ _ _ _) _ _⟩

theorem Started.activate {s : State} {e arg : Word} {h : Nat} {c : Ctx} (hc : Started s e arg h c) (n tick : Nat) (lines : BitVec 4) :
    Started s e arg h (c.activate n tick lines) :=
  ⟨hc.hid, hc.helper, hc.pc, hc.region, hc.wbase, hc.wsize, hc.seals, hc.inherited, hc.cleared⟩

theorem Started.ready {s : State} {e arg : Word} {h : Nat} {c : Ctx} (hc : Started s e arg h c) (n : Nat) :
    Started s e arg h { c with readyNo := n } :=
  ⟨hc.hid, hc.helper, hc.pc, hc.region, hc.wbase, hc.wsize, hc.seals, hc.inherited, hc.cleared⟩

/-! ## The helper enters its core (R53) -/

/-- Contexts of other identifiers stay as they are. -/
theorem modCtxIn_append_new {l : List Ctx} {c : Ctx} (f : Ctx → Ctx) (hnew : ∀ x ∈ l, x.hid ≠ c.hid) :
    modCtxIn c.hid f (l ++ [c]) = l ++ [f c] := by
  have hkept : modCtxIn c.hid f l = l :=
    (List.map_congr_left fun x hx => if_neg (by simpa using hnew x hx)).trans (List.map_id' l)
  have hself : modCtxIn c.hid f [c] = [f c] := by
    simp only [modCtxIn, List.map_cons, List.map_nil, beq_self_eq_true, if_true]
  rw [modCtxIn, List.map_append]
  exact congrArg₂ _ hkept hself

/-- Where a new helper of a core stands: in a slot at once, or in the started band. -/
structure Entered (u v : State) (c c' : Ctx) : Prop where
  ctxs : v.co.ctxs = u.co.ctxs ++ [c']
  place : (∃ n, u.packed.freeSlot = some n ∧ c' = c.activate n u.tick 0) ∨
    (∃ n, c' = { c with readyNo := n }) ∧ v.co.started = u.co.started ++ [c.hid]
  maker : ∃ n, v.cx = { u.cx with readyNo := n }
  spaces : v.spaces = u.spaces
  cores : v.cores = u.cores
  store : v.co.store = u.co.store

/-- A new helper that finds no free slot is queued in the started band. -/
theorem queued_entered {u : State} {c : Ctx} (hnew : ∀ x ∈ u.co.ctxs, x.hid ≠ c.hid) : ∃ c', Entered u
    (({ u with co.ctxs := u.co.ctxs ++ [c] } : State).enqueue u.co.id c.hid (fun k => { k with started := k.started ++ [c.hid] })) c c' := by
  let w : State := { u with co.ctxs := u.co.ctxs ++ [c] }
  by_cases hmaker : u.cx.hid = c.hid ∧ u.cx.status ≠ .free
  · obtain ⟨hhid, halive⟩ := hmaker
    obtain ⟨m, n, henqueue⟩ := enqueue_focused (s := w) (fun k => { k with started := k.started ++ [c.hid] }) halive
    rw [← hhid] at henqueue ⊢
    rw [henqueue]
    exact ⟨c, pass_ctxs m w.co, .inr ⟨⟨c.readyNo, rfl⟩, hhid ▸ congrArg (· ++ [u.cx.hid]) (pass_started m w.co)⟩, ⟨n, rfl⟩, rfl, rfl,
      pass_store m w.co⟩
  · obtain ⟨m, n, henqueue⟩ := enqueue_other (s := w) (fun k => { k with started := k.started ++ [c.hid] }) hmaker
    rw [modCtxIn_append_new _ hnew] at henqueue
    rw [henqueue]
    exact ⟨{ c with readyNo := n }, rfl, .inr ⟨⟨n, rfl⟩, congrArg (· ++ [c.hid]) (pass_started m w.co)⟩, ⟨u.cx.readyNo, rfl⟩, rfl, rfl,
      pass_store m w.co⟩

theorem enter_entered {u : State} {c : Ctx} (hnew : ∀ x ∈ u.co.ctxs, x.hid ≠ c.hid) : ∃ c', Entered u (u.enter c) c c' := by
  unfold State.enter
  dsimp only
  cases hfree : u.packed.freeSlot with
  | none => exact queued_entered hnew
  | some n =>
    dsimp only
    split
    case isTrue => exact ⟨_, rfl, .inl ⟨n, hfree, rfl⟩, ⟨_, rfl⟩, rfl, rfl, rfl⟩
    case isFalse => exact queued_entered hnew

/-! ## The instruction -/

/-- The identifier that START gives. -/
def nextHid (s : State) : Nat := leastFree (s.co.ctxs.map (·.hid)) (s.co.ctxs.map (·.hid)).length 1

theorem nextHid_least (s : State) : nextHid s ≠ 0 ∧ (∀ x ∈ s.co.ctxs, x.hid ≠ nextHid s) ∧
    ∀ j, 0 < j → j < nextHid s → ∃ x ∈ s.co.ctxs, x.hid = j := by
  obtain ⟨hpos, -, hall, -⟩ := leastFree_spec (s.co.ctxs.map (·.hid)) (s.co.ctxs.map (·.hid)).length 1
  refine ⟨Nat.one_le_iff_ne_zero.mp hpos, fun x hx heq => ?_, fun j hj hlt => List.mem_map.mp (hall j hj hlt)⟩
  exact leastFree_free (s.co.ctxs.map (·.hid)) (List.mem_map.mpr ⟨x, hx, heq⟩)

/-- START in the control context: its checks in order, then the release, the new helper and its identifier. -/
theorem exec_start {s : State} (hcontrol : s.cx.helper = false) (d a b : Reg) : exec (.start d a b) s =
    if (s.int a).toNat % 4 ≠ 0 then .next (s.trap cAlign (s.int a))
    else if ¬ windowLegal ((s.int b).toNat % 2 ^ 48) then .next (s.trap cWindow (BitVec.ofNat 64 ((s.int b).toNat % 2 ^ 48)))
    else match s.freeRec with
      | none => .next (s.trap cCisternFull s.cx.pc)
      | some r => .next (((s.release 0).enter (s.newHelper (s.int a) (s.int b) (nextHid s) r)).result 4 d (BitVec.ofNat 64 (nextHid s))) := by
  have hexec : exec (.start d a b) s = execStart d a b s := rfl
  rw [hexec, execStart, State.control, hcontrol]
  dsimp only
  rw [if_neg Bool.false_ne_true]
  by_cases halign : (s.int a).toNat % 4 ≠ 0
  · rw [if_pos halign, if_pos halign]
  by_cases hwindow : windowLegal ((s.int b).toNat % 2 ^ 48) = true
  case neg => rw [if_neg halign, if_neg halign, if_pos hwindow, if_pos (by rw [Bool.not_eq_true', ← Bool.not_eq_true]; exact hwindow)]
  rw [if_neg halign, if_neg halign, if_neg (not_not_intro hwindow), if_neg (by rw [hwindow]; exact Bool.false_ne_true)]
  cases s.freeRec <;> rfl

theorem keepCtx_any_slot {c c' : Ctx} (l : List Ctx) (n : Nat) (hstatus : c'.status = c.status) (hslot : c'.slot = c.slot) :
    (keepCtx c' l).any (fun x => decide (x.slot = some n)) = (keepCtx c l).any (fun x => decide (x.slot = some n)) := by
  unfold keepCtx
  rw [hstatus]
  split
  · rfl
  · rw [List.any_cons, List.any_cons, hslot]

/-- A release does not free a slot. -/
theorem freeSlot_after_release (s : State) (scope : Nat) : (s.release scope).packed.freeSlot = s.packed.freeSlot := by
  unfold Core.freeSlot
  refine congrArg (((List.range 10).map (· + 1)).find? ·) (funext fun n => ?_)
  exact congrArg₂ (fun x y => !x && y) (keepCtx_any_slot (c := s.cx) (c' := (s.release scope).cx) s.co.ctxs n rfl rfl) rfl

/-- The new helper and the place that it has on its core. -/
theorem start_helper {s v : State} {e arg : Word} {h r : Nat} {c' : Ctx}
    (hentered : Entered (s.release 0) v (s.newHelper e arg h r) c') : Started s e arg h c' ∧
      ((c'.status = .resident ∧ ∃ n, s.packed.freeSlot = some n ∧ c'.slot = some n) ∨
        (c'.status = .queued ∧ c'.slot = none ∧ v.co.started = s.co.started ++ [h])) := by
  have hnew := newHelper_started s e arg h r
  rcases hentered.place with ⟨n, hfree, rfl⟩ | ⟨⟨n, rfl⟩, hstarted⟩
  · exact ⟨hnew.activate n _ 0, .inl ⟨rfl, n, freeSlot_after_release s 0 ▸ hfree, rfl⟩⟩
  · obtain ⟨hstatus, hslot⟩ := newHelper_queued s e arg h r
    exact ⟨hnew.ready n, .inr ⟨hstatus, hslot, hnew.hid ▸ hstarted⟩⟩

/-- What a result leaves of the core's tables. -/
theorem result_keeps (v : State) (len : Nat) (d : Reg) (x : Word) : (v.result len d x).co.ctxs = v.co.ctxs ∧
    (v.result len d x).co.started = v.co.started ∧ (v.result len d x).co.store = v.co.store ∧ (v.result len d x).cores = v.cores :=
  ⟨rfl, rfl, rfl, rfl⟩

/-- The result of START in the state that the new helper has entered. -/
theorem start_result {s v : State} {c c' : Ctx} (hentered : Entered (s.release 0) v c c') (d : Reg) (x : Word) :
    regWritten s (v.result 4 d x) d (intBits x) false ∧ (v.result 4 d x).cx.pc = s.cx.pc + 4 ∧ released s (v.result 4 d x) := by
  obtain ⟨n, hmaker⟩ := hentered.maker
  obtain ⟨⟨hpc, -, -, -, -, -⟩, hregs, -⟩ := result_writesReg v 4 d x
  have hspaces : (v.result 4 d x).spaces = v.spaces := rfl
  refine ⟨fun k => ?_, ?_, released_of_spaces (hspaces.trans hentered.spaces)⟩
  · have hg : v.g k = s.g k ∧ v.gtag k = s.gtag k := by
      rw [State.g, State.gtag, hmaker]
      exact ⟨rfl, rfl⟩
    rw [← hg.1, ← hg.2]
    exact hregs k
  · rw [hpc, hmaker]
    rfl

theorem startMakesAHelper : StartMakesAHelper := by
  intro s d a b hcontrol
  rw [exec_start hcontrol]
  dsimp only
  split
  · exact ⟨_, rfl, trap_traps s _ _⟩
  split
  · exact ⟨_, rfl, trap_traps s _ _⟩
  split
  case isTrue hfull =>
    rw [hfull]
    exact ⟨_, rfl, trap_traps s _ _⟩
  case isFalse hrec =>
    obtain ⟨r, hr⟩ := Option.ne_none_iff_exists'.mp hrec
    rw [hr]
    obtain ⟨hpos, hnew, hleast⟩ := nextHid_least s
    obtain ⟨c', hentered⟩ := enter_entered (u := s.release 0) (c := s.newHelper (s.int a) (s.int b) (nextHid s) r)
      (by rw [(newHelper_started s _ _ _ r).hid]; exact hnew)
    obtain ⟨hc, hplace⟩ := start_helper hentered
    obtain ⟨hregs, hpc, hreleased⟩ := start_result hentered d (BitVec.ofNat 64 (nextHid s))
    obtain ⟨hctxs, hstarted, hstore, hcores⟩ := result_keeps ((s.release 0).enter (s.newHelper (s.int a) (s.int b) (nextHid s) r)) 4 d
      (BitVec.ofNat 64 (nextHid s))
    rw [← hstarted] at hplace
    exact ⟨_, rfl, c', nextHid s, hctxs.trans hentered.ctxs, hc.hid, hpos, hnew, hleast, hc.helper, hc.pc, hc.region, hc.wbase, hc.wsize,
      hc.seals, hc.inherited, hc.cleared, hplace, hregs, hpc, hreleased, hstore.trans hentered.store, hcores.trans hentered.cores⟩

end Sys2Proof.Machine
end

section
namespace Sys2Proof.Machine

open Sys2Proof Sys2Proof.Claim Sys2Proof.Laws

/-! EXIT (R328, R33, R87). -/

/-! ## EXIT of a helper -/

/-- `t` differs from `s` in what the ends of other contexts' waits may change: the focused context has exited and stays so. -/
structure StaysExited (s t : State) : Prop where
  core : t.co.id = s.co.id
  status : t.cx.status = .exited
  slot : t.cx.slot = s.cx.slot
  exitTick : t.cx.exitTick = s.cx.exitTick
  regs : t.cx.regs = s.cx.regs
  tags : t.cx.tags = s.cx.tags
  hid : t.cx.hid = s.cx.hid
  store : t.co.store = s.co.store
  spaces : t.spaces = s.spaces

theorem StaysExited.trans {s t u : State} (h : StaysExited s t) (h' : StaysExited t u) : StaysExited s u :=
  ⟨h'.core.trans h.core, h'.status, h'.slot.trans h.slot, h'.exitTick.trans h.exitTick, h'.regs.trans h.regs, h'.tags.trans h.tags,
    h'.hid.trans h.hid, h'.store.trans h.store, h'.spaces.trans h.spaces⟩

/-- A change of the focused core that leaves its identifier and its store. -/
theorem StaysExited.of_core {s : State} (hstatus : s.cx.status = .exited) {c : Core} (hid : c.id = s.co.id) (hstore : c.store = s.co.store) :
    StaysExited s { s with co := c } := ⟨hid, hstatus, rfl, rfl, rfl, rfl, rfl, hstore, rfl⟩

theorem pushFault_keeps (r : FaultRec) (c : Core) : (c.pushFault r).id = c.id ∧ (c.pushFault r).store = c.store := by
  unfold Core.pushFault
  split <;> exact ⟨rfl, rfl⟩

theorem parkOut_staysExited {s : State} (hstatus : s.cx.status = .exited) {h : Nat} (hother : s.cx.hid ≠ h) (p : PendFault) :
    StaysExited s (s.parkOut s.co.id h p) := by
  unfold State.parkOut
  cases s.ctxAt s.co.id h with
  | none => exact .of_core hstatus rfl rfl
  | some c =>
    dsimp only
    rw [modCtx_modCore_other _ _ (fun hit => hother hit.1)]
    exact .of_core hstatus (pushFault_keeps _ _).1 (pushFault_keeps _ _).2

/-- The end of the wait of a context of its core leaves a context that has exited. -/
theorem wake_staysExited {s : State} (hstatus : s.cx.status = .exited) (h : Nat) : StaysExited s (s.wake s.co.id h (fun c => c)) := by
  have halive : s.cx.status ≠ .free := by rw [hstatus]; decide
  by_cases hself : s.cx.hid = h
  · subst hself
    have hwoken : s.cx.wakeUp s.tick = { s.cx with wait := none, waitk := 0 } := by
      unfold Ctx.wakeUp
      dsimp only
      rw [hstatus]
    rw [State.wake_of_status (State.ctxAt_focused halive) (by rw [hstatus]; decide), State.modCtx_focused _ halive, hwoken]
    exact ⟨rfl, hstatus, rfl, rfl, rfl, rfl, rfl, rfl, rfl⟩
  · unfold State.wake
    cases s.ctxAt s.co.id h with
    | none => exact .of_core hstatus rfl rfl
    | some c =>
      have hwoken : StaysExited s (s.modCtx s.co.id h fun c => c.wakeUp s.tick) :=
        modCtx_other (s := s) _ (fun hit => hself hit.1) ▸ .of_core hstatus rfl rfl
      generalize s.modCtx s.co.id h (fun c => c.wakeUp s.tick) = u at hwoken
      have hother : u.cx.hid ≠ h := hwoken.hid ▸ hself
      dsimp only
      rw [← hwoken.core]
      split
      · exact hwoken
      · cases c.pend with
        | none =>
          obtain ⟨m, n, henqueue⟩ := enqueue_other (s := u) (fun k => { k with woken := k.woken ++ [h] }) (fun hit => hother hit.1)
          dsimp only
          rw [henqueue]
          exact hwoken.trans (.of_core hwoken.status rfl (pass_store m u.co))
        | some p => exact hwoken.trans (parkOut_staysExited hwoken.status hother p)

/-- The ends of the waits for helpers leave a context that has exited. -/
theorem wakeAll_staysExited {s : State} (hstatus : s.cx.status = .exited) (p : WaitOp → Bool) : StaysExited s (s.wakeAll s.co.id p) := by
  unfold State.wakeAll
  generalize List.filter _ _ = l
  have hsteps (u : State) (hu : StaysExited s u) : StaysExited s (l.foldl (fun s' c => s'.wake s.co.id c.hid (fun c => c)) u) := by
    induction l generalizing u with
    | nil => exact hu
    | cons c l ih =>
      rw [List.foldl_cons]
      refine ih _ (hu.trans ?_)
      rw [← hu.core]
      exact wake_staysExited hu.status c.hid
  exact hsteps s (.of_core hstatus rfl rfl)

/-- A helper whose EXIT has been issued, before the waits for it end (R328). -/
def helperLeaves (u : State) : State :=
  { u with
    cx := ({ u.cx with exitTick := BitVec.ofNat 64 u.tick } : Ctx).vacate .exited,
    co := (u.co.orphan u.cx.hid).writeBacks u.cx.slot u.cx.hid (lineCount u.cx.dirty + 1) }

theorem writeBacks_keeps (c : Core) (slot : Option Nat) (hid n : Nat) :
    (c.writeBacks slot hid n).id = c.id ∧ (c.writeBacks slot hid n).store = c.store := by
  obtain ⟨q, hq⟩ := writeBacks_eq c slot hid n
  rw [hq]
  exact ⟨rfl, rfl⟩

theorem helperExit_eq (s : State) :
    s.helperExit = (helperLeaves (s.release 2).issue).wakeAll ((s.release 2).issue).co.id isJoin := rfl

theorem helperLeaves_keeps (u : State) : (helperLeaves u).co.id = u.co.id ∧ (helperLeaves u).co.store = u.co.store :=
  writeBacks_keeps _ _ _ _

/-- The state after EXIT of a helper. -/
theorem helperExit_staysExited (s : State) : StaysExited (helperLeaves (s.release 2).issue) s.helperExit := by
  rw [helperExit_eq, ← (helperLeaves_keeps _).1]
  exact wakeAll_staysExited rfl isJoin

/-- EXIT of a helper leaves it exited, with its stamp and without its slot (R328). -/
theorem exit_helper {s : State} (hhelper : s.cx.helper = true)
    (hdrains : s.co.pumpq.any (fun p => p.hid == s.cx.hid && p.kind == .drain) = false) :
    Next (exec .exit s) fun t => t.cx.status = .exited ∧ t.cx.slot = none ∧ t.cx.exitTick = BitVec.ofNat 64 s.tick ∧
      regsKept s t ∧ t.cx.hid = s.cx.hid ∧ t.co.store = s.co.store ∧ released s t := by
  have hexec : exec .exit s = .next s.helperExit := by
    change execExit s = _
    unfold execExit
    rw [hhelper, hdrains]
    rfl
  have h := helperExit_staysExited s
  refine ⟨_, hexec, h.status, h.slot, h.exitTick, regsKept_of_eq h.regs h.tags, h.hid, h.store.trans ?_, released_of_spaces (scope := 2) h.spaces⟩
  exact (helperLeaves_keeps _).2

/-! ## EXIT of the control context -/

/-- EXIT waits for the helpers of its core (R328). -/
theorem exit_waits {s : State} (hcontrol : s.cx.helper = false) (hlive : s.packed.liveHelpers ≠ []) :
    Next (exec .exit s) fun t => t.cx.status = .waiting ∧ t.cx.waitk = 5 ∧ t.cx.npc = s.cx.pc ∧ regsKept s t ∧
      elsewhereKept s t ∧ t.co = s.co := by
  refine ⟨s.waitRe 5 .join, ?_, rfl, rfl, rfl, fun _ => ⟨rfl, rfl⟩, by simp only [elsewhereKept, State.waitRe], rfl⟩
  change execExit s = _
  unfold execExit
  rw [hcontrol, if_pos]
  rw [Bool.not_false, Bool.true_and, Bool.not_eq_true', ← Bool.not_eq_true, List.isEmpty_iff]
  exact hlive

/-- The note that a warrant stands evicted changes warrants alone. -/
theorem noteEvicted_keeps (s : State) (war : Nat) : (s.noteEvicted war).co = s.co ∧ (s.noteEvicted war).launches = s.launches ∧
    (s.noteEvicted war).cores = s.cores ∧ (s.noteEvicted war).spaces = s.spaces := by
  unfold State.noteEvicted
  dsimp only
  split <;> exact ⟨rfl, rfl, rfl, rfl⟩

/-- What the end of launch `l` on the focused core leaves (R33). -/
structure LaunchEnded (l : Nat) (u t : State) : Prop where
  context : t.cx = Ctx.zero
  launch : t.co.launch = none
  ctxs : t.co.ctxs = []
  ring : t.co.ring = []
  last : t.co.last = (u.packed.ctxs.find? (fun x => !x.helper)).map (Ctx.ended u.tick)
  ended : ∀ x ∈ t.launches, x.id = l → u.co.id ∈ x.ended
  store : t.co.store = u.co.store
  cores : t.cores = u.cores
  spaces : t.spaces = u.spaces

/-- A launch that has been changed. -/
theorem mem_modLaunch {s : State} {l : Nat} {f : Launch → Launch} {x : Launch} (hx : x ∈ (s.modLaunch l f).launches) (hid : x.id = l) :
    ∃ y, x = f y := by
  obtain ⟨y, -, rfl⟩ := List.mem_map.mp hx
  by_cases hy : (y.id == l) = true
  · exact ⟨y, if_pos hy⟩
  · rw [if_neg hy] at hid
    exact absurd (beq_iff_eq.mpr hid) hy

theorem launchEnds_ended {u : State} {l : Nat} (hl : u.co.launch = some l) : LaunchEnded l u (u.launchEnds u.co.id) := by
  unfold State.launchEnds
  dsimp only
  rw [State.coreAt_own, show u.packed.launch = some l from hl]
  dsimp only
  generalize hv : State.noteEvicted _ _ = v
  obtain ⟨hco, hlaunches, hcores, hspaces⟩ := hv ▸ noteEvicted_keeps _ _
  have hid : v.co.id = u.co.id := congrArg Core.id hco
  have hstore : v.co.store = u.co.store := congrArg Core.store hco
  rw [if_pos hid]
  constructor
  · rfl
  · rfl
  · rfl
  · rfl
  · rfl
  · intro x hx hid
    obtain ⟨y, rfl⟩ := mem_modLaunch (hlaunches ▸ hx) hid
    exact (mem_insNat _ _ _).mpr (.inl rfl)
  · exact hstore
  · exact hcores
  · exact hspaces

/-- The context that a launch's control context leaves to be read (R33). -/
theorem last_of_control {u : State} (hcontrol : u.cx.helper = false) (halive : u.cx.status ≠ .free) :
    u.packed.ctxs.find? (fun x => !x.helper) = some u.cx := by
  rw [State.packed, keepCtx, if_neg halive]
  exact List.find?_cons_of_pos (by rw [hcontrol]; rfl)

/-- EXIT of the control context ends the launch on its core (R33). -/
theorem exit_control {s : State} {l : Nat} (hcontrol : s.cx.helper = false) (hdone : s.packed.liveHelpers = [])
    (hl : s.co.launch = some l) (hdrains : s.co.pumpq.any (fun p => p.hid == s.cx.hid && p.kind == .drain) = false) :
    Next (exec .exit s) fun t => t.cx.status = .free ∧ t.co.launch = none ∧ t.co.ctxs = [] ∧ t.co.ring = [] ∧
      (s.cx.status ≠ .free → ∃ r, t.co.last = some r ∧ r.regs = s.cx.regs ∧ r.tags = s.cx.tags ∧ r.status = .exited ∧
        r.exitTick = BitVec.ofNat 64 s.tick) ∧
      (∀ x ∈ t.launches, x.id = l → s.co.id ∈ x.ended) ∧ t.co.store = s.co.store ∧ t.cores = s.cores ∧ released s t := by
  have hexec : exec .exit s = .next ((s.release 2).issue.launchEnds s.co.id) := by
    change execExit s = _
    unfold execExit
    rw [hcontrol, hdone, hdrains]
    rfl
  have h : LaunchEnded l (s.release 2).issue ((s.release 2).issue.launchEnds s.co.id) := launchEnds_ended (u := (s.release 2).issue) hl
  refine ⟨_, hexec, congrArg (·.status) h.context, h.launch, h.ctxs, h.ring, fun halive => ?_, h.ended, h.store, h.cores,
    released_of_spaces (scope := 2) h.spaces⟩
  refine ⟨_, h.last.trans (congrArg _ (last_of_control (u := (s.release 2).issue) hcontrol halive)), rfl, rfl, rfl, rfl⟩

theorem exitEndsAContext : ExitEndsAContext :=
  ⟨fun _ => exit_helper, fun _ _ => exit_control, fun _ => exit_waits⟩

/-- Settles O20: a release changes the spaces alone, and the changes of a core's contexts leave its store and the others' registers. -/
theorem contextsStartYieldAndExit : Obligations.ContextsStartYieldAndExit :=
  ⟨yieldGivesTheSlotUp, startMakesAHelper, exitEndsAContext⟩

end Sys2Proof.Machine
end

section
namespace Sys2Proof.Machine

open Sys2Proof Sys2Proof.Claim Sys2Proof.Laws

/-! A value that a format represents rounds to itself (R107, R119). -/

/-! ## Codes and their fields -/

/-- The magnitude of a code: exponent field and fraction (R107). -/
def FpFmt.mag (f : FpFmt) (x : Nat) : Nat := x % 2 ^ (f.ew + f.fw)

theorem mag_eq_fields (f : FpFmt) (x : Nat) : f.mag x = x / 2 ^ f.fw % 2 ^ f.ew * 2 ^ f.fw + x % 2 ^ f.fw := by
  rw [FpFmt.mag, Nat.add_comm f.ew, Nat.pow_add, Nat.mod_mul, Nat.mul_comm, Nat.add_comm]

/-- A code is its magnitude with its sign. -/
theorem signed_mag {f : FpFmt} {x : Nat} (hx : x < 2 ^ f.width) : f.signed (bit x (f.ew + f.fw)) (f.mag x) = x := by
  have hpow : 2 ^ f.width = 2 * 2 ^ (f.ew + f.fw) := by rw [FpFmt.width, Nat.add_assoc, Nat.pow_add, Nat.pow_one]
  have hdiv := Nat.div_add_mod x (2 ^ (f.ew + f.fw))
  have htop : x / 2 ^ (f.ew + f.fw) < 2 := Nat.div_lt_of_lt_mul (by rw [Nat.mul_comm, ← hpow]; exact hx)
  rw [FpFmt.signed, bit, FpFmt.mag]
  generalize x / 2 ^ (f.ew + f.fw) = t at *
  obtain rfl | rfl : t = 0 ∨ t = 1 := by omega
  · simpa using hdiv
  · simpa using hdiv

/-- The exponent of the last place of the subnormal numbers. -/
def FpFmt.emin (f : FpFmt) : Int := 1 - (f.bias : Int) - f.fw

/-! ## Exact roundings -/

/-- A magnitude whose last place is that of its format at its size rounds to itself. -/
theorem roundMag_exact {f : FpFmt} {m : Nat} {e : Int} (hq : max ((Nat.log2 m : Int) + e - f.fw) f.emin = e) (r : Rnd) (neg : Bool) :
    (roundMag f r neg m e false).1 = (e - f.emin).toNat * 2 ^ f.fw + m ∧ (roundMag f r neg m e false).2.1 = false := by
  have hround : roundInt r neg m (e - e) false = (m, false) := by
    rw [Int.sub_self, roundInt, if_pos le_rfl, Int.neg_zero, Int.toNat_zero, Nat.pow_zero, Nat.mul_one]
  unfold roundMag
  simp only [show 1 - (f.bias : Int) - f.fw = f.emin from rfl, hq, hround, and_self]

/-- A finite value with the last place of its format at its size, and no more than the greatest of the format, rounds to its code. -/
theorem roundNum_exact {f : FpFmt} {m : Nat} {e : Int} (hm : m ≠ 0) (hq : max ((Nat.log2 m : Int) + e - f.fw) f.emin = e)
    (hmax : (e - f.emin).toNat * 2 ^ f.fw + m ≤ f.maxc) (o : OvfMode) (r : Rnd) (neg : Bool) :
    roundNum f o r (.fin neg m e) = (f.signed neg ((e - f.emin).toNat * 2 ^ f.fw + m), 0) := by
  obtain ⟨hcode, hexact⟩ := roundMag_exact hq r neg
  simp only [roundNum, beq_iff_eq, hm, if_false, hcode, hexact, gt_iff_lt, Nat.not_lt.mpr hmax, flagIf, Bool.false_and, Bool.false_eq_true,
    BitVec.or_self]

/-- The greatest magnitude of a format lies just below its infinity or its NaN (R107). -/
def FpFmt.TopFits (f : FpFmt) : Prop :=
  if f.ieee then f.maxc + 1 = (2 ^ f.ew - 1) * 2 ^ f.fw else f.nanc ≠ 0 ∧ f.maxc + 1 = f.nanc ∧ f.nanc + 1 = 2 ^ (f.ew + f.fw)

theorem topFits_of_mem : ∀ f ∈ [fp64, fp32, fpBf16, fpE4m3, fpE5m2], f.TopFits := by
  unfold FpFmt.TopFits
  decide

/-- The finite value of a code has the fields of its magnitude. -/
theorem decode_fin {f : FpFmt} {x m : Nat} {neg : Bool} {e : Int} (h : f.decode x = .fin neg m e) : neg = bit x (f.ew + f.fw) ∧
    (f.ieee = true → x / 2 ^ f.fw % 2 ^ f.ew ≠ 2 ^ f.ew - 1) ∧ (f.ieee = false → f.nanc ≠ 0 → f.mag x ≠ f.nanc) ∧
    (if x / 2 ^ f.fw % 2 ^ f.ew = 0 then m = x % 2 ^ f.fw ∧ e = f.emin
      else m = 2 ^ f.fw + x % 2 ^ f.fw ∧ e = f.emin + ((x / 2 ^ f.fw % 2 ^ f.ew - 1 : Nat) : Int)) := by
  unfold FpFmt.decode at h
  dsimp only at h
  split at h
  · split at h <;> cases h
  case isFalse hspecial =>
  split at h
  · cases h
  case isFalse hnan =>
  simp only [Bool.and_eq_true, beq_iff_eq, not_and, bne_iff_ne, Bool.not_eq_true', and_imp] at hspecial hnan
  split at h
  case isTrue hzero =>
    cases h
    exact ⟨rfl, hspecial, hnan, by rw [if_pos (beq_iff_eq.mp hzero)]; exact ⟨rfl, rfl⟩⟩
  case isFalse hnormal =>
    cases h
    rw [beq_iff_eq] at hnormal
    refine ⟨rfl, hspecial, hnan, ?_⟩
    rw [if_neg hnormal]
    refine ⟨rfl, ?_⟩
    rw [FpFmt.emin]
    omega

/-- The magnitude of a finite code is at most the greatest. -/
theorem mag_le_of_fin {f : FpFmt} (htop : f.TopFits) {x m : Nat} {neg : Bool} {e : Int} (h : f.decode x = .fin neg m e) : f.mag x ≤ f.maxc := by
  obtain ⟨-, hspecial, hnan, -⟩ := decode_fin h
  unfold FpFmt.TopFits at htop
  split at htop
  case isTrue hieee =>
    have hexp : x / 2 ^ f.fw % 2 ^ f.ew < 2 ^ f.ew := Nat.mod_lt _ (Nat.two_pow_pos _)
    have hfrac : x % 2 ^ f.fw < 2 ^ f.fw := Nat.mod_lt _ (Nat.two_pow_pos _)
    have hne := hspecial hieee
    have hrow : (x / 2 ^ f.fw % 2 ^ f.ew + 1) * 2 ^ f.fw ≤ (2 ^ f.ew - 1) * 2 ^ f.fw := Nat.mul_le_mul_right _ (by omega)
    rw [Nat.add_one_mul] at hrow
    rw [mag_eq_fields]
    omega
  case isFalse hieee =>
    obtain ⟨hnanc, hmax, hfull⟩ := htop
    have hne := hnan (Bool.eq_false_iff.mpr hieee) hnanc
    have hlt : f.mag x < 2 ^ (f.ew + f.fw) := Nat.mod_lt _ (Nat.two_pow_pos _)
    omega

theorem log2_of_normal {n k : Nat} (hk : k < 2 ^ n) : Nat.log2 (2 ^ n + k) = n := by
  have hpos : 0 < 2 ^ n := Nat.two_pow_pos n
  rw [Nat.log2_eq_iff (by omega)]
  rw [Nat.pow_succ]
  omega

/-- The value of a code has the last place of its format at its size, and its code is the magnitude. -/
theorem fin_exact {f : FpFmt} {x m : Nat} {neg : Bool} {e : Int} (h : f.decode x = .fin neg m e) (hm : m ≠ 0) :
    max ((Nat.log2 m : Int) + e - f.fw) f.emin = e ∧ (e - f.emin).toNat * 2 ^ f.fw + m = f.mag x := by
  obtain ⟨-, -, -, hfields⟩ := decode_fin h
  have hfrac : x % 2 ^ f.fw < 2 ^ f.fw := Nat.mod_lt _ (Nat.two_pow_pos _)
  rw [mag_eq_fields]
  split at hfields
  case isTrue hzero =>
    obtain ⟨rfl, rfl⟩ := hfields
    have hlog : Nat.log2 (x % 2 ^ f.fw) < f.fw := (Nat.log2_lt hm).mpr hfrac
    rw [hzero, Int.sub_self]
    refine ⟨by omega, by simp⟩
  case isFalse hnormal =>
    obtain ⟨rfl, rfl⟩ := hfields
    rw [log2_of_normal hfrac]
    refine ⟨by omega, ?_⟩
    rw [add_sub_cancel_left, Int.toNat_natCast, ← Nat.add_assoc, ← Nat.add_one_mul, Nat.sub_add_cancel (Nat.one_le_iff_ne_zero.mpr hnormal)]

/-- The magnitude of a code whose value is zero. -/
theorem mag_of_zero {f : FpFmt} {x : Nat} {neg : Bool} {e : Int} (h : f.decode x = .fin neg 0 e) : f.mag x = 0 := by
  obtain ⟨-, -, -, hfields⟩ := decode_fin h
  have hpos : 0 < 2 ^ f.fw := Nat.two_pow_pos _
  rw [mag_eq_fields]
  split at hfields
  case isTrue hzero => rw [hzero, ← hfields.1, Nat.zero_mul]
  case isFalse => omega

theorem roundingKeepsRepresentable : RoundingKeepsRepresentable := by
  intro f hf r x o hr hx hinf hnan
  cases hval : f.decode x with
  | nan => exact absurd hval hnan
  | inf neg => exact absurd hval (hinf neg)
  | fin neg m e =>
    have hsign := (decode_fin hval).1
    by_cases hm : m = 0
    · subst hm
      rw [roundNum, if_pos (beq_self_eq_true 0), hsign, ← mag_of_zero hval, signed_mag hx]
    · obtain ⟨hq, hcode⟩ := fin_exact hval hm
      rw [roundNum_exact hm hq (hcode ▸ mag_le_of_fin (topFits_of_mem f hf) hval), hcode, hsign, signed_mag hx]

end Sys2Proof.Machine
end

section
namespace Sys2Proof.Machine

open Sys2Proof Sys2Proof.Claim Sys2Proof.Laws

/-! Minimum, maximum, sign and class forms (R207 to R209). The order of values is the order of signed magnitudes, because the value of a magnitude,
counted in the last place of the subnormal numbers, grows with the magnitude. -/

/-! ## The size of a magnitude -/

/-- The value of a magnitude in units of the last place of the subnormal numbers. -/
def FpFmt.units (f : FpFmt) (g : Nat) : Nat :=
  if g / 2 ^ f.fw = 0 then g % 2 ^ f.fw else (2 ^ f.fw + g % 2 ^ f.fw) * 2 ^ (g / 2 ^ f.fw - 1)

theorem units_of_fields (f : FpFmt) (q : Nat) {r : Nat} (hr : r < 2 ^ f.fw) :
    f.units (q * 2 ^ f.fw + r) = if q = 0 then r else (2 ^ f.fw + r) * 2 ^ (q - 1) := by
  have hpos : 0 < 2 ^ f.fw := Nat.two_pow_pos _
  have hdiv : (q * 2 ^ f.fw + r) / 2 ^ f.fw = q := by rw [Nat.mul_comm, Nat.mul_add_div hpos, Nat.div_eq_of_lt hr, Nat.add_zero]
  have hmod : (q * 2 ^ f.fw + r) % 2 ^ f.fw = r := by rw [Nat.mul_comm, Nat.mul_add_mod, Nat.mod_eq_of_lt hr]
  rw [FpFmt.units, hdiv, hmod]

theorem units_lt_succ (f : FpFmt) (g : Nat) : f.units g < f.units (g + 1) := by
  have hpos : 0 < 2 ^ f.fw := Nat.two_pow_pos _
  have hfrac : g % 2 ^ f.fw < 2 ^ f.fw := Nat.mod_lt _ hpos
  obtain ⟨q, r, hr, rfl⟩ : ∃ q r, r < 2 ^ f.fw ∧ g = q * 2 ^ f.fw + r := ⟨_, _, hfrac, (Nat.div_add_mod' g _).symm⟩
  rw [units_of_fields f q hr]
  by_cases hnext : r + 1 < 2 ^ f.fw
  · rw [Nat.add_assoc, units_of_fields f q hnext]
    split
    · exact Nat.lt_succ_self r
    · exact Nat.mul_lt_mul_of_pos_right (by omega) (Nat.two_pow_pos _)
  · have hcarry : q * 2 ^ f.fw + r + 1 = (q + 1) * 2 ^ f.fw + 0 := by rw [Nat.add_one_mul]; omega
    rw [hcarry, units_of_fields f (q + 1) hpos, if_neg (Nat.succ_ne_zero q), Nat.add_sub_cancel]
    cases q with
    | zero => rw [if_pos rfl, Nat.pow_zero]; omega
    | succ k =>
      rw [if_neg (Nat.succ_ne_zero k), Nat.add_sub_cancel, Nat.pow_succ, Nat.mul_comm (2 ^ k) 2, ← Nat.mul_assoc]
      exact Nat.mul_lt_mul_of_pos_right (by omega) (Nat.two_pow_pos _)

theorem units_strictMono (f : FpFmt) : StrictMono f.units := strictMono_nat_of_lt_succ (units_lt_succ f)

theorem units_zero (f : FpFmt) : f.units 0 = 0 := by
  rw [FpFmt.units, Nat.zero_div, if_pos rfl, Nat.zero_mod]

/-- A number with a sign. -/
def withSign (neg : Bool) (n : Nat) : Int := if neg then -(n : Int) else n

/-- A strictly growing size keeps the order of signed numbers. -/
theorem withSign_lt_iff {u : Nat → Nat} (hu : StrictMono u) (hzero : u 0 = 0) (sa sb : Bool) (a b : Nat) :
    withSign sa (u a) < withSign sb (u b) ↔ withSign sa a < withSign sb b := by
  have hab : u a < u b ↔ a < b := hu.lt_iff_lt
  have hba : u b < u a ↔ b < a := hu.lt_iff_lt
  have ha : u 0 < u a ↔ 0 < a := hu.lt_iff_lt
  have hb : u 0 < u b ↔ 0 < b := hu.lt_iff_lt
  cases sa <;> cases sb <;> simp only [withSign, if_true, Bool.false_eq_true, if_false] <;> omega

theorem compare_eq_of_lt_iff {a b a' b' : Int} (hlt : a < b ↔ a' < b') (hgt : b < a ↔ b' < a') : compare a b = compare a' b' := by
  rw [← cmp_eq_compare, ← cmp_eq_compare]
  unfold cmp cmpUsing
  simp only [hlt, hgt]

/-- A size that no other reaches decides the order by its own sign. -/
theorem compare_to_top {m top : Nat} (h : m < top) (neg sign : Bool) :
    compare (withSign sign m) (withSign neg top) = if neg then .gt else .lt := by
  cases neg
  · exact compare_lt_iff_lt.mpr (by cases sign <;> simp only [withSign, if_true, Bool.false_eq_true, if_false] <;> omega)
  · exact compare_gt_iff_gt.mpr (by cases sign <;> simp only [withSign, if_true, Bool.false_eq_true, if_false] <;> omega)

theorem compare_of_top {m top : Nat} (h : m < top) (neg sign : Bool) :
    compare (withSign neg top) (withSign sign m) = if neg then .lt else .gt := by
  cases neg
  · exact compare_gt_iff_gt.mpr (by cases sign <;> simp only [withSign, if_true, Bool.false_eq_true, if_false] <;> omega)
  · exact compare_lt_iff_lt.mpr (by cases sign <;> simp only [withSign, if_true, Bool.false_eq_true, if_false] <;> omega)

theorem compare_top_top {top : Nat} (h : 0 < top) (sa sb : Bool) :
    compare (withSign sa top) (withSign sb top) = if sa == sb then .eq else if sa then .lt else .gt := by
  cases sa <;> cases sb
  · exact compare_eq_iff_eq.mpr rfl
  · exact compare_gt_iff_gt.mpr (by simp only [withSign, if_true, Bool.false_eq_true, if_false]; omega)
  · exact compare_lt_iff_lt.mpr (by simp only [withSign, if_true, Bool.false_eq_true, if_false]; omega)
  · exact compare_eq_iff_eq.mpr rfl

/-! ## The order of values -/

/-- A finite value has the size of its magnitude, counted at the least exponent. -/
theorem signedAt_emin {f : FpFmt} {x m : Nat} {neg : Bool} {e : Int} (h : f.decode x = .fin neg m e) :
    f.emin ≤ e ∧ signedAt neg m e f.emin = withSign (bit x (f.ew + f.fw)) (f.units (f.mag x)) := by
  obtain ⟨hsign, -, -, hfields⟩ := decode_fin h
  have hfrac : x % 2 ^ f.fw < 2 ^ f.fw := Nat.mod_lt _ (Nat.two_pow_pos _)
  rw [mag_eq_fields, units_of_fields f _ hfrac, ← hsign, signedAt, withSign]
  split at hfields
  case isTrue hzero =>
    obtain ⟨rfl, rfl⟩ := hfields
    rw [if_pos hzero, Int.sub_self, Int.toNat_zero, Nat.pow_zero, Nat.mul_one]
    exact ⟨le_rfl, rfl⟩
  case isFalse hnormal =>
    obtain ⟨rfl, rfl⟩ := hfields
    rw [if_neg hnormal, add_sub_cancel_left, Int.toNat_natCast]
    exact ⟨by omega, rfl⟩

/-- Scaling to a lower exponent multiplies a signed mantissa by a power of two. -/
theorem signedAt_lower (neg : Bool) (m : Nat) {e e0 e1 : Int} (h0 : e0 ≤ e) (h1 : e1 ≤ e0) :
    signedAt neg m e e1 = signedAt neg m e e0 * 2 ^ (e0 - e1).toNat := by
  have hsplit : (e - e1).toNat = (e - e0).toNat + (e0 - e1).toNat := by omega
  unfold signedAt
  rw [hsplit, Nat.pow_add, ← Nat.mul_assoc]
  push_cast
  split
  · rw [Int.neg_mul]
  · rfl

/-- Finite values compare as their signed mantissas do at any exponent that is low enough. -/
theorem cmp_fin (sa sb : Bool) (ma mb : Nat) {ea eb e : Int} (ha : e ≤ ea) (hb : e ≤ eb) :
    (Num.fin sa ma ea).cmp (.fin sb mb eb) = compare (signedAt sa ma ea e) (signedAt sb mb eb e) := by
  have hpos : (0 : Int) < 2 ^ (min ea eb - e).toNat := by positivity
  rw [signedAt_lower sa ma (min_le_left ea eb) (le_min ha hb), signedAt_lower sb mb (min_le_right ea eb) (le_min ha hb)]
  exact compare_eq_of_lt_iff (Int.mul_lt_mul_right hpos).symm (Int.mul_lt_mul_right hpos).symm

/-- The signed magnitude of a code. -/
def FpFmt.smag (f : FpFmt) (x : Nat) : Int := withSign (bit x (f.ew + f.fw)) (f.mag x)

/-- In a format with infinities the magnitude says whether a code is finite, an infinity or a NaN (R107). -/
theorem decode_ieee {f : FpFmt} (hieee : f.ieee = true) (x : Nat) :
    if f.mag x < f.infc then ∃ m e, f.decode x = .fin (bit x (f.ew + f.fw)) m e
    else if f.mag x = f.infc then f.decode x = .inf (bit x (f.ew + f.fw)) else f.decode x = .nan := by
  have hexp : x / 2 ^ f.fw % 2 ^ f.ew < 2 ^ f.ew := Nat.mod_lt _ (Nat.two_pow_pos _)
  have hfrac : x % 2 ^ f.fw < 2 ^ f.fw := Nat.mod_lt _ (Nat.two_pow_pos _)
  rw [mag_eq_fields, FpFmt.infc, FpFmt.decode, hieee]
  by_cases htop : x / 2 ^ f.fw % 2 ^ f.ew = 2 ^ f.ew - 1
  · simp only [htop, Bool.true_and, beq_self_eq_true, if_true, Nat.not_lt.mpr (Nat.le_add_right _ _), if_false,
      Nat.add_eq_left, beq_iff_eq]
    split <;> rfl
  · have hrow : (x / 2 ^ f.fw % 2 ^ f.ew + 1) * 2 ^ f.fw ≤ (2 ^ f.ew - 1) * 2 ^ f.fw := Nat.mul_le_mul_right _ (by omega)
    rw [Nat.add_one_mul] at hrow
    rw [if_pos (by omega)]
    simp only [htop, Bool.true_and, beq_iff_eq, if_false, Bool.not_true, Bool.false_and, Bool.false_eq_true]
    split
    · exact ⟨_, _, rfl⟩
    · exact ⟨_, _, rfl⟩

section
variable {f : FpFmt} (hieee : f.ieee = true) {x y : Nat}
include hieee

theorem isNan_iff : (f.decode x).isNan = true ↔ f.infc < f.mag x := by
  have h := decode_ieee hieee x
  split at h
  case isTrue hfin =>
    obtain ⟨m, e, h⟩ := h
    simp only [h, Num.isNan, Bool.false_eq_true, false_iff]
    omega
  case isFalse hfin =>
  split at h
  case isTrue hinf => simp only [h, Num.isNan, Bool.false_eq_true, hinf, Nat.lt_irrefl]
  case isFalse hinf =>
    simp only [h, Num.isNan, true_iff]
    omega

/-- The sign of a value that is not a NaN is that of its code. -/
theorem sign_of_not_nan (hx : f.mag x ≤ f.infc) : (f.decode x).sign = bit x (f.ew + f.fw) := by
  have h := decode_ieee hieee x
  split at h
  · obtain ⟨m, e, h⟩ := h
    rw [h, Num.sign]
  · rw [if_pos (by omega)] at h
    rw [h, Num.sign]

/-- Values that are not NaN compare as the signed magnitudes of their codes do (R204, R210). -/
theorem cmp_of_not_nan (hpos : 0 < f.infc) (hx : f.mag x ≤ f.infc) (hy : f.mag y ≤ f.infc) :
    (f.decode x).cmp (f.decode y) = compare (f.smag x) (f.smag y) := by
  have hxval := decode_ieee hieee x
  have hyval := decode_ieee hieee y
  unfold FpFmt.smag
  rcases Nat.lt_or_eq_of_le hx with hxfin | hxtop
  · rw [if_pos hxfin] at hxval
    obtain ⟨ma, ea, ha⟩ := hxval
    rcases Nat.lt_or_eq_of_le hy with hyfin | hytop
    · rw [if_pos hyfin] at hyval
      obtain ⟨mb, eb, hb⟩ := hyval
      obtain ⟨hea, hua⟩ := signedAt_emin ha
      obtain ⟨heb, hub⟩ := signedAt_emin hb
      rw [ha, hb, cmp_fin _ _ _ _ hea heb, hua, hub]
      exact compare_eq_of_lt_iff (withSign_lt_iff (units_strictMono f) (units_zero f) _ _ _ _)
        (withSign_lt_iff (units_strictMono f) (units_zero f) _ _ _ _)
    · rw [if_neg (by omega), if_pos hytop] at hyval
      rw [ha, hyval, hytop, compare_to_top hxfin]
      rfl
  · rw [if_neg (by omega), if_pos hxtop] at hxval
    rcases Nat.lt_or_eq_of_le hy with hyfin | hytop
    · rw [if_pos hyfin] at hyval
      obtain ⟨mb, eb, hb⟩ := hyval
      rw [hxval, hb, hxtop, compare_of_top hyfin]
      rfl
    · rw [if_neg (by omega), if_pos hytop] at hyval
      rw [hxval, hyval, hxtop, hytop, compare_top_top hpos]
      rfl

end

end Sys2Proof.Machine
end

section
namespace Sys2Proof.Machine

open Sys2Proof Sys2Proof.Claim Sys2Proof.Laws

/-! The two precisions of the scalar forms (R196, R207 to R209). -/

theorem precFmt_ieee (p : Prec) : (precFmt p).ieee = true := by cases p <;> rfl

theorem precFmt_infc_pos (p : Prec) : 0 < (precFmt p).infc := by cases p <;> decide

theorem bit_eq_testBit (x i : Nat) : bit x i = x.testBit i := by
  rw [bit, Nat.testBit_eq_decide_div_mod_eq]
  rfl

theorem fsign_eq (p : Prec) (x : Nat) : fsign p x = bit x ((precFmt p).ew + (precFmt p).fw) := by
  rw [bit_eq_testBit]
  cases p <;> rfl

theorem fnan_iff (p : Prec) (x : Nat) : fnan p x = true ↔ (precFmt p).infc < (precFmt p).mag x := by
  cases p
  · have hinfc : (precFmt .s).infc = 255 * 2 ^ 23 := rfl
    have hmag : (precFmt .s).mag x = x % 2 ^ 31 := rfl
    rw [hinfc, hmag, fnan, Bool.and_eq_true, beq_iff_eq, bne_iff_ne]
    omega
  · have hinfc : (precFmt .d).infc = 2047 * 2 ^ 52 := rfl
    have hmag : (precFmt .d).mag x = x % 2 ^ 63 := rfl
    rw [hinfc, hmag, fnan, Bool.and_eq_true, beq_iff_eq, bne_iff_ne]
    omega

theorem fnan_eq_isNan (p : Prec) (x : Nat) : fnan p x = ((precFmt p).decode x).isNan :=
  Bool.eq_iff_iff.mpr ((fnan_iff p x).trans (isNan_iff (precFmt_ieee p)).symm)

theorem not_fnan_iff (p : Prec) (x : Nat) : fnan p x = false ↔ (precFmt p).mag x ≤ (precFmt p).infc := by
  rw [← Bool.not_eq_true, fnan_iff, Nat.not_lt]

theorem fquiet_eq (p : Prec) : (precFmt p).nanc = fquiet p := by cases p <;> rfl

/-- The order of patterns is by signed magnitude, −0 below +0. -/
theorem ford_eq (p : Prec) (x : Nat) :
    ford p x = if bit x ((precFmt p).ew + (precFmt p).fw) then -((precFmt p).mag x : Int) - 1 else (precFmt p).mag x := by
  rw [← fsign_eq]
  cases p <;> rfl

theorem fpat_lt (s : State) (p : Prec) (n : Reg) : fpat s p n < 2 ^ (precFmt p).width := by
  rw [← fcode_eq_fpat]
  exact Nat.mod_lt _ (Nat.two_pow_pos _)

/-! ## Minimum and maximum (R207, R208) -/

/-- Whether FMIN takes the first of two values that are not NaN. -/
def firstLess (f : FpFmt) (x y : Nat) : Bool :=
  match (f.decode x).cmp (f.decode y) with
  | .lt => true
  | .gt => false
  | .eq => (f.decode x).sign

theorem minMaxCode_eq (f : FpFmt) (isMax : Bool) (x y : Nat) : minMaxCode f isMax x y =
    if (f.decode x).isNan || (f.decode y).isNan then (f.nanc, fNV) else (if firstLess f x y != isMax then x else y, 0) := rfl

/-- Of two patterns that are not NaN the first is taken as the less when it comes first in the order of patterns; of equal patterns either. -/
theorem firstLess_iff {p : Prec} {x y : Nat} (hx : x < 2 ^ (precFmt p).width) (hy : y < 2 ^ (precFmt p).width) (hxnan : fnan p x = false)
    (hynan : fnan p y = false) : x = y ∨ (firstLess (precFmt p) x y = true ↔ ford p x < ford p y) := by
  rw [not_fnan_iff] at hxnan hynan
  have hcmp := cmp_of_not_nan (precFmt_ieee p) (precFmt_infc_pos p) hxnan hynan
  have hsign := sign_of_not_nan (precFmt_ieee p) hxnan
  have hxcode := signed_mag hx
  have hycode := signed_mag hy
  rw [firstLess, hcmp, hsign, ford_eq, ford_eq]
  unfold FpFmt.smag withSign
  generalize bit x _ = sx at *
  generalize bit y _ = sy at *
  generalize (precFmt p).mag x = mx at *
  generalize (precFmt p).mag y = my at *
  clear hcmp hsign
  unfold FpFmt.signed at hxcode hycode
  rcases Int.lt_trichotomy (if sx then -(mx : Int) else mx) (if sy then -(my : Int) else my) with hlt | heq | hgt
  · right
    rw [compare_lt_iff_lt.mpr hlt]
    cases sx <;> cases sy <;> simp only [if_true, Bool.false_eq_true, if_false, true_iff] at * <;> omega
  · rw [compare_eq_iff_eq.mpr heq]
    cases sx <;> cases sy <;> simp only [if_true, Bool.false_eq_true, if_false, true_iff, false_iff] at * <;> omega
  · right
    rw [compare_gt_iff_gt.mpr hgt]
    cases sx <;> cases sy <;> simp only [if_true, Bool.false_eq_true, if_false, false_iff] at * <;> omega

/-- What FMIN and FMAX write: the row of R207 and R208. -/
theorem minMaxCode_row {p : Prec} {x y : Nat} (hx : x < 2 ^ (precFmt p).width) (hy : y < 2 ^ (precFmt p).width) (isMax : Bool) :
    if fnan p x || fnan p y then
      (minMaxCode (precFmt p) isMax x y).1 = fquiet p ∧ (minMaxCode (precFmt p) isMax x y).2 = 0b10000
    else
      (minMaxCode (precFmt p) isMax x y).1 = (if ford p x < ford p y then (if isMax then y else x) else if isMax then x else y) ∧
        (minMaxCode (precFmt p) isMax x y).2 = 0 := by
  rw [minMaxCode_eq, ← fnan_eq_isNan, ← fnan_eq_isNan]
  split
  case isTrue hnan => exact ⟨fquiet_eq p, rfl⟩
  case isFalse hnan =>
    rw [Bool.or_eq_true, not_or, Bool.not_eq_true, Bool.not_eq_true] at hnan
    refine ⟨?_, rfl⟩
    rcases firstLess_iff hx hy hnan.1 hnan.2 with rfl | hless
    · simp only [ite_self]
    · simp only [← hless]
      cases firstLess (precFmt p) x y <;> cases isMax <;> rfl

/-! ## Absolute value and negation (R207, R208) -/

theorem fsigned_eq (p : Prec) (x : Nat) (neg : Bool) : (precFmt p).signed neg ((precFmt p).mag x) = fsigned p x neg := by
  cases neg
  · cases p <;> rfl
  · cases p
    · exact Nat.add_comm _ _
    · exact Nat.add_comm _ _

/-- What FABS and FNEG write: the row of R207 and R208. -/
theorem signCode_row (p : Prec) (x : Nat) (flip : Bool) :
    if fnan p x then (signCode (precFmt p) flip x).1 = fquiet p ∧ (signCode (precFmt p) flip x).2 = 0b10000
    else (signCode (precFmt p) flip x).1 = fsigned p x (flip && !fsign p x) ∧ (signCode (precFmt p) flip x).2 = 0 := by
  rw [signCode, ← fnan_eq_isNan]
  split
  case isTrue hnan => exact ⟨fquiet_eq p, rfl⟩
  case isFalse hnan =>
    rw [Bool.not_eq_true, not_fnan_iff] at hnan
    rw [sign_of_not_nan (precFmt_ieee p) hnan, ← fsign_eq, ← fsigned_eq]
    cases flip <;> exact ⟨rfl, rfl⟩

/-! ## Class (R209) -/

/-- The bit of the class by the fields of the code. -/
theorem fclass_eq (p : Prec) (x : Nat) : fclass p x =
    let e := x / 2 ^ (precFmt p).fw % 2 ^ (precFmt p).ew
    let fr := x % 2 ^ (precFmt p).fw
    if e = 2 ^ (precFmt p).ew - 1 ∧ fr ≠ 0 then (if bit x ((precFmt p).fw - 1) then 9 else 8)
    else
      let k := if e = 2 ^ (precFmt p).ew - 1 then 0 else if e ≠ 0 then 1 else if fr ≠ 0 then 2 else 3
      if bit x ((precFmt p).ew + (precFmt p).fw) then k else 7 - k := by
  simp only [bit_eq_testBit]
  cases p <;> rfl

theorem classMask_eq (p : Prec) (x : Nat) : classMask (precFmt p) x = 2 ^ fclass p x := by
  have hfrac : x % 2 ^ (precFmt p).fw < 2 ^ (precFmt p).fw := Nat.mod_lt _ (Nat.two_pow_pos _)
  have htop : 0 ≠ 2 ^ (precFmt p).ew - 1 := by cases p <;> decide
  rw [fclass_eq, classMask, FpFmt.decode, precFmt_ieee]
  generalize bit x _ = neg
  generalize bit x _ = q
  generalize x / _ % _ = e
  generalize x % _ = fr at *
  simp only [Bool.true_and, Bool.not_true, Bool.false_and, Bool.false_eq_true, if_false, beq_iff_eq]
  by_cases he : e = 2 ^ (precFmt p).ew - 1
  · by_cases hfr : fr = 0
    · simp only [he, hfr, if_true, ne_eq, not_true, and_false, if_false]
      cases neg <;> rfl
    · simp only [he, hfr, if_true, ne_eq, not_false_eq_true, and_self, if_false]
      cases q <;> rfl
  · by_cases hzero : e = 0
    · by_cases hfr : fr = 0
      · simp only [htop, hzero, hfr, if_true, ne_eq, not_true, and_self, if_false]
        cases neg <;> rfl
      · simp only [htop, hzero, hfr, hfrac, if_true, ne_eq, not_true, not_false_eq_true, false_and, if_false]
        cases neg <;> rfl
    · have hnormal : ¬2 ^ (precFmt p).fw + fr < 2 ^ (precFmt p).fw := by omega
      have hpos : 2 ^ (precFmt p).fw + fr ≠ 0 := by omega
      simp only [he, hzero, hnormal, hpos, if_true, ne_eq, not_false_eq_true, false_and, if_false]
      cases neg <;> rfl

/-- Minimum, maximum, sign and class forms end with `State.fresult` of what their rows say. -/
theorem floatingFormsWithoutRounding : FloatingFormsWithoutRounding := by
  intro s p d a b
  have hmin := minMaxCode_row (fpat_lt s p a) (fpat_lt s p b) false
  have hmax := minMaxCode_row (fpat_lt s p a) (fpat_lt s p b) true
  have habs := signCode_row p (fpat s p a) false
  have hneg := signCode_row p (fpat s p a) true
  refine ⟨next_of ⟨_, _, fresult_writesReg s d _, ?_⟩, next_of ⟨_, _, fresult_writesReg s d _, ?_⟩, next_of ⟨_, _, fresult_writesReg s d _, ?_⟩,
    next_of ⟨_, _, fresult_writesReg s d _, ?_⟩, next_of ?_⟩
  · simpa only [fcode_eq_fpat, Bool.false_eq_true, if_false] using hmin
  · simpa only [fcode_eq_fpat, if_true] using hmax
  · simpa only [fcode_eq_fpat, Bool.false_and] using habs
  · simpa only [fcode_eq_fpat, Bool.true_and] using hneg
  · rw [← classMask_eq, ← fcode_eq_fpat]
    exact fresult_writesReg s d _

/-- Settles O7: the forms without rounding act on the fields of the pattern, and rounding keeps a value that its format represents. -/
theorem floatingFormsAreExact : Obligations.FloatingFormsAreExact := ⟨floatingFormsWithoutRounding, roundingKeepsRepresentable⟩

end Sys2Proof.Machine
end
